-- ==== Sys2Proof/Word.lean ====
section
/-! DEFINITION. The word types, and the sparse map in one canonical form that holds every
numbered family of things (registers, tiles, streams, bytes of memory). -/

namespace Sys2Proof

abbrev Byte := BitVec 8
abbrev Word16 := BitVec 16
abbrev Word32 := BitVec 32
abbrev Word64 := BitVec 64

/-- A sparse family of values by number. Canonical form: numbers strictly rising, and no entry
equal to the default, which is what an unlisted number holds (`SMap.Canon`). -/
abbrev SMap (β : Type) := List (Nat × β)

/-- Strictly rising numbers, none listed at its default. -/
def SMap.wfFrom {β : Type} [DecidableEq β] (dflt : Nat → β) : Option Nat → SMap β → Bool
  | _, [] => true
  | lo, (k, v) :: t =>
    (match lo with
     | none => true
     | some l => decide (l < k)) && decide (v ≠ dflt k) && SMap.wfFrom dflt (some k) t

/-- The canonical form of a sparse family. -/
def SMap.wf {β : Type} [DecidableEq β] (dflt : Nat → β) (m : SMap β) : Bool :=
  SMap.wfFrom dflt none m

/-- The value a number holds. -/
def SMap.get {β : Type} (dflt : Nat → β) : SMap β → Nat → β
  | [], k => dflt k
  | (k', v) :: t, k => if k < k' then dflt k else if k' = k then v else SMap.get dflt t k

/-- Put a value at a number, keeping the canonical form. -/
def SMap.set {β : Type} [DecidableEq β] (dflt : Nat → β) : SMap β → Nat → β → SMap β
  | [], k, v => if v = dflt k then [] else [(k, v)]
  | (k', v') :: t, k, v =>
    if k < k' then (if v = dflt k then (k', v') :: t else (k, v) :: (k', v') :: t)
    else if k' = k then (if v = dflt k then t else (k, v) :: t)
    else (k', v') :: SMap.set dflt t k v

/-- The family whose numbers `lo, lo+1, …, lo+n-1` hold `f` of them, and no others listed. -/
def SMap.build {β : Type} [DecidableEq β] (dflt : Nat → β) (f : Nat → β) : Nat → Nat → SMap β
  | _, 0 => []
  | lo, n + 1 =>
    let t := SMap.build dflt f (lo + 1) n
    if f lo = dflt lo then t else (lo, f lo) :: t

/-- Set several numbers one after the other. -/
def SMap.setMany {β : Type} [DecidableEq β] (dflt : Nat → β) (m : SMap β) :
    List (Nat × β) → SMap β
  | [] => m
  | (k, v) :: t => SMap.setMany dflt (m.set dflt k v) t

/-- Every number at its default. -/
def SMap.empty {β : Type} : SMap β := []

/-- The element of a list at a number, with a default past its end. -/
def nth {β : Type} (d : β) : List β → Nat → β
  | [], _ => d
  | x :: _, 0 => x
  | _ :: t, n + 1 => nth d t n

/-- Replace the element at a number (nothing past the end). -/
def setNth {β : Type} (v : β) : List β → Nat → List β
  | [], _ => []
  | _ :: t, 0 => v :: t
  | x :: t, n + 1 => x :: setNth v t n

/-- `0 … n-1`. -/
def upto (n : Nat) : List Nat := List.range n

/-- Sum of integers. -/
def sumInt : List Int → Int
  | [] => 0
  | x :: t => x + sumInt t

/-- Little-endian bytes of a number. -/
def leBytes : Nat → Nat → List Byte
  | 0, _ => []
  | n + 1, v => BitVec.ofNat 8 v :: leBytes n (v / 256)

/-- The number that little-endian bytes spell. -/
def ofLeBytes : List Byte → Nat
  | [] => 0
  | b :: t => b.toNat + 256 * ofLeBytes t

/-- Bits `hi:lo` of a number. -/
def bits (v hi lo : Nat) : Nat := (v / 2 ^ lo) % 2 ^ (hi + 1 - lo)

/-- Bit `n` of a number. -/
def bitOf (v n : Nat) : Bool := Nat.testBit v n

/-- `v` with bits `hi:lo` replaced by `x`. -/
def putBits (v hi lo x : Nat) : Nat :=
  v - bits v hi lo * 2 ^ lo + (x % 2 ^ (hi + 1 - lo)) * 2 ^ lo

/-- A natural read as two's complement in `w` bits. -/
def signedOf (w v : Nat) : Int :=
  let x := v % 2 ^ w
  if x < 2 ^ (w - 1) then (x : Int) else (x : Int) - (2 ^ w : Nat)

/-- An integer's two's complement in `w` bits. -/
def unsignedOf (w : Nat) (v : Int) : Nat := (v % (2 ^ w : Nat)).toNat

/-- `⌈a / b⌉`. -/
def cdiv (a b : Nat) : Nat := (a + b - 1) / b

/-- `⌈log2 n⌉`, 0 for `n ≤ 1`. -/
def clog2 (n : Nat) : Nat := if n ≤ 1 then 0 else Nat.log2 (n - 1) + 1

/-- 1 for true. -/
def b2n (b : Bool) : Nat := if b then 1 else 0

/-- The least of a nonempty list of numbers. -/
def listMin : List Nat → Option Nat
  | [] => none
  | x :: t =>
    match listMin t with
    | none => some x
    | some y => some (min x y)

/-- Insert into a list sorted by a strict order, after equals. -/
def insertBy {β : Type} (lt : β → β → Bool) (x : β) : List β → List β
  | [] => [x]
  | y :: t => if lt x y then x :: y :: t else y :: insertBy lt x t

/-- Stable insertion sort. -/
def sortBy {β : Type} (lt : β → β → Bool) : List β → List β
  | [] => []
  | x :: t =>
    insertBy (fun a b => !(lt b a)) x (sortBy lt t)

/-- The first `n` elements and the rest. -/
def splitFirst {β : Type} (n : Nat) (l : List β) : List β × List β := (l.take n, l.drop n)

/-- Cut into pieces of `n` elements, at most `fuel` pieces. -/
def chunks {β : Type} (n : Nat) : Nat → List β → List (List β)
  | 0, _ => []
  | _ + 1, [] => []
  | f + 1, l => l.take n :: chunks n f (l.drop n)

end Sys2Proof
end

