-- ==== Sys2Proof/Syntax.lean ====
section
/-! DEFINITION. The commands the block takes: one constructor per row of the table of operations
and events, with what arrives from outside the block at that step (a value read from host memory,
a frame, a sensor's reading) as its operands. -/

namespace Sys2Proof

/-- How a read of memory outside the device fails (R663): without data, or with poisoned data. -/
inductive ReadFail where
  | unsupported | abort | timeout | poisoned
  deriving DecidableEq, Repr

/-- What memory outside the device answers to the reads of one step: bytes by UDA (a byte not
listed answers 0), and the addresses at which a read fails. -/
structure View where
  bytes : List (Nat × Byte)
  fails : List (Nat × ReadFail)
  deriving DecidableEq, Repr

/-- Nothing read outside the device. -/
def View.none : View := ⟨[], []⟩

/-- The steps of an operation with a unit queue: G0 relocates it (R415), the sequencer issues it
into the queue, and the unit performs its accesses (R370). The byte offset in its buffer says which
operation of the lane the unit performs. The egress unit may idle for want of credit (R293). -/
inductive Phase where
  | relocate
  | issue
  | perform (ofs : Nat)
  | idle (ofs cycles : Nat)
  deriving DecidableEq, Repr

/-- The steps of an operation without a unit queue: G0 relocates it (R415), and the sequencer issues
it (R452), each with what host reads answer. -/
inductive SeqStep where
  | relocate (v : View)
  | issue (v : View)
  deriving DecidableEq, Repr

/-- The access paths of set-up registers (R920). -/
inductive Path where
  | bar0 | smbus | frontEnd
  deriving DecidableEq, Repr

/-- Issuers of host reads, as R663 distinguishes them. -/
inductive HostIssuer where
  /-- A mover, egress or spill read: slot, node and byte offset of the operation, and the UDA. -/
  | operation (slot : Fin 8) (node : Fin 9) (ofs : Nat) (uda : BitVec 48)
  /-- Not a read: the writes of a fault record, which may complete with an error (R634). -/
  | record
  /-- The doorbell line. -/
  | doorbell
  /-- An entry or its extension block. -/
  | entry
  /-- A host pennant. -/
  | pennant (uda : BitVec 48)
  /-- An argument, seed, image or state-area read of the entry in admission, or of a restore whose
  turn has come, with what its other reads answer. -/
  | block (v : View)
  /-- A G0 read of a buffer, lane, descriptor or chart image of a stream's entry, with what the
  entry's other reads answer where it is in admission. -/
  | buffer (stream : Fin 512) (uda : BitVec 48) (v : View)
  deriving DecidableEq, Repr

/-- Status of a completion (R663). -/
inductive CplStatus where
  | success | unsupported | abort | poisoned
  deriving DecidableEq, Repr

/-- The serial NOR flash on the board as the boot sequencer finds it (R796 to R799): its capacity,
what its SFDP tables report, and its bytes (an address not listed reads 0xFF). -/
structure FlashPart where
  capMib : Nat
  /-- The SFDP signature is well formed (R797). -/
  sfdp : Bool
  /-- SFDP lists a 4-byte address instruction table (R798). -/
  addr4 : Bool
  /-- The QER method is supported (R799). -/
  qer : Bool
  /-- 1-4-4, 1-1-4 fast reads are supported. -/
  read144 : Bool
  read114 : Bool
  cells : List (Nat × Byte)
  deriving DecidableEq, Repr

/-- How a flash command ends (R820): done, done with the byte at an address holding another value
than it should, or with the status of an erase failure. -/
inductive FlashResult where
  | done
  | corrupt (a : Nat) (b : Byte)
  | eraseFailed
  deriving DecidableEq, Repr

/-- Events of a governor period that fell under one operating point (R838). -/
structure GovEvents where
  op : Fin 4
  steps : Nat
  plate : Nat
  dram : Nat
  link : Nat
  deriving DecidableEq, Repr

/-- The commands: one constructor per row of the table, in its order. Each docstring names the
row and its rule. -/
inductive Instr where
  /-- POLL (R511). -/
  | poll
  /-- DOORBELL_READ_RETURN (R507). -/
  | doorbellReadReturn (tail : Word32) (fail : Option ReadFail)
  /-- ENTRY_READ_RETURN (R526). -/
  | entryReadReturn (bytes : List Byte) (fail : Option ReadFail)
  /-- RING_STATUS_WRITE (R509). -/
  | ringStatusWrite
  /-- RING_ENABLE (R503). -/
  | ringEnable (value : Word32)
  /-- RING_DISABLE (R504). -/
  | ringDisable (value : Word32)
  /-- RE_NOP (R519). -/
  | reNop (v : View)
  /-- RE_SUBMIT (R527). -/
  | reSubmit (v : View)
  /-- SEAL_SPACE_FREED (R422). -/
  | sealSpaceFreed (v : View)
  /-- RE_LAUNCH (R580). -/
  | reLaunch (v : View)
  /-- RE_STREAM_CREATE (R523). -/
  | reStreamCreate (v : View)
  /-- RE_STREAM_CONFIGURE (R523). -/
  | reStreamConfigure (v : View)
  /-- RE_STREAM_DESTROY (R523). -/
  | reStreamDestroy (v : View)
  /-- RE_STREAM_RELEASE (R603). -/
  | reStreamRelease (v : View)
  /-- RE_WAIT_ONLY (R519). -/
  | reWaitOnly (v : View)
  /-- RE_SIGNAL_ONLY (R519). -/
  | reSignalOnly (v : View)
  /-- RE_ABORT (R615). -/
  | reAbort (v : View)
  /-- RE_SAVE (R621). -/
  | reSave (v : View)
  /-- RE_RESTORE (R628). -/
  | reRestore (v : View)
  /-- RE_CHART_LOAD (R571). -/
  | reChartLoad (v : View)
  /-- RE_CHART_PATCH_VERSIONED (R586). -/
  | reChartPatchVersioned (v : View)
  /-- RE_CHART_PATCH_HOT (R589). -/
  | reChartPatchHot (v : View)
  /-- RE_CHART_DROP (R573). -/
  | reChartDrop (v : View)
  /-- RE_HANDLE_SYNC (R549). -/
  | reHandleSync (v : View)
  /-- HANDLE_COPY_DONE (R549). -/
  | handleCopyDone
  /-- RE_ALMANAC_UPDATE_ALMANAC (R820). -/
  | reAlmanacUpdateAlmanac (v : View)
  /-- RE_ALMANAC_UPDATE_FIRMWARE (R821). -/
  | reAlmanacUpdateFirmware (v : View)
  /-- RE_ALMANAC_UPDATE_READ (R822). -/
  | reAlmanacUpdateRead (v : View)
  /-- FLASH_COMMAND_DONE (R820). -/
  | flashCommandDone (res : FlashResult)
  /-- RE_FABRIC_REDISCOVER (R785). -/
  | reFabricRediscover (v : View)
  /-- RE_FABRIC_REMAP (R785). -/
  | reFabricRemap (v : View)
  /-- RE_FABRIC_FENCE (R785). -/
  | reFabricFence (v : View)
  /-- SLOT_MAP (R531). -/
  | slotMap (v : View)
  /-- PREFETCH (R533); where no view is given, nothing is read outside the device. -/
  | prefetch (stream : Fin 512) (v : View := View.none)
  /-- NOT_BEFORE_REACHED (R547). -/
  | notBeforeReached (stream : Fin 512)
  /-- WATCH_REREAD (R538). -/
  | watchReread (uda : BitVec 48)
  /-- HOST_PENNANT_READ_RETURN (R538). -/
  | hostPennantReadReturn (uda : BitVec 48) (word : Word64) (fail : Option ReadFail)
  /-- COMMIT (R616). -/
  | commit (stream : Fin 512)
  /-- SEGMENT_BIND (R582). -/
  | segmentBind (stream : Fin 512) (v : View)
  /-- SEGMENT_ADVANCE (R581). -/
  | segmentAdvance (slot : Fin 8)
  /-- NOP (R488). -/
  | nop (slot : Fin 8) (node : Fin 9) (st : SeqStep)
  /-- TENSOR_DESC (R404). -/
  | tensorDesc (slot : Fin 8) (node : Fin 9) (st : SeqStep)
  /-- MATMUL (R460). -/
  | matmul (slot : Fin 8) (node : Fin 9) (ph : Phase) (v : View)
  /-- ARRAY_STEP (R225). -/
  | arrayStep (cl : Fin 8) (tile : Fin 16) (idle : Nat)
  /-- BLOCK_SPILL (R219). -/
  | blockSpill (cl : Fin 8) (tile : Fin 16)
  /-- MARGIN_DECISION (R287). -/
  | marginDecision (slot : Fin 8) (id : BitVec 8)
  /-- OVERFLOW_REWIND (R228). -/
  | overflowRewind (cl : Fin 8) (tile : Fin 16)
  /-- MOVE_COPY (R323). -/
  | moveCopy (slot : Fin 8) (node : Fin 9) (ph : Phase) (v : View)
  /-- MOVE_STRIDED (R323). -/
  | moveStrided (slot : Fin 8) (node : Fin 9) (ph : Phase) (v : View)
  /-- MOVE_TRANSPOSE (R323). -/
  | moveTranspose (slot : Fin 8) (node : Fin 9) (ph : Phase) (v : View)
  /-- MOVE_GATHER (R324). -/
  | moveGather (slot : Fin 8) (node : Fin 9) (ph : Phase) (v : View)
  /-- MOVE_FILL (R323). -/
  | moveFill (slot : Fin 8) (node : Fin 9) (ph : Phase) (v : View)
  /-- MOVE_A48_ADD (R323). -/
  | moveA48Add (slot : Fin 8) (node : Fin 9) (ph : Phase) (v : View)
  /-- EGRESS (R267). -/
  | egress (slot : Fin 8) (node : Fin 9) (ph : Phase) (v : View)
  /-- TOPK (R476). -/
  | topk (slot : Fin 8) (node : Fin 9) (ph : Phase) (v : View)
  /-- TOPK_MERGE (R290). -/
  | topkMerge (slot : Fin 8) (node : Fin 9) (ph : Phase) (v : View)
  /-- MASK_GEN_MASK (R482). -/
  | maskGenMask (slot : Fin 8) (node : Fin 9) (ph : Phase) (v : View)
  /-- MASK_GEN_NOISE_TILE (R279). -/
  | maskGenNoiseTile (slot : Fin 8) (node : Fin 9) (ph : Phase) (v : View)
  /-- TILE_READ (R193). -/
  | tileRead (slot : Fin 8) (node : Fin 9) (ph : Phase) (v : View)
  /-- TILE_WRITE (R194). -/
  | tileWrite (slot : Fin 8) (node : Fin 9) (ph : Phase) (v : View)
  /-- TOKEN_POST (R354). -/
  | tokenPost (slot : Fin 8) (node : Fin 9) (st : SeqStep)
  /-- TOKEN_WAIT (R360). -/
  | tokenWait (slot : Fin 8) (node : Fin 9) (st : SeqStep)
  /-- PENNANT_SIGNAL_WRITE (R430). -/
  | pennantSignalWrite (slot : Fin 8) (node : Fin 9) (st : SeqStep)
  /-- PENNANT_SIGNAL_MAX (R430). -/
  | pennantSignalMax (slot : Fin 8) (node : Fin 9) (st : SeqStep)
  /-- PENNANT_WAIT (R431). -/
  | pennantWait (slot : Fin 8) (node : Fin 9) (st : SeqStep)
  /-- CHECKPOINT (R492). -/
  | checkpoint (slot : Fin 8) (node : Fin 9) (st : SeqStep)
  /-- BARRIER (R493). -/
  | barrier (slot : Fin 8) (node : Fin 9) (st : SeqStep)
  /-- OP_COMPLETE (R355). -/
  | opComplete (slot : Fin 8) (node : Fin 9) (ofs : Nat)
  /-- POST_APPLY (R362). -/
  | postApply (slot : Fin 8) (node : Fin 9) (tok : Fin 64) (srcs : List (Fin 9))
  /-- STREAM_FAULT (R602); where no view is given, nothing is read outside the device. -/
  | streamFault (v : View := View.none)
  /-- ENTRY_QUIESCED (R613). -/
  | entryQuiesced (stream : Fin 512)
  /-- DEVICE_INTERNAL_FAULT (R604). -/
  | deviceInternalFault
  /-- RESET_PURGE (R617). -/
  | resetPurge
  /-- PROGRESS_SAMPLE (R611). -/
  | progressSample
  /-- CUT_TAKEN (R623). -/
  | cutTaken (stream : Fin 512)
  /-- HOST_READ_COMPLETION (R663). -/
  | hostReadCompletion (issuer : HostIssuer) (status : CplStatus)
  /-- COMPLETION_TIMEOUT (R650). -/
  | completionTimeout (issuer : HostIssuer)
  /-- REGISTER_WRITE (R922). -/
  | registerWrite (path : Path) (ofs : BitVec 20) (be : BitVec 4) (value : Word32)
  /-- PAIR_LOW_READ (R927). -/
  | pairLowRead (path : Path) (ofs : BitVec 20) (be : BitVec 4)
  /-- PAIR_LOW_WRITE (R928). -/
  | pairLowWrite (path : Path) (ofs : BitVec 20) (be : BitVec 4) (value : Word32)
  /-- PAIR_HIGH_WRITE (R928). -/
  | pairHighWrite (path : Path) (ofs : BitVec 20) (be : BitVec 4) (value : Word32)
  /-- EXPERT_UNLOCK_WRITE (R942). -/
  | expertUnlockWrite (be : BitVec 4) (value : Word32)
  /-- NOTICE_ENABLE_WRITE (R666). -/
  | noticeEnableWrite (be : BitVec 4) (value : Word32)
  /-- MSIX_MESSAGE_SEND (R667). -/
  | msixMessageSend
  /-- EPH_SELFTEST_START (R152). -/
  | ephSelftestStart (be : BitVec 4) (value : Word32)
  /-- EPH_SELFTEST_DONE (R150). -/
  | ephSelftestDone
  /-- SVN_COMMIT (R832). -/
  | svnCommit (be : BitVec 4) (value : Word32)
  /-- SVN_COMMIT_DONE (R832). -/
  | svnCommitDone
  /-- RECOVERY_START (R823). -/
  | recoveryStart (be : BitVec 4) (value : Word32)
  /-- LINK_RETRAIN_WRITE (R721). -/
  | linkRetrainWrite (port : Fin 6) (be : BitVec 4) (value : Word32)
  /-- LINK_ENABLE_WRITE (R710). -/
  | linkEnableWrite (port : Fin 6) (be : BitVec 4) (value : Word32)
  /-- LINK_DISABLE_WRITE (R735). -/
  | linkDisableWrite (port : Fin 6) (be : BitVec 4) (value : Word32)
  /-- PIN_MUX_WRITE (R904). -/
  | pinMuxWrite (pin : Fin 12) (be : BitVec 4) (value : Word32)
  /-- PIN_SWITCH_COMPLETE (R905). -/
  | pinSwitchComplete (pin : Fin 12)
  /-- BAR2_READ (R652). -/
  | bar2Read (ofs : BitVec 28) (len : Nat)
  /-- BAR2_WRITE (R653). -/
  | bar2Write (ofs : BitVec 28) (bytes : List (Option Byte))
  /-- CONFIG_REQUEST (R645). -/
  | configRequest (write : Bool) (dword : BitVec 10) (be : BitVec 4) (value : Word32)
  /-- FLR (R670). -/
  | flr
  /-- HOT_RESET (R670). -/
  | hotReset
  /-- LINK_DISABLE (R670). -/
  | linkDisable
  /-- DL_DOWN (R670). -/
  | dlDown
  /-- D3HOT_ENTRY (R674). -/
  | d3hotEntry
  /-- L1_ENTRY (R675). -/
  | l1Entry
  /-- LINK_RECOVERY (R647). -/
  | linkRecovery
  /-- PERST_N (R673). -/
  | perstN (us : Nat)
  /-- REFCLK_LOSS (R913). -/
  | refclkLoss
  /-- PWR_GOOD_FALL (R914). -/
  | pwrGoodFall
  /-- BOOT_START (R815). -/
  | bootStart (flash : Option FlashPart)
  /-- DRAM_TRAINING_DONE (R315). -/
  | dramTrainingDone (rate : Option (Fin 3)) (chOk : BitVec 16) (big : Bool)
  /-- FIRMWARE_CHECK_DONE (R814). -/
  | firmwareCheckDone
  /-- BOOT_READY (R815). -/
  | bootReady
  /-- PATROL_SCRUB_VISIT (R332). -/
  | patrolScrubVisit (unit : Fin 400) (flips : List (Nat × BitVec 7))
  /-- CORRECTION_WRITEBACK (R334). -/
  | correctionWriteback
  /-- DRAM_REFRESH (R317). -/
  | dramRefresh (channel : Fin 16)
  /-- MR4_READ (R340). -/
  | mr4Read (rate : Fin 3)
  /-- WCK2DQI_TRACKING (R316). -/
  | wck2dqiTracking (channel : Fin 16)
  /-- TELEMETRY_SNAPSHOT (R857). -/
  | telemetrySnapshot
  /-- TELEMETRY_DROP (R330). -/
  | telemetryDrop
  /-- GOVERNOR_PERIOD (R841). -/
  | governorPeriod (ev : List GovEvents)
  /-- PLL_LOCKED (R834). -/
  | pllLocked
  /-- VOUT_SETTLE_EXPIRY (R835). -/
  | voutSettleExpiry
  /-- PMBUS_TRANSACTION_DONE (R850). -/
  | pmbusTransactionDone (good : Bool) (word : Word16)
  /-- OP_SWITCH (R834). -/
  | opSwitch
  /-- THERMAL_SAMPLE (R852). -/
  | thermalSample (temps : List Word16)
  /-- THERMAL_CEILING_STEP (R853). -/
  | thermalCeilingStep
  /-- THERMAL_TRIP (R854). -/
  | thermalTrip
  /-- BRAKE_APPLY (R856). -/
  | brakeApply
  /-- BRAKE_RELEASE (R855). -/
  | brakeRelease
  /-- SMB_ADDR_WRITE (R862). -/
  | smbAddrWrite (value : BitVec 24) (pecOk : Bool)
  /-- SMB_ADDR_READ (R862). -/
  | smbAddrRead
  /-- SMB_DATA_WRITE (R862). -/
  | smbDataWrite (value : Word32) (pecOk : Bool)
  /-- SMB_DATA_READ (R862). -/
  | smbDataRead
  /-- SMB_SNAP (R863). -/
  | smbSnap (inc : Bool) (pecOk : Bool)
  /-- SMB_COMMIT (R863). -/
  | smbCommit (inc : Bool) (pecOk : Bool)
  /-- SMB_WINDOW_DONE (R863). -/
  | smbWindowDone
  /-- SMB_STATUS_READ (R862). -/
  | smbStatusRead
  /-- SMB_SNAPSHOT_READ (R862). -/
  | smbSnapshotRead
  /-- SMB_ALERT_RESPONSE (R864). -/
  | smbAlertResponse
  /-- TS_BURST (R710). -/
  | tsBurst (port : Fin 6)
  /-- TS_RECEIVED (R710). -/
  | tsReceived (port : Fin 6) (lanes : BitVec 8)
  /-- TRAIN_LANES_FIXED (R713). -/
  | trainLanesFixed (port : Fin 6) (lanes : BitVec 8)
  /-- TRAIN_DEADLINE (R710). -/
  | trainDeadline (port : Fin 6)
  /-- SPEED_DEADLINE (R718). -/
  | speedDeadline (port : Fin 6)
  /-- INIT_SEND (R719). -/
  | initSend (port : Fin 6)
  /-- INIT_RECEIVED (R719). -/
  | initReceived (port : Fin 6) (frame : List Byte) (coding : Bool)
  /-- DATA_FRAME_RECEIVED (R698). -/
  | dataFrameReceived (port : Fin 6) (frame : List Byte) (coding : Bool)
  /-- CTRL_FRAME_RECEIVED (R695). -/
  | ctrlFrameReceived (port : Fin 6) (frame : List Byte) (coding : Bool)
  /-- NACK_RECEIVED (R700). -/
  | nackReceived (port : Fin 6) (frame : List Byte) (coding : Bool)
  /-- GOODBYE_RECEIVED (R721). -/
  | goodbyeReceived (port : Fin 6) (frame : List Byte) (coding : Bool)
  /-- HEARTBEAT (R706). -/
  | heartbeat (port : Fin 6)
  /-- CHECK_INTERVAL (R708). -/
  | checkInterval (port : Fin 6)
  /-- LANE_LOCK_LOSS (R721). -/
  | laneLockLoss (port : Fin 6)
  /-- ELECTRICAL_IDLE_DETECTED (R723). -/
  | electricalIdleDetected (port : Fin 6)
  /-- DOWN_IDLE_EXPIRY (R723). -/
  | downIdleExpiry (port : Fin 6)
  /-- FAST_TRAIN_LOCKED (R714). -/
  | fastTrainLocked (port : Fin 6)
  /-- FAST_TRAIN_DEADLINE (R710). -/
  | fastTrainDeadline (port : Fin 6)
  /-- HELLO_SEND (R743). -/
  | helloSend (port : Fin 6)
  /-- HELLO_RECEIVED (R776). -/
  | helloReceived (port : Fin 6)
  /-- PARENT_TIMEOUT (R778). -/
  | parentTimeout
  /-- ADVERT_RECEIVED (R745). -/
  | advertReceived (port : Fin 6)
  /-- FABRIC_SETTLE (R747). -/
  | fabricSettle
  /-- PACKET_FORWARD (R757). -/
  | packetForward
  /-- REMOTE_READ (R767). -/
  | remoteRead
  /-- REMOTE_WRITE (R767). -/
  | remoteWrite
  /-- REMOTE_A48_ADD (R767). -/
  | remoteA48Add
  /-- HALYARD (R767). -/
  | halyard
  /-- PROBE (R771). -/
  | probe
  /-- REMOTE_RESPONSE (R770). -/
  | remoteResponse
  /-- PROBE_RSP_RECEIVED (R771). -/
  | probeRspReceived
  /-- REMOTE_NACK_RECEIVED (R772). -/
  | remoteNackReceived
  /-- FSB_SYNC_PULSE (R779). -/
  | fsbSyncPulse
  /-- TAP_RESET (R909). -/
  | tapReset
  /-- TAP_IDCODE (R909). -/
  | tapIdcode
  /-- TAP_SAMPLE_PRELOAD (R909). -/
  | tapSamplePreload (captured preload : Nat)
  /-- TAP_EXTEST (R909). -/
  | tapExtest
  /-- TAP_CLAMP (R909). -/
  | tapClamp
  /-- TAP_HIGHZ (R909). -/
  | tapHighz
  /-- TAP_DBG_SELECT (R912). -/
  | tapDbgSelect
  /-- TAP_BYPASS (R909). -/
  | tapBypass
  /-- FLASH_DEADLINE (R820). -/
  | flashDeadline
  /-- PCIE_LINK_UP (R644). -/
  | pcieLinkUp (speed : Fin 6) (width : Fin 4)
  /-- L1_EXIT (R675). -/
  | l1Exit
  /-- CONTEXT_IMAGE_WRITTEN (R624). -/
  | contextImageWritten (stream : Fin 512)
  deriving DecidableEq, Repr

end Sys2Proof
end

