-- ==== Sys2Proof/Machine/Crypto.lean ====
section
/-! DEFINITION. SHA-256 and ECDSA over P-256, which check firmware images (R811 to R813) and hash
the fabric profile (R809). The standards are FIPS 180-4 and FIPS 186-5, which the spec names. -/

namespace Sys2Proof.Machine

/-! ### SHA-256 -/

/-- The big-endian 32-bit words of 256-bit numbers, in order. -/
def shaWords (l : List Nat) : List Nat :=
  l.flatMap fun x => (upto 8).map fun i => x / 2 ^ (32 * (7 - i)) % 2 ^ 32

/-- The constant of each round: the first 32 bits of the fractional parts of the cube roots of the
first 64 primes, eight rounds in a number. -/
def shaRounds : List Nat := shaWords [
  0x428a2f9871374491b5c0fbcfe9b5dba53956c25b59f111f1923f82a4ab1c5ed5,
  0xd807aa9812835b01243185be550c7dc372be5d7480deb1fe9bdc06a7c19bf174,
  0xe49b69c1efbe47860fc19dc6240ca1cc2de92c6f4a7484aa5cb0a9dc76f988da,
  0x983e5152a831c66db00327c8bf597fc7c6e00bf3d5a7914706ca635114292967,
  0x27b70a852e1b21384d2c6dfc53380d13650a7354766a0abb81c2c92e92722c85,
  0xa2bfe8a1a81a664bc24b8b70c76c51a3d192e819d6990624f40e3585106aa070,
  0x19a4c1161e376c082748774c34b0bcb5391c0cb34ed8aa4a5b9cca4f682e6ff3,
  0x748f82ee78a5636f84c878148cc7020890befffaa4506cebbef9a3f7c67178f2]

/-- The first 32 bits of the fractional parts of the square roots of the first 8 primes. -/
def shaSeed : List Nat := shaWords [
  0x6a09e667bb67ae853c6ef372a54ff53a510e527f9b05688c1f83d9ab5be0cd19]

/-- Rotate a 32-bit word right. -/
def ror (x n : Nat) : Nat := (x / 2 ^ n + x * 2 ^ (32 - n)) % 2 ^ 32

/-- A word under several rotations and one shift, added without carries; a shift of 32 adds none. -/
def shaMix (rots : List Nat) (shift x : Nat) : Nat :=
  rots.foldl (fun y n => y ^^^ ror x n) (x / 2 ^ shift)

/-- A big-endian number. -/
def ofBeBytes (l : List Byte) : Nat := l.foldl (fun n b => n * 256 + b.toNat) 0

/-- Big-endian bytes of a number. -/
def beBytes (n v : Nat) : List Byte := (leBytes n v).reverse

/-- A block in the making: its eight working variables, and the sixteen words of its schedule that
the next rounds use. -/
structure ShaRun where
  vars : List Nat
  sched : List Nat
  deriving Repr

/-- The word that enters the schedule as its oldest one leaves it. -/
def ShaRun.entering (r : ShaRun) : Nat :=
  let w := nth 0 r.sched
  w 0 + shaMix [7, 18] 3 (w 1) + w 9 + shaMix [17, 19] 10 (w 14)

/-- One round with constant `k`. Choice takes the bits of the sixth variable where the fifth has ones
and of the seventh elsewhere; majority is what at least two of the first three agree on. -/
def ShaRun.round (r : ShaRun) (k : Nat) : ShaRun :=
  let v := nth 0 r.vars
  let choice := v 6 ^^^ (v 4 &&& (v 5 ^^^ v 6))
  let majority := (v 0 &&& (v 1 ||| v 2)) ||| (v 1 &&& v 2)
  let add := v 7 + shaMix [6, 11, 25] 32 (v 4) + choice + k + nth 0 r.sched 0
  { vars := (add + shaMix [2, 13, 22] 32 (v 0) + majority) % 2 ^ 32 :: r.vars.take 3 ++
      (v 3 + add) % 2 ^ 32 :: (r.vars.drop 4).take 3
    sched := r.sched.drop 1 ++ [r.entering % 2 ^ 32] }

/-- The hash value after one block of 64 bytes. -/
def shaAfter (hash : List Nat) (block : List Byte) : List Nat :=
  let r := shaRounds.foldl ShaRun.round ⟨hash, (chunks 4 16 block).map ofBeBytes⟩
  List.zipWith (fun x y => (x + y) % 2 ^ 32) hash r.vars

/-- SHA-256 of a byte string: a one bit, zeros up to 8 bytes short of a block, and the length in bits
follow it. -/
def sha256 (l : List Byte) : List Byte :=
  let fill := (119 - l.length % 64) % 64
  let m := l ++ (0x80 : Byte) :: List.replicate fill 0 ++ beBytes 8 (8 * l.length)
  ((chunks 64 (m.length / 64) m).foldl shaAfter shaSeed).flatMap (beBytes 4)

/-! ### P-256 -/

/-- The field prime, the order, the coefficient b and the base point. -/
def p256P : Nat := 0xffffffff00000001000000000000000000000000ffffffffffffffffffffffff
def p256N : Nat := 0xffffffff00000000ffffffffffffffffbce6faada7179e84f3b9cac2fc632551
def p256B : Nat := 0x5ac635d8aa3a93e7b3ebbd55769886bc651d06b0cc53b0f63bce3c3e27d2604b
def p256G : Nat × Nat :=
  (0x6b17d1f2e12c4247f8bce6e563a440f277037d812deb33a0f4a13945d898c296,
   0x4fe342e2fe1a7f9b8ee7eb4a7c0f9e162bce33576b315ececbb6406837bf51f5)

/-- `b^e mod m` over the low `n` bits of `e`. -/
def powMod (m : Nat) : Nat → Nat → Nat → Nat
  | 0, _, _ => 1 % m
  | n + 1, b, e =>
    let r := powMod m n (b * b % m) (e / 2)
    if e % 2 = 1 then r * b % m else r

/-- The inverse modulo a prime. -/
def invMod (m a : Nat) : Nat := powMod m 256 (a % m) (m - 2)

/-- Subtraction in the field. -/
def subP (a b : Nat) : Nat := (a + p256P - b % p256P) % p256P

/-- Add two points; none is the point at infinity. -/
def ecAdd (a b : Option (Nat × Nat)) : Option (Nat × Nat) :=
  match a, b with
  | none, q => q
  | q, none => q
  | some (x1, y1), some (x2, y2) =>
    if x1 = x2 ∧ (y1 + y2) % p256P = 0 then none
    else
      let l := if x1 = x2 then (3 * x1 * x1 + (p256P - 3)) * invMod p256P (2 * y1) % p256P
        else subP y2 y1 * invMod p256P (subP x2 x1) % p256P
      let x := subP (l * l % p256P) (x1 + x2)
      some (x, subP (l * subP x1 x % p256P) y1)

/-- A multiple of a point, over the low `n` bits of `k`. -/
def ecMul : Nat → Nat → Option (Nat × Nat) → Option (Nat × Nat)
  | 0, _, _ => none
  | n + 1, k, q =>
    let r := ecMul n (k / 2) (ecAdd q q)
    if k % 2 = 1 then ecAdd r q else r

/-- R813: an ECDSA P-256 signature `(r, s)` of a digest verifies under a public key. -/
def ecdsaOk (x y r s : Nat) (digest : List Byte) : Bool :=
  let onCurve := decide (x < p256P) && decide (y < p256P) &&
    y * y % p256P == (x * x * x + (p256P - 3) * x + p256B) % p256P
  if onCurve = false ∨ r = 0 ∨ s = 0 ∨ p256N ≤ r ∨ p256N ≤ s then false
  else
    let w := invMod p256N s
    match ecAdd (ecMul 256 (ofBeBytes digest * w % p256N) (some p256G))
        (ecMul 256 (r * w % p256N) (some (x, y))) with
    | none => false
    | some (u, _) => u % p256N == r

end Sys2Proof.Machine
end

