-- ==== Sys2Proof/Machine/Eph.lean ====
section
/-! DEFINITION. The Ephemeris functions of chapter 03: the EM64 mixer, keys, threshold
sequences, masks, Gumbel noise and rounding words, each the spec's pseudocode bit for bit
(R19, R99). They are functions of their arguments only (R100). -/

namespace Sys2Proof.Machine

/-- R20: rotate left by `n mod 64`. -/
def rotl64 (x : Word64) (n : Nat) : Word64 := x.rotateLeft (n % 64)

/-- The odd multiplier of R101. -/
def em64Mul : Word64 := 0xA3B195C55D3E8E27#64

/-- One round of R101. -/
def em64Round (k x : Word64) (r : Nat) : Word64 :=
  let x := x + rotl64 k (16 * r)
  let x := x ^^^ (x >>> 31)
  let x := x * em64Mul
  x ^^^ (x >>> 27)

/-- R101: EM64. -/
def em64 (k c : Word64) : Word64 :=
  em64Round k (em64Round k (em64Round k (em64Round k c 0) 1) 2) 3

/-- Domain constants of R104. -/
inductive EphDomain where
  | threshold | decorrelation | mask | noise | rounding
  deriving DecidableEq, Repr

/-- R104: the 16-bit constant D. -/
def EphDomain.code : EphDomain → Nat
  | .threshold => 0x0051
  | .decorrelation => 0x0052
  | .mask => 0x0053
  | .noise => 0x0054
  | .rounding => 0x0055

/-- R103: derive a key from a seed, a domain, a role and a tag. -/
def deriveKey (seed : Word64) (d : EphDomain) (role tag : Nat) : Word64 :=
  em64 seed (BitVec.ofNat 64 (d.code * 2 ^ 48 + (role % 16) * 2 ^ 20 + tag % 65536))

/-- R106: the key of an operand's element with free index `f`. -/
def operandKey (seed : Word64) (role tag f : Nat) (decorr : Bool) : Word64 :=
  let kk := deriveKey seed .threshold role tag
  if decorr then em64 kk (BitVec.ofNat 64 (0x0052 * 2 ^ 48 + f % 2 ^ 48)) else kk

/-- R106: the 15-bit reversal of `t`. -/
def bitrev15 (t : Nat) : Nat :=
  (upto 15).foldl (fun y i => y + b2n (bitOf t i) * 2 ^ (14 - i)) 0

/-- R106: bit `i` of the Pascal sequence, the parity of the bits `j` with binomial(j, i) odd. -/
def pascalBit (t i : Nat) : Bool :=
  (upto 15).foldl (fun b j => if i ≤ j ∧ i &&& j = i then b ^^ bitOf t j else b) false

/-- R106: the Pascal-matrix sequence. -/
def pascal15 (t : Nat) : Nat :=
  (upto 15).foldl (fun y i => y + b2n (pascalBit t i) * 2 ^ (14 - i)) 0

/-- R108: the digital-shift modes. -/
inductive DShiftMode where
  | keyed | zero | explicit
  deriving DecidableEq, Repr

/-- R106: the digital shift of contraction index `k`. -/
def dshift (kk : Word64) (k : Nat) (m : DShiftMode) (dexp : Nat) : Nat :=
  match m with
  | .keyed => (em64 kk (BitVec.ofNat 64 ((k % 2 ^ 28) * 65536 + 0xFFFF))).toNat % 2 ^ 15
  | .zero => 0
  | .explicit => dexp % 2 ^ 15

/-- R106: the threshold u(t). `positional` is MODE 1. -/
def threshold (kk : Word64) (role : Nat) (positional : Bool) (k t : Nat)
    (m : DShiftMode) (dexp : Nat) : Nat :=
  if positional then
    bits (em64 kk (BitVec.ofNat 64 ((k % 2 ^ 28) * 65536 + t / 4))).toNat
      (16 * (t % 4) + 14) (16 * (t % 4))
  else
    (if role = 0 then bitrev15 t else pascal15 t) ^^^ dshift kk k m dexp

/-- R60: the stream bit of magnitude `m` against a threshold. -/
def streamBit (m u : Nat) : Bool := decide (u < m)

/-- R111: the ones of a low-discrepancy stream of length `2^n` under shift `σ`. -/
def ldOnes (n m σ : Nat) : Nat :=
  let lo := σ % 2 ^ (15 - n)
  min (2 ^ n) (cdiv (m - lo) (2 ^ (15 - n)))

/-- R120: a mask bit; true keeps the element. -/
def maskBit (seed : Word64) (g i j keep : Nat) : Bool :=
  let kk := deriveKey seed .mask 0 g
  let e := (i % 2 ^ 24) * 2 ^ 24 + j % 2 ^ 24
  let x := (em64 kk (BitVec.ofNat 64 (e / 4))).toNat
  decide (bits x (16 * (e % 4) + 15) (16 * (e % 4)) < keep)

/-- R126: the rounding word of an output element. -/
def roundWord (seed : Word64) (g rho i j q : Nat) : Nat :=
  let kk := deriveKey seed .rounding rho g
  let ko := em64 kk (BitVec.ofNat 64 ((i % 2 ^ 24) * 2 ^ 24 + j % 2 ^ 24))
  let x := (em64 ko (BitVec.ofNat 64 ((q % 2 ^ 64) / 2))).toNat
  bits x (32 * (q % 2) + 31) (32 * (q % 2))

/-- Fraction bits of the fixed-point logarithms below. -/
def lnBits : Nat := 160

/-- `Σ z^(2k+1)/(2k+1)` in fixed point: `zp` is the current odd power, `z2` the square. -/
def atanhSum (z2 : Nat) : Nat → Nat → Nat → Nat
  | 0, _, _ => 0
  | f + 1, zp, k => zp / (2 * k + 1) + atanhSum z2 f (zp * z2 / 2 ^ lnBits) (k + 1)

/-- `2·atanh(z)` of a fixed-point `z ≤ 1/3`, to far below 2^-100. -/
def twoAtanh (z : Nat) : Nat := 2 * atanhSum (z * z / 2 ^ lnBits) 56 z 0

/-- `ln 2` in fixed point. -/
def lnTwo : Nat := twoAtanh (2 ^ lnBits / 3)

/-- `ln (a / 2^lnBits)` in fixed point, for `a > 0`. -/
def lnFixed (a : Nat) : Int :=
  let e : Int := (Nat.log2 a : Int) - (lnBits : Int)
  -- the mantissa in [1, 2)
  let m := a * 2 ^ lnBits / 2 ^ (Nat.log2 a)
  let z := (m - 2 ^ lnBits) * 2 ^ lnBits / (m + 2 ^ lnBits)
  (twoAtanh z : Int) + e * (lnTwo : Int)

/-- Round `a / 2^k` to the nearest integer, ties to even. -/
def roundHalfEven (a : Int) (k : Nat) : Int :=
  let q := a / (2 ^ k : Nat)
  let r := a % (2 ^ k : Nat)
  let half : Int := (2 ^ k : Nat) / 2
  if r < half then q else if half < r then q + 1 else if q % 2 = 0 then q else q + 1

/-- R123 from u onward, R124: `-ln(-ln u)` at u = (2h+1)/2^25, in units of 2^-12, correctly
rounded. The logarithms are carried to 160 fraction bits, so the rounding is that of the exact
value (which is irrational and so never a tie). -/
def gumbelOf (h : Nat) : Int :=
  let u := (2 * (h % 2 ^ 24) + 1) * 2 ^ (lnBits - 25)
  let l := (-(lnFixed u)).toNat
  roundHalfEven (-(lnFixed l)) (lnBits - 12)

/-- R123: the noise value of sampling counter `n` and candidate `v`, in units of 2^-12. -/
def gumbel (seed : Word64) (g n v : Nat) : Int :=
  let kk := deriveKey seed .noise 0 g
  let x := em64 kk (BitVec.ofNat 64 ((n % 2 ^ 40) * 2 ^ 24 + v % 2 ^ 24))
  gumbelOf (x.toNat / 2 ^ 40)

/-- R116: threshold-lane evaluations per array step of one tile, as (numerator, denominator)
over P. `keyedA`/`keyedB`: that operand's shift mode is KEYED. -/
def laneDemand (positional keyedA keyedB : Bool) (p rA rB : Nat) : Nat × Nat :=
  if positional then (16 * cdiv p 4 * (rA + rB), p)
  else (16 * ((if keyedA then rA else 0) + (if keyedB then rB else 0)), p)

/-- R117: the length of an array step under the cluster's demands, `max(1, ⌈D/128⌉)`. -/
def stretch (demands : List (Nat × Nat)) : Nat :=
  -- bring the demands to the common denominator 2^15 (every P is a power of two or 16-multiple)
  let den := demands.foldl (fun d x => d * x.2) 1
  let num := demands.foldl (fun n x => n + x.1 * (den / x.2)) 0
  max 1 (cdiv num (128 * den))

/-- R152: one evaluation of the self-test; none when FUNC is reserved. -/
def ephSelfTest (func : Nat) (key inp : Word64) : Option Word64 :=
  match func with
  | 0 => some (em64 key inp)
  | 1 => some (BitVec.ofNat 64 (bitrev15 (inp.toNat % 2 ^ 15)))
  | 2 => some (BitVec.ofNat 64 (pascal15 (inp.toNat % 2 ^ 15)))
  | 3 => some (BitVec.ofInt 64 (gumbelOf (inp.toNat % 2 ^ 24)))
  | _ => none

end Sys2Proof.Machine
end

