-- ==== Sys2Proof/Machine/Flags.lean ====
section
/-! DEFINITION. Arithmetic with its flags: group adds with rounding and range check (R225), A48
words with RANGE and INEXACT (R80 to R84, R236), SP16 values and atomic adds (R245), the egress
pipeline's scaling, saturation and requantization (R267 to R269), and CRCs. -/

namespace Sys2Proof.Machine

/-- 2^47 - 1, the bound of an A48 count (R80). -/
def a48Max : Int := 140737488355327

/-- R75, R76: the greatest stored value of a format. -/
def vmaxOf (a16 : Bool) : Int := if a16 then 32767 else 2147483647

/-- R225: a group add. `w` is the rounding word. Answers the new value, rounded, overflow. -/
def groupAdd (v : Int) (s : Nat) (gs : Int) (w : Nat) (vmax : Int) : Int × Bool × Bool :=
  let fl := gs / (2 ^ s : Nat)
  let r := gs - fl * (2 ^ s : Nat)
  let up : Int := if 0 < s ∧ ((w / 2 ^ (32 - s) : Nat) : Int) < r then 1 else 0
  let x := v + fl + up
  if vmax < x ∨ x < -vmax - 1 then (v, false, true) else (x, decide (r ≠ 0), false)

/-- An A48 word from a count and its two flags (R80, R81). -/
def a48Word (c : Int) (rng inx : Bool) : Nat :=
  unsignedOf 48 c + b2n rng * 2 ^ 62 + b2n inx * 2 ^ 63

/-- Clamp to ±(2^47 - 1), with whether it clamped. -/
def sat48 (x : Int) : Int × Bool :=
  if a48Max < x then (a48Max, true)
  else if x < -a48Max then (-a48Max, true) else (x, false)

/-- R83: a slot's count as an A48 word. -/
def a48OfSlot (v : Int) (s : Nat) (i : Bool) : Nat :=
  let (c, r) := sat48 (v * (2 ^ s : Nat))
  a48Word c r i

/-- R97, R236: the count and RANGE read from a word. -/
def a48Val (x : Nat) : Int × Bool :=
  let c := signedOf 48 x
  if c = -a48Max - 1 then (-a48Max, true) else (c, bitOf x 62)

/-- R236: the A48 atomic add; the second part says whether the exact sum saturated (R252). -/
def a48AddSat (x y : Nat) : Nat × Bool :=
  let (cx, rx) := a48Val x
  let (cy, ry) := a48Val y
  let (z, sat) := sat48 (cx + cy)
  (a48Word z (rx || ry || sat) (bitOf x 63 || bitOf y 63), sat)

/-- R236. -/
def a48Add (x y : Nat) : Nat := (a48AddSat x y).1

/-- R51, R52, R245: the signed magnitude of an SP16 element. -/
def sp16Val (x : Nat) : Int :=
  if bitOf x 15 then -((x % 32768 : Nat) : Int) else ((x % 32768 : Nat) : Int)

/-- R53: an integer as SP16, saturating at ±32767; a zero result is 0x0000 (R52). -/
def sp16Of (z : Int) : Nat × Bool :=
  let (z, sat) := if 32767 < z then ((32767 : Int), true)
    else if z < -32767 then (-32767, true) else (z, false)
  (if z < 0 then 0x8000 + (-z).toNat else z.toNat, sat)

/-- R245: the SP16 atomic add. -/
def sp16Add (x y : Nat) : Nat × Bool := sp16Of (sp16Val x + sp16Val y)

/-- `⌊x · 2^e / d⌋` for any sign of `e`. -/
def scaleFloor (x e : Int) (d : Nat) : Int :=
  if 0 ≤ e then x * (2 ^ e.toNat : Nat) / (d : Int)
  else x / ((d * 2 ^ (-e).toNat : Nat) : Int)

/-- R267: the scale stage. -/
def egScale (c ep eo : Int) (len : Nat) : Int × Bool := sat48 (scaleFloor c (ep - eo + 31) len)

/-- R267: the fuse stage with an element of sign-magnitude value `f` and exponent `ef`. -/
def egFuse (add : Bool) (z f ef eo : Int) : Int × Bool :=
  if add then sat48 (z + scaleFloor f (ef - eo + 16) 1)
  else sat48 (scaleFloor (z * f) (ef - 15) 1)

/-- One shaper entry: X, Y, SLOPE (R270). -/
abbrev ShapeEntry := Int × Int × Int

/-- R267: the segment of `z`: the last entry from 1 on whose X does not exceed `z`, else 0. -/
def shapeSeg (z : Int) : List ShapeEntry → Option ShapeEntry
  | [] => none
  | e :: t =>
    match t.reverse.find? (fun x => decide (x.1 ≤ z)) with
    | some x => some x
    | none => some e

/-- R267: the shaper stage. -/
def egShape (tab : List ShapeEntry) (z : Int) : Int × Bool :=
  match shapeSeg z tab with
  | none => (z, false)
  | some (x, y, sl) => sat48 (y + sl * (z - x) / (2 ^ 24 : Nat))

/-- R267: the mask stage; `none` is a mask that is off. -/
def egMask (m : Option (Bool × Nat)) (z : Int) : Int × Bool :=
  match m with
  | none => (z, false)
  | some (false, _) => (0, false)
  | some (true, surv) => sat48 (z * (surv : Int) / (65536 : Int))

/-- R268: requantization; `w` is none for NEAREST. -/
def requant (z : Int) (w : Option Nat) : Nat × Bool :=
  let hi := z / 65536
  let fr := (z - hi * 65536).toNat
  let up : Bool :=
    match w with
    | some w => decide (w / 65536 % 65536 < fr)
    | none => decide (0x8000 < fr) || (fr == 0x8000 && hi % 2 == 1)
  sp16Of (hi + if up then 1 else 0)

/-- R272: the status word. -/
def egStatus (satCount : Nat) (range inexact : Bool) : Nat :=
  min satCount 0xFFFFFFFF + b2n range * 2 ^ 61 + b2n inexact * 2 ^ 62
    + b2n (decide (0 < satCount)) * 2 ^ 63

/-- R215: the spill interval in steps. -/
def spillInterval (a16 : Bool) (steps s0 : Nat) : Nat :=
  if steps ≠ 0 then steps else (vmaxOf a16).toNat / cdiv 16 (2 ^ s0)

/-- One bit of a reflected CRC. -/
def crcBit (poly : Nat) (c : Nat) : Nat :=
  if c % 2 = 1 then (c / 2) ^^^ poly else c / 2

/-- One byte of a reflected CRC. -/
def crcByte (poly : Nat) (c : Nat) (b : Byte) : Nat :=
  let c := c ^^^ b.toNat
  (upto 8).foldl (fun c _ => crcBit poly c) c

/-- CRC-32C (R625), reflected, inverted at both ends. -/
def crc32c (l : List Byte) : Nat :=
  (l.foldl (crcByte 0x82F63B78) 0xFFFFFFFF) ^^^ 0xFFFFFFFF

/-- CRC-32 (ISO-HDLC), reflected, inverted at both ends. -/
def crc32 (l : List Byte) : Nat :=
  (l.foldl (crcByte 0xEDB88320) 0xFFFFFFFF) ^^^ 0xFFFFFFFF

end Sys2Proof.Machine
end

