-- ==== Sys2Proof/Config.lean ====
section
/-! DEFINITION. What an implementation fixes, and the free values: opaque constants without a
body, so that nothing in Lean can learn a value of them. -/

namespace Sys2Proof

/-- The free values. `freeNat n k` is the `k`-th component of the `n`-th thing the spec leaves
undefined; `n` is drawn from the plain counter `State.fresh`. Log entry 3. -/
opaque Config.freeNat : Nat → Nat → Nat

/-- A free byte of a memory whose contents the spec calls undefined. -/
def Config.freeByte (n a : Nat) : Byte := BitVec.ofNat 8 (Config.freeNat n a)

/-- The device's 64-bit fused UID (R649, R811). Log entry 4. -/
opaque Config.uid : BitVec 64

/-- The fused hash of the firmware verification key (R811), 32 bytes as one number. -/
opaque Config.keyHash : Nat

/-- What marks a descriptor of a sealed image as checked (R419), in its reserved bytes. Log entry 13. -/
opaque Config.checkedMark : Word64

/-- The packet type byte that carries an SP16 atomic add to another device: R765 lists none. Log
entry 31. -/
opaque Config.sp16Ptype : Byte

/-- ALM_FUSE.KEY_SET (R832): the hash is not all zero. -/
def Config.keySet : Bool := Config.keyHash != 0

/-- The DEBUG_DISABLE fuse (R811). -/
opaque Config.debugDisable : Bool

/-- The bit of the 72-bit codeword that a check-bit position maps to is the implementation's
(R312 fixes no code); the error's bit number comes with the upset itself. -/
def Config.eccBits : Nat := 72

end Sys2Proof
end

