-- ==== Sys2Proof/Machine/Regs.lean ====
section
/-! DEFINITION. The register map of chapter 20 (R946, R947): for every set-up register its BAR0
offset, its fields with type, reset value and level (R15, R16), from the register tables of the
chapters that own them. -/

namespace Sys2Proof.Machine

/-- Field types of R16; an RWH field is a counter or state (R933). -/
inductive FldTy where
  | rw | rwhCount | rwhState | w1c | w1s | sc | rc | ro | wo
  deriving DecidableEq, Repr

/-- One field of a register: bits `hi:lo`, type, reset value, Expert level. -/
structure Fld where
  hi : Nat
  lo : Nat
  ty : FldTy
  rst : Nat
  expert : Bool
  deriving DecidableEq, Repr

/-- A register, or a family of `cnt` registers `stride` apart, repeated for `ocnt` blocks
`ostride` apart; `pair` marks a 64-bit register (R926). -/
structure RegRow where
  off : Nat
  cnt : Nat
  stride : Nat
  ocnt : Nat
  ostride : Nat
  pair : Bool
  flds : List Fld
  deriving DecidableEq, Repr

namespace Reg
/-- R151: offset of EPH_ID. -/
def EPH_ID : Nat := 0x20000
/-- R152: offset of EPH_TEST_CTRL. -/
def EPH_TEST_CTRL : Nat := 0x20008
/-- R153: offset of EPH_TEST_KEY. -/
def EPH_TEST_KEY : Nat := 0x20010
/-- R153: offset of EPH_TEST_IN. -/
def EPH_TEST_IN : Nat := 0x20018
/-- R153: offset of EPH_TEST_OUT. -/
def EPH_TEST_OUT : Nat := 0x20020
/-- R154: offset of EPH_STRETCH_CL (first of the family). -/
def EPH_STRETCH_CL : Nat := 0x20100
/-- R207: offset of CL_ID (first of the family). -/
def CL_ID : Nat := 0x10000
/-- R208: offset of CL_TILE_PDMASK (first of the family). -/
def CL_TILE_PDMASK : Nat := 0x10010
/-- R209: offset of CL_STEPS (first of the family). -/
def CL_STEPS : Nat := 0x10080
/-- R209: offset of CL_FEED_STALL (first of the family). -/
def CL_FEED_STALL : Nat := 0x10088
/-- R209: offset of CL_XCHG_STALL (first of the family). -/
def CL_XCHG_STALL : Nat := 0x1008C
/-- R209: offset of CL_TILE_BUSY (first of the family). -/
def CL_TILE_BUSY : Nat := 0x10090
/-- R258: offset of CL_ACC_SPILLS (first of the family). -/
def CL_ACC_SPILLS : Nat := 0x10100
/-- R258: offset of CL_ACC_SPILL_CYC (first of the family). -/
def CL_ACC_SPILL_CYC : Nat := 0x10104
/-- R258: offset of CL_ACC_REPLAYS (first of the family). -/
def CL_ACC_REPLAYS : Nat := 0x10108
/-- R258: offset of CL_ACC_REPLAY_CYC (first of the family). -/
def CL_ACC_REPLAY_CYC : Nat := 0x1010C
/-- R258: offset of CL_ACC_RAISES (first of the family). -/
def CL_ACC_RAISES : Nat := 0x10110
/-- R258: offset of CL_A48_SAT (first of the family). -/
def CL_A48_SAT : Nat := 0x10114
/-- R258: offset of CL_SP16_ATOMICS (first of the family). -/
def CL_SP16_ATOMICS : Nat := 0x10118
/-- R258: offset of CL_SP16_SAT (first of the family). -/
def CL_SP16_SAT : Nat := 0x1011C
/-- R303: offset of CL_EG_ELEMS (first of the family). -/
def CL_EG_ELEMS : Nat := 0x10200
/-- R303: offset of CL_EG_SAT (first of the family). -/
def CL_EG_SAT : Nat := 0x10208
/-- R303: offset of CL_EG_STALL (first of the family). -/
def CL_EG_STALL : Nat := 0x1020C
/-- R303: offset of CL_MARGIN_STOPS (first of the family). -/
def CL_MARGIN_STOPS : Nat := 0x10210
/-- R303: offset of CL_MARGIN_SAVED (first of the family). -/
def CL_MARGIN_SAVED : Nat := 0x10214
/-- R303: offset of CL_MARGIN_WAIT (first of the family). -/
def CL_MARGIN_WAIT : Nat := 0x10218
/-- R303: offset of CL_TOPK_ROWS (first of the family). -/
def CL_TOPK_ROWS : Nat := 0x1021C
/-- R347: offset of MEM_ID. -/
def MEM_ID : Nat := 0x8000
/-- R347: offset of MEM_TRAIN_STATUS. -/
def MEM_TRAIN_STATUS : Nat := 0x8004
/-- R347: offset of MEM_HOST_UPPER. -/
def MEM_HOST_UPPER : Nat := 0x8008
/-- R347: offset of MEM_REMOTE_CTRL. -/
def MEM_REMOTE_CTRL : Nat := 0x800C
/-- R347: offset of MEM_SCRUB_CTRL. -/
def MEM_SCRUB_CTRL : Nat := 0x8010
/-- R347: offset of MEM_SCRUB_INTERVAL. -/
def MEM_SCRUB_INTERVAL : Nat := 0x8014
/-- R347: offset of MEM_SCRUB_PASSES. -/
def MEM_SCRUB_PASSES : Nat := 0x8018
/-- R347: offset of MEM_CE_PS. -/
def MEM_CE_PS : Nat := 0x8020
/-- R347: offset of MEM_UE_PS. -/
def MEM_UE_PS : Nat := 0x8024
/-- R347: offset of MEM_CE_DRAM. -/
def MEM_CE_DRAM : Nat := 0x8028
/-- R347: offset of MEM_UE_DRAM. -/
def MEM_UE_DRAM : Nat := 0x802C
/-- R347: offset of MEM_ERR_STATUS. -/
def MEM_ERR_STATUS : Nat := 0x8030
/-- R347: offset of MEM_ERR_ADDR. -/
def MEM_ERR_ADDR : Nat := 0x8038
/-- R347: offset of MEM_ERR_INFO. -/
def MEM_ERR_INFO : Nat := 0x8040
/-- R347: offset of MEM_TELEM_DROP. -/
def MEM_TELEM_DROP : Nat := 0x8044
/-- R347: offset of MEM_REFRESH. -/
def MEM_REFRESH : Nat := 0x8048
/-- R387: offset of CL_TOK_INUSE (first of the family). -/
def CL_TOK_INUSE : Nat := 0x10300
/-- R387: offset of CL_TOK_POSTS (first of the family). -/
def CL_TOK_POSTS : Nat := 0x10304
/-- R387: offset of CL_TOK_WAIT_CYC (first of the family). -/
def CL_TOK_WAIT_CYC : Nat := 0x10308
/-- R387: offset of CL_SEQ_STALL (first of the family). -/
def CL_SEQ_STALL : Nat := 0x1030C
/-- R388: offset of CL_TOK_VAL (first of the family). -/
def CL_TOK_VAL : Nat := 0x10400
/-- R446: offset of FE_HTAB_BASE. -/
def FE_HTAB_BASE : Nat := 0x4600
/-- R446: offset of FE_HTAB_COUNT. -/
def FE_HTAB_COUNT : Nat := 0x4608
/-- R446: offset of FE_SEAL_BASE. -/
def FE_SEAL_BASE : Nat := 0x4610
/-- R446: offset of FE_SEAL_SIZE. -/
def FE_SEAL_SIZE : Nat := 0x4618
/-- R446: offset of FE_RELOC_OPS. -/
def FE_RELOC_OPS : Nat := 0x4620
/-- R446: offset of FE_RELOC_REFS. -/
def FE_RELOC_REFS : Nat := 0x4624
/-- R446: offset of FE_RELOC_WAIT. -/
def FE_RELOC_WAIT : Nat := 0x4628
/-- R446: offset of FE_SEAL_WAIT. -/
def FE_SEAL_WAIT : Nat := 0x462C
/-- R561: offset of FE_RING_BASE. -/
def FE_RING_BASE : Nat := 0x4000
/-- R561: offset of FE_RING_CTRL. -/
def FE_RING_CTRL : Nat := 0x4008
/-- R561: offset of FE_RING_START. -/
def FE_RING_START : Nat := 0x400C
/-- R561: offset of FE_DB_ADDR. -/
def FE_DB_ADDR : Nat := 0x4010
/-- R561: offset of FE_STATUS_ADDR. -/
def FE_STATUS_ADDR : Nat := 0x4018
/-- R561: offset of FE_POLL_MIN. -/
def FE_POLL_MIN : Nat := 0x4020
/-- R561: offset of FE_POLL_MAX. -/
def FE_POLL_MAX : Nat := 0x4024
/-- R561: offset of FE_POLL_NOW. -/
def FE_POLL_NOW : Nat := 0x4028
/-- R561: offset of FE_RING_STATUS. -/
def FE_RING_STATUS : Nat := 0x402C
/-- R561: offset of FE_RING_HEAD. -/
def FE_RING_HEAD : Nat := 0x4030
/-- R561: offset of FE_RING_TAIL. -/
def FE_RING_TAIL : Nat := 0x4034
/-- R561: offset of FE_ENTRY_ERRS. -/
def FE_ENTRY_ERRS : Nat := 0x4038
/-- R561: offset of FE_SEQ_RETRY. -/
def FE_SEQ_RETRY : Nat := 0x403C
/-- R561: offset of FE_POLLS. -/
def FE_POLLS : Nat := 0x4040
/-- R561: offset of FE_WATCH. -/
def FE_WATCH : Nat := 0x4044
/-- R561: offset of FE_WATCH_OVF. -/
def FE_WATCH_OVF : Nat := 0x4048
/-- R561: offset of FE_HALYARD_REFUSED. -/
def FE_HALYARD_REFUSED : Nat := 0x404C
/-- R561: offset of FE_HSHADOW_BASE. -/
def FE_HSHADOW_BASE : Nat := 0x4050
/-- R561: offset of FE_HSHADOW_ENTRIES. -/
def FE_HSHADOW_ENTRIES : Nat := 0x4058
/-- R561: offset of FE_HGEN. -/
def FE_HGEN : Nat := 0x405C
/-- R561: offset of FE_STREAM_SEL. -/
def FE_STREAM_SEL : Nat := 0x4060
/-- R561: offset of FE_STREAM_INFO. -/
def FE_STREAM_INFO : Nat := 0x4064
/-- R562: offset of FE_SLOT (first of the family). -/
def FE_SLOT : Nat := 0x4080
/-- R598: offset of FE_CHART_SEL. -/
def FE_CHART_SEL : Nat := 0x4700
/-- R598: offset of FE_CHART_INFO. -/
def FE_CHART_INFO : Nat := 0x4704
/-- R598: offset of FE_CHART_COUNT. -/
def FE_CHART_COUNT : Nat := 0x4708
/-- R598: offset of FE_CHART_BINDS. -/
def FE_CHART_BINDS : Nat := 0x470C
/-- R598: offset of FE_CHART_HOT. -/
def FE_CHART_HOT : Nat := 0x4710
/-- R598: offset of FE_CHART_HOT_SPLIT. -/
def FE_CHART_HOT_SPLIT : Nat := 0x4714
/-- R642: offset of FE_FAULT_BASE. -/
def FE_FAULT_BASE : Nat := 0x4100
/-- R642: offset of FE_PD_RESP. -/
def FE_PD_RESP : Nat := 0x4108
/-- R642: offset of FE_PD_DEPTH. -/
def FE_PD_DEPTH : Nat := 0x410C
/-- R642: offset of FE_DUMP_BASE. -/
def FE_DUMP_BASE : Nat := 0x4110
/-- R642: offset of FE_SAMPLE. -/
def FE_SAMPLE : Nat := 0x4118
/-- R642: offset of FE_HANG_WINDOW. -/
def FE_HANG_WINDOW : Nat := 0x411C
/-- R642: offset of FE_FAULT_COUNT. -/
def FE_FAULT_COUNT : Nat := 0x4120
/-- R642: offset of FE_HANG_COUNT. -/
def FE_HANG_COUNT : Nat := 0x4124
/-- R642: offset of FE_FAULT_LOST. -/
def FE_FAULT_LOST : Nat := 0x4128
/-- R642: offset of FE_RESET_COUNT. -/
def FE_RESET_COUNT : Nat := 0x412C
/-- R642: offset of FE_PROG_SEL. -/
def FE_PROG_SEL : Nat := 0x4130
/-- R642: offset of FE_PROG_OPS. -/
def FE_PROG_OPS : Nat := 0x4138
/-- R642: offset of FE_PROG_CYC. -/
def FE_PROG_CYC : Nat := 0x4140
/-- R642: offset of FE_PROG_BYTES. -/
def FE_PROG_BYTES : Nat := 0x4148
/-- R642: offset of FE_PROG_TOKENS. -/
def FE_PROG_TOKENS : Nat := 0x4150
/-- R642: offset of FE_PROG_STILL. -/
def FE_PROG_STILL : Nat := 0x4158
/-- R642: offset of FE_WAIT_AGE. -/
def FE_WAIT_AGE : Nat := 0x415C
/-- R684: offset of HI_ID. -/
def HI_ID : Nat := 0x0
/-- R684: offset of HI_BOOT. -/
def HI_BOOT : Nat := 0x4
/-- R684: offset of HI_LINK. -/
def HI_LINK : Nat := 0x8
/-- R684: offset of HI_LINK_RETRAINS. -/
def HI_LINK_RETRAINS : Nat := 0xC
/-- R684: offset of HI_WIN_BASE. -/
def HI_WIN_BASE : Nat := 0x10
/-- R684: offset of HI_WIN_ERR. -/
def HI_WIN_ERR : Nat := 0x14
/-- R684: offset of HI_NOTICE_STATUS. -/
def HI_NOTICE_STATUS : Nat := 0x18
/-- R684: offset of HI_NOTICE_EN. -/
def HI_NOTICE_EN : Nat := 0x1C
/-- R684: offset of HI_NOTICE_MAP0. -/
def HI_NOTICE_MAP0 : Nat := 0x20
/-- R684: offset of HI_NOTICE_MAP1. -/
def HI_NOTICE_MAP1 : Nat := 0x24
/-- R684: offset of HI_HOST_ERR. -/
def HI_HOST_ERR : Nat := 0x28
/-- R684: offset of HI_HOST_LOG. -/
def HI_HOST_LOG : Nat := 0x2C
/-- R684: offset of HI_HOST_LOG_ADDR. -/
def HI_HOST_LOG_ADDR : Nat := 0x30
/-- R684: offset of HI_TAGS. -/
def HI_TAGS : Nat := 0x38
/-- R684: offset of HI_BME_WAIT. -/
def HI_BME_WAIT : Nat := 0x3C
/-- R739: offset of FAB_LINK_ACK. -/
def FAB_LINK_ACK : Nat := 0x30F00
/-- R739: offset of FAB_LINK_COMPAT. -/
def FAB_LINK_COMPAT : Nat := 0x30F08
/-- R740: offset of FAB_LINK_CTRL (first of the family). -/
def FAB_LINK_CTRL : Nat := 0x31000
/-- R740: offset of FAB_LINK_STATE (first of the family). -/
def FAB_LINK_STATE : Nat := 0x31004
/-- R740: offset of FAB_LINK_EVENTS (first of the family). -/
def FAB_LINK_EVENTS : Nat := 0x31008
/-- R740: offset of FAB_LINK_DOWN_CAUSE (first of the family). -/
def FAB_LINK_DOWN_CAUSE : Nat := 0x3100C
/-- R740: offset of FAB_LINK_CRC_ERR (first of the family). -/
def FAB_LINK_CRC_ERR : Nat := 0x31010
/-- R740: offset of FAB_LINK_REPLAYS (first of the family). -/
def FAB_LINK_REPLAYS : Nat := 0x31014
/-- R740: offset of FAB_LINK_MISSES (first of the family). -/
def FAB_LINK_MISSES : Nat := 0x31018
/-- R740: offset of FAB_LINK_DOWNS (first of the family). -/
def FAB_LINK_DOWNS : Nat := 0x3101C
/-- R740: offset of FAB_LINK_DISCARD (first of the family). -/
def FAB_LINK_DISCARD : Nat := 0x31020
/-- R740: offset of FAB_LINK_STALE (first of the family). -/
def FAB_LINK_STALE : Nat := 0x31024
/-- R740: offset of FAB_LINK_TX_BYTES (first of the family). -/
def FAB_LINK_TX_BYTES : Nat := 0x31028
/-- R740: offset of FAB_LINK_RX_BYTES (first of the family). -/
def FAB_LINK_RX_BYTES : Nat := 0x31030
/-- R740: offset of FAB_LINK_PEER_UID (first of the family). -/
def FAB_LINK_PEER_UID : Nat := 0x31038
/-- R740: offset of FAB_LINK_PEER_INFO (first of the family). -/
def FAB_LINK_PEER_INFO : Nat := 0x31040
/-- R740: offset of FAB_LINK_PEER_INC (first of the family). -/
def FAB_LINK_PEER_INC : Nat := 0x31044
/-- R740: offset of FAB_LINK_PEER_COMPAT (first of the family). -/
def FAB_LINK_PEER_COMPAT : Nat := 0x31048
/-- R740: offset of FAB_LINK_RETRY (first of the family). -/
def FAB_LINK_RETRY : Nat := 0x31050
/-- R740: offset of FAB_LINK_RETRY_FULL (first of the family). -/
def FAB_LINK_RETRY_FULL : Nat := 0x31054
/-- R740: offset of FAB_LINK_TRAIN_US (first of the family). -/
def FAB_LINK_TRAIN_US : Nat := 0x31058
/-- R794: offset of FAB_STATE. -/
def FAB_STATE : Nat := 0x30000
/-- R794: offset of FAB_ADDR. -/
def FAB_ADDR : Nat := 0x30004
/-- R794: offset of FAB_EPOCH. -/
def FAB_EPOCH : Nat := 0x30008
/-- R794: offset of FAB_INCARNATION. -/
def FAB_INCARNATION : Nat := 0x3000C
/-- R794: offset of FAB_UID. -/
def FAB_UID : Nat := 0x30010
/-- R794: offset of FAB_ORIGIN_UID. -/
def FAB_ORIGIN_UID : Nat := 0x30018
/-- R794: offset of FAB_MAP_EPOCH. -/
def FAB_MAP_EPOCH : Nat := 0x30020
/-- R794: offset of FAB_SHAPE. -/
def FAB_SHAPE : Nat := 0x30024
/-- R794: offset of FAB_LIVE. -/
def FAB_LIVE : Nat := 0x30028
/-- R794: offset of FAB_TIME. -/
def FAB_TIME : Nat := 0x30030
/-- R794: offset of FAB_TIME_BOUND. -/
def FAB_TIME_BOUND : Nat := 0x30038
/-- R794: offset of FAB_TIME_PARENT. -/
def FAB_TIME_PARENT : Nat := 0x3003C
/-- R794: offset of FAB_TIME_STEPS. -/
def FAB_TIME_STEPS : Nat := 0x30040
/-- R794: offset of FAB_FW_LEVEL. -/
def FAB_FW_LEVEL : Nat := 0x30044
/-- R794: offset of FAB_MAP_ADDR. -/
def FAB_MAP_ADDR : Nat := 0x30048
/-- R794: offset of FAB_EVT_PENNANT. -/
def FAB_EVT_PENNANT : Nat := 0x30050
/-- R794: offset of FAB_RMT_ADDR. -/
def FAB_RMT_ADDR : Nat := 0x30058
/-- R794: offset of FAB_RMT_STATUS. -/
def FAB_RMT_STATUS : Nat := 0x30060
/-- R794: offset of FAB_RMT_FAIL. -/
def FAB_RMT_FAIL : Nat := 0x30064
/-- R794: offset of FAB_RMT_REPLAY. -/
def FAB_RMT_REPLAY : Nat := 0x30068
/-- R794: offset of FAB_RMT_STALE. -/
def FAB_RMT_STALE : Nat := 0x3006C
/-- R794: offset of FAB_GAP_DROP. -/
def FAB_GAP_DROP : Nat := 0x30070
/-- R794: offset of FAB_HOPS_DROP. -/
def FAB_HOPS_DROP : Nat := 0x30074
/-- R794: offset of FAB_SETTLES. -/
def FAB_SETTLES : Nat := 0x30078
/-- R832: offset of ALM_BOOT_STATUS. -/
def ALM_BOOT_STATUS : Nat := 0x40000
/-- R832: offset of ALM_ACTIVE_SEQ. -/
def ALM_ACTIVE_SEQ : Nat := 0x40004
/-- R832: offset of ALM_SETTING_ERR. -/
def ALM_SETTING_ERR : Nat := 0x40008
/-- R832: offset of ALM_FLASH_INFO. -/
def ALM_FLASH_INFO : Nat := 0x4000C
/-- R832: offset of ALM_FW_INFO. -/
def ALM_FW_INFO : Nat := 0x40010
/-- R832: offset of ALM_FW_SVN. -/
def ALM_FW_SVN : Nat := 0x40014
/-- R832: offset of ALM_FW_SEQ. -/
def ALM_FW_SEQ : Nat := 0x40018
/-- R832: offset of ALM_FUSE. -/
def ALM_FUSE : Nat := 0x4001C
/-- R832: offset of ALM_SVN_COMMIT. -/
def ALM_SVN_COMMIT : Nat := 0x40020
/-- R832: offset of ALM_BOOT_US. -/
def ALM_BOOT_US : Nat := 0x40024
/-- R832: offset of ALM_UPDATE. -/
def ALM_UPDATE : Nat := 0x40028
/-- R832: offset of ALM_BOARD_ID. -/
def ALM_BOARD_ID : Nat := 0x4002C
/-- R832: offset of ALM_RECOVERY. -/
def ALM_RECOVERY : Nat := 0x40030
/-- R832: offset of ALM_RECOVERY_OFS. -/
def ALM_RECOVERY_OFS : Nat := 0x40038
/-- R873: offset of PWR_OP. -/
def PWR_OP : Nat := 0x50000
/-- R873: offset of PWR_CAP. -/
def PWR_CAP : Nat := 0x50004
/-- R873: offset of PWR_GOV. -/
def PWR_GOV : Nat := 0x50008
/-- R873: offset of PWR_P_MW. -/
def PWR_P_MW : Nat := 0x5000C
/-- R873: offset of PWR_AVG_MW. -/
def PWR_AVG_MW : Nat := 0x50010
/-- R873: offset of PWR_BOARD_ALLOW. -/
def PWR_BOARD_ALLOW : Nat := 0x50014
/-- R873: offset of PWR_ELASTIC_CTRL. -/
def PWR_ELASTIC_CTRL : Nat := 0x50018
/-- R873: offset of PWR_ELASTIC_BUFS. -/
def PWR_ELASTIC_BUFS : Nat := 0x5001C
/-- R873: offset of PWR_ELASTIC_STRM (first of the family). -/
def PWR_ELASTIC_STRM : Nat := 0x50020
/-- R873: offset of PWR_ELASTIC_LAST. -/
def PWR_ELASTIC_LAST : Nat := 0x50060
/-- R873: offset of PWR_OP_SWITCHES. -/
def PWR_OP_SWITCHES : Nat := 0x50064
/-- R873: offset of PWR_GATE_CYC. -/
def PWR_GATE_CYC : Nat := 0x50068
/-- R873: offset of PWR_THROTTLE_US. -/
def PWR_THROTTLE_US : Nat := 0x5006C
/-- R873: offset of PWR_VOUT_OP01. -/
def PWR_VOUT_OP01 : Nat := 0x50070
/-- R873: offset of PWR_VOUT_OP23. -/
def PWR_VOUT_OP23 : Nat := 0x50074
/-- R873: offset of PWR_PMB_CFG. -/
def PWR_PMB_CFG : Nat := 0x50078
/-- R873: offset of PWR_PMB_STATUS. -/
def PWR_PMB_STATUS : Nat := 0x5007C
/-- R873: offset of PWR_TJ (first of the family). -/
def PWR_TJ : Nat := 0x50080
/-- R873: offset of PWR_THERM. -/
def PWR_THERM : Nat := 0x500B0
/-- R873: offset of PWR_BRAKE. -/
def PWR_BRAKE : Nat := 0x500B4
/-- R873: offset of PWR_TELEM_ADDR. -/
def PWR_TELEM_ADDR : Nat := 0x500C0
/-- R873: offset of PWR_TELEM_PERIOD. -/
def PWR_TELEM_PERIOD : Nat := 0x500C8
/-- R873: offset of PWR_COEF_STATIC. -/
def PWR_COEF_STATIC : Nat := 0x500D0
/-- R873: offset of PWR_COEF_STEP. -/
def PWR_COEF_STEP : Nat := 0x500D4
/-- R873: offset of PWR_COEF_PLATE. -/
def PWR_COEF_PLATE : Nat := 0x500D8
/-- R873: offset of PWR_COEF_DRAM. -/
def PWR_COEF_DRAM : Nat := 0x500DC
/-- R873: offset of PWR_COEF_LINK. -/
def PWR_COEF_LINK : Nat := 0x500E0
/-- R873: offset of PWR_WM_THRESH (first of the family). -/
def PWR_WM_THRESH : Nat := 0x50100
/-- R873: offset of PWR_WM_ROUTE (first of the family). -/
def PWR_WM_ROUTE : Nat := 0x50104
/-- R873: offset of PWR_WM_PENNANT_UDA (first of the family). -/
def PWR_WM_PENNANT_UDA : Nat := 0x50108
/-- R873: offset of PWR_WM_STATE (first of the family). -/
def PWR_WM_STATE : Nat := 0x50110
/-- R873: offset of PWR_WM_PEAK (first of the family). -/
def PWR_WM_PEAK : Nat := 0x50114
/-- R873: offset of PWR_SMB_STATUS. -/
def PWR_SMB_STATUS : Nat := 0x50180
/-- R919: offset of PIN_PROFILE. -/
def PIN_PROFILE : Nat := 0x60000
/-- R919: offset of PIN_MUX (first of the family). -/
def PIN_MUX : Nat := 0x60010
/-- R919: offset of PIN_GPIO_OUT. -/
def PIN_GPIO_OUT : Nat := 0x60040
/-- R919: offset of PIN_IN. -/
def PIN_IN : Nat := 0x60044
/-- R919: offset of PIN_LINK_PRESENT. -/
def PIN_LINK_PRESENT : Nat := 0x60048
/-- R919: offset of PIN_STATUS. -/
def PIN_STATUS : Nat := 0x6004C
/-- R919: offset of PIN_SWITCHES. -/
def PIN_SWITCHES : Nat := 0x60050
/-- R956: offset of FE_EXPERT_UNLOCK. -/
def FE_EXPERT_UNLOCK : Nat := 0x40C0
/-- R956: offset of FE_EXPERT_STATUS. -/
def FE_EXPERT_STATUS : Nat := 0x40C4
/-- R957: offset of DBG_TAP. -/
def DBG_TAP : Nat := 0x70000
/-- R957: offset of DBG_ACCESS_STATUS. -/
def DBG_ACCESS_STATUS : Nat := 0x70004
/-- R957: offset of DBG_ACCESS_ADDR. -/
def DBG_ACCESS_ADDR : Nat := 0x70008
/-- R957: offset of DBG_ACCESS_COUNT. -/
def DBG_ACCESS_COUNT : Nat := 0x7000C
/-- R388: offset of FE_TOK_VAL (first of the family). -/
def FE_TOK_VAL : Nat := 0x4800
/-- R795: offset of FAB_STATIC (first of the family). -/
def FAB_STATIC : Nat := 0x32000
end Reg

/-- Rows of the EPH registers, part 0. -/
def regRowsEph0 : List RegRow := [
  ⟨Reg.EPH_ID, 1, 4, 1, 0x0, false, [
    ⟨15, 0, .ro, 0x1, false⟩,
    ⟨31, 16, .ro, 0x1, false⟩]⟩,
  ⟨Reg.EPH_TEST_CTRL, 1, 4, 1, 0x0, false, [
    ⟨0, 0, .sc, 0x0, false⟩,
    ⟨3, 1, .rw, 0x0, false⟩,
    ⟨4, 4, .ro, 0x0, false⟩]⟩,
  ⟨Reg.EPH_TEST_KEY, 1, 4, 1, 0x0, true, [
    ⟨63, 0, .rw, 0x0, false⟩]⟩,
  ⟨Reg.EPH_TEST_IN, 1, 4, 1, 0x0, true, [
    ⟨63, 0, .rw, 0x0, false⟩]⟩,
  ⟨Reg.EPH_TEST_OUT, 1, 4, 1, 0x0, true, [
    ⟨63, 0, .ro, 0x0, false⟩]⟩,
  ⟨Reg.EPH_STRETCH_CL, 8, 4, 1, 0x0, false, [
    ⟨31, 0, .rwhCount, 0x0, false⟩]⟩]

/-- Rows of the CL registers, part 0. -/
def regRowsCl0 : List RegRow := [
  ⟨Reg.CL_ID, 1, 4, 8, 0x2000, false, [
    ⟨2, 0, .ro, 0x0, false⟩,
    ⟨15, 8, .ro, 0x10, false⟩,
    ⟨23, 16, .ro, 0x40, false⟩]⟩,
  ⟨Reg.CL_TILE_PDMASK, 16, 4, 8, 0x2000, false, [
    ⟨15, 0, .rw, 0xFFFF, false⟩]⟩,
  ⟨Reg.CL_STEPS, 1, 4, 8, 0x2000, true, [
    ⟨63, 0, .rwhCount, 0x0, false⟩]⟩,
  ⟨Reg.CL_FEED_STALL, 1, 4, 8, 0x2000, false, [
    ⟨31, 0, .rwhCount, 0x0, false⟩]⟩,
  ⟨Reg.CL_XCHG_STALL, 1, 4, 8, 0x2000, false, [
    ⟨31, 0, .rwhCount, 0x0, false⟩]⟩,
  ⟨Reg.CL_TILE_BUSY, 1, 4, 8, 0x2000, false, [
    ⟨15, 0, .ro, 0x0, false⟩]⟩,
  ⟨Reg.CL_ACC_SPILLS, 1, 4, 8, 0x2000, false, [
    ⟨31, 0, .rwhCount, 0x0, false⟩]⟩,
  ⟨Reg.CL_ACC_SPILL_CYC, 1, 4, 8, 0x2000, false, [
    ⟨31, 0, .rwhCount, 0x0, false⟩]⟩,
  ⟨Reg.CL_ACC_REPLAYS, 1, 4, 8, 0x2000, false, [
    ⟨31, 0, .rwhCount, 0x0, false⟩]⟩,
  ⟨Reg.CL_ACC_REPLAY_CYC, 1, 4, 8, 0x2000, false, [
    ⟨31, 0, .rwhCount, 0x0, false⟩]⟩,
  ⟨Reg.CL_ACC_RAISES, 1, 4, 8, 0x2000, false, [
    ⟨31, 0, .rwhCount, 0x0, false⟩]⟩,
  ⟨Reg.CL_A48_SAT, 1, 4, 8, 0x2000, false, [
    ⟨31, 0, .rwhCount, 0x0, false⟩]⟩]

/-- Rows of the CL registers, part 1. -/
def regRowsCl1 : List RegRow := [
  ⟨Reg.CL_SP16_ATOMICS, 1, 4, 8, 0x2000, false, [
    ⟨31, 0, .rwhCount, 0x0, true⟩]⟩,
  ⟨Reg.CL_SP16_SAT, 1, 4, 8, 0x2000, false, [
    ⟨31, 0, .rwhCount, 0x0, true⟩]⟩,
  ⟨Reg.CL_EG_ELEMS, 1, 4, 8, 0x2000, true, [
    ⟨63, 0, .rwhCount, 0x0, false⟩]⟩,
  ⟨Reg.CL_EG_SAT, 1, 4, 8, 0x2000, false, [
    ⟨31, 0, .rwhCount, 0x0, false⟩]⟩,
  ⟨Reg.CL_EG_STALL, 1, 4, 8, 0x2000, false, [
    ⟨31, 0, .rwhCount, 0x0, false⟩]⟩,
  ⟨Reg.CL_MARGIN_STOPS, 1, 4, 8, 0x2000, false, [
    ⟨31, 0, .rwhCount, 0x0, false⟩]⟩,
  ⟨Reg.CL_MARGIN_SAVED, 1, 4, 8, 0x2000, false, [
    ⟨31, 0, .rwhCount, 0x0, false⟩]⟩,
  ⟨Reg.CL_MARGIN_WAIT, 1, 4, 8, 0x2000, false, [
    ⟨31, 0, .rwhCount, 0x0, false⟩]⟩,
  ⟨Reg.CL_TOPK_ROWS, 1, 4, 8, 0x2000, false, [
    ⟨31, 0, .rwhCount, 0x0, false⟩]⟩,
  ⟨Reg.CL_TOK_INUSE, 1, 4, 8, 0x2000, false, [
    ⟨6, 0, .ro, 0x0, false⟩]⟩,
  ⟨Reg.CL_TOK_POSTS, 1, 4, 8, 0x2000, false, [
    ⟨31, 0, .rwhCount, 0x0, false⟩]⟩,
  ⟨Reg.CL_TOK_WAIT_CYC, 1, 4, 8, 0x2000, false, [
    ⟨31, 0, .rwhCount, 0x0, false⟩]⟩]

/-- Rows of the CL registers, part 2. -/
def regRowsCl2 : List RegRow := [
  ⟨Reg.CL_SEQ_STALL, 1, 4, 8, 0x2000, false, [
    ⟨31, 0, .rwhCount, 0x0, false⟩]⟩,
  ⟨Reg.CL_TOK_VAL, 64, 4, 8, 0x2000, false, [
    ⟨15, 0, .ro, 0x0, false⟩,
    ⟨18, 16, .ro, 0x0, false⟩,
    ⟨19, 19, .ro, 0x0, false⟩,
    ⟨25, 20, .ro, 0x0, false⟩]⟩]

/-- Rows of the MEM registers, part 0. -/
def regRowsMem0 : List RegRow := [
  ⟨Reg.MEM_ID, 1, 4, 1, 0x0, false, [
    ⟨7, 0, .ro, 0x0, false⟩,
    ⟨12, 8, .ro, 0x10, false⟩,
    ⟨13, 13, .ro, 0x0, false⟩,
    ⟨15, 14, .ro, 0x3, false⟩]⟩,
  ⟨Reg.MEM_TRAIN_STATUS, 1, 4, 1, 0x0, false, [
    ⟨15, 0, .ro, 0x0, false⟩,
    ⟨16, 16, .ro, 0x0, false⟩,
    ⟨17, 17, .ro, 0x0, false⟩]⟩,
  ⟨Reg.MEM_HOST_UPPER, 1, 4, 1, 0x0, false, [
    ⟨19, 0, .rw, 0x0, false⟩]⟩,
  ⟨Reg.MEM_REMOTE_CTRL, 1, 4, 1, 0x0, false, [
    ⟨0, 0, .rw, 0x0, false⟩,
    ⟨13, 8, .rw, 0x0, false⟩]⟩,
  ⟨Reg.MEM_SCRUB_CTRL, 1, 4, 1, 0x0, false, [
    ⟨0, 0, .rw, 0x1, false⟩,
    ⟨1, 1, .rw, 0x1, false⟩]⟩,
  ⟨Reg.MEM_SCRUB_INTERVAL, 1, 4, 1, 0x0, false, [
    ⟨15, 0, .rw, 0x100, true⟩,
    ⟨31, 16, .rw, 0x100, true⟩]⟩,
  ⟨Reg.MEM_SCRUB_PASSES, 1, 4, 1, 0x0, false, [
    ⟨31, 0, .rwhCount, 0x0, false⟩]⟩,
  ⟨Reg.MEM_CE_PS, 1, 4, 1, 0x0, false, [
    ⟨31, 0, .rwhCount, 0x0, false⟩]⟩,
  ⟨Reg.MEM_UE_PS, 1, 4, 1, 0x0, false, [
    ⟨31, 0, .rwhCount, 0x0, false⟩]⟩,
  ⟨Reg.MEM_CE_DRAM, 1, 4, 1, 0x0, false, [
    ⟨31, 0, .rwhCount, 0x0, false⟩]⟩,
  ⟨Reg.MEM_UE_DRAM, 1, 4, 1, 0x0, false, [
    ⟨31, 0, .rwhCount, 0x0, false⟩]⟩,
  ⟨Reg.MEM_ERR_STATUS, 1, 4, 1, 0x0, false, [
    ⟨0, 0, .w1c, 0x0, false⟩,
    ⟨1, 1, .w1c, 0x0, false⟩,
    ⟨2, 2, .w1c, 0x0, false⟩]⟩]

/-- Rows of the MEM registers, part 1. -/
def regRowsMem1 : List RegRow := [
  ⟨Reg.MEM_ERR_ADDR, 1, 4, 1, 0x0, true, [
    ⟨47, 0, .ro, 0x0, false⟩]⟩,
  ⟨Reg.MEM_ERR_INFO, 1, 4, 1, 0x0, false, [
    ⟨0, 0, .ro, 0x0, false⟩,
    ⟨1, 1, .ro, 0x0, false⟩,
    ⟨9, 2, .ro, 0x0, false⟩]⟩,
  ⟨Reg.MEM_TELEM_DROP, 1, 4, 1, 0x0, false, [
    ⟨31, 0, .rwhCount, 0x0, false⟩]⟩,
  ⟨Reg.MEM_REFRESH, 1, 4, 1, 0x0, false, [
    ⟨1, 0, .ro, 0x0, false⟩]⟩]

/-- Rows of the FE registers, part 0. -/
def regRowsFe0 : List RegRow := [
  ⟨Reg.FE_HTAB_BASE, 1, 4, 1, 0x0, true, [
    ⟨47, 0, .rw, 0x0, false⟩]⟩,
  ⟨Reg.FE_HTAB_COUNT, 1, 4, 1, 0x0, false, [
    ⟨24, 0, .rw, 0x0, false⟩]⟩,
  ⟨Reg.FE_SEAL_BASE, 1, 4, 1, 0x0, true, [
    ⟨47, 0, .rw, 0x0, true⟩]⟩,
  ⟨Reg.FE_SEAL_SIZE, 1, 4, 1, 0x0, false, [
    ⟨31, 0, .rw, 0x0, true⟩]⟩,
  ⟨Reg.FE_RELOC_OPS, 1, 4, 1, 0x0, false, [
    ⟨31, 0, .rwhCount, 0x0, false⟩]⟩,
  ⟨Reg.FE_RELOC_REFS, 1, 4, 1, 0x0, false, [
    ⟨31, 0, .rwhCount, 0x0, false⟩]⟩,
  ⟨Reg.FE_RELOC_WAIT, 1, 4, 1, 0x0, false, [
    ⟨31, 0, .rwhCount, 0x0, false⟩]⟩,
  ⟨Reg.FE_SEAL_WAIT, 1, 4, 1, 0x0, false, [
    ⟨31, 0, .rwhCount, 0x0, true⟩]⟩,
  ⟨Reg.FE_RING_BASE, 1, 4, 1, 0x0, true, [
    ⟨63, 0, .rw, 0x0, false⟩]⟩,
  ⟨Reg.FE_RING_CTRL, 1, 4, 1, 0x0, false, [
    ⟨0, 0, .rw, 0x0, false⟩,
    ⟨5, 1, .rw, 0x6, false⟩,
    ⟨6, 6, .rw, 0x0, true⟩]⟩,
  ⟨Reg.FE_RING_START, 1, 4, 1, 0x0, false, [
    ⟨31, 0, .rw, 0x0, false⟩]⟩,
  ⟨Reg.FE_DB_ADDR, 1, 4, 1, 0x0, true, [
    ⟨63, 0, .rw, 0x0, false⟩]⟩]

/-- Rows of the FE registers, part 1. -/
def regRowsFe1 : List RegRow := [
  ⟨Reg.FE_STATUS_ADDR, 1, 4, 1, 0x0, true, [
    ⟨63, 0, .rw, 0x0, false⟩]⟩,
  ⟨Reg.FE_POLL_MIN, 1, 4, 1, 0x0, false, [
    ⟨31, 0, .rw, 0x177, true⟩]⟩,
  ⟨Reg.FE_POLL_MAX, 1, 4, 1, 0x0, false, [
    ⟨31, 0, .rw, 0x16E360, true⟩]⟩,
  ⟨Reg.FE_POLL_NOW, 1, 4, 1, 0x0, false, [
    ⟨31, 0, .ro, 0x5DC, false⟩]⟩,
  ⟨Reg.FE_RING_STATUS, 1, 4, 1, 0x0, false, [
    ⟨1, 0, .ro, 0x0, false⟩,
    ⟨2, 2, .w1c, 0x0, false⟩,
    ⟨3, 3, .w1c, 0x0, false⟩,
    ⟨4, 4, .w1c, 0x0, false⟩,
    ⟨5, 5, .w1c, 0x0, false⟩]⟩,
  ⟨Reg.FE_RING_HEAD, 1, 4, 1, 0x0, false, [
    ⟨31, 0, .ro, 0x0, false⟩]⟩,
  ⟨Reg.FE_RING_TAIL, 1, 4, 1, 0x0, false, [
    ⟨31, 0, .ro, 0x0, false⟩]⟩,
  ⟨Reg.FE_ENTRY_ERRS, 1, 4, 1, 0x0, false, [
    ⟨31, 0, .rwhCount, 0x0, false⟩]⟩,
  ⟨Reg.FE_SEQ_RETRY, 1, 4, 1, 0x0, false, [
    ⟨31, 0, .rwhCount, 0x0, false⟩]⟩,
  ⟨Reg.FE_POLLS, 1, 4, 1, 0x0, false, [
    ⟨31, 0, .rwhCount, 0x0, false⟩]⟩,
  ⟨Reg.FE_WATCH, 1, 4, 1, 0x0, false, [
    ⟨10, 0, .ro, 0x0, false⟩]⟩,
  ⟨Reg.FE_WATCH_OVF, 1, 4, 1, 0x0, false, [
    ⟨31, 0, .rwhCount, 0x0, false⟩]⟩]

/-- Rows of the FE registers, part 2. -/
def regRowsFe2 : List RegRow := [
  ⟨Reg.FE_HALYARD_REFUSED, 1, 4, 1, 0x0, false, [
    ⟨31, 0, .rwhCount, 0x0, false⟩]⟩,
  ⟨Reg.FE_HSHADOW_BASE, 1, 4, 1, 0x0, true, [
    ⟨47, 0, .rw, 0x0, false⟩]⟩,
  ⟨Reg.FE_HSHADOW_ENTRIES, 1, 4, 1, 0x0, false, [
    ⟨24, 0, .rw, 0x0, false⟩]⟩,
  ⟨Reg.FE_HGEN, 1, 4, 1, 0x0, false, [
    ⟨15, 0, .ro, 0x0, false⟩,
    ⟨17, 16, .ro, 0x0, false⟩]⟩,
  ⟨Reg.FE_STREAM_SEL, 1, 4, 1, 0x0, false, [
    ⟨8, 0, .rw, 0x0, false⟩]⟩,
  ⟨Reg.FE_STREAM_INFO, 1, 4, 1, 0x0, false, [
    ⟨2, 0, .ro, 0x0, false⟩,
    ⟨4, 3, .ro, 0x0, false⟩,
    ⟨8, 5, .ro, 0x0, false⟩]⟩,
  ⟨Reg.FE_SLOT, 8, 4, 1, 0x0, false, [
    ⟨8, 0, .ro, 0x0, false⟩,
    ⟨9, 9, .ro, 0x0, false⟩]⟩,
  ⟨Reg.FE_CHART_SEL, 1, 4, 1, 0x0, false, [
    ⟨9, 0, .rw, 0x0, false⟩]⟩,
  ⟨Reg.FE_CHART_INFO, 1, 4, 1, 0x0, false, [
    ⟨1, 0, .ro, 0x0, false⟩,
    ⟨4, 2, .ro, 0x0, false⟩,
    ⟨31, 16, .ro, 0x0, false⟩]⟩,
  ⟨Reg.FE_CHART_COUNT, 1, 4, 1, 0x0, false, [
    ⟨10, 0, .ro, 0x0, false⟩]⟩,
  ⟨Reg.FE_CHART_BINDS, 1, 4, 1, 0x0, false, [
    ⟨31, 0, .rwhCount, 0x0, false⟩]⟩,
  ⟨Reg.FE_CHART_HOT, 1, 4, 1, 0x0, false, [
    ⟨31, 0, .rwhCount, 0x0, true⟩]⟩]

/-- Rows of the FE registers, part 3. -/
def regRowsFe3 : List RegRow := [
  ⟨Reg.FE_CHART_HOT_SPLIT, 1, 4, 1, 0x0, false, [
    ⟨31, 0, .rwhCount, 0x0, true⟩]⟩,
  ⟨Reg.FE_FAULT_BASE, 1, 4, 1, 0x0, true, [
    ⟨63, 0, .rw, 0x0, false⟩]⟩,
  ⟨Reg.FE_PD_RESP, 1, 4, 1, 0x0, false, [
    ⟨15, 0, .rw, 0x0, false⟩]⟩,
  ⟨Reg.FE_PD_DEPTH, 1, 4, 1, 0x0, false, [
    ⟨31, 0, .rw, 0x55555555, true⟩]⟩,
  ⟨Reg.FE_DUMP_BASE, 1, 4, 1, 0x0, true, [
    ⟨63, 0, .rw, 0x0, true⟩]⟩,
  ⟨Reg.FE_SAMPLE, 1, 4, 1, 0x0, false, [
    ⟨16, 0, .rw, 0x3E8, true⟩]⟩,
  ⟨Reg.FE_HANG_WINDOW, 1, 4, 1, 0x0, false, [
    ⟨15, 0, .rw, 0x64, true⟩]⟩,
  ⟨Reg.FE_FAULT_COUNT, 1, 4, 1, 0x0, false, [
    ⟨31, 0, .rwhCount, 0x0, false⟩]⟩,
  ⟨Reg.FE_HANG_COUNT, 1, 4, 1, 0x0, false, [
    ⟨31, 0, .rwhCount, 0x0, false⟩]⟩,
  ⟨Reg.FE_FAULT_LOST, 1, 4, 1, 0x0, false, [
    ⟨31, 0, .rwhCount, 0x0, false⟩]⟩,
  ⟨Reg.FE_RESET_COUNT, 1, 4, 1, 0x0, false, [
    ⟨31, 0, .ro, 0x0, false⟩]⟩,
  ⟨Reg.FE_PROG_SEL, 1, 4, 1, 0x0, false, [
    ⟨2, 0, .rw, 0x0, false⟩]⟩]

/-- Rows of the FE registers, part 4. -/
def regRowsFe4 : List RegRow := [
  ⟨Reg.FE_PROG_OPS, 1, 4, 1, 0x0, true, [
    ⟨47, 0, .ro, 0x0, false⟩]⟩,
  ⟨Reg.FE_PROG_CYC, 1, 4, 1, 0x0, true, [
    ⟨47, 0, .ro, 0x0, false⟩]⟩,
  ⟨Reg.FE_PROG_BYTES, 1, 4, 1, 0x0, true, [
    ⟨47, 0, .ro, 0x0, false⟩]⟩,
  ⟨Reg.FE_PROG_TOKENS, 1, 4, 1, 0x0, true, [
    ⟨47, 0, .ro, 0x0, false⟩]⟩,
  ⟨Reg.FE_PROG_STILL, 1, 4, 1, 0x0, false, [
    ⟨15, 0, .ro, 0x0, false⟩,
    ⟨16, 16, .ro, 0x0, false⟩]⟩,
  ⟨Reg.FE_WAIT_AGE, 1, 4, 1, 0x0, false, [
    ⟨31, 0, .ro, 0x0, false⟩]⟩,
  ⟨Reg.FE_EXPERT_UNLOCK, 1, 4, 1, 0x0, false, [
    ⟨15, 0, .wo, 0x0, false⟩]⟩,
  ⟨Reg.FE_EXPERT_STATUS, 1, 4, 1, 0x0, false, [
    ⟨0, 0, .ro, 0x0, false⟩,
    ⟨1, 1, .ro, 0x0, false⟩,
    ⟨2, 2, .w1c, 0x0, false⟩]⟩,
  ⟨Reg.FE_TOK_VAL, 32, 4, 1, 0x0, false, [
    ⟨15, 0, .ro, 0x0, false⟩,
    ⟨18, 16, .ro, 0x0, false⟩,
    ⟨19, 19, .ro, 0x0, false⟩,
    ⟨25, 20, .ro, 0x0, false⟩]⟩]

/-- Rows of the HI registers, part 0. -/
def regRowsHi0 : List RegRow := [
  ⟨Reg.HI_ID, 1, 4, 1, 0x0, false, [
    ⟨7, 0, .ro, 0xB1, false⟩,
    ⟨31, 16, .ro, 0x5E18, false⟩]⟩,
  ⟨Reg.HI_BOOT, 1, 4, 1, 0x0, false, [
    ⟨0, 0, .ro, 0x0, false⟩,
    ⟨1, 1, .ro, 0x0, false⟩,
    ⟨2, 2, .ro, 0x0, false⟩]⟩,
  ⟨Reg.HI_LINK, 1, 4, 1, 0x0, false, [
    ⟨3, 0, .ro, 0x0, false⟩,
    ⟨9, 4, .ro, 0x0, false⟩,
    ⟨10, 10, .ro, 0x0, false⟩]⟩,
  ⟨Reg.HI_LINK_RETRAINS, 1, 4, 1, 0x0, false, [
    ⟨31, 0, .rwhCount, 0x0, false⟩]⟩,
  ⟨Reg.HI_WIN_BASE, 1, 4, 1, 0x0, false, [
    ⟨16, 0, .rw, 0x0, false⟩]⟩,
  ⟨Reg.HI_WIN_ERR, 1, 4, 1, 0x0, false, [
    ⟨31, 0, .rwhCount, 0x0, false⟩]⟩,
  ⟨Reg.HI_NOTICE_STATUS, 1, 4, 1, 0x0, false, [
    ⟨7, 0, .w1c, 0x0, false⟩]⟩,
  ⟨Reg.HI_NOTICE_EN, 1, 4, 1, 0x0, false, [
    ⟨7, 0, .rw, 0x0, false⟩]⟩,
  ⟨Reg.HI_NOTICE_MAP0, 1, 4, 1, 0x0, false, [
    ⟨4, 0, .rw, 0x0, false⟩,
    ⟨12, 8, .rw, 0x1, false⟩,
    ⟨20, 16, .rw, 0x2, false⟩,
    ⟨28, 24, .rw, 0x3, false⟩]⟩,
  ⟨Reg.HI_NOTICE_MAP1, 1, 4, 1, 0x0, false, [
    ⟨4, 0, .rw, 0x4, false⟩,
    ⟨12, 8, .rw, 0x5, false⟩,
    ⟨20, 16, .rw, 0x6, false⟩,
    ⟨28, 24, .rw, 0x7, false⟩]⟩,
  ⟨Reg.HI_HOST_ERR, 1, 4, 1, 0x0, false, [
    ⟨31, 0, .rwhCount, 0x0, false⟩]⟩,
  ⟨Reg.HI_HOST_LOG, 1, 4, 1, 0x0, false, [
    ⟨2, 0, .ro, 0x0, false⟩]⟩]

/-- Rows of the HI registers, part 1. -/
def regRowsHi1 : List RegRow := [
  ⟨Reg.HI_HOST_LOG_ADDR, 1, 4, 1, 0x0, true, [
    ⟨63, 0, .ro, 0x0, false⟩]⟩,
  ⟨Reg.HI_TAGS, 1, 4, 1, 0x0, false, [
    ⟨9, 0, .ro, 0x0, false⟩,
    ⟨19, 10, .ro, 0x100, false⟩]⟩,
  ⟨Reg.HI_BME_WAIT, 1, 4, 1, 0x0, false, [
    ⟨31, 0, .rwhCount, 0x0, false⟩]⟩]

/-- Rows of the FABLINK registers, part 0. -/
def regRowsFablink0 : List RegRow := [
  ⟨Reg.FAB_LINK_ACK, 1, 4, 1, 0x0, false, [
    ⟨15, 0, .rw, 0xC8, true⟩]⟩,
  ⟨Reg.FAB_LINK_COMPAT, 1, 4, 1, 0x0, true, [
    ⟨63, 0, .ro, 0x0, false⟩]⟩,
  ⟨Reg.FAB_LINK_CTRL, 6, 256, 1, 0x0, false, [
    ⟨0, 0, .rw, 0x0, false⟩,
    ⟨1, 1, .sc, 0x0, false⟩]⟩,
  ⟨Reg.FAB_LINK_STATE, 6, 256, 1, 0x0, false, [
    ⟨3, 0, .ro, 0x0, false⟩,
    ⟨5, 4, .ro, 0x0, false⟩,
    ⟨9, 6, .ro, 0x0, false⟩,
    ⟨17, 10, .ro, 0x0, false⟩,
    ⟨18, 18, .ro, 0x0, false⟩]⟩,
  ⟨Reg.FAB_LINK_EVENTS, 6, 256, 1, 0x0, false, [
    ⟨0, 0, .w1c, 0x0, false⟩,
    ⟨1, 1, .w1c, 0x0, false⟩,
    ⟨2, 2, .w1c, 0x0, false⟩,
    ⟨3, 3, .w1c, 0x0, false⟩]⟩,
  ⟨Reg.FAB_LINK_DOWN_CAUSE, 6, 256, 1, 0x0, false, [
    ⟨2, 0, .ro, 0x0, false⟩]⟩,
  ⟨Reg.FAB_LINK_CRC_ERR, 6, 256, 1, 0x0, false, [
    ⟨31, 0, .rwhCount, 0x0, false⟩]⟩,
  ⟨Reg.FAB_LINK_REPLAYS, 6, 256, 1, 0x0, false, [
    ⟨31, 0, .rwhCount, 0x0, false⟩]⟩,
  ⟨Reg.FAB_LINK_MISSES, 6, 256, 1, 0x0, false, [
    ⟨31, 0, .rwhCount, 0x0, false⟩]⟩,
  ⟨Reg.FAB_LINK_DOWNS, 6, 256, 1, 0x0, false, [
    ⟨31, 0, .rwhCount, 0x0, false⟩]⟩,
  ⟨Reg.FAB_LINK_DISCARD, 6, 256, 1, 0x0, false, [
    ⟨31, 0, .rwhCount, 0x0, false⟩]⟩,
  ⟨Reg.FAB_LINK_STALE, 6, 256, 1, 0x0, false, [
    ⟨31, 0, .rwhCount, 0x0, false⟩]⟩]

/-- Rows of the FABLINK registers, part 1. -/
def regRowsFablink1 : List RegRow := [
  ⟨Reg.FAB_LINK_TX_BYTES, 6, 256, 1, 0x0, true, [
    ⟨63, 0, .rwhCount, 0x0, false⟩]⟩,
  ⟨Reg.FAB_LINK_RX_BYTES, 6, 256, 1, 0x0, true, [
    ⟨63, 0, .rwhCount, 0x0, false⟩]⟩,
  ⟨Reg.FAB_LINK_PEER_UID, 6, 256, 1, 0x0, true, [
    ⟨63, 0, .ro, 0x0, false⟩]⟩,
  ⟨Reg.FAB_LINK_PEER_INFO, 6, 256, 1, 0x0, false, [
    ⟨2, 0, .ro, 0x0, false⟩,
    ⟨31, 16, .ro, 0x0, false⟩]⟩,
  ⟨Reg.FAB_LINK_PEER_INC, 6, 256, 1, 0x0, false, [
    ⟨31, 0, .ro, 0x0, false⟩]⟩,
  ⟨Reg.FAB_LINK_PEER_COMPAT, 6, 256, 1, 0x0, true, [
    ⟨63, 0, .ro, 0x0, false⟩]⟩,
  ⟨Reg.FAB_LINK_RETRY, 6, 256, 1, 0x0, false, [
    ⟨10, 0, .ro, 0x0, false⟩]⟩,
  ⟨Reg.FAB_LINK_RETRY_FULL, 6, 256, 1, 0x0, false, [
    ⟨31, 0, .rwhCount, 0x0, false⟩]⟩,
  ⟨Reg.FAB_LINK_TRAIN_US, 6, 256, 1, 0x0, false, [
    ⟨15, 0, .ro, 0x0, false⟩]⟩]

/-- Rows of the FAB registers, part 0. -/
def regRowsFab0 : List RegRow := [
  ⟨Reg.FAB_STATE, 1, 4, 1, 0x0, false, [
    ⟨1, 0, .ro, 0x0, false⟩,
    ⟨2, 2, .ro, 0x0, false⟩,
    ⟨3, 3, .ro, 0x0, false⟩,
    ⟨5, 4, .ro, 0x0, false⟩]⟩,
  ⟨Reg.FAB_ADDR, 1, 4, 1, 0x0, false, [
    ⟨11, 0, .ro, 0x0, false⟩]⟩,
  ⟨Reg.FAB_EPOCH, 1, 4, 1, 0x0, false, [
    ⟨31, 0, .ro, 0x0, false⟩]⟩,
  ⟨Reg.FAB_INCARNATION, 1, 4, 1, 0x0, false, [
    ⟨31, 0, .ro, 0x0, false⟩]⟩,
  ⟨Reg.FAB_UID, 1, 4, 1, 0x0, true, [
    ⟨63, 0, .ro, 0x0, false⟩]⟩,
  ⟨Reg.FAB_ORIGIN_UID, 1, 4, 1, 0x0, true, [
    ⟨63, 0, .ro, 0x0, false⟩]⟩,
  ⟨Reg.FAB_MAP_EPOCH, 1, 4, 1, 0x0, false, [
    ⟨31, 0, .ro, 0x0, false⟩]⟩,
  ⟨Reg.FAB_SHAPE, 1, 4, 1, 0x0, false, [
    ⟨11, 0, .ro, 0x0, false⟩,
    ⟨14, 12, .ro, 0x0, false⟩,
    ⟨15, 15, .ro, 0x0, false⟩]⟩,
  ⟨Reg.FAB_LIVE, 1, 4, 1, 0x0, false, [
    ⟨12, 0, .ro, 0x0, false⟩]⟩,
  ⟨Reg.FAB_TIME, 1, 4, 1, 0x0, true, [
    ⟨63, 0, .ro, 0x0, false⟩]⟩,
  ⟨Reg.FAB_TIME_BOUND, 1, 4, 1, 0x0, false, [
    ⟨31, 0, .ro, 0xFFFFFFFF, false⟩]⟩,
  ⟨Reg.FAB_TIME_PARENT, 1, 4, 1, 0x0, false, [
    ⟨2, 0, .ro, 0x0, false⟩,
    ⟨3, 3, .ro, 0x0, false⟩,
    ⟨4, 4, .ro, 0x0, false⟩]⟩]

/-- Rows of the FAB registers, part 1. -/
def regRowsFab1 : List RegRow := [
  ⟨Reg.FAB_TIME_STEPS, 1, 4, 1, 0x0, false, [
    ⟨31, 0, .rwhCount, 0x0, false⟩]⟩,
  ⟨Reg.FAB_FW_LEVEL, 1, 4, 1, 0x0, false, [
    ⟨15, 0, .ro, 0x0, false⟩]⟩,
  ⟨Reg.FAB_MAP_ADDR, 1, 4, 1, 0x0, true, [
    ⟨63, 0, .rw, 0x0, false⟩]⟩,
  ⟨Reg.FAB_EVT_PENNANT, 1, 4, 1, 0x0, true, [
    ⟨63, 0, .rw, 0x0, false⟩]⟩,
  ⟨Reg.FAB_RMT_ADDR, 1, 4, 1, 0x0, true, [
    ⟨63, 0, .ro, 0x0, false⟩]⟩,
  ⟨Reg.FAB_RMT_STATUS, 1, 4, 1, 0x0, false, [
    ⟨7, 0, .ro, 0x0, false⟩]⟩,
  ⟨Reg.FAB_RMT_FAIL, 1, 4, 1, 0x0, false, [
    ⟨31, 0, .rwhCount, 0x0, false⟩]⟩,
  ⟨Reg.FAB_RMT_REPLAY, 1, 4, 1, 0x0, false, [
    ⟨31, 0, .rwhCount, 0x0, false⟩]⟩,
  ⟨Reg.FAB_RMT_STALE, 1, 4, 1, 0x0, false, [
    ⟨31, 0, .rwhCount, 0x0, false⟩]⟩,
  ⟨Reg.FAB_GAP_DROP, 1, 4, 1, 0x0, false, [
    ⟨31, 0, .rwhCount, 0x0, false⟩]⟩,
  ⟨Reg.FAB_HOPS_DROP, 1, 4, 1, 0x0, false, [
    ⟨31, 0, .rwhCount, 0x0, false⟩]⟩,
  ⟨Reg.FAB_SETTLES, 1, 4, 1, 0x0, false, [
    ⟨31, 0, .rwhCount, 0x0, false⟩]⟩]

/-- Rows of the FAB registers, part 2. -/
def regRowsFab2 : List RegRow := [
  ⟨Reg.FAB_STATIC, 512, 4, 1, 0x0, false, [
    ⟨31, 0, .rw, 0xFFFFFFFF, true⟩]⟩]

/-- Rows of the ALM registers, part 0. -/
def regRowsAlm0 : List RegRow := [
  ⟨Reg.ALM_BOOT_STATUS, 1, 4, 1, 0x0, false, [
    ⟨1, 0, .ro, 0x0, false⟩,
    ⟨2, 2, .ro, 0x0, false⟩,
    ⟨3, 3, .ro, 0x0, false⟩,
    ⟨5, 4, .ro, 0x0, false⟩,
    ⟨7, 6, .ro, 0x0, false⟩,
    ⟨8, 8, .ro, 0x0, false⟩,
    ⟨9, 9, .ro, 0x0, false⟩,
    ⟨10, 10, .ro, 0x0, false⟩,
    ⟨14, 11, .ro, 0x0, false⟩]⟩,
  ⟨Reg.ALM_ACTIVE_SEQ, 1, 4, 1, 0x0, false, [
    ⟨31, 0, .ro, 0xFFFFFFFF, false⟩]⟩,
  ⟨Reg.ALM_SETTING_ERR, 1, 4, 1, 0x0, false, [
    ⟨15, 0, .ro, 0x0, false⟩,
    ⟨23, 16, .ro, 0x0, false⟩]⟩,
  ⟨Reg.ALM_FLASH_INFO, 1, 4, 1, 0x0, false, [
    ⟨8, 0, .ro, 0x0, false⟩,
    ⟨9, 9, .ro, 0x0, false⟩,
    ⟨11, 10, .ro, 0x0, false⟩,
    ⟨18, 12, .ro, 0x0, false⟩]⟩,
  ⟨Reg.ALM_FW_INFO, 1, 4, 1, 0x0, false, [
    ⟨15, 0, .ro, 0x0, false⟩]⟩,
  ⟨Reg.ALM_FW_SVN, 1, 4, 1, 0x0, false, [
    ⟨31, 0, .ro, 0x0, false⟩]⟩,
  ⟨Reg.ALM_FW_SEQ, 1, 4, 1, 0x0, false, [
    ⟨31, 0, .ro, 0xFFFFFFFF, false⟩]⟩,
  ⟨Reg.ALM_FUSE, 1, 4, 1, 0x0, false, [
    ⟨0, 0, .ro, 0x0, false⟩,
    ⟨1, 1, .ro, 0x0, false⟩,
    ⟨7, 2, .ro, 0x0, false⟩]⟩,
  ⟨Reg.ALM_SVN_COMMIT, 1, 4, 1, 0x0, false, [
    ⟨0, 0, .sc, 0x0, false⟩]⟩,
  ⟨Reg.ALM_BOOT_US, 1, 4, 1, 0x0, false, [
    ⟨31, 0, .ro, 0x0, false⟩]⟩,
  ⟨Reg.ALM_UPDATE, 1, 4, 1, 0x0, false, [
    ⟨0, 0, .ro, 0x0, false⟩,
    ⟨11, 4, .ro, 0x0, false⟩]⟩,
  ⟨Reg.ALM_BOARD_ID, 1, 4, 1, 0x0, false, [
    ⟨31, 0, .ro, 0x0, false⟩]⟩]

/-- Rows of the ALM registers, part 1. -/
def regRowsAlm1 : List RegRow := [
  ⟨Reg.ALM_RECOVERY, 1, 4, 1, 0x0, false, [
    ⟨0, 0, .sc, 0x0, false⟩,
    ⟨8, 1, .ro, 0x0, false⟩]⟩,
  ⟨Reg.ALM_RECOVERY_OFS, 1, 4, 1, 0x0, true, [
    ⟨43, 0, .rw, 0x0, false⟩]⟩]

/-- Rows of the PWR registers, part 0. -/
def regRowsPwr0 : List RegRow := [
  ⟨Reg.PWR_OP, 1, 4, 1, 0x0, false, [
    ⟨1, 0, .ro, 0x3, false⟩,
    ⟨3, 2, .ro, 0x0, false⟩,
    ⟨5, 4, .rw, 0x0, true⟩,
    ⟨6, 6, .rw, 0x0, true⟩,
    ⟨8, 7, .rw, 0x0, true⟩,
    ⟨9, 9, .ro, 0x0, false⟩]⟩,
  ⟨Reg.PWR_CAP, 1, 4, 1, 0x0, false, [
    ⟨6, 0, .rw, 0x4B, false⟩]⟩,
  ⟨Reg.PWR_GOV, 1, 4, 1, 0x0, false, [
    ⟨3, 0, .ro, 0x0, false⟩,
    ⟨5, 4, .ro, 0x0, false⟩,
    ⟨6, 6, .ro, 0x0, false⟩,
    ⟨7, 7, .ro, 0x0, false⟩,
    ⟨8, 8, .w1c, 0x0, false⟩]⟩,
  ⟨Reg.PWR_P_MW, 1, 4, 1, 0x0, false, [
    ⟨31, 0, .ro, 0x0, false⟩]⟩,
  ⟨Reg.PWR_AVG_MW, 1, 4, 1, 0x0, false, [
    ⟨31, 0, .ro, 0x0, false⟩]⟩,
  ⟨Reg.PWR_BOARD_ALLOW, 1, 4, 1, 0x0, false, [
    ⟨31, 0, .rw, 0x2328, true⟩]⟩,
  ⟨Reg.PWR_ELASTIC_CTRL, 1, 4, 1, 0x0, false, [
    ⟨15, 0, .rw, 0x0, true⟩,
    ⟨17, 16, .rw, 0x0, true⟩]⟩,
  ⟨Reg.PWR_ELASTIC_BUFS, 1, 4, 1, 0x0, false, [
    ⟨31, 0, .rwhCount, 0x0, false⟩]⟩,
  ⟨Reg.PWR_ELASTIC_STRM, 16, 4, 1, 0x0, false, [
    ⟨31, 0, .w1c, 0x0, false⟩]⟩,
  ⟨Reg.PWR_ELASTIC_LAST, 1, 4, 1, 0x0, false, [
    ⟨8, 0, .ro, 0x0, false⟩,
    ⟨10, 9, .ro, 0x0, false⟩]⟩,
  ⟨Reg.PWR_OP_SWITCHES, 1, 4, 1, 0x0, false, [
    ⟨31, 0, .rwhCount, 0x0, false⟩]⟩,
  ⟨Reg.PWR_GATE_CYC, 1, 4, 1, 0x0, false, [
    ⟨31, 0, .rwhCount, 0x0, false⟩]⟩]

/-- Rows of the PWR registers, part 1. -/
def regRowsPwr1 : List RegRow := [
  ⟨Reg.PWR_THROTTLE_US, 1, 4, 1, 0x0, false, [
    ⟨31, 0, .rwhCount, 0x0, false⟩]⟩,
  ⟨Reg.PWR_VOUT_OP01, 1, 4, 1, 0x0, false, [
    ⟨31, 0, .rw, 0xC7B0D9A, true⟩]⟩,
  ⟨Reg.PWR_VOUT_OP23, 1, 4, 1, 0x0, false, [
    ⟨31, 0, .rw, 0xA660B85, true⟩]⟩,
  ⟨Reg.PWR_PMB_CFG, 1, 4, 1, 0x0, false, [
    ⟨6, 0, .rw, 0x40, false⟩,
    ⟨7, 7, .rw, 0x0, false⟩,
    ⟨15, 8, .rw, 0x32, true⟩,
    ⟨16, 16, .ro, 0x0, false⟩]⟩,
  ⟨Reg.PWR_PMB_STATUS, 1, 4, 1, 0x0, false, [
    ⟨15, 0, .ro, 0x0, false⟩,
    ⟨16, 16, .w1c, 0x0, false⟩,
    ⟨17, 17, .ro, 0x0, false⟩]⟩,
  ⟨Reg.PWR_TJ, 12, 4, 1, 0x0, false, [
    ⟨15, 0, .ro, 0x0, false⟩]⟩,
  ⟨Reg.PWR_THERM, 1, 4, 1, 0x0, false, [
    ⟨7, 0, .rw, 0x5F, true⟩,
    ⟨15, 8, .ro, 0x6E, false⟩,
    ⟨16, 16, .ro, 0x0, false⟩,
    ⟨20, 17, .ro, 0x0, false⟩]⟩,
  ⟨Reg.PWR_BRAKE, 1, 4, 1, 0x0, false, [
    ⟨6, 0, .rw, 0x19, false⟩,
    ⟨31, 16, .rwhCount, 0x0, false⟩]⟩,
  ⟨Reg.PWR_TELEM_ADDR, 1, 4, 1, 0x0, true, [
    ⟨63, 0, .rw, 0x0, false⟩]⟩,
  ⟨Reg.PWR_TELEM_PERIOD, 1, 4, 1, 0x0, false, [
    ⟨31, 0, .rw, 0x3E8, false⟩]⟩,
  ⟨Reg.PWR_COEF_STATIC, 1, 4, 1, 0x0, false, [
    ⟨31, 0, .ro, 0x2328, false⟩]⟩,
  ⟨Reg.PWR_COEF_STEP, 1, 4, 1, 0x0, false, [
    ⟨31, 0, .ro, 0x46CD0, false⟩]⟩]

/-- Rows of the PWR registers, part 2. -/
def regRowsPwr2 : List RegRow := [
  ⟨Reg.PWR_COEF_PLATE, 1, 4, 1, 0x0, false, [
    ⟨31, 0, .ro, 0x7530, false⟩]⟩,
  ⟨Reg.PWR_COEF_DRAM, 1, 4, 1, 0x0, false, [
    ⟨31, 0, .ro, 0x927C0, false⟩]⟩,
  ⟨Reg.PWR_COEF_LINK, 1, 4, 1, 0x0, false, [
    ⟨31, 0, .ro, 0x2710, false⟩]⟩,
  ⟨Reg.PWR_WM_THRESH, 2, 32, 1, 0x0, false, [
    ⟨31, 0, .rw, 0xFFFFFFFF, false⟩]⟩,
  ⟨Reg.PWR_WM_ROUTE, 2, 32, 1, 0x0, false, [
    ⟨2, 0, .rw, 0x0, false⟩]⟩,
  ⟨Reg.PWR_WM_PENNANT_UDA, 2, 32, 1, 0x0, true, [
    ⟨63, 0, .rw, 0x0, false⟩]⟩,
  ⟨Reg.PWR_WM_STATE, 2, 32, 1, 0x0, false, [
    ⟨0, 0, .ro, 0x0, false⟩,
    ⟨1, 1, .w1c, 0x0, false⟩,
    ⟨15, 8, .ro, 0x0, false⟩]⟩,
  ⟨Reg.PWR_WM_PEAK, 2, 32, 1, 0x0, false, [
    ⟨31, 0, .rwhState, 0x0, false⟩]⟩,
  ⟨Reg.PWR_SMB_STATUS, 1, 4, 1, 0x0, false, [
    ⟨6, 0, .ro, 0x5E, false⟩,
    ⟨31, 16, .rwhCount, 0x0, false⟩]⟩]

/-- Rows of the PIN registers, part 0. -/
def regRowsPin0 : List RegRow := [
  ⟨Reg.PIN_PROFILE, 1, 4, 1, 0x0, false, [
    ⟨7, 0, .ro, 0x0, false⟩]⟩,
  ⟨Reg.PIN_MUX, 12, 4, 1, 0x0, false, [
    ⟨3, 0, .rw, 0x0, true⟩]⟩,
  ⟨Reg.PIN_GPIO_OUT, 1, 4, 1, 0x0, false, [
    ⟨11, 0, .rw, 0x0, false⟩]⟩,
  ⟨Reg.PIN_IN, 1, 4, 1, 0x0, false, [
    ⟨11, 0, .ro, 0xFFF, false⟩]⟩,
  ⟨Reg.PIN_LINK_PRESENT, 1, 4, 1, 0x0, false, [
    ⟨5, 0, .ro, 0x0, false⟩]⟩,
  ⟨Reg.PIN_STATUS, 1, 4, 1, 0x0, false, [
    ⟨11, 0, .ro, 0x0, false⟩,
    ⟨16, 16, .w1c, 0x0, false⟩,
    ⟨17, 17, .w1c, 0x0, false⟩]⟩,
  ⟨Reg.PIN_SWITCHES, 1, 4, 1, 0x0, false, [
    ⟨31, 0, .rwhCount, 0x0, false⟩]⟩]

/-- Rows of the DBG registers, part 0. -/
def regRowsDbg0 : List RegRow := [
  ⟨Reg.DBG_TAP, 1, 4, 1, 0x0, false, [
    ⟨0, 0, .ro, 0x0, false⟩,
    ⟨1, 1, .ro, 0x0, false⟩,
    ⟨2, 2, .ro, 0x0, false⟩,
    ⟨3, 3, .ro, 0x0, false⟩,
    ⟨31, 16, .rwhCount, 0x0, false⟩]⟩,
  ⟨Reg.DBG_ACCESS_STATUS, 1, 4, 1, 0x0, false, [
    ⟨0, 0, .w1c, 0x0, false⟩,
    ⟨1, 1, .w1c, 0x0, false⟩,
    ⟨4, 2, .ro, 0x0, false⟩,
    ⟨6, 5, .ro, 0x0, false⟩]⟩,
  ⟨Reg.DBG_ACCESS_ADDR, 1, 4, 1, 0x0, false, [
    ⟨19, 0, .ro, 0x0, false⟩,
    ⟨23, 20, .ro, 0x0, false⟩]⟩,
  ⟨Reg.DBG_ACCESS_COUNT, 1, 4, 1, 0x0, false, [
    ⟨31, 0, .rwhCount, 0x0, false⟩]⟩]

/-- The whole map (R947). -/
def regRows : List RegRow :=
  regRowsEph0 ++ regRowsCl0 ++ regRowsCl1 ++ regRowsCl2 ++ regRowsMem0 ++ regRowsMem1 ++ regRowsFe0 ++ regRowsFe1 ++ regRowsFe2 ++ regRowsFe3 ++ regRowsFe4 ++ regRowsHi0 ++ regRowsHi1 ++ regRowsFablink0 ++ regRowsFablink1 ++ regRowsFab0 ++ regRowsFab1 ++ regRowsFab2 ++ regRowsAlm0 ++ regRowsAlm1 ++ regRowsPwr0 ++ regRowsPwr1 ++ regRowsPwr2 ++ regRowsPin0 ++ regRowsDbg0

/-- Where a dword offset falls within a row: the register's number in its family, the block's
number, and whether it is the high half of a pair. -/
def RegRow.locate (r : RegRow) (o : Nat) : Option (Nat × Nat × Bool) :=
  if o < r.off then none
  else
    let d := o - r.off
    let k := if r.ocnt ≤ 1 then 0 else d / r.ostride
    let d := if r.ocnt ≤ 1 then d else d % r.ostride
    let i := if r.cnt ≤ 1 then 0 else d / r.stride
    let d := if r.cnt ≤ 1 then d else d % r.stride
    if r.ocnt ≤ k ∨ r.cnt ≤ i then none
    else if d = 0 then some (i, k, false)
    else if d = 4 ∧ r.pair = true then some (i, k, true)
    else none

/-- The row an offset belongs to. -/
def findRow (o : Nat) : List RegRow → Option (RegRow × Nat × Nat × Bool)
  | [] => none
  | r :: t =>
    match r.locate o with
    | some x => some (r, x)
    | none => findRow o t

/-- The register at a dword offset of BAR0; none where R924 reserves the offset. -/
def regAt (o : Nat) : Option (RegRow × Nat × Nat × Bool) := findRow o regRows

/-- The fields of one dword: those of its half, renumbered from bit 0. A field that crosses the
halves of a pair is cut at bit 32. -/
def dwordFields (r : RegRow) (high : Bool) : List Fld :=
  if high then
    r.flds.filterMap fun f =>
      if f.hi < 32 then none
      else if f.lo < 32 then some ⟨f.hi - 32, 0, f.ty, f.rst / 2 ^ (32 - f.lo), f.expert⟩
      else some ⟨f.hi - 32, f.lo - 32, f.ty, f.rst, f.expert⟩
  else
    r.flds.filterMap fun f =>
      if 32 ≤ f.lo then none
      else some ⟨min f.hi 31, f.lo, f.ty, f.rst % 2 ^ (min f.hi 31 + 1 - f.lo), f.expert⟩

/-- The value a list of fields resets to. -/
def fieldsReset (fs : List Fld) : Nat := fs.foldl (fun v f => putBits v f.hi f.lo f.rst) 0

/-- R947: the whole-dword reset value at an offset; 0 at a reserved one. CL_ID holds its
cluster's number in bits [2:0] (R207). -/
def regReset (o : Nat) : Word32 :=
  match regAt o with
  | none => 0
  | some (r, _, k, high) =>
    BitVec.ofNat 32 (fieldsReset (dwordFields r high) + (if r.off = Reg.CL_ID then k else 0))

end Sys2Proof.Machine
end

