-- ==== Sys2Proof/Machine/Types.lean ====
section
/-! DEFINITION. The plain-data parts of the compute and front-end state: memories, tiles,
descriptor registers, operations in the unit queues, token counters, streams, ring entries,
execution slots, charts and handle generations (chapters 02 to 13). -/

namespace Sys2Proof.Machine

/-- R599: the fault codes. -/
inductive FaultCode where
  | opInvalid | expertLocked | descInvalid | handleInvalid | handleDomain | handleRights
  | handleBounds | addrInvalid | atomicInvalid | gatherIndex | tileDenied | slotMismatch
  | tileInvalid | shiftMixed | accRange | accOverflow | shaperInvalid | topkInvalid
  | marginMismatch | tokenOverflow | eccUncorr | pennantPoison | cutMismatch
  | cbInvalid | sealSize | chartAbsent | launchInvalid | timeUnsync | contextInvalid | hang
  | entryInvalid | deviceInternal
  deriving DecidableEq, Repr

/-- R599: the 16-bit code of each fault. -/
def FaultCode.code : FaultCode → Nat
  | .opInvalid => 0x01 | .expertLocked => 0x02 | .descInvalid => 0x03 | .handleInvalid => 0x04
  | .handleDomain => 0x05 | .handleRights => 0x06 | .handleBounds => 0x07
  | .addrInvalid => 0x08 | .atomicInvalid => 0x09 | .gatherIndex => 0x0A | .tileDenied => 0x0B
  | .slotMismatch => 0x0C | .tileInvalid => 0x0D | .shiftMixed => 0x0E | .accRange => 0x0F
  | .accOverflow => 0x10 | .shaperInvalid => 0x11 | .topkInvalid => 0x12
  | .marginMismatch => 0x13 | .tokenOverflow => 0x14 | .eccUncorr => 0x15
  | .pennantPoison => 0x16 | .cutMismatch => 0x17 | .cbInvalid => 0x20 | .sealSize => 0x21
  | .chartAbsent => 0x22 | .launchInvalid => 0x23 | .timeUnsync => 0x24
  | .contextInvalid => 0x25 | .hang => 0x26 | .entryInvalid => 0x30 | .deviceInternal => 0x31

/-- A memory: its listed bytes, and what the others read as: 0, or the free bytes of one
serial number (contents the spec calls undefined). -/
structure Mem where
  free : Option Nat
  cells : SMap Byte
  deriving DecidableEq, Repr

/-- What an unlisted byte of a memory reads as. -/
def Mem.dflt (m : Mem) (a : Nat) : Byte :=
  match m.free with
  | none => 0
  | some n => Config.freeByte n a

/-- The canonical form of a memory: addresses strictly rising, no byte listed at its default. -/
def Mem.wf (m : Mem) : Bool := SMap.wf m.dflt m.cells

/-- One byte of a memory. -/
def Mem.read (m : Mem) (a : Nat) : Byte := SMap.get m.dflt m.cells a

/-- Write one byte of a memory, keeping the canonical form. -/
def Mem.write (m : Mem) (a : Nat) (b : Byte) : Mem :=
  { m with cells := SMap.set m.dflt m.cells a b }

/-- Every byte 0, none listed. -/
def Mem.zero : Mem := ⟨none, []⟩

/-- R76: a cell's stored value, shift and inexact bit in one slot. -/
structure CellVal where
  v : Int
  s : Nat
  i : Bool
  deriving DecidableEq, Repr

/-- R186: the cleared cell. -/
def CellVal.zero : CellVal := ⟨0, 0, false⟩

/-- One accumulator slot of a tile: its cells by number and the metadata it has recorded
(R183). `junk` holds the serial of the undefined contents after R185 or R201; `fmt` the recorded
format (A16: true), none while nothing has been written to the slot since reset (R205). -/
structure TileSlot where
  junk : Option Nat
  fmt : Option Bool
  cells : SMap CellVal
  fold : Nat
  originI : Nat
  originJ : Nat
  rows : Nat
  cols : Nat
  tag : Nat
  deriving DecidableEq, Repr

/-- R186: a slot after reset. -/
def TileSlot.init : TileSlot := ⟨none, none, [], 0, 0, 0, 64, 64, 0⟩

/-- R75, R185: a tile's file: A16 or A32 mode and its slots by number. -/
structure Tile where
  a16 : Bool
  slots : SMap TileSlot
  deriving DecidableEq, Repr

/-- R186: a tile after reset. -/
def Tile.init : Tile := ⟨false, []⟩

/-- R403, R398: a valid descriptor register: the table entry with its adjustments applied. -/
structure DReg where
  ref : Nat
  /-- Relocated addresses of REF and EXP_REF (R405). -/
  uda : Nat
  expUda : Nat
  rows : Nat
  cols : Nat
  rowStride : Nat
  originR : Nat
  originC : Nat
  tag : Nat
  elem : Nat
  block64 : Bool
  eRef : Int
  expRef : Nat
  repBytes : Int
  repRow : Int
  repCol : Int
  repExp : Int
  expStride : Nat
  deriving DecidableEq, Repr

/-- R102: a seed set and sampling counter. -/
structure Gen where
  operand : Word64
  mask : Word64
  noise : Word64
  round : Word64
  ctr : Word64
  deriving DecidableEq, Repr

/-- R128: a stream created without seeds. -/
def Gen.zero : Gen := ⟨0, 0, 0, 0, 0⟩

/-- The unit queue an operation occupies (R451). -/
inductive UnitId where
  | mover (m : Nat)
  | egress
  | tiles (mask : Nat)
  deriving DecidableEq, Repr

/-- Where one tile stands in a matmul-type operation (R161, R180, R218). -/
structure TileRun where
  tile : Nat
  /-- Its file has been prepared (R184, R185, R220), and doing so switched the file's mode. -/
  begun : Bool
  switched : Bool
  /-- Next round of steps: under RESIDENT each round is one step of every block in flight, under
  STREAMED rounds run through passes, then local blocks, then the steps of a block pass. -/
  pos : Nat
  /-- The block in flight whose turn it is (R156). -/
  turn : Nat
  /-- First round after the last checkpoint (R218, R224). -/
  ckpt : Nat
  /-- Slots and cells that overflowed in the current segment (R228). -/
  ovf : List (Nat × Nat)
  /-- Local blocks whose spill is due, ascending (R223). -/
  due : List Nat
  /-- Local blocks that have made their first spill (R219). -/
  spilled : List Nat
  /-- Cycles from the formation of the first step after the checkpoint to that of the last step
  issued, and to that of the next one (R230). -/
  formed : Nat
  nextForm : Nat
  /-- Chunk spills made under margin stop (R286). -/
  chunks : Nat
  /-- What the tile's two feeders hold of operands A and B (R166): the signs and magnitudes of a group
  of terms, by local block, free index and group. -/
  feedA : SMap (List (Bool × Nat))
  feedB : SMap (List (Bool × Nat))
  /-- Every step of the tile is committed and its final spills are made. -/
  done : Bool
  deriving DecidableEq, Repr

/-- A matmul-type operation that has begun: its tiles, the interior boundaries its margin group has
decided (R287), the position at which the group stopped (R288, L when no boundary stopped it), and
the stream length in force (R845). -/
structure MatRun where
  tiles : List TileRun
  decided : Nat
  stopAt : Option Nat
  len : Nat
  deriving DecidableEq, Repr

/-- An operation in a unit queue, with the descriptor registers it captured (R406). -/
structure OpRec where
  slot : Nat
  node : Nat
  ofs : Nat
  word : Nat
  unit : UnitId
  drs : SMap (Option DReg)
  /-- Its inline reference's address (TILE_READ, TILE_WRITE). -/
  uda : Nat
  rep : Nat
  /-- The wait of the repetition in progress has been satisfied (R363). -/
  waited : Bool
  /-- The repetition has begun its work. -/
  begun : Bool
  /-- Every access of the repetition has been issued. -/
  issued : Bool
  /-- One of its host requests waits for Bus Master Enable or a tag, and the bytes it will then have
  moved (R610, R676). -/
  hostWait : Bool
  owed : Nat
  mat : Option MatRun
  /-- Bytes that remote reads of this repetition have returned. -/
  fetched : SMap (Option Byte)
  /-- Writes to be made once every access of the repetition is performed (R272, R301). -/
  after : List (Nat × List Byte)
  deriving DecidableEq, Repr

/-- R353: a post on the token network: the slot and node it comes from, the node, token and count it
goes to, and the offset, word and repetition of the operation that made it (R607). -/
structure Post where
  slot : Nat
  src : Nat
  node : Nat
  tok : Nat
  n : Nat
  ofs : Nat
  word : Nat
  rep : Nat
  deriving DecidableEq, Repr

/-- R348, R388: a physical token counter; `served`: one more than the cycle in which it last
satisfied a wait, 0 for none (R362). -/
structure Tok where
  alloc : Bool
  slot : Nat
  token : Nat
  value : Nat
  served : Nat
  deriving DecidableEq, Repr

/-- A counter not allocated. -/
def Tok.free : Tok := ⟨false, 0, 0, 0, 0⟩

/-- What blocks a lane's sequencer (R360, R431, R493). -/
inductive Block where
  /-- TOKEN_WAIT or the wait step of a BARRIER: token number and amount. -/
  | token (tok n : Nat)
  /-- PENNANT_WAIT: the pennant's UDA, the target, TOLERATE_POISON, the fabric time it became
  active, and whether it holds one of the 1024 watches. -/
  | pennant (uda target : Nat) (tolerate : Bool) (since : Nat) (watch : Bool)
  /-- CHECKPOINT stopped for a pending cut save: CP_ID and LANES (R492). -/
  | checkpoint (cp lanes : Nat)
  /-- PENNANT_SIGNAL not yet performed: its remote request has not been answered (R430). -/
  | signal (uda : Nat)
  /-- The unit queue that the next operation needs is full (R370). -/
  | room
  deriving DecidableEq, Repr

/-- R415: an operation that G0 has fetched and relocated ahead of its issue: its byte offset, its
word, the registers the lane holds after it, and its inline reference's address. -/
structure Ready where
  ofs : Nat
  word : Nat
  drs : SMap (Option DReg)
  uda : Nat
  deriving DecidableEq, Repr

/-- One lane of a buffer in a slot: the byte offset of its next operation, its descriptor
registers, its latest checkpoint and what blocks it; and, in the staging SRAM, the piece of the lane
that G0 fetched last, with its byte offset, and the operations relocated ahead of issue (R415). -/
structure Lane where
  pc : Nat
  drs : SMap (Option DReg)
  cp : Nat
  block : Option Block
  /-- The word of the operation that blocks it. -/
  word : Nat
  piece : Option (Nat × List Byte)
  ahead : List Ready
  deriving DecidableEq, Repr

/-- A lane about to issue its first operation (R403). -/
def Lane.start (pc : Nat) : Lane :=
  { pc := pc, drs := [], cp := 0, block := none, word := 0, piece := none, ahead := [] }

/-- Details of a fault, as the record shows them (R607). -/
structure FaultInfo where
  code : FaultCode
  lane : Nat
  opOfs : Nat
  rep : Nat
  cp : Nat
  word : Nat
  ref : Nat
  addr : Nat
  detail : Nat
  ftime : Nat
  incarnation : Nat
  secondary : Nat
  secCode : Nat
  /-- The response that its domain had when it was raised is Reset (R601, R604). -/
  reset : Bool
  /-- The cycle in which it was raised, and the lanes that have faulted (R632). -/
  cycle : Nat
  lanes : List Nat
  /-- Lane and code of each further fault of that cycle. -/
  peers : List (Nat × Nat)
  deriving DecidableEq, Repr

/-- Why a running entry is being stopped (R613). With a fault: the engine summaries, the age in
µs of its oldest unmet pennant wait, and the dump of depth 2, at the moment it was stopped (R607 to
R609). -/
inductive StopWhy where
  | fault (f : FaultInfo) (engines : List Nat) (age : Nat) (dump : List Byte)
  | abort
  deriving DecidableEq, Repr

/-- R513: a wait of an entry. -/
structure WaitRec where
  addr : Nat
  target : Nat
  met : Bool
  /-- Fabric time at which it became active. -/
  since : Option Nat
  /-- It holds one of the front end's 1024 watches (R538). -/
  watch : Bool
  deriving DecidableEq, Repr

/-- R516: a signal of an entry. -/
structure SigRec where
  addr : Nat
  max : Bool
  value : Nat
  deriving DecidableEq, Repr

/-- A command buffer as the device has read it: its header's fields (R390), and for a sealed
buffer its image and the handle entries it was relocated against (R419, R423); for a bound chart
segment the substitutions of R567 as (word offset, REF_ADD, captured value). -/
structure BufInfo where
  uda : Nat
  size : Nat
  direct : Bool
  lanes : Nat
  nCl : Nat
  nFe : Nat
  sampleAdvance : Nat
  descOfs : Nat
  descCount : Nat
  laneOfs : List Nat
  /-- Base UDA and length of the sealed image, and its bytes as sealed. -/
  sealAt : Option (Nat × Nat)
  image : List Byte
  /-- The sealed image's bytes as they were written to the seal area: references replaced by their
  addresses, descriptors marked (R419). -/
  written : List Byte
  handles : List (Nat × List Byte)
  subst : List (Nat × Bool × Word64)
  /-- The captured value of every parameter the segment names (R582, R626). -/
  params : List (Nat × Word64)
  /-- The elastic level captured at mapping or binding (R845). -/
  elastic : Nat
  deriving DecidableEq, Repr

/-- What a launch holds (R580 to R583). -/
structure Launch where
  chart : Nat
  version : Nat
  nseg : Nat
  seg : Nat
  args : List Word64
  /-- Bound segments after the one in progress. -/
  ahead : List BufInfo
  /-- The parameters that the segments bound so far name (R590). -/
  named : List Nat
  /-- Hot patches that came after a segment naming a patched parameter was bound: the patched
  parameters (R590). -/
  hot : List (List Nat)
  lanes : Nat
  nCl : Nat
  nFe : Nat
  deriving DecidableEq, Repr

/-- A restored cut target's saved state, to be loaded when it is mapped (R629): the image and
the state area as read. -/
structure Restored where
  image : List Byte
  area : List Byte
  bufR : Nat
  deriving DecidableEq, Repr

/-- What an admitted stream-ordered entry is (R519). -/
inductive EKind where
  | submit
  | launch (l : Launch)
  | waitOnly
  | signalOnly
  /-- RE_SAVE: image, area, CFLAGS, and the target of a pending cut (R621, R622). -/
  | save (image area : Nat) (cflags : Nat) (target : Option Nat) (gen : Gen) (written : Bool)
  /-- RE_RESTORE: image, BUF_R, and what was read of the image at admission (R628). -/
  | restore (image bufR : Nat) (img : List Byte)
  deriving DecidableEq, Repr

/-- An admitted stream-ordered entry that has not committed (R521). -/
structure Entry where
  idx : Nat
  stream : Nat
  kind : EKind
  tolerate : Bool
  notBefore : Option Nat
  waits : List WaitRec
  sigs : List SigRec
  /-- Extension and argument blocks held in staging (R528, R579). -/
  ext : Nat
  buf : Option BufInfo
  gen : Gen
  /-- Handle generation it was admitted under (R413). -/
  hgen : Nat
  /-- A stream fault raised at admission, taken when the entry becomes head (R600). -/
  fault : Option FaultInfo
  active : Bool
  /-- Fabric time has reached NOT_BEFORE (R547). -/
  due : Bool
  prefetched : Bool
  /-- Its lanes as prefetch holds them in the staging SRAM (R533). -/
  staged : List (Nat × Lane)
  restored : Option Restored
  deriving DecidableEq, Repr

/-- R529: a created stream. `destroy` holds the signals of a pending DESTROY. -/
structure StreamRec where
  created : Bool
  prio : Nat
  domain : Nat
  gen : Gen
  isolated : Bool
  lastMap : Nat
  destroy : Option (List SigRec)
  /-- The stream-ordered entry admitted last (R622). -/
  lastIdx : Option Nat
  deriving DecidableEq, Repr

/-- R529: a stream that is FREE. -/
def StreamRec.free : StreamRec := ⟨false, 0, 0, Gen.zero, false, 0, none, none⟩

/-- An execution slot that holds a buffer: the entry, its lanes by node (8 is the front end),
and, once it is being stopped, why. -/
structure ExecSlot where
  stream : Nat
  entry : Nat
  lanes : List (Nat × Lane)
  stop : Option StopWhy
  /-- A cut image has been taken and its writes are in flight: the save entry's index. -/
  cutting : Option Nat
  deriving DecidableEq, Repr

/-- R610, R611: a slot's progress counters, the last sample of them and the run of still
samples. -/
structure Prog where
  ops : Nat
  cyc : Nat
  bytes : Nat
  tokens : Nat
  last : List Nat
  still : Nat
  deriving DecidableEq, Repr

/-- Counters after reset. -/
def Prog.zero : Prog := ⟨0, 0, 0, 0, [], 0⟩

/-- R549, R550: a handle generation: its number, the shadow copy it occupies, the base of the
copy and its entries. -/
structure HandleGen where
  gen : Nat
  copy : Nat
  base : Nat
  count : Nat
  deriving DecidableEq, Repr

/-- A handle-table copy in progress at admission (R549). -/
structure HandleCopy where
  copy : Nat
  base : Nat
  count : Nat
  src : Nat
  sigs : List SigRec
  /-- Made by an RE_HANDLE_SYNC (true) or implicitly by a first RE_SUBMIT or RE_LAUNCH. -/
  sync : Bool
  deriving DecidableEq, Repr

/-- R575 to R577: a version of a chart: its number, where its parameter table lies, where each
segment lies, and its retire pennant. -/
structure ChartVer where
  ver : Nat
  paramUda : Nat
  segUda : List Nat
  retire : Nat
  deriving DecidableEq, Repr

/-- R571: a chart that is not FREE. -/
structure ChartRec where
  used : Bool
  dropping : Bool
  current : Nat
  image : Nat
  nseg : Nat
  nparam : Nat
  narg : Nat
  nreloc : Nat
  relocUda : Nat
  patchable : List Bool
  lanes : Nat
  nCl : Nat
  nFe : Nat
  vers : List ChartVer
  /-- Signals of an RE_CHART_DROP, issued when the ID becomes FREE (R583). -/
  dropSigs : List SigRec
  dropPoison : Bool
  deriving DecidableEq, Repr

/-- R571: a chart ID that is FREE. -/
def ChartRec.free : ChartRec :=
  ⟨false, false, 0, 0, 0, 0, 0, 0, 0, [], 0, 0, 0, [], [], false⟩

/-- Signals held back until a condition holds: the device-level entries whose signals are not
issued at admission (R519, R550, R615, R785). -/
inductive SigWhen where
  /-- No generation before this one is live (R550). -/
  | gensRetired (gen : Nat)
  /-- The poisoned signals of these entries have been issued (R615), and the remote writes of the
  result word have ended (R524). -/
  | aborted (entries tags : List Nat)
  /-- The next settle has written the host map (R785). -/
  | settled
  /-- These remote requests have been performed or have failed (R785); those of a result word, which
  is written before the signals are issued (R524, R818). -/
  | fenced (tags : List Nat)
  deriving DecidableEq, Repr

/-- Signals held back, their condition, and whether they are issued poisoned. -/
structure PendSig where
  whenDone : SigWhen
  sigs : List SigRec
  poison : Bool
  deriving DecidableEq, Repr

/-- The ring's own state beside its registers (R503 to R512, R526). -/
structure Ring where
  /-- The set-up passed its checks at the last enable (R503), and a read error has not stopped
  admission since (R559). -/
  started : Bool
  halted : Bool
  /-- The status line is kept up to date; where it lies; one more write is due after EN was
  cleared (R504); and its fields but for FTIME as last written (R509). -/
  lineLive : Bool
  lineAt : Nat
  closing : Bool
  shown : List Nat
  wseq : Nat
  commits : Nat
  errCount : Nat
  lastErr : Nat
  faultSeq : Nat
  /-- Fault records whose writes have been issued and not been reported complete (R634). -/
  records : Nat
  /-- A poll is under way, and its doorbell read is outstanding (R511). -/
  pollOpen : Bool
  pollOut : Bool
  /-- The adaptive period is in force, consecutive polls without news, and whether the poll under
  way has found news (R512). -/
  adapt : Bool
  quiet : Nat
  news : Bool
  /-- Round-robin place among the watched host pennants (R511). -/
  rr : Nat
  /-- Host pennant reads outstanding, with whether they belong to the poll, and the words last
  read. -/
  penReads : List (Nat × Bool)
  penSeen : List (Nat × Nat)
  /-- Entries of the entry read outstanding, and the next entry to be read. -/
  reading : Nat
  readHead : Nat
  /-- The last entry read was not yet written (R526). -/
  stalled : Bool
  /-- Entries read and matched, waiting for admission: absolute index and 64 bytes. -/
  arrived : List (Nat × List Byte)
  /-- The entry at the front waits for seal space (R422). -/
  sealing : Option Entry
  /-- Bytes that the entry at the front has fetched from remote memory, and whether a fetch has
  failed (R523). -/
  fetched : SMap (Option Byte)
  fetchBad : Bool
  deriving DecidableEq, Repr

/-- The ring after reset. -/
def Ring.init : Ring :=
  { started := false, halted := false, lineLive := false, lineAt := 0, closing := false,
    shown := [], wseq := 0, commits := 0, errCount := 0, lastErr := 0, faultSeq := 0,
    records := 0,
    pollOpen := false, pollOut := false, adapt := false, quiet := 0, news := false, rr := 0,
    penReads := [], penSeen := [], reading := 0, readHead := 0, stalled := false, arrived := [],
    sealing := none, fetched := [], fetchBad := false }

/-- R312, R334, R335: what the check bits of a stored word will find. -/
inductive EccErr where
  | none
  /-- One wrong bit, at this bit of the 72-bit codeword. -/
  | ce (bit : Nat)
  /-- More than one wrong bit, at these bits. -/
  | ue (bits : List Nat)
  deriving DecidableEq, Repr

/-- A word that the code cannot correct. -/
def EccErr.isUe : EccErr → Bool
  | .ue _ => true
  | _ => false

/-- R920, R927, R928: an access path's snapshot (pair, high half) and staging (pair, low half). -/
structure PathState where
  snap : Option (Nat × Word32)
  stage : Option (Nat × Word32)
  deriving DecidableEq, Repr

/-- Nothing captured, nothing staged. -/
def PathState.init : PathState := ⟨none, none⟩

/-- The operations a remote request carries (R767). -/
inductive RmtKind where
  | read | write | a48Add | sp16Add | pennantWrite | pennantMax
  deriving DecidableEq, Repr

/-- What a remote request is for at its source. -/
inductive RmtUse where
  /-- An access of an operation: slot, node, byte offset, and whether it is a write or atomic. -/
  | op (slot node ofs : Nat)
  /-- A signal of a lane's PENNANT_SIGNAL. -/
  | laneSignal (slot node : Nat)
  /-- A signal of an entry of this stream (R546). -/
  | signal (stream : Nat)
  /-- A read of a pennant for the waits on it. -/
  | pennant (uda : Nat)
  /-- A read for the entry in admission. -/
  | front
  /-- The device's own write (telemetry, watermark, event pennants). -/
  | device
  deriving DecidableEq, Repr

/-- A remote request that has no final response yet (R767 to R771). -/
structure RmtReq where
  tag : Nat
  dst : Nat
  off : Nat
  kind : RmtKind
  len : Nat
  data : List Byte
  poison : Bool
  pseq : Nat
  epoch : Nat
  /-- Incarnation of the target when it was issued. -/
  inc : Nat
  uda : Nat
  use : RmtUse
  deriving DecidableEq, Repr

/-- R764: a packet in the device's router: the port it came in on (none: this device's own), and
its fields. -/
structure Pkt where
  from? : Option Nat
  /-- An SP16 atomic add, which R765 gives no packet type (log entry 31). -/
  sp16 : Bool
  /-- In an ACK: the words of the add it answers that saturated (R246, R252). -/
  sat : Nat
  ptype : Nat
  nflags : Nat
  dst : Nat
  src : Nat
  dlen : Nat
  epoch : Nat
  pseq : Nat
  off : Nat
  inc : Nat
  tag : Nat
  status : Nat
  hops : Nat
  data : List Byte
  deriving DecidableEq, Repr

/-- R768: a pair's sequence at the source (next PSEQ) or at the target (NEXT), with the
incarnation it was counted under. -/
structure PairSeq where
  next : Nat
  inc : Nat
  deriving DecidableEq, Repr

/-- What the block sends out, in order: the model's own record of it (log entry 6). -/
inductive Outbound where
  /-- A posted write to host memory: 64-bit address format (R657), IOVA, Relaxed Ordering, bytes. -/
  | hostWrite (long : Bool) (iova : Nat) (relaxed : Bool) (bytes : List Byte)
  /-- A read request to host memory: 64-bit address format (R657), IOVA and length. -/
  | hostRead (long : Bool) (iova len : Nat)
  /-- An MSI-X message on a vector: the posted write of the table entry's data to its address. -/
  | msix (vec : Nat) (long : Bool) (addr data : Nat)
  /-- An error message: 0 correctable, 1 non-fatal, 2 fatal (R664). -/
  | errMsg (kind : Nat)
  /-- A completion of an inbound PCIe request: successful, poisoned bits by completion, bytes. -/
  | completion (ok : Bool) (poisoned : List Bool) (bytes : List Byte)
  /-- Request Retry Status. -/
  | retryStatus
  /-- An unsupported-request completion. -/
  | unsupported
  /-- The value a register read returned on a path. -/
  | regRead (path : Path) (ofs value : Nat)
  /-- A frame on a Cunery port: its kind and bytes. -/
  | frame (port kind : Nat) (bytes : List Byte)
  /-- A burst of TS blocks on a port. -/
  | tsBurst (port : Nat)
  /-- A command on the flash interface: opcode, address, bytes. -/
  | flash (op addr : Nat) (bytes : List Byte)
  /-- A PMBus transaction: command code and word. -/
  | pmbus (write : Bool) (cmd word : Nat)
  /-- Bytes the SMBus target returned. -/
  | smbus (bytes : List Byte)
  /-- A pulse on the pins whose function is FSB_SYNC. -/
  | syncPulse (pins : List Nat)
  /-- A level driven on a named pin. -/
  | pin (name : String) (level : Bool)
  /-- A DRAM maintenance command on a channel. -/
  | dram (what : String) (channel : Nat)
  /-- Bits shifted out on TDO from a register of this many cells. -/
  | tdo (cells bits : Nat)
  deriving DecidableEq, Repr

/-- What started the reset sequence of R617 (R670, R674). -/
inductive ResetCause where
  | fault | flr | hotReset | linkDisable | dlDown | d3hot
  deriving DecidableEq, Repr

/-- R648, R649: configuration-space dwords that do not read 0 at reset. The layout of fields the
spec does not list is PCIe's (log entry 20). -/
def cfgReset (o : Nat) : Word32 :=
  match o with
  | 0x00 => 0x5E181F6B
  | 0x04 => 0x00100000
  | 0x08 => 0x120000B1
  | 0x10 => 0x00000004
  | 0x18 => 0x0000000C
  | 0x2C => 0x00001F6B
  | 0x34 => 0x00000040
  | 0x40 => 0x00035001
  | 0x50 => 0x001F7011
  | 0x54 => 0x00002000
  | 0x58 => 0x00003000
  | 0x70 => 0x00020010
  | 0x74 => 0x100087E2
  | 0x78 => 0x00002010
  | 0x7C => 0x00417885
  | 0x94 => 0x0003001F
  | 0x9C => 0x0000003E
  | 0xA0 => 0x00000005
  | 0x100 => 0x14820001
  | 0x108 => 0x00000000
  | 0x10C => 0x00462030
  | 0x114 => 0x0000E000
  | 0x148 => 0x15810003
  | 0x158 => 0x18010019
  | 0x164 | 0x168 | 0x16C | 0x170 => 0x7F007F00
  | 0x180 => 0x19010025
  | 0x184 => 0x00000001
  | 0x190 => 0x1C010026
  | 0x1B0 | 0x1B4 => 0xF0F0F0F0
  | 0x1C0 => 0x2001002A
  | 0x1E0 | 0x1E4 => 0xF0F0F0F0
  | 0x200 => 0x00010027
  | 0x208 | 0x20C | 0x210 | 0x214 | 0x218 | 0x21C | 0x220 | 0x224 => 0x00009C38
  | _ => 0

/-- MSI-X table after reset: every vector masked (R947). -/
def msixReset (d : Nat) : Word32 := if d % 4 = 3 then 1 else 0

end Sys2Proof.Machine
end

