-- ==== Sys2Proof/Machine/Parts.lean ====
section
/-! DEFINITION. The plain-data parts of the state around the compute core: Cunery ports
(chapter 15), the fabric's database and map (chapter 16), flash updates (chapter 17), changes of
operating point and the SMBus target (chapter 18), and parked pins and the TAP (chapter 19). -/

namespace Sys2Proof.Machine

/-- What the last HELLO received on a port told (R743), with its arrival in own fabric time. -/
structure HelloRec where
  uid : Nat
  inc : Nat
  tsend : Nat
  trecv : Nat
  bound : Nat
  hops : Nat
  root : Nat
  deriving DecidableEq, Repr

/-- A frame kept until acknowledged (R696): SEQ, virtual channel, payload. -/
structure RetryRec where
  seq : Nat
  vc : Nat
  payload : List Byte
  deriving DecidableEq, Repr

/-- R710 to R726: a Cunery port beside its registers. -/
structure Port where
  /-- Own training generation (R720), and the peer's learned at the last INIT (R694). -/
  tgen : Nat
  peerTgen : Nat
  /-- Next SEQ to send (R696). -/
  txSeq : Nat
  /-- E (R698), whether the receive sequence state is held (RX_VALID, R724), and whether the last
  INIT sent said so. -/
  rxE : Nat
  rxValid : Bool
  sentValid : Bool
  retry : List RetryRec
  /-- A NACK has been sent since E last advanced. -/
  nacked : Bool
  /-- Per virtual channel: credits available, the last CR value seen, credits released since the
  last INIT, and credits the receive buffer holds (R703). -/
  credit : List Nat
  crSeen : List Nat
  rel : List Nat
  /-- Management packets handed to the link that wait for credit or retry space. -/
  mgtq : List (List Byte)
  /-- The check interval (R708): a good frame was received; frames of the retry buffer that were
  in it at the interval's start; the run of misses. -/
  good : Bool
  old : Nat
  misses : Nat
  /-- A (R707), in units of 10 ns. -/
  ackLimit : Nat
  /-- Frames at the end of the retry buffer still to be resent after a resuming INIT (R725). -/
  todo : Nat
  /-- The last good INIT of the peer's current TGEN (R719), and whether one with PEER_SEEN came. -/
  init : Option (List Byte)
  gotSeen : Bool
  /-- The training under way is a fast one (R710, FAST_TRAIN). -/
  fast : Bool
  /-- When training began (device time). -/
  began : Nat
  /-- Rate and width of the last training (R714). -/
  rate : Nat
  width : Nat
  hello : Option HelloRec
  deriving DecidableEq, Repr

/-- A port after reset. -/
def Port.init₀ : Port :=
  { tgen := 0, peerTgen := 0, txSeq := 0, rxE := 0, rxValid := false, sentValid := false,
    retry := [], nacked := false, credit := [0, 0, 0], crSeen := [0, 0, 0], rel := [0, 0, 0],
    mgtq := [], good := false, old := 0, misses := 0, ackLimit := 200, todo := 0,
    init := none, gotSeen := false, fast := false, began := 0, rate := 0, width := 0,
    hello := none }

/-- R744: one port's entry of an advert. -/
structure AdvPort where
  pstate : Nat
  peerPort : Nat
  peerUid : Nat
  deriving DecidableEq, Repr

/-- R744: an advert as the topology database holds it. `via` is the port it came in on (none: own),
`dup` marks the second advert of R754. -/
structure Advert where
  uid : Nat
  inc : Nat
  aseq : Nat
  epoch : Nat
  addr : Nat
  fw : Nat
  remap : Bool
  origin : Nat
  mapEpoch : Nat
  ports : List AdvPort
  via : Option Nat
  dup : Bool
  deriving DecidableEq, Repr

/-- R782: an entry of the host fabric map: the device that holds a coordinate, LIVE or LOST. -/
structure MapEnt where
  addr : Nat
  uid : Nat
  inc : Nat
  live : Bool
  changed : Nat
  deriving DecidableEq, Repr

/-- A live link as seen from one end (R746). -/
structure LiveLink where
  port : Nat
  peer : Nat
  peerPort : Nat
  deriving DecidableEq, Repr

/-- A device of the component as the last settle left it: what routing needs (R757 to R760). -/
structure Node where
  uid : Nat
  addr : Option Nat
  level : Nat
  links : List LiveLink
  deriving DecidableEq, Repr

/-- R747 to R785: the fabric's own state beside its registers. -/
structure Fabric where
  /-- The topology database, in ascending UID, and own ASEQ. -/
  db : List Advert
  aseq : Nat
  /-- A 4097th UID was heard (R746). -/
  tooMany : Bool
  /-- The mapping's coordinates, held and reserved (R755, R781). -/
  map : List MapEnt
  /-- UIDs excluded at the last settle (R756). -/
  excluded : List Nat
  /-- The component of the last settle, with its live links and detour tree. -/
  nodes : List Node
  /-- UID of the time root (R775). -/
  root : Nat
  /-- FAB_STATIC as it took effect at the last settle (R795). -/
  static : List Nat
  /-- WSEQ of the host fabric map (R782). -/
  wseq : Nat
  /-- Own next adverts carry REMAP (R785). -/
  remap : Bool
  /-- Target addresses whose PROBE has not been answered (R771). -/
  probing : List Nat
  /-- Consecutive exchanges with a bound of at most 80 ns (R778); TIME_UNSYNC by R778, and by a
  step until the next exchange (R777). -/
  calm : Nat
  unsync : Bool
  stepped : Bool
  /-- Correction being slewed in, and how much of the HELLO period has passed (R777), both in
  units of `State.ftime`. -/
  slew : Int
  slewAt : Nat
  deriving DecidableEq, Repr

/-- The fabric after reset. -/
def Fabric.init : Fabric :=
  { db := [], aseq := 0, tooMany := false, map := [], excluded := [], nodes := [], root := 0,
    static := [], wseq := 0, remap := false, probing := [], calm := 0,
    unsync := false, stepped := false, slew := 0, slewAt := 0 }

/-- R820, R821: what an update is. -/
inductive UpdKind where
  | almanac | firmware | recovery
  deriving DecidableEq, Repr

/-- R820: a command of an update. -/
inductive FlashCmd where
  /-- Erase the 4 KiB sector at this address. -/
  | erase (a : Nat)
  /-- Program bytes within a page. -/
  | program (a : Nat) (l : List Byte)
  /-- Read back and compare. -/
  | readBack (a : Nat) (l : List Byte)
  deriving DecidableEq, Repr

/-- R819: the update in progress: its commands to come, where its result word goes, and what
follows it. -/
structure Update where
  kind : UpdKind
  seq : Nat
  cmds : List FlashCmd
  result : Nat
  sigs : List SigRec
  deriving DecidableEq, Repr

/-- R835: a change of operating point in progress. -/
structure OpChange where
  target : Nat
  faster : Bool
  /-- The idle PLL has locked at the new frequency. -/
  locked : Bool
  /-- Faster: SETTLE_US has passed. -/
  settled : Bool
  /-- Faster: STATUS_WORD has been read without a fault. Slower: the switch has been made. -/
  ok : Bool
  deriving DecidableEq, Repr

/-- R849, R850: a PMBus transaction in progress: a VOUT_COMMAND write or a STATUS_WORD read, its
word, and the retries made. -/
structure PmbTrans where
  write : Bool
  word : Nat
  tries : Nat
  deriving DecidableEq, Repr

/-- R841 to R860: the power management's own state beside its registers. -/
structure Power where
  /-- Dwell count d. -/
  dwell : Nat
  /-- Thermal ceiling, and whether g is held at 8 or above (R853). -/
  thCeil : Nat
  thHold : Bool
  /-- The last sample had Tj at 110 °C or above (R854). -/
  hot : Bool
  /-- The trip's condition holds: two consecutive samples. -/
  hot2 : Bool
  change : Option OpChange
  pmb : Option PmbTrans
  /-- FL_MAX_MHZ in force (R800). -/
  flMax : Nat
  /-- The ceiling held after a failed transaction (R850). -/
  pin : Nat
  /-- The last p values, newest first, at most 100. -/
  hist : List Nat
  /-- Upward crossings of each watermark since reset (R860). -/
  cross : List Nat
  /-- Telemetry snapshot number (R857), and the snapshot writes not yet granted (R330), as UDA and
  bytes. -/
  telem : Nat
  telemQ : List (Nat × List Byte)
  /-- The brake was applied during a change that runs on; the change to OP3 follows it (R856). -/
  brakeDue : Bool
  /-- THERM_N is asserted. -/
  thermN : Bool
  deriving DecidableEq, Repr

/-- Power management after reset. -/
def Power.init : Power :=
  { dwell := 0, thCeil := 0, thHold := false, hot := false, hot2 := false, change := none,
    pmb := none, flMax := 50, pin := 0, hist := [], cross := [0, 0], telem := 0, telemQ := [],
    brakeDue := false, thermN := false }

/-- R862, R863: the SMBus target's window. -/
structure Smb where
  addr : Nat
  data : Nat
  busy : Bool
  inc : Bool
  refused : Bool
  pec : Bool
  deriving DecidableEq, Repr

/-- The window after reset. -/
def Smb.init : Smb := ⟨0, 0, false, false, false, false⟩

/-- R904, R906: a parked pin: the function it had, the level it had at c0, and a write that waits
for the park's end. -/
structure Park where
  old : Nat
  level : Bool
  next : Option Nat
  deriving DecidableEq, Repr

/-- R909: the instruction in force in the TAP, its boundary-scan register and whether the vendor
debug TAP is open (R912). -/
structure Tap where
  ir : Nat
  bscan : Nat
  debug : Bool
  /-- A test instruction drives the balls: 0 none, 1 EXTEST, 2 CLAMP, 3 HIGHZ. -/
  drive : Nat
  deriving DecidableEq, Repr

/-- The TAP after reset: IDCODE selected, nothing driven. -/
def Tap.init : Tap := ⟨0x01, 0, false, 0⟩

end Sys2Proof.Machine
end

