-- ==== Sys2Proof/Machine/State.lean ====
section
/-! DEFINITION. The state of the Zelrus, as plain data; the faults and refusals; and the state
after reset. -/

namespace Sys2Proof.Machine

/-- Why a step stops the model. -/
inductive Fault where
  /-- PERST_N held low for less than 100 µs: the spec gives it no defined effect (R673). Raised
  by PERST_N; safe. -/
  | shortPerst
  deriving DecidableEq, Repr

/-- Why a command has no meaning. -/
inductive Refusal where
  /-- The row has no meaning in this model yet. Raised by an arm of exec; safe. -/
  | notModelled (mnemonic : String)
  deriving DecidableEq, Repr

/-- The whole state of the block. Families by number are sparse maps in canonical form. -/
structure State where
  /-- Waiting commands, first in, first out. -/
  pending : List Instr
  /-- Meridian cycles since PERST_N (the model's own count). -/
  cycle : Nat
  /-- Serial of the next free value (the model's own count, log entry 3). -/
  fresh : Nat
  /-- Set-up registers by BAR0 offset (R947), each dword at its reset value unless listed. -/
  regs : SMap Word32
  /-- Post-almanac values of the registers (R935), kept at READY. -/
  postAlm : SMap Word32
  /-- The access paths' snapshots and stagings (R920). -/
  bar0 : PathState
  smbPath : PathState
  fePath : PathState
  /-- Local DRAM by usable offset, and the plate store by region offset (R304). -/
  dram : Mem
  plate : Mem
  /-- Stored words with wrong bits, by UDA / 8 (R312). -/
  ecc : SMap EccErr
  /-- Lines queued for a correction write-back, by UDA / 64 (R334). -/
  corrQ : List Nat
  /-- Next scrub row of each bank (0 to 383) and line of each DRAM channel (384 to 399). -/
  scrubRow : SMap Nat
  /-- Banks that have completed a pass since MEM_SCRUB_PASSES last rose. -/
  scrubDone : List Nat
  /-- Tiles by 16 × cluster + tile (R25). -/
  tiles : SMap Tile
  /-- Operations in the unit queues of all clusters, in issue order (R370). -/
  ops : List OpRec
  /-- Posts on the token network, in issue order (R373). -/
  posts : List Post
  /-- Token counters by 64 × node + number; node 8 is the front end (R348). -/
  toks : SMap Tok
  ring : Ring
  streams : SMap StreamRec
  /-- Admitted stream-ordered entries not yet committed, in ring order. -/
  entries : List Entry
  slots : SMap (Option ExecSlot)
  /-- MAP_SEQ (R531). -/
  mapSeq : Nat
  prog : SMap Prog
  /-- Stream faults raised and not yet responded to: entry index and details (R600). -/
  faults : List (Nat × FaultInfo)
  /-- Handle generations held, oldest first (R549). -/
  gens : List HandleGen
  hcopy : Option HandleCopy
  charts : SMap ChartRec
  pendSigs : List PendSig
  /-- Fabric time in units of 1/36000 ns (R775, R777). -/
  ftime : Nat
  rmt : List RmtReq
  nextTag : Nat
  /-- Packets in the router (R757), and those held while the fabric settles (R750). -/
  router : List Pkt
  pairs : SMap PairSeq
  tgts : SMap PairSeq
  /-- Sent to the outside, newest last; and what waits for Bus Master Enable (R676). -/
  out : List Outbound
  held : List Outbound
  /-- PCI configuration space by dword offset (R648, R649). -/
  cfg : SMap Word32
  /-- The MSI-X table by dword number (32 vectors of 4 dwords), its pending bits, and the vectors
  with a message requested and not sent (R667). -/
  msixTab : SMap Word32
  pba : Nat
  msixReq : List Nat
  /-- A reset of R617 or R670 in progress: what started it (R678). -/
  resetPend : Option ResetCause
  /-- Device time since PERST_N, in the units of `ftime`, never corrected. -/
  now : Nat
  /-- Cunery ports (R685). -/
  ports : SMap Port
  fab : Fabric
  /-- The flash on the board as BOOT_START found it and updates have changed it (R796). -/
  flash : Option FlashPart
  /-- Almanac copy applied at boot, as read (R822). -/
  copy : List Byte
  update : Option Update
  /-- Blown SVN_FLOOR fuses (R811), and whether a commit is in progress. -/
  svnFloor : Nat
  svnBusy : Bool
  pwr : Power
  smb : Smb
  /-- Pins being switched (R904), a PIN_MUX write that waits for PMBus to be idle (R907), and the
  level of each MFP ball. -/
  parks : SMap (Option Park)
  muxWait : Option (Nat × Nat)
  balls : Nat
  tap : Tap
  /-- PERST_N is low. -/
  perst : Bool
  /-- SC commands whose bit was written again while one ran (R150, R932): 0 the self-test, 1
  recovery, 2 the SVN commit. -/
  rearm : List Nat
  /-- The self-test in progress: FUNC, key and input (R150). -/
  ephRun : Option (Nat × Word64 × Word64)
  /-- The seal area in force (R441). -/
  sealBase : Nat
  sealSize : Nat
  /-- How stream-ordered entries have ended, by index: their stream, and whether they committed
  (R615). -/
  past : SMap (Option (Nat × Bool))
  /-- By cluster: 65,536 times the cycle after that of its last array step, and the tiles that took
  part in it, as a mask (R117, R145; the model's own). -/
  stepped : SMap Nat
  deriving DecidableEq, Repr

/-- Defaults of the sparse maps. -/
def State.tokD : Nat → Tok := fun _ => Tok.free
def State.tileD : Nat → Tile := fun _ => Tile.init
def State.streamD : Nat → StreamRec := fun _ => StreamRec.free
def State.slotD : Nat → Option ExecSlot := fun _ => none
def State.progD : Nat → Prog := fun _ => Prog.zero
def State.chartD : Nat → ChartRec := fun _ => ChartRec.free
def State.eccD : Nat → EccErr := fun _ => .none
def State.natD : Nat → Nat := fun _ => 0
def State.pairD : Nat → PairSeq := fun _ => ⟨0, 0⟩
def State.portD : Nat → Port := fun _ => Port.init₀
def State.parkD : Nat → Option Park := fun _ => none
def State.pastD : Nat → Option (Nat × Bool) := fun _ => none

/-- The block right after reset: PERST_N asserted (R673, R935), every register at its reset
value, no command waiting. -/
def State.reset : State where
  pending := []
  cycle := 0
  fresh := 1
  regs := []
  postAlm := []
  bar0 := PathState.init
  smbPath := PathState.init
  fePath := PathState.init
  dram := Mem.zero
  plate := Mem.zero
  ecc := []
  corrQ := []
  scrubRow := []
  scrubDone := []
  tiles := []
  ops := []
  posts := []
  toks := []
  ring := Ring.init
  streams := []
  entries := []
  slots := []
  mapSeq := 1
  prog := []
  faults := []
  gens := []
  hcopy := none
  charts := []
  pendSigs := []
  ftime := 0
  rmt := []
  nextTag := 0
  router := []
  pairs := []
  tgts := []
  out := []
  held := []
  cfg := []
  msixTab := []
  pba := 0
  msixReq := []
  resetPend := none
  now := 0
  ports := []
  fab := Fabric.init
  flash := none
  copy := []
  update := none
  svnFloor := 0
  svnBusy := false
  pwr := Power.init
  smb := Smb.init
  parks := []
  muxWait := none
  balls := 0xFFF
  tap := Tap.init
  perst := true
  rearm := []
  ephRun := none
  sealBase := 0
  sealSize := 0
  past := []
  stepped := []

end Sys2Proof.Machine
end

