-- ==== Sys2Proof/Machine/Ops.lean ====
section
/-! DEFINITION. The named operations over the state: registers, outbound traffic and notices,
memories with their error protection, unified device addresses and checked accesses, remote
requests, and the raising of faults. -/

namespace Sys2Proof.Machine

/-! ### Registers -/

/-- The dword at a BAR0 offset. -/
def State.reg (s : State) (o : Nat) : Nat := (SMap.get regReset s.regs o).toNat

/-- Replace a dword. -/
def State.setReg (s : State) (o v : Nat) : State :=
  { s with regs := SMap.set regReset s.regs o (BitVec.ofNat 32 v) }

/-- Bits `hi:lo` of a dword. -/
def State.fld (s : State) (o hi lo : Nat) : Nat := bits (s.reg o) hi lo

/-- Replace bits `hi:lo` of a dword. -/
def State.setFld (s : State) (o hi lo v : Nat) : State := s.setReg o (putBits (s.reg o) hi lo v)

/-- A 64-bit register (R926). -/
def State.reg64 (s : State) (o : Nat) : Nat := s.reg o + s.reg (o + 4) * 2 ^ 32

/-- Replace a 64-bit register. -/
def State.setReg64 (s : State) (o v : Nat) : State :=
  (s.setReg o (v % 2 ^ 32)).setReg (o + 4) (v / 2 ^ 32 % 2 ^ 32)

/-- Add to a 32-bit counter that wraps. -/
def State.bump (s : State) (o n : Nat) : State := s.setReg o ((s.reg o + n) % 2 ^ 32)

/-- Add to a 64-bit counter that wraps. -/
def State.bump64 (s : State) (o n : Nat) : State := s.setReg64 o ((s.reg64 o + n) % 2 ^ 64)

/-- A CL_ register of cluster `n` (R946). -/
def clReg (n o : Nat) : Nat := o + 0x2000 * n

/-- HI_BOOT.READY. -/
def State.ready (s : State) : Bool := bitOf (s.reg Reg.HI_BOOT) 0

/-- The expert session is unlocked (R942). -/
def State.unlocked (s : State) : Bool := bitOf (s.reg Reg.FE_EXPERT_STATUS) 1

/-- R12: expert features are permitted: the almanac permits them and the session is unlocked. -/
def State.expert (s : State) : Bool := bitOf (s.reg Reg.FE_EXPERT_STATUS) 0 && s.unlocked

/-- The die runs: PERST_N is high and no thermal trip has stopped it (R673, R854). -/
def State.alive (s : State) : Bool := !s.perst && !bitOf (s.reg Reg.PWR_THERM) 16

/-- The engines run: boot is complete and no reset sequence is under way (R617, R815). -/
def State.running (s : State) : Bool := s.alive && s.ready && s.resetPend.isNone

/-- Take a fresh serial for a free value. -/
def State.bumpFresh (s : State) : State := { s with fresh := s.fresh + 1 }

/-! ### Outbound traffic and notices -/

/-- A dword of configuration space. -/
def State.cfgD (s : State) (o : Nat) : Nat := (SMap.get cfgReset s.cfg o).toNat

/-- Bus Master Enable. -/
def State.bme (s : State) : Bool := bitOf (s.cfgD 0x04) 2

/-- Send to the outside, whatever the PCIe state. -/
def State.emit (s : State) (o : Outbound) : State := { s with out := s.out ++ [o] }

/-- Set bits of a configuration dword. -/
def State.orCfg (s : State) (o v : Nat) : State :=
  { s with cfg := SMap.set cfgReset s.cfg o (BitVec.ofNat 32 (s.cfgD o ||| v)) }

/-- R650: the programmed sizes of read requests and payloads, in bytes. -/
def State.maxRead (s : State) : Nat := min 4096 (2 ^ (7 + bits (s.cfgD 0x78) 14 12))
def State.maxPayload (s : State) : Nat := min 512 (2 ^ (7 + bits (s.cfgD 0x78) 7 5))

/-- R657: the 64-bit address format is used unless bits [63:32] of the address are zero. -/
def longAddr (a : Nat) : Bool := decide (2 ^ 32 ≤ a)

/-- R658: an access of `n` bytes at `a` as requests: none above `lim` bytes, none across a 4 KiB
boundary. The first argument bounds their number. -/
def hostPieces (lim : Nat) : Nat → Nat → Nat → List (Nat × Nat)
  | 0, _, _ => []
  | f + 1, a, n =>
    if n = 0 then []
    else
      let k := min n (min lim (4096 - a % 4096))
      (a, k) :: hostPieces lim f (a + k) (n - k)

/-- R657, R658: a request towards host memory as the TLPs that carry it. -/
def Outbound.tlps (maxRead maxPayload : Nat) : Outbound → List Outbound
  | .hostRead _ a n =>
    (hostPieces maxRead (n / 64 + 2) a n).map fun p => .hostRead (longAddr p.1) p.1 p.2
  | .hostWrite _ a r l =>
    (hostPieces maxPayload (l.length / 64 + 2) a l.length).map fun p =>
      .hostWrite (longAddr p.1) p.1 r ((l.drop (p.1 - a)).take p.2)
  | o => [o]

/-- A read of host memory, and a write. -/
def Outbound.read (a n : Nat) : Outbound := .hostRead (longAddr a) a n
def Outbound.write (a : Nat) (relaxed : Bool) (l : List Byte) : Outbound :=
  .hostWrite (longAddr a) a relaxed l

/-- The TLPs of a request under the programmed sizes. -/
def State.tlps (s : State) (o : Outbound) : List Outbound := o.tlps s.maxRead s.maxPayload

/-- R502: entries of the ring. -/
def State.ringSize (s : State) : Nat := 2 ^ s.fld Reg.FE_RING_CTRL 5 1

/-- The function is in D3hot (R674). -/
def State.inD3 (s : State) : Bool := s.cfgD 0x44 % 4 == 3

/-- R659, R684: the tag limit that HI_TAGS reports. -/
def State.tagLimit (s : State) : Nat := if bitOf (s.cfgD 0x98) 12 then 768 else 256

/-- R650, R659: the tags there are: with neither 10-bit nor extended tags, PCIe's 32. -/
def State.tagCap (s : State) : Nat :=
  if bitOf (s.cfgD 0x98) 12 then 768 else if bitOf (s.cfgD 0x78) 8 then 256 else 32

/-- The reads among requests not yet issued. -/
def heldReads (l : List Outbound) : Nat :=
  (l.filter fun o =>
    match o with
    | .hostRead _ _ _ => true
    | _ => false).length

/-- R659: the read requests outstanding: the doorbell's, the pennants' and the entries'. -/
def State.tagsInUse (s : State) : Nat :=
  let r := s.ring
  b2n r.pollOut + r.penReads.length +
    (if r.reading = 0 then 0
     else (s.tlps (.read (s.reg64 Reg.FE_RING_BASE + 64 * (r.readHead % s.ringSize))
       (64 * r.reading))).length) - heldReads s.held

/-- R659: a tag is free for a read; of one that is split the further requests take tags as they come
back. A write needs none. -/
def State.tagFree (s : State) (o : Outbound) : Bool :=
  match o with
  | .hostRead _ _ _ => decide (s.tagsInUse < s.tagCap)
  | _ => true

/-- Issue a request towards host memory: nothing once a reset has begun (R617 step 2) or in D3hot
(R674). It waits while Bus Master Enable is 0 (R676), and a read while no tag is free (R659). -/
def State.emitHost (s : State) (o : Outbound) : State :=
  if s.resetPend.isSome || s.inD3 then s
  else if s.bme && s.tagFree o then { s with out := s.out ++ s.tlps o }
  else { s with held := s.held ++ [o] }

/-- Issue those of some waiting requests that can go now, in order; the others wait on. -/
def State.issueHeld (s : State) : List Outbound → State
  | [] => s
  | o :: t =>
    if s.bme && ({ s with held := s.held ++ o :: t } : State).tagFree o then
      ({ s with out := s.out ++ s.tlps o } : State).issueHeld t
    else ({ s with held := s.held ++ [o] } : State).issueHeld t

/-- R659, R676, R854: what waited for Bus Master Enable or for a tag is issued; a die that has
tripped issues nothing more. -/
def State.flushHeld (s : State) : State :=
  if s.bme && s.alive && !s.inD3 then ({ s with held := [] } : State).issueHeld s.held else s

/-- Which vectors' messages are held back (R667). -/
def State.msixMasked (s : State) (v : Nat) : Bool :=
  bitOf (s.cfgD 0x50) 30 || bitOf (SMap.get msixReset s.msixTab (4 * v + 3)).toNat 0

/-- R667: request a message on a vector: discarded while MSI-X Enable is 0; pending while the vector
is masked. -/
def State.requestMsix (s : State) (vec : Nat) : State :=
  if bitOf (s.cfgD 0x50) 31 = false then s
  else if s.msixMasked vec then { s with pba := putBits s.pba vec vec 1 }
  else if s.msixReq.contains vec then s
  else { s with msixReq := s.msixReq ++ [vec] }

/-! ### Advanced error reporting -/

/-- R643, R664: the header log and the first error pointer, taken by the first unmasked error. The
header's requester and tag come from outside: the log's words are free values. -/
def State.aerLog (s : State) (n : Nat) : State :=
  let cap := s.cfgD 0x118
  let w := fun k => BitVec.ofNat 32 (Config.freeNat s.fresh k)
  let c := SMap.setMany cfgReset s.cfg
    [(0x118, BitVec.ofNat 32 (putBits cap 4 0 n)), (0x11C, w 0), (0x120, w 1), (0x124, w 2),
     (0x128, w 3)]
  ({ s with cfg := c }).bumpFresh

/-- R664: an uncorrectable error of AER, by its bit, with the severity and mask that the host has
programmed; `advisory`: PCIe handles it as an advisory non-fatal error where its severity is
non-fatal (log entry 20). -/
def State.aer (s : State) (n : Nat) (advisory : Bool) : State :=
  let fatal := bitOf (s.cfgD 0x10C) n
  let masked := bitOf (s.cfgD 0x108) n
  let first := (s.cfgD 0x104 &&& (0xFFFFFFFF ^^^ s.cfgD 0x108)) == 0
  let s := if n = 20 then s.orCfg 0x78 0x80000 else s
  let serr := bitOf (s.cfgD 0x04) 8
  if advisory && !fatal then
    let s := (s.orCfg 0x78 0x10000).orCfg 0x110 0x2000
    if bitOf (s.cfgD 0x114) 13 then s
    else
      let s := s.orCfg 0x104 (2 ^ n)
      let s := if !masked && first then s.aerLog n else s
      if bitOf (s.cfgD 0x78) 0 && s.resetPend.isNone then s.emit (.errMsg 0) else s
  else
    let s := (s.orCfg 0x78 (if fatal then 0x40000 else 0x20000)).orCfg 0x104 (2 ^ n)
    if masked then s
    else
      let s := if first then s.aerLog n else s
      let on := serr || (bitOf (s.cfgD 0x78) (if fatal then 2 else 1) &&
        (n != 20 || bitOf (s.cfgD 0x78) 3))
      let s := if serr then s.orCfg 0x04 0x40000000 else s
      if on && s.resetPend.isNone then s.emit (.errMsg (if fatal then 2 else 1)) else s

/-- R666: the vector of a notice source. -/
def State.noticeVec (s : State) (n : Nat) : Nat :=
  if n < 4 then s.fld Reg.HI_NOTICE_MAP0 (8 * n + 4) (8 * n)
  else s.fld Reg.HI_NOTICE_MAP1 (8 * (n - 4) + 4) (8 * (n - 4))

/-- R665, R666: the hardware sets notice source `n`. -/
def State.notice (s : State) (n : Nat) : State :=
  let was := bitOf (s.reg Reg.HI_NOTICE_STATUS) n
  let s' := s.setReg Reg.HI_NOTICE_STATUS (s.reg Reg.HI_NOTICE_STATUS ||| 2 ^ n)
  if was = false ∧ bitOf (s.reg Reg.HI_NOTICE_EN) n = true then s'.requestMsix (s.noticeVec n)
  else s'

/-! ### Memories -/

/-- `n` bytes from `a` on, over cells that are all at or above `a`. -/
def readFrom (d : Nat → Byte) : SMap Byte → Nat → Nat → List Byte
  | _, _, 0 => []
  | [], a, n + 1 => d a :: readFrom d [] (a + 1) n
  | (k, v) :: t, a, n + 1 =>
    if k = a then v :: readFrom d t (a + 1) n else d a :: readFrom d ((k, v) :: t) (a + 1) n

/-- The cells of `l` written from `a` on, those at their default left out. -/
def cellsOf (d : Nat → Byte) : Nat → List Byte → SMap Byte
  | _, [] => []
  | a, b :: t => if b = d a then cellsOf d (a + 1) t else (a, b) :: cellsOf d (a + 1) t

/-- Read `n` bytes of a memory. -/
def Mem.readN (m : Mem) (a n : Nat) : List Byte :=
  readFrom m.dflt (m.cells.filter fun c => decide (a ≤ c.1)) a n

/-- Write bytes into a memory, keeping the canonical form. -/
def Mem.writeN (m : Mem) (a : Nat) (l : List Byte) : Mem :=
  { m with
    cells := (m.cells.filter fun c => decide (c.1 < a)) ++ cellsOf m.dflt a l ++
      (m.cells.filter fun c => decide (a + l.length ≤ c.1)) }

/-- R41: usable bytes of local DRAM; 0 when none trained (R341). -/
def State.dramCap (s : State) : Nat :=
  if s.fld Reg.MEM_ID 15 14 = 3 then 0
  else
    let b := s.fld Reg.MEM_ID 7 0 * 2 ^ 30
    if s.fld Reg.MEM_ID 13 13 = 1 then b / 8 * 7 else b

/-- R304: the regions of a unified device address. -/
inductive Region where
  | dram | plate | host | regs | reserved | remote
  deriving DecidableEq, Repr

/-- R304: the region of a UDA. -/
def regionOf (u : Nat) : Region :=
  if bitOf u 47 then .remote
  else
    match bits u 46 44 with
    | 0 => .dram
    | 1 => .plate
    | 2 => .host
    | 3 => .regs
    | _ => .reserved

/-- Region offset, bits [43:0]. -/
def offOf (u : Nat) : Nat := u % 2 ^ 44

/-- Bytes of one cluster's plate store (R305). -/
def plateSize : Nat := 0xC00000

/-- R305: the address checks of an access of `len` bytes; `fe`: the front end issues it. -/
def State.addrOk (s : State) (fe : Bool) (u len : Nat) : Bool :=
  let o := offOf u
  match regionOf u with
  | .reserved => false
  | .dram => decide (o + len ≤ s.dramCap)
  | .plate => bits u 43 27 == 0 && decide (o % 2 ^ 24 + len ≤ plateSize)
  | .host => decide (o + len ≤ 2 ^ 44)
  | .regs => fe && decide (o + len ≤ 2 ^ 20)
  | .remote => decide (u % 2 ^ 35 + len ≤ 2 ^ 35)

/-- R307: the local address a remote offset maps to; none is reserved. -/
def State.targetUda (s : State) (o : Nat) : Option Nat :=
  if o < 0x700000000 then some (s.fld Reg.MEM_REMOTE_CTRL 13 8 * 2 ^ 30 + o)
  else if o < 0x708000000 then some (2 ^ 44 + (o - 0x700000000))
  else none

/-- R308: the local address of an access that the target does not refuse. -/
def State.targetOk (s : State) (o len : Nat) : Option Nat :=
  if bitOf (s.reg Reg.MEM_REMOTE_CTRL) 0 = false then none
  else
    match s.targetUda o with
    | none => none
    | some u => if s.addrOk false u len then some u else none

/-- Whether `len` bytes lie in usable local DRAM (R389, R422, R549). -/
def State.inDram (s : State) (u len : Nat) : Bool :=
  regionOf u == .dram && decide (u < 2 ^ 48) && decide (offOf u + len ≤ s.dramCap)

/-- Whether `len` bytes lie in one cluster's plate store. -/
def State.inPlate (s : State) (cl u len : Nat) : Bool :=
  regionOf u == .plate && s.addrOk false u len && bits u 26 24 == cl

/-- R306: the IOVA of a host UDA. -/
def State.iova (s : State) (u : Nat) : Nat :=
  s.fld Reg.MEM_HOST_UPPER 19 0 * 2 ^ 44 + offOf u

/-! ### Error protection -/

/-- R337: count and log a corrected or uncorrectable error of the word at UDA `u`. -/
def State.memErr (s : State) (u : Nat) (ue byScrub : Bool) (bit : Nat) : State :=
  let cnt := match regionOf u, ue with
    | .plate, false => Reg.MEM_CE_PS
    | .plate, true => Reg.MEM_UE_PS
    | _, false => Reg.MEM_CE_DRAM
    | _, true => Reg.MEM_UE_DRAM
  let s := s.bump cnt 1
  let st := s.reg Reg.MEM_ERR_STATUS
  let hadCe := bitOf st 0
  let hadUe := bitOf st 1
  let capture := (!hadCe && !hadUe) || (ue && hadCe && !hadUe)
  let s := if capture then
      (s.setReg64 Reg.MEM_ERR_ADDR u).setReg Reg.MEM_ERR_INFO
        (b2n ue + 2 * b2n byScrub + 4 * (if ue then 0xFF else bit % 256))
    else s.setReg Reg.MEM_ERR_STATUS (s.reg Reg.MEM_ERR_STATUS ||| 4)
  let rose := if ue then !hadUe else !hadCe
  let s := s.setReg Reg.MEM_ERR_STATUS (s.reg Reg.MEM_ERR_STATUS ||| (if ue then 2 else 1))
  if rose then s.notice 2 else s

/-- Order of the errors of one access: by line, and within a line the correctable ones first, so
that an uncorrectable one that arrives with them is captured (R346). -/
def errBefore (a b : Nat × EccErr) : Bool :=
  decide (a.1 / 8 < b.1 / 8) || (a.1 / 8 == b.1 / 8 && !a.2.isUe && b.2.isUe)

/-- The stored words with errors that an access touches. -/
def State.eccHits (s : State) (u len : Nat) : List (Nat × EccErr) :=
  sortBy errBefore (s.ecc.filter fun e => decide (u / 8 ≤ e.1) && decide (e.1 * 8 < u + len))

/-- R334: queue a line for a correction write-back, once. -/
def State.queueCorr (s : State) (line : Nat) : State :=
  if s.corrQ.contains line then s else { s with corrQ := s.corrQ ++ [line] }

/-- R334, R335: what the check bits of a read's words do; true when a word is uncorrectable. -/
def State.eccRead (s : State) : List (Nat × EccErr) → State × Bool
  | [] => (s, false)
  | (_, .none) :: t => s.eccRead t
  | (w, .ce b) :: t => ((s.memErr (8 * w) false false b).queueCorr (w / 8)).eccRead t
  | (w, .ue _) :: t =>
    let r := (s.memErr (8 * w) true false 0).eccRead t
    (r.1, true)

/-- Set the error state of a word. -/
def State.setEcc (s : State) (w : Nat) (e : EccErr) : State :=
  { s with ecc := SMap.set State.eccD s.ecc w e }

/-- R334 to R336: the words with errors that a write of `[u, u+len)` touches: a whole word is
replaced, a part of one merges. Answers the words left unwritten. -/
def State.eccWrite (s : State) (u len : Nat) : List (Nat × EccErr) → State × List Nat
  | [] => (s, [])
  | (w, e) :: t =>
    if u ≤ 8 * w ∧ 8 * w + 8 ≤ u + len then (s.setEcc w .none).eccWrite u len t
    else
      match e with
      | .none => s.eccWrite u len t
      | .ce b => ((s.memErr (8 * w) false false b).setEcc w .none).eccWrite u len t
      | .ue _ =>
        let r := (s.memErr (8 * w) true false 0).eccWrite u len t
        (r.1, w :: r.2)

/-- Raw bytes of local memory. -/
def State.rawRead (s : State) (u len : Nat) : List Byte :=
  match regionOf u with
  | .plate => s.plate.readN (offOf u) len
  | _ => s.dram.readN (offOf u) len

/-- Store raw bytes in local memory. -/
def State.rawWrite (s : State) (u : Nat) (l : List Byte) : State :=
  match regionOf u with
  | .plate => { s with plate := s.plate.writeN (offOf u) l }
  | _ => { s with dram := s.dram.writeN (offOf u) l }

/-- R334, R335: read local memory; none when a word is uncorrectable. -/
def State.readLocal (s : State) (u len : Nat) : State × Option (List Byte) :=
  let r := s.eccRead (s.eccHits u len)
  (r.1, if r.2 then none else some (s.rawRead u len))

/-- Keep the old bytes of the listed words. -/
def keepWords (old new : List Byte) (u : Nat) (skip : List Nat) : List Byte :=
  (List.zip old new).zipIdx.map fun x =>
    if skip.contains ((u + x.2) / 8) then x.1.1 else x.1.2

/-- R335, R336: write local memory; true when a merge met an uncorrectable word, whose bytes are
left as they are. -/
def State.writeLocal (s : State) (u : Nat) (l : List Byte) : State × Bool :=
  let r := s.eccWrite u l.length (s.eccHits u l.length)
  if r.2.isEmpty then (r.1.rawWrite u l, false)
  else (r.1.rawWrite u (keepWords (s.rawRead u l.length) l u r.2), true)

/-- A little-endian u64 of local memory, without its check bits. -/
def State.rawWord (s : State) (u : Nat) : Nat := ofLeBytes (s.rawRead u 8)

/-- Put back the words that an atomic has read and computed anew: they are written whole, with fresh
check bits (R336), and their errors were counted when they were read (R334). -/
def State.storeBack (s : State) (u : Nat) (l : List Byte) : State :=
  let s := s.rawWrite u l
  { s with ecc := s.ecc.filter fun e => decide (e.1 < u / 8) || decide (u + l.length ≤ 8 * e.1) }

/-- The local bytes that a UDA names: itself, or, for this device's own remote address, what the
router's target side maps it to (R307, R309). -/
def State.localUda (s : State) (u len : Nat) : Option Nat :=
  match regionOf u with
  | .dram | .plate => if s.addrOk false u len then some u else none
  | .remote =>
    if s.fld Reg.FAB_STATE 1 0 = 3 ∧ bits u 46 35 = s.fld Reg.FAB_ADDR 11 0 then
      s.targetOk (u % 2 ^ 35) len
    else none
  | _ => none

/-- The contents of `[u, u+len)` become undefined (R614): free bytes of a fresh serial. This device's
memory only; nothing beyond its end. -/
def State.havoc (s : State) (u len : Nat) : State :=
  match s.localUda u len with
  | some u => (s.rawWrite u ((upto len).map fun i => Config.freeByte s.fresh (u + i))).bumpFresh
  | none => s

/-! ### Fabric time and addresses -/

/-- R776: fabric time in whole nanoseconds. -/
def State.ns (s : State) : Nat := s.ftime / 36000 % 2 ^ 64

/-- Own 12-bit device address. -/
def State.ownAddr (s : State) : Nat := s.fld Reg.FAB_ADDR 11 0

/-- Own incarnation number. -/
def State.incarnation (s : State) : Nat := s.reg Reg.FAB_INCARNATION

/-! ### Remote requests -/

/-- R767: cut a remote access at every 256-byte boundary of the remote offset. -/
def split256 : Nat → Nat → Nat → List (Nat × Nat)
  | 0, _, _ => []
  | f + 1, o, len =>
    if len = 0 then []
    else
      let n := min len (256 - o % 256)
      (o, n) :: split256 f (o + n) (len - n)

/-- R765: the packet type of a request kind. -/
def RmtKind.ptype : RmtKind → Nat
  | .read => 0x01
  | .write => 0x02
  | .a48Add => 0x03
  | .sp16Add => 0x03
  | .pennantWrite => 0x04
  | .pennantMax => 0x04

/-- R764: the request packet of a remote request. -/
def State.rmtPkt (s : State) (r : RmtReq) (replay : Bool) : Pkt :=
  { from? := none, sp16 := decide (r.kind = .sp16Add), sat := 0, ptype := r.kind.ptype,
    nflags := 8 * b2n replay + 16 * b2n (decide (r.kind = .pennantMax)),
    dst := r.dst, src := s.ownAddr,
    dlen := if r.kind = .read then r.len else r.data.length,
    epoch := s.reg Reg.FAB_EPOCH, pseq := r.pseq, off := r.off, inc := s.incarnation,
    tag := r.tag % 65536, status := 0, hops := 0, data := r.data }

/-- Issue one packet of a remote access: the next PSEQ of the pair (R768). -/
def State.rmtOne (s : State) (use : RmtUse) (k : RmtKind) (uda off len : Nat)
    (data : List Byte) (poison : Bool) : State :=
  let dst := bits uda 46 35
  let p := SMap.get State.pairD s.pairs dst
  let r : RmtReq :=
    { tag := s.nextTag, dst := dst, off := off, kind := k, len := len, data := data,
      poison := poison, pseq := p.next, epoch := s.reg Reg.FAB_EPOCH, inc := p.inc, uda := uda,
      use := use }
  let s := { s with
    nextTag := s.nextTag + 1,
    rmt := s.rmt ++ [r],
    pairs := SMap.set State.pairD s.pairs dst ⟨(p.next + 1) % 2 ^ 32, p.inc⟩ }
  { s with router := s.router ++ [s.rmtPkt r false] }

/-- Issue a remote access, packet by packet (R767). -/
def State.rmtSend (s : State) (use : RmtUse) (k : RmtKind) (uda len : Nat)
    (data : List Byte) (poison : Bool) : State :=
  (split256 (len / 256 + 2) (uda % 2 ^ 35) len).foldl
    (fun s c =>
      s.rmtOne use k (uda - uda % 2 ^ 35 + c.1) c.1 c.2
        (if k = .read then [] else (data.drop (c.1 - uda % 2 ^ 35)).take c.2) poison) s

/-- R741, R772: whether a remote access may be issued: the device is MAPPED and the target a LIVE
address. None: it must wait, since the fabric is SETTLING. -/
def State.remoteOk (s : State) (u : Nat) : Option Bool :=
  match s.fld Reg.FAB_STATE 1 0 with
  | 3 => some (s.fab.map.any fun m => m.addr == bits u 46 35 && m.live)
  | 2 => none
  | _ => some false

/-- R772: count and record a failed remote access. -/
def State.rmtFail (s : State) (u status : Nat) : State :=
  ((s.bump Reg.FAB_RMT_FAIL 1).setReg64 Reg.FAB_RMT_ADDR u).setReg Reg.FAB_RMT_STATUS status

/-! ### Faults -/

/-- The entry of a ring index. -/
def State.entry? (s : State) (idx : Nat) : Option Entry := s.entries.find? fun e => e.idx == idx

/-- Replace the entry of the same index. -/
def State.setEntry (s : State) (e : Entry) : State :=
  { s with entries := s.entries.map fun x => if x.idx = e.idx then e else x }

/-- An execution slot. -/
def State.slot? (s : State) (n : Nat) : Option ExecSlot := SMap.get State.slotD s.slots n

/-- Replace an execution slot. -/
def State.setSlot (s : State) (n : Nat) (x : Option ExecSlot) : State :=
  { s with slots := SMap.set State.slotD s.slots n x }

/-- A stream. -/
def State.stream (s : State) (n : Nat) : StreamRec := SMap.get State.streamD s.streams n

/-- Replace a stream. -/
def State.setStream (s : State) (n : Nat) (x : StreamRec) : State :=
  { s with streams := SMap.set State.streamD s.streams n x }

/-- A lane of a slot. -/
def ExecSlot.lane? (x : ExecSlot) (node : Nat) : Option Lane :=
  (x.lanes.find? fun l => l.1 == node).map (·.2)

/-- Replace a lane. -/
def ExecSlot.setLane (x : ExecSlot) (node : Nat) (l : Lane) : ExecSlot :=
  { x with lanes := x.lanes.map fun y => if y.1 = node then (node, l) else y }

/-- The slot's entry has a fault raised that has not been responded to, or is being stopped. -/
def State.slotHalted (s : State) (x : ExecSlot) : Bool :=
  x.stop.isSome || s.faults.any fun f => f.1 == x.entry

/-- A lane's operations may not go on: its entry is being stopped, or has a fault raised in an
earlier cycle, or in this one by the lane itself (R613, R632). -/
def State.laneHalted (s : State) (x : ExecSlot) (node : Nat) : Bool :=
  x.stop.isSome || s.faults.any fun f =>
    f.1 == x.entry && (f.2.cycle != s.cycle || f.2.lanes.contains node || f.2.lane == 0xFF)

/-- A fault without particulars of an operation (R607). -/
def State.plainFault (s : State) (c : FaultCode) (addr : Nat) : FaultInfo :=
  { code := c, lane := 0xFF, opOfs := 0xFFFFFFFF, rep := 0, cp := 0, word := 0, ref := 0,
    addr := addr, detail := 0, ftime := s.ns, incarnation := s.incarnation, secondary := 0,
    secCode := 0, reset := false, cycle := s.cycle, lanes := [], peers := [] }

/-- R601: the response of an entry's domain is Reset. -/
def State.resetResp (s : State) (idx : Nat) : Bool :=
  match s.entry? idx with
  | some e => bitOf (s.reg Reg.FE_PD_RESP) (s.stream e.stream).domain
  | none => false

/-- R632: the code of the first further fault: of those of the primary one's own cycle that of the
lowest lane, else the first that came. -/
def FaultInfo.firstFurther (f : FaultInfo) : Nat :=
  match listMin (f.peers.map fun p => p.1) with
  | some n => ((f.peers.find? fun p => p.1 == n).map (·.2)).getD f.secCode
  | none => f.secCode

/-- R632: a further fault `g` of an entry whose primary fault is `f`. In the same cycle the lower lane
is the primary one. -/
def FaultInfo.merge (f g : FaultInfo) : FaultInfo :=
  let same := f.cycle == g.cycle
  let p := if same && decide (g.lane < f.lane) then g else f
  let q := if same && decide (g.lane < f.lane) then f else g
  let r : FaultInfo :=
    { p with
      secondary := f.secondary + 1, secCode := f.secCode, reset := f.reset || g.reset,
      lanes := f.lanes ++ [g.lane],
      peers := if same then f.peers ++ [(q.lane, q.code.code)] else f.peers }
  { r with
    secCode :=
      if same then r.firstFurther else if f.secCode = 0 then g.code.code else f.secCode }

/-- Raise a stream fault against an entry: the first one waits for its response (STREAM_FAULT);
a further one counts as secondary, and still causes a Reset where it is of that class (R632). -/
def State.raise (s : State) (idx : Nat) (f : FaultInfo) : State :=
  let s := s.bump Reg.FE_FAULT_COUNT 1
  let f := { f with reset := s.resetResp idx, lanes := [f.lane], cycle := s.cycle }
  { s with
    faults :=
      if s.faults.any (fun x => x.1 == idx) then
        s.faults.map fun x => if x.1 = idx then (x.1, x.2.merge f) else x
      else s.faults ++ [(idx, f)] }

/-! ### Checked accesses of one step -/

/-- An error of an access or a check: code, UDA, reference, and the record's DETAIL. -/
structure AccErr where
  code : FaultCode
  addr : Nat
  ref : Nat
  detail : Nat
  deriving DecidableEq, Repr

/-- The accesses of one step in the making: the state so far, what outside memory answers, the
remote bytes already fetched, the remote ranges still missing, the remote writes to send, and the
first error. After an error nothing more is accessed. -/
structure Ctx where
  s : State
  v : View
  fetched : SMap (Option Byte)
  miss : List (Nat × Nat)
  sends : List (RmtKind × Nat × List Byte)
  /-- Writes that must follow every other access of the step once it is performed (R301). -/
  after : List (Nat × List Byte)
  /-- Bytes of accesses performed (R610). -/
  moved : Nat
  /-- Bytes of host writes that wait for Bus Master Enable, performed only once they are issued. -/
  owed : Nat
  /-- The ranges read and written so far. -/
  reads : List (Nat × Nat)
  writes : List (Nat × Nat)
  /-- An access must wait. -/
  stall : Bool
  /-- A host request waits for Bus Master Enable or a tag (R659, R676). -/
  hostWait : Bool
  err : Option AccErr
  deriving Repr

/-- Begin the accesses of a step. -/
def Ctx.start (s : State) (v : View) (fetched : SMap (Option Byte)) : Ctx :=
  ⟨s, v, fetched, [], [], [], 0, 0, [], [], false, false, none⟩

/-- Record the first error. -/
def Ctx.fail (c : Ctx) (code : FaultCode) (u : Nat) : Ctx :=
  if c.err.isSome then c else { c with err := some ⟨code, u, 0, 0⟩ }

/-- R663, R664: count and log an unsuccessful host read; a completion timeout and poisoned data
also show in AER, and PCIe's status register shows each kind of failed completion (log entry 20). -/
def State.hostErr (s : State) (code : Nat) (iova : Nat) : State :=
  let s := ((s.bump Reg.HI_HOST_ERR 1).setFld Reg.HI_HOST_LOG 2 0 code).setReg64
    Reg.HI_HOST_LOG_ADDR iova
  match code with
  | 1 => s.orCfg 0x04 0x20000000
  | 2 => s.orCfg 0x04 0x10000000
  | 3 => s.aer 14 false
  | 4 => (s.orCfg 0x04 (0x80000000 + if bitOf (s.cfgD 0x04) 6 then 0x1000000 else 0)).aer 12 false
  | _ => s

/-- STATUS of HI_HOST_LOG for a failure, and the fault it is for its issuer (R663). -/
def readStatus : ReadFail → Nat
  | .unsupported => 1
  | .abort => 2
  | .timeout => 3
  | .poisoned => 4
def readFault : ReadFail → FaultCode
  | .poisoned => .eccUncorr
  | _ => .addrInvalid

/-- The bytes a view answers. -/
def viewRead (v : View) (u len : Nat) : List Byte :=
  (upto len).map fun i =>
    match v.bytes.find? fun x => x.1 == u + i with
    | some x => x.2
    | none => 0

/-- The first failure a view reports within a range. -/
def viewFail (v : View) (u len : Nat) : Option ReadFail :=
  (v.fails.find? fun x => decide (u ≤ x.1) && decide (x.1 < u + len)).map (·.2)

/-- Stored bytes of set-up register space (R304), which the front end alone reaches (R305). -/
def State.regBytes (s : State) (u len : Nat) : List Byte :=
  let a := offOf u
  (((upto (len / 4 + 2)).flatMap fun i => leBytes 4 (s.reg (a / 4 * 4 + 4 * i))).drop (a % 4)).take len

/-- Bytes fetched from a remote device, if all are there. -/
def fetchedBytes (m : SMap (Option Byte)) (u : Nat) : Nat → Option (List Byte)
  | 0 => some []
  | n + 1 =>
    match SMap.get (fun _ => (none : Option Byte)) m u, fetchedBytes m (u + 1) n with
    | some b, some t => some (b :: t)
    | _, _ => none

/-- Note that a range is read, or written, by its own address. -/
def Ctx.noteRead (c : Ctx) (u len : Nat) : Ctx :=
  { c with reads := ((c.s.localUda u len).getD u, len) :: c.reads }
def Ctx.noteWrite (c : Ctx) (u len : Nat) : Ctx :=
  { c with writes := ((c.s.localUda u len).getD u, len) :: c.writes }

/-- The accesses of `c` are not to be told from what `d` noted before them. -/
def Ctx.unnoted (c d : Ctx) : Ctx := { c with reads := d.reads }

/-- Read `len` bytes at a UDA (R305, R334, R335, R663). Zeros stand in after an error. -/
def Ctx.read (c : Ctx) (fe : Bool) (u len : Nat) : Ctx × List Byte :=
  let zeros := List.replicate len (0 : Byte)
  let c := c.noteRead u len
  if c.err.isSome then (c, zeros)
  else if c.s.addrOk fe u len = false then (c.fail .addrInvalid u, zeros)
  else
    match regionOf u with
    | .dram | .plate =>
      match c.s.readLocal u len with
      | (s, some l) => ({ c with s := s, moved := c.moved + len }, l)
      | (s, none) => (({ c with s := s } : Ctx).fail .eccUncorr u, zeros)
    | .host =>
      if (c.s.bme && c.s.tagFree (.read (c.s.iova u) len)) = false then
        ({ c with stall := true, hostWait := true }, zeros)
      else
        let s := c.s.emitHost (.read (c.s.iova u) len)
        match viewFail c.v u len with
        | some x =>
          if x = .timeout ∧ bitOf (s.cfgD 0x98) 4 = true then ({ c with stall := true }, zeros)
          else
            (({ c with s := s.hostErr (readStatus x) (s.iova u) } : Ctx).fail (readFault x) u,
              zeros)
        | none => ({ c with s := s, moved := c.moved + len }, viewRead c.v u len)
    | .remote =>
      match fetchedBytes c.fetched u len with
      | some l => ({ c with moved := c.moved + len }, l)
      | none =>
        match c.s.remoteOk u with
        | some true => ({ c with miss := c.miss ++ [(u, len)] }, zeros)
        | some false => (({ c with s := c.s.rmtFail u 4 } : Ctx).fail .addrInvalid u, zeros)
        | none => ({ c with stall := true }, zeros)
    | .regs => (c, c.s.regBytes u len)
    | .reserved => (c.fail .addrInvalid u, zeros)

/-- Send a remote write or atomic of this step, or fault where there is no route (R772). Its bytes
count once its response has come (R610, R770). -/
def Ctx.remoteSend (c : Ctx) (k : RmtKind) (u : Nat) (l : List Byte) : Ctx :=
  match c.s.remoteOk u with
  | some true => { c with sends := c.sends ++ [(k, u, l)] }
  | some false => ({ c with s := c.s.rmtFail u 4 } : Ctx).fail .addrInvalid u
  | none => { c with stall := true }

/-- Write bytes at a UDA. `relaxed`: operation data may carry Relaxed Ordering (R660). In set-up
register space the front end's own writes change no field (R920). -/
def Ctx.write (c : Ctx) (fe relaxed : Bool) (u : Nat) (l : List Byte) : Ctx :=
  let c := c.noteWrite u l.length
  if c.err.isSome ∨ l = [] then c
  else if c.s.addrOk fe u l.length = false then c.fail .addrInvalid u
  else
    match regionOf u with
    | .dram | .plate =>
      let r := c.s.writeLocal u l
      let c := { c with s := r.1, moved := c.moved + l.length }
      if r.2 then c.fail .eccUncorr u else c
    | .host =>
      let s := c.s.emitHost (.write (c.s.iova u) (relaxed && bitOf (c.s.cfgD 0x78) 4) l)
      if c.s.bme then { c with s := s, moved := c.moved + l.length }
      else { c with s := s, owed := c.owed + l.length, hostWait := true }
    | .remote => c.remoteSend .write u l
    | .regs => c
    | .reserved => c.fail .addrInvalid u

/-- Write bytes after every other access of the step is performed: at once where none is remote
(R272, R301). -/
def Ctx.writeLast (c : Ctx) (u : Nat) (l : List Byte) : Ctx :=
  if c.err.isSome then c
  else if c.sends = [] then c.write false true u l
  else { (c.noteWrite u l.length) with after := c.after ++ [(u, l)] }

/-- R237, R238: whether an atomic's target region and alignment are allowed. -/
def atomicOk (u align : Nat) : Bool :=
  (match regionOf u with
   | .host | .regs => false
   | _ => true) && u % align == 0

/-- Apply a48_add to consecutive words; answers the new words and how many saturated. -/
def a48Words : List Nat → List Nat → List Nat × Nat
  | x :: xs, y :: ys =>
    let r := a48AddSat x y
    let t := a48Words xs ys
    (r.1 :: t.1, b2n r.2 + t.2)
  | _, _ => ([], 0)

/-- Little-endian words of `n` bytes each. -/
def wordsOf (n : Nat) (l : List Byte) : List Nat := (chunks n l.length l).map ofLeBytes

/-- One A48 atomic request (R236 to R240) of at most 256 bytes; `cl` is the issuing cluster,
whose CL_A48_SAT counts (R252). -/
def Ctx.a48One (c : Ctx) (cl u : Nat) (ys : List Nat) : Ctx :=
  let c := c.noteWrite u (8 * ys.length)
  if c.err.isSome then c
  else if atomicOk u 8 = false then c.fail .atomicInvalid u
  else if c.s.addrOk false u (8 * ys.length) = false then c.fail .addrInvalid u
  else
    match regionOf u with
    | .remote => c.remoteSend .a48Add u (ys.flatMap (leBytes 8))
    | _ =>
      match c.s.readLocal u (8 * ys.length) with
      | (s, none) => ({ c with s := s } : Ctx).fail .eccUncorr u
      | (s, some l) =>
        let r := a48Words (wordsOf 8 l) ys
        let s := s.storeBack u (r.1.flatMap (leBytes 8))
        { c with s := s.bump (clReg cl Reg.CL_A48_SAT) r.2, moved := c.moved + 8 * ys.length }

/-- A48 atomic adds of consecutive words, in requests of at most 32 words (R239). Each request is
checked against R305 by itself, so earlier ones are applied before a fault: the spec does not say
(DESIGN CHOICE, log entry 89). -/
def Ctx.a48 (c : Ctx) (cl u : Nat) (ys : List Nat) : Ctx :=
  ((chunks 32 ys.length ys).zipIdx).foldl (fun c x => c.a48One cl (u + 256 * x.2) x.1) c

/-- One SP16 atomic request of one element (R244 to R246); `cl` issues it. -/
def Ctx.sp16 (c : Ctx) (cl u y : Nat) : Ctx :=
  if c.err.isSome then c
  else if atomicOk u 2 = false then c.fail .atomicInvalid u
  else if c.s.addrOk false u 2 = false then c.fail .addrInvalid u
  else
    let issued (c : Ctx) : Ctx := { c with s := c.s.bump (clReg cl Reg.CL_SP16_ATOMICS) 1 }
    match regionOf u with
    | .remote =>
      let d := c.remoteSend .sp16Add u (leBytes 2 y)
      if d.err.isSome || d.stall then d else issued d
    | _ =>
      match (issued c).s.readLocal u 2 with
      | (s, none) => ({ c with s := s } : Ctx).fail .eccUncorr u
      | (s, some l) =>
        let r := sp16Add (ofLeBytes l) y
        { c with
          s := (s.storeBack u (leBytes 2 r.1)).bump (clReg cl Reg.CL_SP16_SAT) (b2n r.2),
          moved := c.moved + 2 }

/-- Read a row of words of `n` bytes. -/
def Ctx.readWords (c : Ctx) (fe : Bool) (u n k : Nat) : Ctx × List Nat :=
  let r := c.read fe u (n * k)
  (r.1, wordsOf n r.2)

/-- Two ranges share a byte. -/
def rangesMeet (a b : Nat × Nat) : Bool := decide (a.1 < b.1 + b.2) && decide (b.1 < a.1 + a.2)

/-- Two of some ranges share a byte. -/
def selfMeet : List (Nat × Nat) → Bool
  | [] => false
  | a :: t => t.any (rangesMeet a) || selfMeet t

/-- R295, R326, R495: what a step has written meets what it has read, or has written elsewhere. -/
def Ctx.overlaps (c : Ctx) : Bool :=
  selfMeet c.writes || c.writes.any fun w => c.reads.any (rangesMeet w)

/-- Bytes as free values. -/
def freeBytes (n : Nat) (l : List Byte) : List Byte := (upto l.length).map fun i => Config.freeByte n i

/-- Host writes with free bytes in place of theirs. -/
def freeWrites (n : Nat) (l : List Outbound) : List Outbound :=
  l.zipIdx.map fun x =>
    match x.1 with
    | .hostWrite long a r b => .hostWrite long a r (freeBytes (n + x.2) b)
    | o => o

/-- R295, R326, R495: the results of a step whose operands overlap are undefined: free bytes, where it
began with `outs` messages sent and `held` waiting. -/
def Ctx.blur (c : Ctx) (outs held : Nat) : Ctx :=
  if c.overlaps then
    let s := c.writes.foldl (fun s r => s.havoc r.1 r.2) c.s
    let n := s.fresh
    let s := { s with
      out := s.out.take outs ++ freeWrites n (s.out.drop outs)
      held := s.held.take held ++ freeWrites n (s.held.drop held)
      fresh := n + s.out.length + s.held.length + c.sends.length + c.after.length }
    { c with
      s := s
      sends := c.sends.zipIdx.map fun x =>
        (x.1.1, x.1.2.1, freeBytes (n + s.out.length + s.held.length + x.2) x.1.2.2)
      after := c.after.zipIdx.map fun x =>
        (x.1.1, freeBytes (n + s.out.length + s.held.length + c.sends.length + x.2) x.1.2) }
  else c

/-- Send the remote writes of a step, in order. -/
def Ctx.flush (c : Ctx) (use : RmtUse) : State :=
  c.sends.foldl (fun s x => s.rmtSend use x.1 x.2.1 x.2.2.length x.2.2 false) c.s

/-- Ask for the remote bytes a step lacks, leaving out ranges already requested for it. -/
def State.fetchMissing (s : State) (use : RmtUse) (miss : List (Nat × Nat)) : State :=
  miss.foldl (fun s m =>
    if s.rmt.any (fun r => r.use == use && r.kind == .read && decide (m.1 ≤ r.uda)
        && decide (r.uda < m.1 + m.2)) then s
    else s.rmtSend use .read m.1 m.2 [] false) s

/-- Write bytes at a UDA on the device's own behalf; a remote write waits for a route as any does.
Answers also the fault of one that is not performed. -/
def State.ownWrite (s : State) (u : Nat) (l : List Byte) : State × Option FaultCode :=
  match regionOf u with
  | .host => (s.emitHost (.write (s.iova u) false l), none)
  | .dram | .plate =>
    if s.addrOk true u l.length then
      let r := s.writeLocal u l
      (r.1, if r.2 then some .eccUncorr else none)
    else (s, some .addrInvalid)
  | .remote =>
    if s.addrOk true u l.length = false then (s, some .addrInvalid)
    else if s.remoteOk u = some false then (s.rmtFail u 4, some .addrInvalid)
    else (s.rmtSend .device .write u l.length l false, none)
  | .regs => (s, none)
  | .reserved => (s, some .addrInvalid)

/-! ### Ages and depths -/

/-- The slot that holds an entry. -/
def State.slotOf (s : State) (idx : Nat) : Option Nat :=
  (upto 8).find? fun n =>
    match s.slot? n with
    | some x => x.entry == idx
    | none => false

/-- Age in µs of a time in fabric units. -/
def State.ageUs (s : State) (since : Nat) : Nat := (s.ns - since) / 1000

/-- R612: age of the oldest unmet pennant wait of a slot, 0 when none. -/
def State.slotWaitAge (s : State) (x : ExecSlot) : Nat :=
  x.lanes.foldl (fun m l =>
    match l.2.block with
    | some (.pennant _ _ _ since _) => max m (s.ageUs since)
    | _ => m) 0

/-- R612: age of the oldest unmet wait of a parked entry, in µs. -/
def State.entryWaitAge (s : State) (e : Entry) : Nat :=
  e.waits.foldl (fun m (w : WaitRec) =>
    match w.since with
    | some t => if w.met then m else max m (s.ageUs t)
    | none => m) 0

/-- R612: the wait age of a stream: of the slot that it holds, or of its parked head. -/
def State.streamAge (s : State) (st : Nat) : Nat :=
  if (s.stream st).isolated then 0
  else
    match s.entries.find? fun e => e.stream == st with
    | some e =>
      match (s.slotOf e.idx).bind s.slot? with
      | some x => s.slotWaitAge x
      | none => s.entryWaitAge e
    | none => 0

/-- R609: the capture depth of a domain; 3 acts as 1. -/
def State.depthOf (s : State) (d : Nat) : Nat :=
  let x := bits (s.reg Reg.FE_PD_DEPTH) (2 * d + 1) (2 * d)
  if x = 3 then 1 else x

/-- R609: the capture depth with which a fault of a stream is recorded; 1 with no such stream. -/
def State.streamDepth (s : State) (st : Nat) : Nat :=
  if (s.stream st).created then s.depthOf (s.stream st).domain else 1

/-! ### Fault records -/

/-- What a record says beside the fault (R607). -/
structure RecordCtx where
  kind : Nat
  depth : Nat
  stream : Nat
  slot : Nat
  entry : Nat
  buf : Nat
  progress : Prog
  engines : List Nat
  age : Nat
  chart : Nat
  version : Nat
  segment : Nat
  deriving Repr

/-- R607: the 256 bytes of a record. -/
def recordBytes (seq : Nat) (f : FaultInfo) (c : RecordCtx) : List Byte :=
  let head := leBytes 4 seq ++ leBytes 2 f.code.code ++ leBytes 1 c.kind ++ leBytes 1 c.depth ++
    leBytes 2 c.stream ++ leBytes 1 c.slot ++ leBytes 1 f.lane ++ leBytes 4 c.entry ++
    leBytes 8 (c.buf % 2 ^ 48) ++ leBytes 4 f.opOfs ++ leBytes 2 f.rep ++ leBytes 2 f.cp ++
    leBytes 32 f.word ++ leBytes 8 f.ref ++ leBytes 8 (f.addr % 2 ^ 48) ++ leBytes 8 f.ftime ++
    leBytes 4 f.secondary ++ leBytes 2 f.secCode ++ leBytes 2 0
  let rest := if c.depth = 0 then leBytes 156 0
    else
      leBytes 4 f.incarnation ++ leBytes 4 f.detail ++ leBytes 6 c.progress.ops ++
      leBytes 6 c.progress.cyc ++ leBytes 6 c.progress.bytes ++ leBytes 6 c.progress.tokens ++
      ((upto 8).flatMap fun i => leBytes 8 (nth 0 c.engines i)) ++ leBytes 8 c.age ++
      leBytes 2 c.chart ++ leBytes 2 c.version ++ leBytes 2 c.segment ++ leBytes 46 0
  head ++ rest ++ leBytes 4 seq

/-- R606, R609, R633: write a record as four 64-byte posted writes and advance FAULT_SEQ; without
a record area it is lost. The writes may yet complete with an error (R634). -/
def State.writeRecord (s : State) (which : Nat) (f : FaultInfo) (c : RecordCtx) : State :=
  let seq := (s.ring.faultSeq + 1) % 2 ^ 32
  let base := s.reg64 Reg.FE_FAULT_BASE
  let l := recordBytes seq f c
  let s := if base = 0 then s.bump Reg.FE_FAULT_LOST 1
    else (upto 4).foldl (fun s i =>
      s.emitHost (.write (base + 256 * which + 64 * i) false ((l.drop (64 * i)).take 64))) s
  { s with ring := { s.ring with
      faultSeq := seq, records := s.ring.records + b2n (decide (base ≠ 0)) } }

/-- The record particulars of a fault without an entry. -/
def plainCtx (kind depth stream : Nat) : RecordCtx :=
  ⟨kind, depth, stream, 0xFF, 0, 0, Prog.zero, [], 0, 0, 0, 0⟩

/-- R609: the dump of depth 2 at a stream's place. -/
def State.writeDump (s : State) (st : Nat) (l : List Byte) : State :=
  if s.reg64 Reg.FE_DUMP_BASE = 0 then s
  else (s.ownWrite (s.reg64 Reg.FE_DUMP_BASE % 2 ^ 48 + 4096 * st) l).1

/-- R605, R609, R612: a record of KIND RECORD_ONLY, at the depth of the stream's domain and with its
wait age; it has no lane, so a dump of depth 2 is all 0. -/
def State.recordOnly (s : State) (which stream entry : Nat) (f : FaultInfo) : State :=
  let d := s.streamDepth stream
  let s := if d = 2 ∧ (s.stream stream).isolated = false then
      s.writeDump stream (List.replicate 4096 0)
    else s
  s.writeRecord which f { plainCtx 2 d stream with entry := entry, age := s.streamAge stream }

/-- R546, R605: a signal of a committed entry was refused. -/
def State.halyardRefused (s : State) (stream addr : Nat) : State :=
  let s := (s.bump Reg.FE_HALYARD_REFUSED 1).bump Reg.FE_FAULT_COUNT 1
  s.recordOnly 512 stream 0 (s.plainFault .addrInvalid addr)

/-- R305, R335: a signal to local memory failed. That of a committed entry is recorded as a refused
Halyard is, but not counted as one. -/
def State.signalFailed (s : State) (use : RmtUse) (code : FaultCode) (addr : Nat) : State :=
  match use with
  | .signal stream =>
    let s := s.bump Reg.FE_FAULT_COUNT 1
    s.recordOnly 512 stream 0 (s.plainFault code addr)
  | _ => s

/-- R772: a remote signal that has no route fails at once. -/
def State.signalLost (s : State) (use : RmtUse) (addr : Nat) : State :=
  let s := s.rmtFail addr 4
  match use with
  | .signal stream => s.halyardRefused stream addr
  | _ => s

/-! ### Pennants -/

/-- R539, R540, R430: a pennant word after a signal. -/
def pennantAfter (old : Nat) (sg : SigRec) (poison : Bool) : Nat :=
  if sg.max then
    max (old % 2 ^ 63) (sg.value % 2 ^ 63) + 2 ^ 63 * b2n (bitOf old 63 || poison)
  else sg.value % 2 ^ 63 + 2 ^ 63 * b2n poison

/-- Issue one signal: performed at once on local memory, a posted write without Relaxed Ordering
to the host, a Halyard to a remote device (R539, R540, R544). A word that turns out uncorrectable
under a MAX is left unmodified (R335). -/
def State.signal (s : State) (use : RmtUse) (poison : Bool) (sg : SigRec) : State :=
  match regionOf sg.addr with
  | .host =>
    s.emitHost (.write (s.iova sg.addr) false (leBytes 8 (pennantAfter 0 sg poison)))
  | .remote =>
    if s.remoteOk sg.addr = some false then s.signalLost use sg.addr
    else s.rmtSend use (if sg.max then .pennantMax else .pennantWrite) sg.addr 8
      (leBytes 8 (sg.value % 2 ^ 63 + 2 ^ 63 * b2n poison)) poison
  | .dram | .plate =>
    if s.addrOk true sg.addr 8 = false then s.signalFailed use .addrInvalid sg.addr
    else if sg.max then
      match s.readLocal sg.addr 8 with
      | (s, none) => s.signalFailed use .eccUncorr sg.addr
      | (s, some l) =>
        (s.writeLocal sg.addr (leBytes 8 (pennantAfter (ofLeBytes l) sg poison))).1
    else (s.writeLocal sg.addr (leBytes 8 (pennantAfter 0 sg poison))).1
  | .regs | .reserved => s

/-- Issue signals in ascending slot order (R539). -/
def State.signals (s : State) (use : RmtUse) (poison : Bool) (l : List SigRec) : State :=
  l.foldl (fun s x => s.signal use poison x) s

/-- A WRITE of a device-level pennant (retire pennants, result words' companions). -/
def State.signalWrite (s : State) (uda value : Nat) : State :=
  if uda = 0 then s else s.signal .device false ⟨uda, false, value⟩

end Sys2Proof.Machine
end

