-- ==== Sys2Proof/Machine/Operands.lean ====
section
/-! DEFINITION. Operand forms: command-buffer headers (R390), tensor descriptors (R398 to R402),
references and their relocation (R408, R409), operation words (R447 to R456), and for each
operation the fields its word gives and the checks of stages 1 to 5 (R453). -/

namespace Sys2Proof.Machine

/-- Field at a byte offset of a byte string, `n` bytes little-endian. -/
def leAt (l : List Byte) (o n : Nat) : Nat := ofLeBytes ((l.drop o).take n)

/-! ### Buffers -/

/-- R390: the header of a command buffer, with the address it was read from. -/
def bufOfHeader (uda : Nat) (h : List Byte) : BufInfo :=
  { uda := uda, size := leAt h 4 4, direct := bitOf (leAt h 3 1) 0, lanes := leAt h 8 2 % 512,
    nCl := leAt h 10 1, nFe := leAt h 11 1, sampleAdvance := leAt h 12 4,
    descOfs := leAt h 16 4, descCount := leAt h 20 2,
    laneOfs := (upto 9).map fun i => leAt h (0x18 + 4 * i) 4,
    sealAt := none, image := [], written := [], handles := [], subst := [], params := [], elastic := 0 }

/-- The present lanes of a buffer, in order (R391). -/
def BufInfo.present (b : BufInfo) : List Nat := (upto 9).filter fun n => bitOf b.lanes n

/-- Start of a lane. -/
def BufInfo.laneStart (b : BufInfo) (n : Nat) : Nat := nth 0 b.laneOfs n

/-- R391: a present lane runs up to the next present lane, or to the descriptor table. -/
def BufInfo.laneEnd (b : BufInfo) (n : Nat) : Nat :=
  match b.present.find? fun m => decide (n < m) with
  | some m => b.laneStart m
  | none => b.descOfs

/-- R389: SIZE and the placement of a buffer at `uda`. -/
def State.placementOk (s : State) (uda size : Nat) : Bool :=
  uda % 64 == 0 && size % 64 == 0 && decide (128 ≤ size) && decide (size ≤ 2 ^ 24) &&
    (s.inDram uda size || (regionOf uda == .host && s.addrOk true uda size))

/-- R391: lanes in order without gaps, each a nonzero multiple of 32 bytes. -/
def lanesOk (b : BufInfo) : Bool :=
  (match b.present with
   | [] => false
   | n :: _ => b.laneStart n == 64) &&
  b.present.all (fun n =>
    decide (b.laneStart n < b.laneEnd n) && (b.laneEnd n - b.laneStart n) % 32 == 0) &&
  b.descOfs % 64 == 0 && b.size == b.descOfs + 64 * b.descCount

/-- R392: the checks of a header; false is CB_INVALID. -/
def State.headerOk (s : State) (uda : Nat) (h : List Byte) : Bool :=
  let b := bufOfHeader uda h
  leAt h 0 2 == 0x7A3B && leAt h 2 1 == 1 && s.placementOk uda b.size && lanesOk b &&
    decide (b.descCount ≤ 1024) && decide (b.nCl ≤ 64) && decide (b.nFe ≤ 32) &&
    (upto 9).all fun n => bitOf b.lanes n || b.laneStart n == 0

/-- R567: substitute a captured value into a stored word. -/
def substWord (w : Nat) (add : Bool) (x : Nat) : Nat :=
  if add then bits x 63 40 * 2 ^ 40 + (w % 2 ^ 40 + x % 2 ^ 40) % 2 ^ 40 else x

/-- R583: the bytes of a segment at `[ofs, ofs+len)` with its substitutions applied. -/
def substBytes (sub : List (Nat × Bool × Word64)) (ofs : Nat) (l : List Byte) : List Byte :=
  sub.foldl (fun l x =>
    if ofs ≤ x.1 ∧ x.1 + 8 ≤ ofs + l.length then
      let o := x.1 - ofs
      l.take o ++ leBytes 8 (substWord (leAt l o 8) x.2.1 x.2.2.toNat) ++ l.drop (o + 8)
    else l) l

/-- Bytes of a buffer as a lane fetches them: from the seal area (R421), where they stand for the
image as it was sealed, or are undefined where they are no longer what was written (R423); else from
where the buffer lies, with the segment's substitutions (R415, R583). -/
def Ctx.bufRead (c : Ctx) (b : BufInfo) (ofs len : Nat) : Ctx × List Byte :=
  match b.sealAt with
  | some a =>
    let img := (b.image.drop ofs).take len
    if b.written = [] then (c, img)
    else
      let r := c.read true (a.1 + ofs) len
      if r.1.err.isSome || r.2 == (b.written.drop ofs).take len then (r.1, img)
      else
        ({ r.1 with s := r.1.s.bumpFresh }, (upto len).map fun i => Config.freeByte r.1.s.fresh i)
  | none =>
    let r := c.read true (b.uda + ofs) len
    (r.1, substBytes b.subst ofs r.2)

/-! ### Descriptors -/

/-- Bytes of a row of `cols` elements (R399). -/
def rowBytesOf (elem cols : Nat) : Nat :=
  match elem with
  | 0 => 2 * cols
  | 1 => 8 * cols
  | _ => cdiv cols 8

/-- R399: the alignment of REF and ROW_STRIDE. -/
def elemAlign (elem : Nat) : Nat :=
  match elem with
  | 0 => 2
  | 1 => 8
  | _ => 1

/-- R399: byte offset of a column within its row. -/
def colOffset (elem c : Nat) : Nat :=
  match elem with
  | 0 => 2 * c
  | 1 => 8 * c
  | _ => c / 8

/-- R398: a descriptor table entry, not yet relocated. -/
def dregOfBytes (d : List Byte) : DReg :=
  { ref := leAt d 0 8, uda := 0, expUda := 0, rows := leAt d 8 4, cols := leAt d 12 4,
    rowStride := leAt d 16 4, originR := leAt d 20 4, originC := leAt d 24 4,
    tag := leAt d 28 2, elem := leAt d 30 1 % 4, block64 := bitOf (leAt d 30 1) 2,
    eRef := signedOf 8 (leAt d 31 1), expRef := leAt d 32 8,
    repBytes := signedOf 32 (leAt d 40 4), repRow := signedOf 16 (leAt d 44 2),
    repCol := signedOf 16 (leAt d 46 2), repExp := signedOf 32 (leAt d 48 4),
    expStride := leAt d 52 4 }

/-- R398, R626: the 64 bytes of a descriptor register in reference form. -/
def dregBytes (r : DReg) : List Byte :=
  leBytes 8 r.ref ++ leBytes 4 r.rows ++ leBytes 4 r.cols ++ leBytes 4 r.rowStride ++
  leBytes 4 r.originR ++ leBytes 4 r.originC ++ leBytes 2 r.tag ++
  leBytes 1 (r.elem + 4 * b2n r.block64) ++ leBytes 1 (unsignedOf 8 r.eRef) ++
  leBytes 8 r.expRef ++ leBytes 4 (unsignedOf 32 r.repBytes) ++
  leBytes 2 (unsignedOf 16 r.repRow) ++ leBytes 2 (unsignedOf 16 r.repCol) ++
  leBytes 4 (unsignedOf 32 r.repExp) ++ leBytes 4 r.expStride ++ leBytes 8 0

/-- Row size in bytes. -/
def DReg.rowBytes (r : DReg) : Nat := rowBytesOf r.elem r.cols

/-- R401: the footprint's length. -/
def DReg.extent (r : DReg) : Nat := (r.rows - 1) * r.rowStride + r.rowBytes

/-- R401: the exponent footprint's length. -/
def DReg.expExtent (r : DReg) : Nat := (r.rows - 1) * r.expStride + cdiv r.cols 64

/-- R402: the checks of a descriptor that its relocated address does not enter. -/
def DReg.fieldsOk (r : DReg) : Bool :=
  decide (1 ≤ r.rows) && decide (r.rows ≤ 2 ^ 24) && decide (1 ≤ r.cols) &&
  decide (r.cols ≤ 2 ^ 24) && decide (r.rowBytes ≤ r.rowStride) && decide (r.elem < 3) &&
  r.rowStride % elemAlign r.elem == 0 && (!r.block64 || r.elem == 0) &&
  (if r.block64 then decide (cdiv r.cols 64 ≤ r.expStride) else r.expRef == 0)

/-- HANDLE and OFFSET of a reference (R408). -/
def refHandle (ref : Nat) : Nat := bits ref 63 40
def refOffset (ref : Nat) : Nat := ref % 2 ^ 40

/-- Add to a reference's offset; none when it leaves 0 to 2^40 - 1 (R428, R459). -/
def refAdd (ref : Nat) (d : Int) : Option Nat :=
  let o := (refOffset ref : Int) + d
  if 0 ≤ o ∧ o < (2 ^ 40 : Nat) then some (refHandle ref * 2 ^ 40 + o.toNat) else none

/-- An origin moved by a signed amount; none outside 0 to 2^32 - 1 (R404, R428). -/
def originAdd (o : Nat) (d : Int) : Option Nat :=
  let x := (o : Int) + d
  if 0 ≤ x ∧ x < (2 ^ 32 : Nat) then some x.toNat else none

/-- R426: a tensor operand in repetition `r`; none is DESC_INVALID (R428). -/
def DReg.advance (d : DReg) (r : Nat) : Option DReg :=
  match refAdd d.ref (d.repBytes * r), refAdd d.expRef (d.repExp * r),
      originAdd d.originR (d.repRow * r), originAdd d.originC (d.repCol * r) with
  | some rf, some xr, some o1, some o2 =>
    some { d with ref := rf, expRef := if d.block64 then xr else d.expRef, originR := o1,
                  originC := o2, uda := ((d.uda : Int) + d.repBytes * r).toNat,
                  expUda := ((d.expUda : Int) + d.repExp * r).toNat }
  | some rf, none, some o1, some o2 =>
    if d.block64 then none
    else some { d with ref := rf, originR := o1, originC := o2,
                       uda := ((d.uda : Int) + d.repBytes * r).toNat }
  | _, _, _, _ => none

/-- Address of element (r, c) of a tensor (R399). -/
def DReg.elemUda (d : DReg) (r c : Nat) : Nat := d.uda + r * d.rowStride + colOffset d.elem c

/-! ### Relocation -/

/-- What a reference is used for (R409): its extent and the rights it needs. -/
structure RefUse where
  ref : Nat
  ext : Nat
  rd : Bool
  wr : Bool
  at' : Bool
  deriving DecidableEq, Repr

/-- The environment in which a buffer's operations are checked. -/
structure OpEnv where
  buf : BufInfo
  domain : Nat
  node : Nat
  gen : Option HandleGen
  expert : Bool
  /-- What G0 relocates or seals is counted; an issue of what it has checked is not (R446). -/
  count : Bool
  /-- The buffer is a chart segment, which may hold no SEED_SET (R572). -/
  segment : Bool
  deriving Repr

/-- The handle-table entry of a handle: a sealed buffer's own copy, else the generation's. -/
def Ctx.handleEntry (c : Ctx) (e : OpEnv) (h : Nat) : Ctx × List Byte :=
  match e.buf.handles.find? fun x => x.1 == h with
  | some x => (c, x.2)
  | none =>
    match e.gen with
    | some g => c.read true (g.base + 32 * h) 32
    | none => (c, List.replicate 32 0)

/-- Entries in the generation in force for a buffer. -/
def OpEnv.handles (e : OpEnv) : Nat :=
  match e.gen with
  | some g => g.count
  | none => 0

/-- R407: the region a LOC code names. -/
def locRegion (l : Nat) : Region :=
  match l with
  | 0 => .dram
  | 1 => .plate
  | 2 => .host
  | 3 => .remote
  | _ => .reserved

/-- R409: relocate a reference; the first failing check is the error. -/
def Ctx.relocate (c : Ctx) (e : OpEnv) (u : RefUse) : Ctx × Nat :=
  if c.err.isSome then (c, 0)
  else
    let c := if e.count then { c with s := c.s.bump Reg.FE_RELOC_REFS 1 } else c
    let bad (code : FaultCode) (order : Nat) : Ctx × Nat :=
      ({ c with err := some ⟨code, 0, u.ref, order⟩ }, 0)
    let h := refHandle u.ref
    if h = 0 ∨ e.handles ≤ h then bad .handleInvalid 1
    else
      let r := c.handleEntry e h
      let c := r.1
      let bad (code : FaultCode) (order : Nat) : Ctx × Nat :=
        ({ c with err := some ⟨code, 0, u.ref, order⟩ }, 0)
      if c.err.isSome then (c, 0)
      else
        let base := leAt r.2 0 8 % 2 ^ 48
        let size := leAt r.2 8 8 % 2 ^ 44
        let rights := leAt r.2 16 1
        let loc := leAt r.2 18 1
        if bitOf rights 7 = false ∨ locRegion loc = .reserved ∨ regionOf base ≠ locRegion loc then
          bad .handleInvalid 1
        else if leAt r.2 17 1 % 16 ≠ e.domain then bad .handleDomain 2
        else if (u.rd && !bitOf rights 0) || (u.wr && !bitOf rights 1)
            || (u.at' && !bitOf rights 2) then bad .handleRights 3
        else if size < refOffset u.ref + u.ext then bad .handleBounds 4
        else if 2 ^ 48 < base + refOffset u.ref + u.ext then bad .addrInvalid 5
        else (c, base + refOffset u.ref)

/-- Relocate several references in order; answers also the last one's address. -/
def Ctx.relocateAll (c : Ctx) (e : OpEnv) (l : List RefUse) : Ctx × Nat :=
  l.foldl (fun c u => c.1.relocate e u) (c, 0)

/-! ### The common header -/

/-- OPCODE of an operation word (R448). -/
def opCode (w : Nat) : Nat := bits w 7 0
def waitTok (w : Nat) : Nat := bits w 13 8
def waitEn (w : Nat) : Bool := bitOf w 14
def postEn (w : Nat) : Bool := bitOf w 15
def waitN (w : Nat) : Nat := bits w 31 16
def postN (w : Nat) : Nat := bits w 47 32
def postTok (w : Nat) : Nat := bits w 53 48
def postNode (w : Nat) : Nat := bits w 57 54

/-- Declared counters of a node in a buffer (R349, R435). -/
def BufInfo.counters (b : BufInfo) (node : Nat) : Nat := if node = 8 then b.nFe else b.nCl

/-- R395, R451: whether a lane of this node may hold an opcode. -/
def laneMay (node op : Nat) : Bool :=
  if op = 0x08 then node == 8
  else if op ∈ [0x01, 0x02, 0x03, 0x04, 0x05, 0x06, 0x07, 0x09, 0x0A] then node != 8
  else decide (op ≤ 0x10)

/-- R451: WAIT_EN and POST_EN of an opcode: (zero, required). -/
def waitRule (op : Nat) : Bool × Bool :=
  if op ∈ [0x02, 0x03, 0x04, 0x05, 0x06, 0x07, 0x09, 0x0A] then (false, false)
  else if op = 0x0C then (false, true) else (true, false)

/-- Stage 1 of R453: opcode, lane and header (R448 to R451); false is OP_INVALID. -/
def stage1 (e : OpEnv) (w : Nat) : Bool :=
  let op := opCode w
  laneMay e.node op && !(e.segment && op == 0x08) &&
  !((waitRule op).1 && waitEn w) && (!(waitRule op).2 || waitEn w) &&
  (op != 0x0B || postEn w) && (op != 0x10 || !postEn w) &&
  (!waitEn w || (decide (waitTok w < e.buf.counters e.node) && waitN w != 0)) &&
  (!postEn w || (decide (postNode w ≤ 8) && bitOf e.buf.lanes (postNode w)
    && decide (postTok w < e.buf.counters (postNode w)) && postN w != 0))

/-! ### Shared fields -/

/-- R456: the stream length of a precision field; none is OP_INVALID. -/
def precLen (x : Bool) (p : Nat) : Option Nat :=
  if x then (if 1 ≤ p ∧ p ≤ 2048 then some (16 * p) else none)
  else if 4 ≤ p % 16 then some (2 ^ (p % 16)) else none

/-- R172: rows, columns and P_min of a fold; none is reserved. -/
def foldShape (f : Nat) : Option (Nat × Nat × Nat) :=
  match f with
  | 0 => some (64, 64, 4)
  | 1 => some (128, 32, 8)
  | 2 => some (32, 128, 8)
  | 3 => some (256, 16, 16)
  | 4 => some (16, 256, 16)
  | _ => none

/-- Rows and columns of a fold (64 × 64 for a reserved code). -/
def foldRows (f : Nat) : Nat := ((foldShape f).map (·.1)).getD 64
def foldCols (f : Nat) : Nat := ((foldShape f).map (·.2.1)).getD 64

/-- R191: bytes of a tile in memory: 0 A16, 1 A32, 2 A48. -/
def tileBytes (fmt : Nat) : Nat :=
  match fmt with
  | 0 => 8768
  | 1 => 16960
  | _ => 32832

/-- A power of two. -/
def isPow2 (n : Nat) : Bool := n != 0 && 2 ^ Nat.log2 n == n

/-- The captured register an operation names. -/
def drOf (drs : SMap (Option DReg)) (n : Nat) : Option DReg :=
  SMap.get (fun _ => (none : Option DReg)) drs n

/-- The tiles of a mask, ascending. -/
def maskTiles (m : Nat) : List Nat := (upto 16).filter fun t => bitOf m t

/-! ### MATMUL -/

/-- The settings of a MATMUL that its word alone gives (R460, R461). -/
structure MatWord where
  drA : Nat
  drB : Nat
  transA : Bool
  transB : Bool
  add : Bool
  a16 : Bool
  slotBase : Nat
  outTag : Nat
  mask : Nat
  positional : Bool
  decorrA : Bool
  decorrB : Bool
  dshA : Nat
  dsmA : Nat
  dshB : Nat
  dsmB : Nat
  gsel : Nat
  psel : Nat
  fold : Nat
  bcast : Nat
  resid : Nat
  margin : Bool
  spillEn : Bool
  spillAdd : Bool
  drSpill : Nat
  spillSteps : Nat
  replayStep : Nat
  startShift : Nat
  drPart : Nat
  repeats : Nat
  kPass4 : Nat
  marginK : Nat
  marginId : Nat
  marginCl : Nat
  drTopk : Nat
  deriving DecidableEq, Repr

/-- R460, R461. -/
def matWord (w : Nat) : MatWord :=
  let margin := bitOf w 175
  { drA := bits w 68 64, drB := bits w 76 72, transA := bitOf w 69, transB := bitOf w 70,
    add := bitOf w 71, a16 := bitOf w 77, slotBase := bits w 79 78, outTag := bits w 95 80,
    mask := bits w 111 96, positional := bitOf w 125, decorrA := bitOf w 126,
    decorrB := bitOf w 127, dshA := bits w 142 128, dsmA := bits w 144 143,
    dshB := bits w 159 145, dsmB := bits w 161 160, gsel := bits w 163 162,
    psel := bits w 167 164, fold := bits w 170 168, bcast := bits w 172 171,
    resid := bits w 174 173, margin := margin, spillEn := bitOf w 176, spillAdd := bitOf w 177,
    drSpill := bits w 182 178, spillSteps := if margin then 0 else bits w 211 184,
    replayStep := bits w 213 212 + 1, startShift := bits w 218 214, drPart := bits w 223 219,
    repeats := bits w 239 224, kPass4 := bits w 253 240, marginK := bits w 188 184 + 1,
    marginId := bits w 196 189, marginCl := bits w 204 197, drTopk := bits w 209 205 }

/-- A MATMUL with its operands: sizes, origins and resolved settings (R462, R159, R164, R181). -/
structure MatCfg where
  w : MatWord
  a : DReg
  b : DReg
  len : Nat
  m : Nat
  n : Nat
  k : Nat
  io : Nat
  jo : Nat
  ko : Nat
  mb : Nat
  nb : Nat
  g : Nat
  p : Nat
  nbr : Nat
  nbc : Nat
  tiles : List Nat
  /-- Most blocks of any tile. -/
  perTile : Nat
  streamed : Bool
  kPass : Nat
  deriving Repr

/-- R159: the automatic group width. -/
def autoG (k : Nat) : Nat :=
  let r := fun g => cdiv k g * g
  if r 16 ≤ r 8 ∧ r 16 ≤ r 4 then 16 else if r 8 ≤ r 4 then 8 else 4

/-- R283: the automatic P of a margin-stop operation. -/
def marginP (len pmin : Nat) : Nat :=
  ((upto 16).map fun i => 2 ^ i).foldl
    (fun best x => if len % x = 0 ∧ pmin ≤ x ∧ x ≤ max pmin (len / 8) then max best x else best) 0

/-- Resolve a MATMUL at a stream length (R460 to R463); none where a field is reserved. -/
def matCfg (w : Nat) (a b : DReg) (len : Nat) : Option MatCfg :=
  let f := matWord w
  match foldShape f.fold with
  | none => none
  | some (mb, nb, pmin) =>
    let m := if f.transA then a.cols else a.rows
    let k := if f.transA then a.rows else a.cols
    let n := if f.transB then b.rows else b.cols
    let io := if f.transA then a.originC else a.originR
    let ko := if f.transA then a.originR else a.originC
    let jo := if f.transB then b.originR else b.originC
    let g := match f.gsel with
      | 0 => autoG k
      | 1 => 16
      | 2 => 8
      | _ => 4
    let p := match f.psel with
      | 0 => if f.margin then marginP len pmin else len
      | 1 => len
      | i => 2 ^ i
    let tiles := maskTiles f.mask
    let nbr := cdiv m mb
    let nbc := cdiv n nb
    let perTile := if tiles = [] then 0 else cdiv (nbr * nbc) tiles.length
    let slots := if f.a16 then 4 else 2
    let kUp := cdiv k g * g
    let autoStream := decide (slots < perTile)
    let streamed := match f.resid with
      | 0 => autoStream
      | 1 => false
      | _ => true
    let kPass := match f.resid with
      | 0 => if autoStream then min kUp (g * (32768 / (g * max mb nb))) else kUp
      | _ => if f.kPass4 = 0 then kUp else 4 * f.kPass4
    some { w := f, a := a, b := b, len := len, m := m, n := n, k := k, io := io, jo := jo,
           ko := ko, mb := mb, nb := nb, g := g, p := p, nbr := nbr, nbc := nbc,
           tiles := tiles, perTile := perTile, streamed := streamed, kPass := kPass }

/-- Number of blocks (R463). -/
def MatCfg.blocks (c : MatCfg) : Nat := c.nbr * c.nbc

/-- Number of passes (R178). -/
def MatCfg.npass (c : MatCfg) : Nat := if c.kPass = 0 then 0 else cdiv c.k c.kPass

/-- B's extent and origin along k (R462). -/
def MatCfg.bK (c : MatCfg) : Nat × Nat :=
  if c.w.transB then (c.b.cols, c.b.originC) else (c.b.rows, c.b.originR)

/-- Stage 2 of a MATMUL: an Expert value is used (R460, R210). -/
def matExpert (w : Nat) : Bool :=
  let f := matWord w
  bitOf w 124 || f.positional || f.decorrA || f.decorrB || f.dsmA == 1 || f.dsmA == 2 ||
  f.dsmB == 1 || f.dsmB == 2 || f.gsel != 0 || f.psel != 0 || f.resid == 1 || f.resid == 2 ||
  !f.spillEn || f.spillSteps != 0 || f.replayStep != 1 || f.startShift != 0

/-- An area operand's size, alignment and region (R455); `cl`: it must lie in that cluster's
plate store. -/
def State.areaOk (s : State) (d : Option DReg) (size align : Nat) (cl : Option Nat) : Bool :=
  match d with
  | none => true
  | some d =>
    decide (size ≤ d.extent) && d.uda % align == 0 &&
      (match cl with
       | none => true
       | some n => s.inPlate n d.uda size)

/-- The part of `areaOk` that an area operand's own register decides: alignment and region. -/
def State.areaAt (s : State) (d : Option DReg) (align : Nat) (cl : Option Nat) : Bool :=
  match d with
  | none => true
  | some d =>
    d.uda % align == 0 &&
      (match cl with
       | none => true
       | some n => s.inPlate n d.uda 1)

/-- The group width, where the word or A's register gives it (R159). -/
def MatWord.gOf (f : MatWord) (k : Option Nat) : Option Nat :=
  match f.gsel with
  | 0 => k.map autoG
  | 1 => some 16
  | 2 => some 8
  | _ => some 4

/-- R463: P is permitted (R164), for a stream length. -/
def MatWord.pOk (f : MatWord) (len : Nat) : Bool :=
  let pmin := ((foldShape f.fold).map (·.2.2)).getD 4
  let p := match f.psel with
    | 0 => if f.margin then marginP len pmin else len
    | 1 => len
    | i => 2 ^ i
  (p == len || isPow2 p) && p != 0 && len % p == 0 && decide (pmin ≤ p)

/-- R463: 4 × K_PASS4 is a multiple of G, as far as G is known. -/
def MatWord.kPassOk (f : MatWord) (k : Option Nat) : Bool :=
  f.resid == 0 ||
    (match f.gOf k with
     | some g => (4 * f.kPass4) % g == 0
     | none => true)

/-- Stage 3 of a MATMUL (R463): what A's register decides with the word. -/
def matAOk (f : MatWord) (drs : SMap (Option DReg)) (a : DReg) : Bool :=
  let m := if f.transA then a.cols else a.rows
  let k := if f.transA then a.rows else a.cols
  let g := (f.gOf (some k)).getD 4
  let kPass := if f.kPass4 = 0 then cdiv k g * g else 4 * f.kPass4
  a.elem == 0 && f.kPassOk (some k) &&
  (f.bcast != 2 || cdiv m (foldRows f.fold) % (maskTiles f.mask).length == 0) &&
  (!f.margin || (decide (m ≤ 256) && (f.resid == 0 || decide (k ≤ kPass)) &&
    (match drOf drs f.drTopk with
     | none => true
     | some x => decide (64 + m * (f.marginK + 1) * 16 ≤ x.extent))))

/-- Stage 3 of a MATMUL (R463): what B's register decides with the word. -/
def matBOk (f : MatWord) (b : DReg) : Bool :=
  let n := if f.transB then b.rows else b.cols
  b.elem == 0 && (f.bcast != 1 || cdiv n (foldCols f.fold) % (maskTiles f.mask).length == 0)

/-- Stage 3 of a MATMUL (R463): what its word and its area registers decide. -/
def State.matAreasOk (s : State) (f : MatWord) (node : Nat) (drs : SMap (Option DReg)) : Bool :=
  f.kPassOk none &&
  (f.resid != 2 || (!f.a16 && f.slotBase == 0 && f.spillEn && !f.margin &&
    s.areaAt (drOf drs f.drPart) 64 (some node))) &&
  (!f.spillEn || s.areaAt (drOf drs f.drSpill) 64 (some node))

/-- Stage 3 of a MATMUL (R463, R282): fields that no register enters. -/
def matWordOk (w node : Nat) : Bool :=
  let f := matWord w
  f.mask != 0 && (foldShape f.fold).isSome && f.bcast != 3 && f.resid != 3 && f.dsmA != 3 &&
  f.dsmB != 3 &&
  (match precLen (bitOf w 124) (bits w 123 112) with
   | none => false
   | some len => (f.positional || isPow2 len) && f.pOk len) &&
  (!f.positional || (f.dsmA == 0 && f.dsmB == 0)) && (!f.a16 || decide (f.startShift ≤ 15)) &&
  (!f.margin || (f.spillEn && f.startShift == 0 && bitOf f.marginCl node && f.repeats == 0))

/-- Stage 3 of a MATMUL: conditions on its resolved settings that need both operands (R463). -/
def State.matCfgOk (s : State) (node : Nat) (drs : SMap (Option DReg)) (c : MatCfg) : Bool :=
  let f := c.w
  let slots := if f.a16 then 4 else 2
  c.bK == (c.k, c.ko) && c.kPass != 0 &&
  (if c.streamed then !f.a16 && f.slotBase == 0 && f.spillEn
   else decide (f.slotBase + c.perTile ≤ slots)) &&
  (!f.spillEn || s.areaOk (drOf drs f.drSpill) (c.blocks * 32832) 64 (some node)) &&
  (!c.streamed || s.areaOk (drOf drs f.drPart) (c.blocks * 16960) 64 (some node)) &&
  (!f.margin || (!c.streamed && c.npass == 1))

/-- Index limits of R142 and R143 in one repetition; false is DESC_INVALID. -/
def matIndexOk (c : MatCfg) : Bool :=
  decide (c.ko + c.k ≤ 2 ^ 28) &&
  (c.w.startShift == 0 || (decide (c.io + c.m ≤ 2 ^ 24) && decide (c.jo + c.n ≤ 2 ^ 24))) &&
  (!c.w.decorrA || decide (c.io + c.m ≤ 2 ^ 24)) &&
  (!c.w.decorrB || decide (c.jo + c.n ≤ 2 ^ 24))

/-- Readable tensor operand, with its exponents in BLOCK64 mode. -/
def readUses (d : DReg) : List RefUse :=
  ⟨d.ref, d.extent, true, false, false⟩ ::
    (if d.block64 then [⟨d.expRef, d.expExtent, true, false, false⟩] else [])

/-- An area operand with its rights. -/
def areaUse (drs : SMap (Option DReg)) (n : Nat) (rd wr at' : Bool) : List RefUse :=
  match drOf drs n with
  | none => []
  | some d => [⟨d.ref, d.extent, rd, wr, at'⟩]

/-! ### MOVE -/

/-- R466: the fields of a MOVE. -/
structure MoveWord where
  mover : Nat
  kind : Nat
  src : Nat
  dst : Nat
  idx : Nat
  repeats : Nat
  bytes : Nat
  pattern : Nat
  deriving DecidableEq, Repr

/-- R466. -/
def moveWord (w : Nat) : MoveWord :=
  { mover := bits w 65 64, kind := bits w 68 66, src := bits w 76 72, dst := bits w 84 80,
    idx := bits w 92 88, repeats := bits w 111 96, bytes := bits w 159 128 + 1,
    pattern := bits w 255 192 }

/-- A condition on a register, passed over when it is invalid (R453). -/
def drP (drs : SMap (Option DReg)) (n : Nat) (p : DReg → Bool) : Bool :=
  match drOf drs n with
  | none => true
  | some d => p d

/-- Stage 3 of a MOVE over its registers (R323, R467): a condition is passed over where a register
that it needs is invalid (R453). -/
def moveOk (f : MoveWord) (drs : SMap (Option DReg)) : Bool :=
  let src := drP drs f.src
  let dst := drP drs f.dst
  let both := fun (p : DReg → DReg → Bool) => src fun a => dst fun b => p a b
  let area := fun (al : Nat) (d : DReg) => decide (f.bytes ≤ d.extent) && d.uda % al == 0
  match f.kind with
  | 0 => decide (2 ≤ f.bytes) && f.bytes % 2 == 0 && src (area 2) && dst (area 2)
  | 1 =>
      (src fun a => decide (a.rows ≤ 65535) && a.rowBytes % 2 == 0 && a.rowStride % 2 == 0 &&
        a.uda % 2 == 0) &&
      (dst fun b => b.rowStride % 2 == 0 && b.uda % 2 == 0) &&
      (both fun a b => a.rows == b.rows && a.rowBytes == b.rowBytes)
  | 2 =>
      (src fun a => a.elem == 0 && decide (a.rows ≤ 65535) && decide (a.cols ≤ 65535) &&
        a.rowStride % 2 == 0) &&
      (dst fun b => b.elem == 0 && b.rowStride % 2 == 0) &&
      (both fun a b => b.rows == a.cols && b.cols == a.rows)
  | 3 =>
      (src fun a => a.rowBytes % 2 == 0 && decide (2 ≤ a.rowBytes) &&
        decide (a.rowBytes ≤ 65536)) &&
      (both fun a b => b.rowBytes == a.rowBytes) &&
      (drP drs f.idx fun i => i.uda % 4 == 0 && dst fun b => decide (4 * b.rows ≤ i.extent))
  | 4 => f.bytes % 8 == 0 && dst (area 8)
  | 5 => f.bytes % 8 == 0 && src (area 8) && dst (area 1)
  | _ => false

/-! ### EGRESS, TOPK, TOPK_MERGE, MASK_GEN, TILE_READ and TILE_WRITE -/

/-- R469: the fields of an EGRESS. -/
structure EgWord where
  tile : Bool
  outKind : Nat
  fuse : Nat
  fbcast : Nat
  shape : Bool
  mask : Bool
  maskTensor : Bool
  nearest : Bool
  keyValue : Bool
  mergeIn : Bool
  er : Bool
  ec : Bool
  status : Bool
  maskOrN : Nat
  drTile : Nat
  drOut : Nat
  drStatus : Nat
  slotOrFmt : Nat
  noWrite : Bool
  epBase : Int
  k : Nat
  maskTag : Nat
  drMask : Nat
  surv : Nat
  keep : Nat
  drF : Nat
  rqStep : Nat
  drEr : Nat
  drEc : Nat
  drShaper : Nat
  drTopk : Nat
  deriving DecidableEq, Repr

/-- R469. -/
def egWord (w : Nat) : EgWord :=
  { tile := bitOf w 64, outKind := bits w 66 65, fuse := bits w 68 67, fbcast := bits w 70 69,
    shape := bitOf w 71, mask := bitOf w 72, maskTensor := bitOf w 73, nearest := bitOf w 74,
    keyValue := bitOf w 75, mergeIn := bitOf w 76, er := bitOf w 77, ec := bitOf w 78,
    status := bitOf w 79, maskOrN := bits w 95 80, drTile := bits w 100 96,
    drOut := bits w 105 101, drStatus := bits w 110 106, slotOrFmt := bits w 126 125,
    noWrite := bitOf w 127, epBase := signedOf 10 (bits w 137 128), k := bits w 143 138,
    maskTag := bits w 159 144, drMask := bits w 148 144, surv := bits w 191 160,
    keep := bits w 208 192, drF := bits w 213 209, rqStep := bits w 231 216,
    drEr := bits w 236 232, drEc := bits w 241 237, drShaper := bits w 246 242,
    drTopk := bits w 251 247 }

/-- Output region of an EGRESS: not host, not set-up registers (R266). -/
def outRegionOk (d : DReg) : Bool := regionOf d.uda != .host && regionOf d.uda != .regs

/-- Stage 3 of an EGRESS (R471, R265, R266). Lists and status words are not taken for outputs in the
sense of R266: they may go to the host (DESIGN CHOICE, log entry 89). -/
def State.egOk (s : State) (node w : Nat) (drs : SMap (Option DReg)) : Bool :=
  let f := egWord w
  f.fuse != 3 && (f.fuse == 0 || f.fbcast != 3) && (!f.tile || f.slotOrFmt != 3) &&
  (!(f.mask && !f.maskTensor) || decide (f.keep ≤ 65536)) && f.maskOrN != 0 &&
  decide (f.k ≤ 32) && (f.k != 0 || (!f.noWrite && !f.mergeIn)) &&
  (precLen (bitOf w 124) (bits w 123 112)).isSome &&
  drP drs f.drOut (fun d =>
    (if f.outKind = 1 ∨ f.outKind = 2 then d.elem == 1 else d.elem == 0) &&
    (f.noWrite || outRegionOk d) && (f.k == 0 || decide (d.rows ≤ 256)) &&
    (!f.er || drP drs f.drEr fun x => decide (d.rows ≤ x.extent)) &&
    (!f.ec || drP drs f.drEc fun x => decide (d.cols ≤ x.extent)) &&
    (f.k == 0 || drP drs f.drTopk fun x => decide (64 + d.rows * (f.k + 1) * 16 ≤ x.extent))) &&
  (!(f.outKind == 1 || f.outKind == 2) || (f.fuse == 0 && !f.shape && !f.mask)) &&
  (f.k == 0 || !f.keyValue || f.outKind == 0) &&
  (!f.tile || s.areaOk (drOf drs f.drTile) (f.maskOrN * tileBytes f.slotOrFmt) 64 (some node)) &&
  (!f.shape || s.areaOk (drOf drs f.drShaper) 512 64 (some node)) &&
  (!f.status || s.areaOk (drOf drs f.drStatus) 8 8 none) &&
  (!(f.mask && f.maskTensor) || drP drs f.drMask fun d => d.elem == 2) &&
  (f.fuse == 0 || drP drs f.drF fun d => d.elem == 0)

/-- Registers an EGRESS names under its settings (R969). -/
def egRegs (w : Nat) : List Nat :=
  let f := egWord w
  (if f.tile then [f.drTile] else []) ++ [f.drOut] ++ (if f.status then [f.drStatus] else []) ++
  (if f.mask && f.maskTensor then [f.drMask] else []) ++ (if f.fuse ≠ 0 then [f.drF] else []) ++
  (if f.er then [f.drEr] else []) ++ (if f.ec then [f.drEc] else []) ++
  (if f.shape then [f.drShaper] else []) ++ (if f.k ≠ 0 then [f.drTopk] else [])

/-- References of an EGRESS with their rights, in the order of their fields (R473). -/
def egRefs (w : Nat) (drs : SMap (Option DReg)) : List RefUse :=
  let f := egWord w
  let rd := fun n => match drOf drs n with
    | none => []
    | some d => readUses d
  (if f.tile then areaUse drs f.drTile true false false else []) ++
  (match drOf drs f.drOut with
   | none => []
   | some d =>
     ⟨d.ref, d.extent, false, !f.noWrite && decide (f.outKind < 2),
       !f.noWrite && decide (2 ≤ f.outKind)⟩ ::
       (if d.block64 then [⟨d.expRef, d.expExtent, true, false, false⟩] else [])) ++
  (if f.status then areaUse drs f.drStatus false true false else []) ++
  (if f.mask && f.maskTensor then rd f.drMask else []) ++ (if f.fuse ≠ 0 then rd f.drF else []) ++
  (if f.er then areaUse drs f.drEr true false false else []) ++
  (if f.ec then areaUse drs f.drEc true false false else []) ++
  (if f.shape then areaUse drs f.drShaper true false false else []) ++
  (if f.k ≠ 0 then areaUse drs f.drTopk f.mergeIn true false else [])

/-- R291, R479: the stride of a request record. -/
def reqStride (k : Nat) : Nat := cdiv (16 + 4 * 64 * k) 64 * 64

/-- R475, R477: stage 3 of a TOPK. -/
def State.topkOk (s : State) (w : Nat) (drs : SMap (Option DReg)) : Bool :=
  let k := bits w 93 88
  decide (1 ≤ k) && decide (k ≤ 32) && (precLen (bitOf w 108) (bits w 107 96)).isSome &&
  drP drs (bits w 68 64) (fun d => d.elem != 2 && decide (d.rows ≤ 256) &&
    drP drs (bits w 76 72) fun x => decide (64 + d.rows * (k + 1) * 16 ≤ x.extent)) &&
  (!bitOf w 70 || s.areaOk (drOf drs (bits w 84 80)) 8 8 none)

/-- R478, R479: stage 3 of a TOPK_MERGE. -/
def State.mergeOk (s : State) (w : Nat) (drs : SMap (Option DReg)) : Bool :=
  let nin := bits w 101 96
  let k := bits w 109 104
  let rows := bits w 120 112
  nin != 0 && decide (1 ≤ k) && decide (k ≤ 32) && decide (1 ≤ rows) && decide (rows ≤ 256) &&
  (drP drs (bits w 68 64) fun d => decide (8 * (nin + 1) ≤ d.extent)) &&
  (drP drs (bits w 76 72) fun d => decide (64 + rows * (k + 1) * 16 ≤ d.extent)) &&
  (drP drs (bits w 84 80) fun d => decide (rows * reqStride k ≤ d.extent)) &&
  (!bitOf w 69 || s.areaOk (drOf drs (bits w 92 88)) 8 8 none)

/-- Blocks of a region of `rows × cols` under a fold (R175). -/
def regionBlocks (fold rows cols : Nat) : Nat := cdiv rows (foldRows fold) * cdiv cols (foldCols fold)

/-- R481, R483: stage 3 of a MASK_GEN. -/
def State.maskGenOk (s : State) (node w : Nat) (drs : SMap (Option DReg)) : Bool :=
  if bitOf w 64 then
    (foldShape (bits w 68 66)).isSome &&
    s.areaAt (drOf drs (bits w 76 72)) 64 (some node) &&
    (drP drs (bits w 84 80) fun d =>
      s.areaOk (drOf drs (bits w 76 72))
        (regionBlocks (bits w 68 66) d.rows d.cols * tileBytes (if bitOf w 65 then 0 else 1)) 64
        (some node))
  else decide (bits w 144 128 ≤ 65536) && drP drs (bits w 76 72) fun d => d.elem == 2

/-! ### The checks of an operation -/

/-- Repetitions less one (R425). -/
def opRepeat (w : Nat) : Nat :=
  match opCode w with
  | 0x02 => bits w 239 224
  | 0x03 => bits w 111 96
  | _ => 0

/-- The registers an operation advances as tensor operands (R426). -/
def tensorRegs (w : Nat) : List Nat :=
  match opCode w with
  | 0x02 => [bits w 68 64, bits w 76 72]
  | 0x03 =>
    match bits w 68 66 with
    | 1 | 2 | 3 => [bits w 76 72, bits w 84 80]
    | _ => []
  | _ => []

/-- The captured registers as repetition `r` uses them; none is DESC_INVALID (R428). -/
def drsAt (w r : Nat) (drs : SMap (Option DReg)) : Option (SMap (Option DReg)) :=
  (tensorRegs w).eraseDups.foldl (fun acc n =>
    match acc, drOf drs n with
    | some m, some d =>
      match d.advance r with
      | some d' => some (SMap.set (fun _ => (none : Option DReg)) m n (some d'))
      | none => none
    | acc, _ => acc) (some drs)

/-- The resolved MATMUL of a word with its registers. -/
def matOf (w : Nat) (drs : SMap (Option DReg)) : Option MatCfg :=
  match drOf drs (bits w 68 64), drOf drs (bits w 76 72),
      precLen (bitOf w 124) (bits w 123 112) with
  | some a, some b, some len => matCfg w a b len
  | _, _, _ => none

/-- Stage 2 of R453: an Expert value is used. -/
def opExpert (w : Nat) : Bool :=
  match opCode w with
  | 0x02 => matExpert w
  | 0x04 => bitOf w 124 || bits w 66 65 == 3
  | 0x05 => bitOf w 108
  | _ => false

/-- Stage 3 of R453: field values and combinations; false is OP_INVALID. -/
def State.stage3 (s : State) (e : OpEnv) (w : Nat) (drs : SMap (Option DReg)) : Bool :=
  match opCode w with
  | 0x02 =>
    let f := matWord w
    matWordOk w e.node && s.matAreasOk f e.node drs && drP drs f.drA (matAOk f drs) &&
    drP drs f.drB (matBOk f) &&
    (match matOf w drs with
     | none => true
     | some c => s.matCfgOk e.node drs c)
  | 0x03 => moveOk (moveWord w) drs
  | 0x04 => s.egOk e.node w drs
  | 0x05 => s.topkOk w drs
  | 0x06 => s.mergeOk w drs
  | 0x07 => s.maskGenOk e.node w drs
  | 0x08 => (bitOf w 64 || bitOf w 68) && (!bitOf w 64 || decide (bits w 67 65 ≤ 4)) &&
      (!bitOf w 68 || decide (bits w 71 69 ≤ 4))
  | 0x09 | 0x0A => decide (bits w 69 68 < (if bitOf w 70 then 4 else 2))
  | 0x0F =>
    let l := bits w 88 80
    bitOf l e.node && (upto 9).all fun n => !bitOf l n || bitOf e.buf.lanes n
  | 0x10 =>
    let l := bits w 88 80
    bitOf l e.node && decide (2 ≤ ((upto 9).filter fun n => bitOf l n).length) &&
    (upto 9).all fun n => !bitOf l n ||
      (bitOf e.buf.lanes n && decide (bits w 69 64 < e.buf.counters n))
  | _ => true

/-- The registers an operation names under its settings (R450, R454). -/
def opRegs (w : Nat) (streamed : Bool) : List Nat :=
  match opCode w with
  | 0x02 =>
    let f := matWord w
    [f.drA, f.drB] ++ (if f.spillEn then [f.drSpill] else []) ++
      (if f.margin then [f.drTopk] else []) ++ (if streamed then [f.drPart] else [])
  | 0x03 =>
    let f := moveWord w
    (if f.kind = 4 then [] else [f.src]) ++ [f.dst] ++ (if f.kind = 3 then [f.idx] else [])
  | 0x04 => egRegs w
  | 0x05 => [bits w 68 64, bits w 76 72] ++ (if bitOf w 70 then [bits w 84 80] else [])
  | 0x06 => [bits w 68 64, bits w 76 72, bits w 84 80] ++
      (if bitOf w 69 then [bits w 92 88] else [])
  | 0x07 => bits w 76 72 :: (if bitOf w 64 then [bits w 84 80] else [])
  | _ => []

/-- Stage 4 of R453 beyond valid registers: index limits in one repetition (R142, R143). -/
def stage4 (w : Nat) (drs : SMap (Option DReg)) : Bool :=
  match opCode w with
  | 0x02 =>
    match matOf w drs with
    | none => true
    | some c => matIndexOk c
  | 0x04 =>
    let f := egWord w
    let uses := (!f.nearest && f.outKind == 0) || f.outKind == 3 || (f.mask && !f.maskTensor)
    (drP drs f.drOut fun d =>
      (!uses || (decide (d.originR + d.rows ≤ 2 ^ 24) && decide (d.originC + d.cols ≤ 2 ^ 24)))
      && (f.k == 0 || decide (d.originC + d.cols ≤ 2 ^ 24)))
  | 0x05 => drP drs (bits w 68 64) fun d => decide (d.originC + d.cols ≤ 2 ^ 24)
  | 0x07 =>
    drP drs (if bitOf w 64 then bits w 84 80 else bits w 76 72) fun d =>
      decide (d.originR + d.rows ≤ 2 ^ 24) && decide (d.originC + d.cols ≤ 2 ^ 24)
  | _ => true

/-- References of an operation in one repetition, in ascending order of their fields. -/
def opRefs (w : Nat) (streamed : Bool) (drs : SMap (Option DReg)) : List RefUse :=
  let rd := fun n => match drOf drs n with
    | none => []
    | some d => readUses d
  match opCode w with
  | 0x02 =>
    let f := matWord w
    rd f.drA ++ rd f.drB ++ (if f.spillEn then areaUse drs f.drSpill true true true else []) ++
      (if f.margin then areaUse drs f.drTopk false true false else []) ++
      (if streamed then areaUse drs f.drPart true true false else [])
  | 0x03 =>
    let f := moveWord w
    let sz := fun n (rd wr at' : Bool) => match drOf drs n with
      | none => []
      | some d => [(⟨d.ref, if f.kind = 0 ∨ 4 ≤ f.kind then f.bytes else d.extent, rd, wr, at'⟩
          : RefUse)]
    (if f.kind = 4 then [] else sz f.src true false false) ++
      sz f.dst false (decide (f.kind ≠ 5)) (decide (f.kind = 5)) ++
      (if f.kind = 3 then areaUse drs f.idx true false false else [])
  | 0x04 => egRefs w drs
  | 0x05 => rd (bits w 68 64) ++ areaUse drs (bits w 76 72) (bitOf w 69) true false ++
      (if bitOf w 70 then areaUse drs (bits w 84 80) false true false else [])
  | 0x06 => areaUse drs (bits w 68 64) true false false ++
      areaUse drs (bits w 76 72) false true false ++ areaUse drs (bits w 84 80) false true false ++
      (if bitOf w 69 then areaUse drs (bits w 92 88) false true false else [])
  | 0x07 => areaUse drs (bits w 76 72) false true false
  | 0x09 => [⟨bits w 191 128, tileBytes (if bitOf w 70 then 0 else 1), false, true, false⟩]
  | 0x0A => [⟨bits w 191 128, tileBytes (if bitOf w 70 then 0 else 1), true, false, false⟩]
  | 0x0D => [⟨bits w 127 64, 8, false, !bitOf w 191, bitOf w 191⟩]
  | 0x0E => [⟨bits w 127 64, 8, true, false, false⟩]
  | _ => []

/-- The inline reference of an operation, if it has one (R450). -/
def inlineRef (w : Nat) : Nat :=
  match opCode w with
  | 0x09 | 0x0A => bits w 191 128
  | 0x0D | 0x0E => bits w 127 64
  | _ => 0

/-- What an operation states on its relocated addresses, after the handle checks (R487, R490,
R195, R323). `u` is the relocated inline reference. -/
def State.stage5 (s : State) (e : OpEnv) (w u : Nat) (drs : SMap (Option DReg)) :
    Option FaultCode :=
  match opCode w with
  | 0x03 =>
    if bits w 68 66 = 5 then
      match drOf drs (bits w 84 80) with
      | some d => if atomicOk d.uda 8 then none else some .atomicInvalid
      | none => none
    else none
  | 0x09 | 0x0A =>
    if u % 64 = 0 ∧ s.inPlate e.node u (tileBytes (if bitOf w 70 then 0 else 1)) = true then none
    else some .opInvalid
  | 0x0D =>
    if u % 8 ≠ 0 then some .opInvalid
    else if bitOf w 191 = true ∧ (regionOf u = .host ∨ regionOf u = .regs) then
      some .atomicInvalid
    else if regionOf u = .regs then some .addrInvalid
    else none
  | 0x0E =>
    if u % 8 ≠ 0 then some .opInvalid
    else if regionOf u = .regs then some .addrInvalid
    else none
  | _ => none

/-- R463, R428: in the last repetition too, B's extent and origin along k are A's (DEDUCED, log entry
50). -/
def repShapeOk (w : Nat) (dN : SMap (Option DReg)) : Bool :=
  match opCode w with
  | 0x02 =>
    match matOf w dN with
    | none => true
    | some c => c.bK == (c.k, c.ko)
  | _ => true

/-- A check's error with no address. -/
def Ctx.bad (c : Ctx) (code : FaultCode) : Ctx :=
  if c.err.isSome then c else { c with err := some ⟨code, 0, 0, 0⟩ }

/-- Stages 1 to 5 of R453 for an operation with the registers it captures, for repetitions 0 and
REPEAT (R428). Answers also the last reference's address: that of the inline reference, of an
operation that has one. TENSOR_DESC is checked where it runs
(R404, R405). -/
def Ctx.checkOp (c : Ctx) (e : OpEnv) (w : Nat) (drs : SMap (Option DReg)) : Ctx × Nat :=
  if stage1 e w = false then (c.bad .opInvalid, 0)
  else if opExpert w = true ∧ e.expert = false then (c.bad .expertLocked, 0)
  else if c.s.stage3 e w drs = false then (c.bad .opInvalid, 0)
  else
    let streamed := match matOf w drs with
      | some m => m.streamed
      | none => false
    let streamed := decide (opCode w = 0x02) && streamed
    if (opRegs w streamed).all (fun n => (drOf drs n).isSome) = false then
      (c.bad .descInvalid, 0)
    else
      match drsAt w (opRepeat w) drs with
      | none => (c.bad .descInvalid, 0)
      | some dN =>
        if repShapeOk w dN = false then (c.bad .opInvalid, 0)
        else if stage4 w drs = false ∨ stage4 w dN = false then (c.bad .descInvalid, 0)
        else
          let r := c.relocateAll e (opRefs w streamed drs)
          let r := if opRepeat w = 0 then r else r.1.relocateAll e (opRefs w streamed dN)
          if r.1.err.isSome then r
          else
            match c.s.stage5 e w r.2 drs with
            | some code => ({ r.1 with err := some ⟨code, r.2, inlineRef w, 0⟩ }, r.2)
            | none => r

/-! ### TENSOR_DESC -/

/-- R404, R405, R459: the register a TENSOR_DESC loads, from the 64 bytes of its descriptor;
none is DESC_INVALID. Relocation disregards rights. -/
def Ctx.loadDesc (c : Ctx) (e : OpEnv) (w : Nat) (d : List Byte) : Ctx × Option DReg :=
  let r := dregOfBytes d
  match refAdd r.ref (signedOf 40 (bits w 167 128)),
      originAdd r.originR (signedOf 32 (bits w 223 192)),
      originAdd r.originC (signedOf 32 (bits w 255 224)) with
  | some rf, some o1, some o2 =>
    let r := { r with ref := rf, originR := o1, originC := o2 }
    if r.fieldsOk = false then (c.bad .descInvalid, none)
    else
      let a := c.relocate e ⟨r.ref, r.extent, false, false, false⟩
      let b := if r.block64 then a.1.relocate e ⟨r.expRef, r.expExtent, false, false, false⟩
        else (a.1, 0)
      if b.1.err.isSome then (b.1, none)
      else if a.2 % elemAlign r.elem ≠ 0 then (b.1.bad .descInvalid, none)
      else (b.1, some { r with uda := a.2, expUda := b.2 })
  | _, _, _ => (c.bad .descInvalid, none)

end Sys2Proof.Machine
end

