-- ==== Sys2Proof/Machine/Link.lean ====
section
/-! DEFINITION. The Cunery link layer below its commands: packets and frames as bytes (R692, R764),
sending with sequence numbers and credits (R696, R703), acknowledgements (R697), and the originating
of adverts (R744, R749), which every change of a port's state brings about. -/

namespace Sys2Proof.Machine

/-! ### Ports -/

/-- A FAB_LINK_ register of port `p` (R740). -/
def lk (p o : Nat) : Nat := o + 0x100 * p

/-- A port. -/
def State.port (s : State) (p : Nat) : Port := SMap.get State.portD s.ports p

/-- Replace a port. -/
def State.setPort (s : State) (p : Nat) (x : Port) : State :=
  { s with ports := SMap.set State.portD s.ports p x }

/-- FAB_LINK_STATE.STATE (R740): 0 DISABLED, 1 DETECT, 2 TRAIN, 3 INIT, 4 SPEED, 5 ACTIVE,
6 QUARANTINED, 7 DOWN, 8 FAST_TRAIN. -/
def State.linkSt (s : State) (p : Nat) : Nat := s.fld (lk p Reg.FAB_LINK_STATE) 3 0

/-- Enter a link state with the rate and width it shows. -/
def State.setLink (s : State) (p st rate width : Nat) : State :=
  let o := lk p Reg.FAB_LINK_STATE
  ((s.setFld o 3 0 st).setFld o 5 4 rate).setFld o 9 6 width

/-- The port carries frames: ACTIVE or QUARANTINED. -/
def State.linkUp (s : State) (p : Nat) : Bool := s.linkSt p == 5 || s.linkSt p == 6

/-- Set an event bit (R740). -/
def State.linkEvent (s : State) (p n : Nat) : State :=
  let o := lk p Reg.FAB_LINK_EVENTS
  s.setReg o (s.reg o ||| 2 ^ n)

/-! ### Packets -/

/-- R765: the virtual channel of a packet type; none is reserved. -/
def ptypeVc (t : Nat) : Option Nat :=
  if t = 0x01 ∨ t = 0x02 ∨ t = 0x03 ∨ t = 0x04 ∨ t = 0x05 then some 0
  else if t = 0x81 ∨ t = 0x82 ∨ t = 0x85 ∨ t = 0x8F then some 1
  else if t = 0x40 ∨ t = 0x41 then some 2
  else none

/-- Virtual channel of a packet. -/
def Pkt.vc (k : Pkt) : Nat := (ptypeVc k.ptype).getD 0

/-- R764: the bytes of a packet; reserved bits are written as 0 (R10). An SP16 add carries the free
packet type that stands for the one R765 does not give (log entry 31). -/
def pktBytes (k : Pkt) : List Byte :=
  leBytes 1 (if k.sp16 then Config.sp16Ptype.toNat else k.ptype) ++ leBytes 1 (k.nflags % 32) ++ leBytes 2 k.dst ++ leBytes 2 k.src ++
  leBytes 2 k.dlen ++ leBytes 4 k.epoch ++ leBytes 4 k.pseq ++ leBytes 8 k.off ++
  leBytes 4 k.inc ++ leBytes 2 k.tag ++ leBytes 1 k.status ++ leBytes 1 k.hops ++ k.data

/-- Field of a byte string. -/
def fieldAt (l : List Byte) (o n : Nat) : Nat := ofLeBytes ((l.drop o).take n)

/-- R764: the packet that bytes spell. -/
def pktOfBytes (port : Nat) (l : List Byte) : Pkt :=
  let t := fieldAt l 0 1
  let sp := (ptypeVc t).isNone && t == Config.sp16Ptype.toNat
  { from? := some port, sp16 := sp, sat := 0, ptype := if sp then 0x03 else t,
    nflags := fieldAt l 1 1 % 32,
    dst := fieldAt l 2 2 % 4096, src := fieldAt l 4 2 % 4096, dlen := fieldAt l 6 2,
    epoch := fieldAt l 8 4, pseq := fieldAt l 12 4, off := fieldAt l 16 8 % 2 ^ 35,
    inc := fieldAt l 24 4, tag := fieldAt l 28 2, status := fieldAt l 30 1,
    hops := fieldAt l 31 1, data := l.drop 32 }

/-- A packet's length in bytes, and the credits it uses (R702). -/
def Pkt.len (k : Pkt) : Nat := 32 + k.data.length
def Pkt.credits (k : Pkt) : Nat := cdiv k.len 64

/-- R702: credits of each virtual channel's receive buffer. -/
def vcSize (vc : Nat) : Nat := if vc = 2 then 64 else 512

/-- Free credits of a receive buffer: its size less what its packets in the router hold. -/
def State.vcFree (s : State) (p vc : Nat) : Nat :=
  vcSize vc - (s.router.foldl (fun n k =>
    if k.from? = some p ∧ k.vc = vc then n + k.credits else n) 0)

/-- R703: a packet leaves its receive buffer, and its credits are released. -/
def State.releasePkt (s : State) (k : Pkt) : State :=
  match k.from? with
  | none => s
  | some p =>
    let x := s.port p
    s.setPort p { x with rel := setNth ((nth 0 x.rel k.vc + k.credits) % 65536) x.rel k.vc }

/-! ### Frames -/

/-- Pad to a multiple of 8 bytes. -/
def pad8 (l : List Byte) : List Byte := l ++ List.replicate ((8 - l.length % 8) % 8) 0

/-- R692, R693: a frame's bytes. -/
def frameBytes (ftype vc seq ack len : Nat) (cr : List Nat) (tgen : Nat) (payload : List Byte) :
    List Byte :=
  let body := leBytes 1 ftype ++ leBytes 1 vc ++ leBytes 2 seq ++ leBytes 2 ack ++ leBytes 2 len ++
    leBytes 2 (nth 0 cr 0) ++ leBytes 2 (nth 0 cr 1) ++ leBytes 2 (nth 0 cr 2) ++ leBytes 2 tgen ++
    pad8 payload
  body ++ leBytes 4 (crc32c body) ++ leBytes 4 0

/-- Send a frame on a port with its current acknowledgement and credits (R692, R695). INIT frames
acknowledge nothing. -/
def State.txFrame (s : State) (p ftype vc seq : Nat) (payload : List Byte) : State :=
  let x := s.port p
  let ack := if ftype = 4 then 0 else (x.rxE + 4095) % 4096 + 32768
  s.emit (.frame p ftype (frameBytes ftype vc seq ack payload.length x.rel x.tgen payload))

/-- Credits a port has for a virtual channel. -/
def Port.credits (x : Port) (vc : Nat) : Nat := nth 0 x.credit vc

/-- R696, R703: a new data frame may be sent. -/
def Port.maySend (x : Port) (vc n : Nat) : Bool :=
  x.todo == 0 && decide (x.retry.length < 1024) && decide (n ≤ x.credits vc)

/-- R696, R703: send a new data frame. -/
def State.sendData (s : State) (p vc : Nat) (payload : List Byte) : State :=
  let x := s.port p
  let n := cdiv payload.length 64
  let s := s.setPort p { x with
    txSeq := (x.txSeq + 1) % 4096,
    retry := x.retry ++ [⟨x.txSeq, vc, payload⟩],
    credit := setNth (x.credits vc - n) x.credit vc }
  (s.bump64 (lk p Reg.FAB_LINK_TX_BYTES) payload.length).txFrame p 1 vc x.txSeq payload

/-- Resend frames in order, counting each (R700, R725). -/
def State.resend (s : State) (p : Nat) (l : List RetryRec) : State :=
  l.foldl (fun s r =>
    (s.bump (lk p Reg.FAB_LINK_REPLAYS) 1).txFrame p 1 r.vc r.seq r.payload) s

/-- R725: resend, as credit allows, the frames a resuming INIT left. -/
def State.pumpResend (s : State) (p : Nat) : Nat → State
  | 0 => s
  | n + 1 =>
    let x := s.port p
    if x.todo = 0 then s
    else
      match x.retry.drop (x.retry.length - x.todo) with
      | [] => s.setPort p { x with todo := 0 }
      | r :: _ =>
        let c := cdiv r.payload.length 64
        if x.credits r.vc < c then s
        else
          let s := s.setPort p { x with
            todo := x.todo - 1, credit := setNth (x.credits r.vc - c) x.credit r.vc }
          (s.resend p [r]).pumpResend p n

/-- Send the management packets that wait, as credit and retry space allow. -/
def State.pumpMgt (s : State) (p : Nat) : List (List Byte) → State
  | [] => s.setPort p { s.port p with mgtq := [] }
  | m :: t =>
    if (s.port p).maySend 2 (cdiv m.length 64) then (s.sendData p 2 m).pumpMgt p t
    else s.setPort p { s.port p with mgtq := m :: t }

/-- Send what waits on a port. -/
def State.pump (s : State) (p : Nat) : State :=
  if s.linkUp p then
    let s := s.pumpResend p (s.port p).todo
    s.pumpMgt p (s.port p).mgtq
  else s

/-- Hand a management packet to a port that is ACTIVE. -/
def State.sendMgt (s : State) (p : Nat) (payload : List Byte) : State :=
  if s.linkSt p = 5 then
    (s.setPort p { s.port p with mgtq := (s.port p).mgtq ++ [payload] }).pump p
  else s

/-- What a received frame is (R694). -/
inductive FrameCheck where
  | good | stale | bad
  deriving DecidableEq, Repr

/-- R694: check a frame against the peer's training generation. -/
def checkFrame (peerTgen : Nat) (f : List Byte) (coding : Bool) : FrameCheck :=
  let ft := fieldAt f 0 1
  let vc := fieldAt f 1 1
  let len := fieldAt f 6 2
  let n := 16 + cdiv len 8 * 8
  let legal := decide (1 ≤ ft) && decide (ft ≤ 5) &&
    (if ft = 1 then decide (vc % 4 ≤ 2) && decide (32 ≤ len) && decide (len ≤ 288)
     else vc % 4 == 0 && (if ft = 4 then len == 64 else len == 0))
  if coding ∨ f.length ≠ n + 8 ∨ legal = false ∨ fieldAt f n 4 ≠ crc32c (f.take n) then .bad
  else if ft = 4 ∨ ft = 5 then .good
  else if fieldAt f 14 2 = peerTgen then .good
  else .stale

/-- R697: an ACK_SEQ covers a frame. -/
def ackCovers (ack seq : Nat) : Bool := decide ((ack + 4096 - seq % 4096) % 4096 < 1024)

/-- R695, R697, R703: what every good frame tells of acknowledgement and credit. -/
def State.noteFrame (s : State) (p : Nat) (f : List Byte) : State :=
  let x := s.port p
  let ack := fieldAt f 4 2
  let keep := if bitOf ack 15 then x.retry.filter fun r => !ackCovers (ack % 4096) r.seq
    else x.retry
  let gone := x.retry.length - keep.length
  let crs := [fieldAt f 8 2, fieldAt f 10 2, fieldAt f 12 2]
  let credit := (upto 3).map fun v =>
    x.credits v + (nth 0 crs v + 65536 - nth 0 x.crSeen v) % 65536
  (s.setPort p { x with
    retry := keep, old := x.old - gone, todo := min x.todo keep.length, credit := credit,
    crSeen := crs, good := true }).pump p

/-- R694: count a bad frame; a bad DATA frame causes a NACK, once per E (R699). -/
def State.badFrame (s : State) (p : Nat) (f : List Byte) (c : FrameCheck) : State :=
  let s := s.bump (lk p (if c = .stale then Reg.FAB_LINK_STALE else Reg.FAB_LINK_CRC_ERR)) 1
  if fieldAt f 0 1 = 1 ∧ (s.port p).nacked = false then
    (s.setPort p { s.port p with nacked := true }).txFrame p 3 0 0 []
  else s

/-! ### Adverts and the epoch -/

/-- R748: `e` is newer than `f`. -/
def epochNewer (e f : Nat) : Bool :=
  let d := (e + 2 ^ 32 - f % 2 ^ 32) % 2 ^ 32
  decide (1 ≤ d) && decide (d < 2 ^ 31)

/-- R744: the bytes of an advert. -/
def advertBytes (a : Advert) : List Byte :=
  leBytes 8 a.uid ++ leBytes 4 a.inc ++ leBytes 4 a.aseq ++ leBytes 4 a.epoch ++
  leBytes 2 (a.addr % 4096 + 32768 * b2n (bitOf a.addr 15)) ++ leBytes 2 a.fw ++ leBytes 1 (b2n a.remap) ++ leBytes 7 0 ++
  leBytes 8 a.origin ++ leBytes 4 a.mapEpoch ++ leBytes 4 0 ++
  a.ports.flatMap fun x => leBytes 1 x.pstate ++ leBytes 1 x.peerPort ++ leBytes 6 0 ++
    leBytes 8 x.peerUid

/-- R744: the advert that a payload spells. -/
def advertOf (via : Nat) (l : List Byte) : Advert :=
  { uid := fieldAt l 0 8, inc := fieldAt l 8 4, aseq := fieldAt l 12 4, epoch := fieldAt l 16 4,
    addr := fieldAt l 20 2, fw := fieldAt l 22 2, remap := bitOf (fieldAt l 24 1) 0,
    origin := fieldAt l 0x20 8, mapEpoch := fieldAt l 0x28 4,
    ports := (upto 6).map fun p =>
      ⟨fieldAt l (0x30 + 16 * p) 1, fieldAt l (0x31 + 16 * p) 1, fieldAt l (0x38 + 16 * p) 8⟩,
    via := some via, dup := false }

/-- A management packet: network header with PTYPE, EPOCH and INC only (R764), then the payload. -/
def State.mgtPkt (s : State) (ptype : Nat) (payload : List Byte) : List Byte :=
  pktBytes { from? := none, sp16 := false, sat := 0, ptype := ptype, nflags := 0, dst := 0, src := 0, dlen := 0,
             epoch := s.reg Reg.FAB_EPOCH, pseq := 0, off := 0, inc := s.incarnation, tag := 0,
             status := 0, hops := 0, data := payload }

/-- Own UID (R742). -/
def State.uid (s : State) : Nat := s.reg64 Reg.FAB_UID

/-- The fabric state is not OFF (R741). -/
def State.fabOn (s : State) : Bool := s.fld Reg.FAB_STATE 1 0 != 0

/-- Enter SETTLING (R749), unless the fabric is OFF. -/
def State.settling (s : State) : State :=
  if s.fabOn then s.setFld Reg.FAB_STATE 1 0 2 else s

/-- R744: one own port as the advert lists it. -/
def State.advPort (s : State) (p : Nat) : AdvPort :=
  let uid := s.reg64 (lk p Reg.FAB_LINK_PEER_UID)
  let pp := s.fld (lk p Reg.FAB_LINK_PEER_INFO) 2 0
  if s.linkSt p = 5 then ⟨if s.fab.excluded.contains uid then 3 else 1, pp, uid⟩
  else if s.linkSt p = 6 then ⟨2, pp, uid⟩
  else ⟨0, 0, 0⟩

/-- Insert or replace an advert in the database, in ascending UID. -/
def dbPut (a : Advert) : List Advert → List Advert
  | [] => [a]
  | b :: t =>
    if a.uid < b.uid then a :: b :: t else if a.uid = b.uid then a :: t else b :: dbPut a t

/-- R744: the advert this device would originate now. -/
def State.ownAdvert (s : State) : Advert :=
  { uid := s.uid, inc := s.incarnation, aseq := s.fab.aseq, epoch := s.reg Reg.FAB_EPOCH,
    addr := s.ownAddr + 32768 * b2n (bitOf (s.reg Reg.FAB_STATE) 2),
    fw := s.fld Reg.ALM_FW_INFO 15 0, remap := s.fab.remap,
    origin := s.reg64 Reg.FAB_ORIGIN_UID, mapEpoch := s.reg Reg.FAB_MAP_EPOCH,
    ports := (upto 6).map s.advPort, via := none, dup := false }

/-- Send an advert on every ACTIVE port but one. -/
def State.flood (s : State) (skip : Option Nat) (a : Advert) : State :=
  (upto 6).foldl (fun s p =>
    if some p = skip then s else s.sendMgt p (s.mgtPkt 0x41 (advertBytes a))) s

/-- R744: originate an advert: the next ASEQ, stored and sent. -/
def State.originate (s : State) (skip : Option Nat) : State :=
  if s.fabOn then
    let s := { s with fab := { s.fab with aseq := (s.fab.aseq + 1) % 2 ^ 32 } }
    let a := s.ownAdvert
    ({ s with fab := { s.fab with db := dbPut a s.fab.db } }).flood skip a
  else s

/-- R749: advance the epoch and originate an advert. -/
def State.advanceEpoch (s : State) (skip : Option Nat) : State :=
  if s.fabOn then ((s.bump Reg.FAB_EPOCH 1).settling).originate skip else s

/-- R749: adopt a newer epoch seen in a HELLO, an advert or a packet. -/
def State.adoptEpoch (s : State) (e : Nat) : State :=
  if s.fabOn = true ∧ epochNewer e (s.reg Reg.FAB_EPOCH) = true then
    (s.setReg Reg.FAB_EPOCH e).settling
  else s

/-! ### Link down, discard and the INIT exchange -/

/-- R726: discard the retry buffer and reset the sequence state of both directions. -/
def State.linkDiscard (s : State) (p : Nat) : State :=
  let x := s.port p
  (s.bump (lk p Reg.FAB_LINK_DISCARD) x.retry.length).setPort p { x with
    retry := [], todo := 0, old := 0, txSeq := 0, rxE := 0, rxValid := false, nacked := false }

/-- R721, R722: take a link down; `cause` none leaves FAB_LINK_DOWN_CAUSE (a reset, R737). -/
def State.linkDown (s : State) (p : Nat) (cause : Option Nat) : State :=
  if s.linkUp p = false then s
  else
    let s := match cause with
      | some c => s.setFld (lk p Reg.FAB_LINK_DOWN_CAUSE) 2 0 c
      | none => s
    let s := ((s.bump (lk p Reg.FAB_LINK_DOWNS) 1).linkEvent p 0).setLink p 7 0 0
    let s := s.setPort p { s.port p with
      mgtq := [], misses := 0, init := none, gotSeen := false, fast := true, hello := none,
      began := s.now }
    s.advanceEpoch none

/-- R721: send GOODBYE, then take the link down. -/
def State.goodbye (s : State) (p : Nat) (cause : Option Nat) : State :=
  if s.linkUp p then (s.txFrame p 5 0 0 []).linkDown p cause else s

/-- R720: enter INIT. -/
def State.enterInit (s : State) (p rate width : Nat) : State :=
  (s.setLink p 3 rate width).setPort p { s.port p with
    tgen := ((s.port p).tgen + 1) % 65536, init := none, gotSeen := false, rate := rate,
    width := width }

/-- Enter DETECT; 32 GT/s may be tried again (R718). -/
def State.enterDetect (s : State) (p : Nat) : State :=
  ((s.setLink p 1 0 0).setFld (lk p Reg.FAB_LINK_STATE) 18 18 0).setPort p
    { s.port p with init := none, gotSeen := false, fast := false }

/-- R707: the ack limit advertised: values outside 50 to 800 act as 200. -/
def State.ackLimitReg (s : State) : Nat :=
  let a := s.fld Reg.FAB_LINK_ACK 15 0
  if 50 ≤ a ∧ a ≤ 800 then a else 200

/-- R715: the INIT payload. -/
def State.initPayload (s : State) (p : Nat) : List Byte :=
  let x := s.port p
  leBytes 8 (s.reg64 Reg.FAB_LINK_COMPAT) ++ leBytes 8 s.uid ++ leBytes 1 p ++
  leBytes 1 x.width ++ leBytes 2 (s.fld Reg.ALM_FW_INFO 15 0) ++ leBytes 4 s.incarnation ++
  leBytes 2 s.ackLimitReg ++ leBytes 2 (s.vcFree p 0) ++ leBytes 2 (s.vcFree p 1) ++
  leBytes 2 (s.vcFree p 2) ++ leBytes 2 ((x.rxE + 4095) % 4096 + 32768 * b2n x.rxValid) ++
  leBytes 1 (b2n x.init.isSome) ++ leBytes 29 0

/-- R716: two compatibility words are compatible: bits [47:0] equal, reserved bits ignored. -/
def compatible (a b : Nat) : Bool :=
  bits a 11 0 == bits b 11 0 && bits a 47 16 == bits b 47 16

/-- R724: the INIT just exchanged is resuming. -/
def State.resuming (s : State) (p : Nat) (pl : List Byte) : Bool :=
  s.reg64 (lk p Reg.FAB_LINK_PEER_UID) == fieldAt pl 8 8 &&
  s.fld (lk p Reg.FAB_LINK_PEER_INFO) 2 0 == fieldAt pl 16 1 % 8 &&
  s.reg (lk p Reg.FAB_LINK_PEER_INC) == fieldAt pl 20 4 &&
  bitOf (fieldAt pl 32 2) 15 && (s.port p).sentValid

/-- R719: record the peer. -/
def State.recordPeer (s : State) (p : Nat) (pl : List Byte) : State :=
  let s := s.setReg64 (lk p Reg.FAB_LINK_PEER_UID) (fieldAt pl 8 8)
  let s := s.setReg (lk p Reg.FAB_LINK_PEER_INFO) (fieldAt pl 16 1 % 8 + 65536 * fieldAt pl 18 2)
  let s := s.setReg (lk p Reg.FAB_LINK_PEER_INC) (fieldAt pl 20 4)
  s.setReg64 (lk p Reg.FAB_LINK_PEER_COMPAT) (fieldAt pl 0 8)

/-- R720, R725, R726: the retry buffer, the credits and the ack limit at the end of INIT. -/
def State.initTake (s : State) (p : Nat) (pl : List Byte) : State :=
  let s := if s.resuming p pl then
      let x := s.port p
      let keep := x.retry.filter fun r => !ackCovers (fieldAt pl 32 2 % 4096) r.seq
      s.setPort p { x with retry := keep, todo := keep.length, nacked := false }
    else s.linkDiscard p
  s.setPort p { s.port p with
    rxValid := true, credit := [fieldAt pl 26 2, fieldAt pl 28 2, fieldAt pl 30 2],
    crSeen := [0, 0, 0], rel := [0, 0, 0], ackLimit := max s.ackLimitReg (fieldAt pl 24 2),
    good := false, misses := 0, old := 0 }

/-- R717: whether INIT leads to SPEED. -/
def State.toSpeed (s : State) (p : Nat) (peer : Nat) : Bool :=
  (s.port p).rate == 1 && bits (s.reg64 Reg.FAB_LINK_COMPAT) 11 8 == 2 && bits peer 11 8 == 2 &&
  s.fld (lk p Reg.FAB_LINK_STATE) 18 18 == 0

/-- Enter ACTIVE or QUARANTINED: adverts, and the frames to be resent (R725, R744, R745). -/
def State.linkEnter (s : State) (p st : Nat) : State :=
  let x := s.port p
  let s := (s.setLink p st x.rate x.width).setPort p { x with
    old := x.retry.length, good := false, misses := 0, init := none, fast := false }
  let s := if st = 6 then s.linkEvent p 1 else s
  let s := (s.pump p).advanceEpoch (some p)
  if st = 5 then s.fab.db.foldl (fun s a => s.sendMgt p (s.mgtPkt 0x41 (advertBytes a))) s else s

/-- R719: the INIT exchange ends. -/
def State.initEnd (s : State) (p : Nat) (pl : List Byte) : State :=
  let peer := fieldAt pl 0 8
  let s := (s.initTake p pl).recordPeer p pl
  if compatible (s.reg64 Reg.FAB_LINK_COMPAT) peer then
    if s.toSpeed p peer then
      (s.setLink p 4 2 0).setPort p { s.port p with init := none, gotSeen := false, began := s.now }
    else s.linkEnter p 5
  else s.linkEnter p 6

/-- R713: the width a set of good lanes gives: 8, 4 (lanes 0 to 3, else 4 to 7), or none. -/
def laneWidth (m : Nat) : Option Nat :=
  if m % 256 = 255 then some 8
  else if m % 16 = 15 then some 4
  else if m / 16 % 16 = 15 then some 4
  else none

/-- R740: the duration of a training, in µs, saturating. -/
def State.trainUs (s : State) (p : Nat) : State :=
  s.setReg (lk p Reg.FAB_LINK_TRAIN_US) (min 65535 ((s.now - (s.port p).began) / 36000000))

end Sys2Proof.Machine
end

