-- ==== Sys2Proof/Machine/Pins.lean ====
section
/-! DEFINITION. The multi-function pins: functions, levels and the start of a switch (R900 to R904);
and the test access port (R909, R912). -/

namespace Sys2Proof.Machine

/-- What a pin or power event answers. -/
abbrev PwrOut := Host.Outcome State Fault Refusal

/-! ### Functions and levels -/

/-- R900: the function codes permitted on pin `n`. -/
def funcOk (n f : Nat) : Bool :=
  f == 0 || f == 1 || f == 9 || (f == 2 && decide (6 ≤ n)) || (f == 3 && n == 5) ||
  (f == 4 && n == 2) || (f == 5 && n == 3) || (f == 6 && n == 0) || (f == 7 && n == 1) ||
  (f == 8 && n == 4) || (f == 10 && decide (6 ≤ n))

/-- R902: the function of pin `n` in a profile. -/
def profileFunc (prof n : Nat) : Nat :=
  if n = 0 then (if prof = 1 then 0 else 6)
  else if n = 1 then (if prof = 1 then 0 else 7)
  else if n = 2 then (if prof = 2 then 9 else 4)
  else if n = 3 then (if prof = 2 then 9 else 0)
  else if n = 4 then 8
  else if n = 5 then 3
  else (if prof = 2 then 10 else 2)

/-- Offset of PIN_MUX_n. -/
def muxReg (n : Nat) : Nat := Reg.PIN_MUX + 4 * n

/-- PIN_MUX_n.FUNC. -/
def State.mux (s : State) (n : Nat) : Nat := s.fld (muxReg n) 3 0

/-- A pin's park, if it is being switched. -/
def State.park (s : State) (n : Nat) : Option Park := SMap.get State.parkD s.parks n

/-- The function that owns a pin; none while it is parked. -/
def State.pinFn (s : State) (n : Nat) : Option Nat :=
  if (s.park n).isSome then none else some (s.mux n)

/-- R900: the level of a pin under a function: what an output drives, else what the board or the
keeper holds. The phase of a toggling LED_LINK is a free value. -/
def State.fnLevel (s : State) (n f : Nat) : Bool :=
  let out := bitOf (s.reg Reg.PIN_GPIO_OUT) n
  let ball := bitOf s.balls n
  if f = 1 then out
  else if f = 3 then false
  else if f = 4 then true
  else if f = 9 then !out && ball
  else if f = 10 then
    let st := s.linkSt (n - 6)
    if st = 5 then false
    else if st ∈ [2, 3, 4, 6, 8] then
      Config.freeNat 0 (s.now / (250000000 * 36000)) % 2 == 1 && ball
    else ball
  else ball

/-- R904: the level of a pin: a parked pin keeps its level of c0. -/
def State.pinLevel (s : State) (n : Nat) : Bool :=
  match s.park n with
  | some k => k.level
  | none => s.fnLevel n (s.mux n)

/-- PIN_IN (R919). -/
def State.pinIn (s : State) : Nat :=
  (upto 12).foldl (fun v n => v + b2n (s.pinLevel n) * 2 ^ n) 0

/-- PIN_LINK_PRESENT (R901, R919): the level is low on a pin whose function is LINK_PRESENT. -/
def State.linkPresent (s : State) : Nat :=
  (upto 6).foldl (fun v p => v + b2n (s.pinFn (6 + p) == some 2 && !s.pinLevel (6 + p)) * 2 ^ p) 0

/-- R904: begin a switch. -/
def State.startSwitch (s : State) (n f : Nat) : State :=
  let lv := s.pinLevel n
  let s' := { s with parks := SMap.set State.parkD s.parks n (some ⟨s.mux n, lv, none⟩) }
  (s'.setFld (muxReg n) 3 0 f).setFld Reg.PIN_STATUS n n 1

/-- R906: a write of the function in force starts no switch. -/
def State.switchTo (s : State) (n f : Nat) : State :=
  if s.mux n = f then s else s.startSwitch n f

/-! ### The TAP -/

/-- Select an instruction: the register it shifts, and what it drives. -/
def State.tapSelect (s : State) (ir drive : Nat) (debug : Bool) : State :=
  let s' := { s with tap := { s.tap with ir := ir, drive := drive, debug := debug } }
  s'.setFld Reg.DBG_TAP 2 2 (b2n debug)

/-- R909: the 1-bit bypass register, which captures 0. -/
def State.tapBypassed (s : State) : State := (s.tapSelect 0xFF 0 false).emit (.tdo 1 0)

/-- R909: TRST_N or five TMS cycles: IDCODE is selected. -/
def execTapReset (s : State) : PwrOut := .next (s.tapSelect 0x01 0 false)

/-- R909: IDCODE. -/
def execTapIdcode (s : State) : PwrOut :=
  .next ((s.tapSelect 0x01 0 false).emit (.tdo 32 0x15E1858F))

/-- R909, R910: SAMPLE/PRELOAD: the captured cells come out, the preloaded ones stay. -/
def execTapSamplePreload (captured preload : Nat) (s : State) : PwrOut :=
  .next <|
    let s := s.tapSelect 0x02 0 false
    ({ s with tap := { s.tap with bscan := preload % 2 ^ 1192 } }).emit
      (.tdo 1192 (captured % 2 ^ 1192))

/-- R909: EXTEST while PERST_N is low: the preloaded cells drive the balls. -/
def execTapExtest (s : State) : PwrOut :=
  .next (if s.perst then s.tapSelect 0x03 1 false else s.tapBypassed)

/-- R909: CLAMP while PERST_N is low. -/
def execTapClamp (s : State) : PwrOut :=
  .next (if s.perst then (s.tapSelect 0x04 2 false).emit (.tdo 1 0) else s.tapBypassed)

/-- R909: HIGHZ while PERST_N is low. -/
def execTapHighz (s : State) : PwrOut :=
  .next (if s.perst then (s.tapSelect 0x05 3 false).emit (.tdo 1 0) else s.tapBypassed)

/-- R912: DBG_SELECT opens the vendor debug TAP when the fuse and the almanac allow it. -/
def execTapDbgSelect (s : State) : PwrOut :=
  .next <|
    if Config.debugDisable = false ∧ bitOf (s.reg Reg.DBG_TAP) 1 = true then
      let s' := s.tapSelect 0x20 0 true
      if s.tap.debug then s'
      else s'.setFld Reg.DBG_TAP 31 16 (s.fld Reg.DBG_TAP 31 16 + 1)
    else s.tapBypassed

/-- R909: BYPASS, and every code without an instruction. -/
def execTapBypass (s : State) : PwrOut := .next s.tapBypassed

end Sys2Proof.Machine
end

