-- ==== Sys2Proof/Machine/Power.lean ====
section
/-! DEFINITION. Clock, power and thermal management: the governed power (R838), the governor (R841),
changes of operating point (R835) with the PMBus host (R850), thermal sensing and the trip (R852 to
R854), the brake (R856), telemetry (R857) and the watermarks (R859, R860, R938); and pin switches,
which the PMBus host takes part in (R904 to R908). -/

namespace Sys2Proof.Machine

/-- PWR_OP.CUR. -/
def State.op (s : State) : Nat := s.fld Reg.PWR_OP 1 0

/-- PWR_PMB_CFG.EN. -/
def State.pmbEn (s : State) : Bool := bitOf (s.reg Reg.PWR_PMB_CFG) 16

/-- R833: the VOUT_COMMAND word of a point. -/
def State.voutWord (s : State) (p : Nat) : Nat :=
  if p = 0 then s.fld Reg.PWR_VOUT_OP01 15 0
  else if p = 1 then s.fld Reg.PWR_VOUT_OP01 31 16
  else if p = 2 then s.fld Reg.PWR_VOUT_OP23 15 0
  else s.fld Reg.PWR_VOUT_OP23 31 16

/-- R851: the word the estimate uses: that of OP0 at every point when the PMBus host is off. -/
def State.estWord (s : State) (p : Nat) : Nat := s.voutWord (if s.pmbEn then p else 0)

/-- A point's frequency in units of 0.1 GHz (R833). -/
def freqOf (p : Nat) : Nat := 15 - 3 * p

/-- Replace the power state. -/
def State.setPwr (s : State) (f : Power → Power) : State := { s with pwr := f s.pwr }

/-! ### Watermarks -/

/-- R864: SMB_ALERT_N is asserted. -/
def State.smbAlert (s : State) : Bool :=
  bitOf (s.reg Reg.PWR_THERM) 16 ||
  (upto 2).any fun w =>
    bitOf (s.reg (Reg.PWR_WM_STATE + 32 * w)) 1 && bitOf (s.reg (Reg.PWR_WM_ROUTE + 32 * w)) 2

/-- R938, R860: one test of a watermark. -/
def State.wmTest (s : State) (w x : Nat) : State :=
  let o := 32 * w
  let st := s.reg (Reg.PWR_WM_STATE + o)
  let at' := decide (s.reg (Reg.PWR_WM_THRESH + o) ≤ x)
  let up := at' && !bitOf st 0
  let s := s.setReg (Reg.PWR_WM_STATE + o)
    (if up then b2n at' + 2 + min 255 (bits st 15 8 + 1) * 256 else st / 2 * 2 + b2n at')
  let s := s.setReg (Reg.PWR_WM_PEAK + o) (max (s.reg (Reg.PWR_WM_PEAK + o)) x)
  if up then
    let n := nth 0 s.pwr.cross w + 1
    let s := s.setPwr fun p => { p with cross := setNth n p.cross w }
    let rt := s.reg (Reg.PWR_WM_ROUTE + o)
    let s := if bitOf rt 0 then s.notice 7 else s
    let u := s.reg64 (Reg.PWR_WM_PENNANT_UDA + o) % 2 ^ 48
    let s := if bitOf rt 1 = true ∧ u % 8 = 0 ∧ (s.inDram u 8 = true ∨ regionOf u = .host) then
        s.signal .device false ⟨u, true, n⟩
      else s
    if bitOf rt 2 then s.emit (.pin "SMB_ALERT_N" false) else s
  else s

/-! ### PMBus and changes of point -/

/-- Issue a PMBus transaction (R849). -/
def State.pmbStart (s : State) (write : Bool) (word : Nat) : State :=
  (s.setPwr fun p => { p with pmb := some ⟨write, word, 0⟩ }).emit
    (.pmbus write (if write then 0x21 else 0x79) word)

/-- End a change of point. -/
def State.endChange (s : State) : State :=
  (s.setPwr fun p => { p with change := none }).setFld Reg.PWR_OP 9 9 0

/-- R835: start a change of point. -/
def State.startChange (s : State) (target : Nat) : State :=
  let faster := decide (target < s.op)
  let en := s.pmbEn
  let s := (s.setPwr fun p =>
    { p with change := some ⟨target, faster, false, !en, !en⟩ }).setFld Reg.PWR_OP 9 9 1
  if faster && en then s.pmbStart true (s.voutWord target) else s

/-- R856: the change to OP3 that a running change put off. -/
def State.brakeNext (s : State) : State :=
  if s.pwr.brakeDue = true ∧ s.pwr.change.isNone then
    let s := s.setPwr fun p => { p with brakeDue := false }
    if bitOf (s.reg Reg.PWR_GOV) 6 = true ∧ s.op ≠ 3 then s.startChange 3 else s
  else s

/-- R850: a transaction has failed: the ceiling is held at the point in force. -/
def State.pmbFail (s : State) : State :=
  let s := (s.setFld Reg.PWR_PMB_STATUS 17 16 3).setPwr fun p => { p with pin := s.op, pmb := none }
  s.endChange.brakeNext

/-- R835, R850, R908: what follows a transaction that went well. -/
def State.pmbNext (s : State) (t : PmbTrans) : State :=
  let s := s.setPwr fun p => { p with pmb := none }
  match s.pwr.change with
  | none => if t.write then s.pmbStart false 0 else s
  | some c =>
    if c.faster then
      if t.write then s else s.setPwr fun p => { p with change := some { c with ok := true } }
    else if t.write then s.pmbStart false 0 else s.endChange.brakeNext

/-- R907: the write of PIN_MUX that waited for the bus takes effect, and the change in progress
goes on without its PMBus steps (R851). -/
def State.muxRelease (s : State) : State :=
  match s.muxWait with
  | none => s
  | some (n, f) =>
    let s := ({ s with muxWait := none }).switchTo n f
    match s.pwr.change with
    | none => s
    | some c =>
      if c.faster then
        s.setPwr fun p => { p with change := some { c with settled := true, ok := true } }
      else s.endChange.brakeNext

/-- R850: a PMBus transaction ends; `good`: acknowledged, with a right PEC. -/
def execPmbusTransactionDone (good : Bool) (word : Word16) (s : State) : PwrOut :=
  .next <|
    match s.pwr.pmb with
    | none => s
    | some t =>
      if s.perst then s
      else
        let w := word.toNat
        let s := if good && !t.write then s.setFld Reg.PWR_PMB_STATUS 15 0 w else s
        let bad := !t.write && (bitOf w 15 || bitOf w 6 || bitOf w 5 || bitOf w 1)
        if s.alive = false then s.setPwr fun p => { p with pmb := none }
        else if s.muxWait.isSome then
          (s.setPwr fun p => { p with pmb := none }).muxRelease
        else if good = false then
          if t.tries < 3 then
            (s.setPwr fun p => { p with pmb := some { t with tries := t.tries + 1 } }).emit
              (.pmbus t.write (if t.write then 0x21 else 0x79) t.word)
          else s.pmbFail
        else if bad then s.pmbFail
        else s.pmbNext t

/-- R834: the idle PLL has locked. -/
def execPllLocked (s : State) : PwrOut :=
  .next <|
    match s.pwr.change with
    | some c =>
      if s.alive then s.setPwr fun p => { p with change := some { c with locked := true } } else s
    | none => s

/-- R835: SETTLE_US has passed after the write of a faster point's word. -/
def execVoutSettleExpiry (s : State) : PwrOut :=
  .next <|
    match s.pwr.change with
    | some c =>
      if s.alive = true ∧ c.faster = true ∧ c.settled = false ∧ s.pwr.pmb.isNone then
        (s.setPwr fun p => { p with change := some { c with settled := true } }).pmbStart false 0
      else s
    | none => s

/-- R800: FL_SCK in MHz at a Meridian frequency: the smallest divisor of 2 or more that keeps the
limit. -/
def flashMhz (limit op : Nat) : Nat :=
  let f := freqOf op * 100
  f / max 2 (cdiv f limit)

/-- R834, R836: the switch. -/
def State.opSwitch (s : State) (c : OpChange) : State :=
  let s := (s.setFld Reg.PWR_OP 1 0 c.target).bump Reg.PWR_OP_SWITCHES 1
  let s := s.setFld Reg.PWR_GOV 3 0 (if s.pwr.thHold then 8 else 0)
  let s := if s.fld Reg.ALM_FLASH_INFO 8 0 = 0 then s
    else s.setFld Reg.ALM_FLASH_INFO 18 12 (flashMhz s.pwr.flMax c.target)
  if c.faster = true ∨ s.pmbEn = false then s.endChange.brakeNext
  else s.pmbStart true (s.voutWord c.target)

/-- R834: the switch of a change of point. -/
def execOpSwitch (s : State) : PwrOut :=
  .next <|
    match s.pwr.change with
    | some c =>
      if s.alive = true ∧ c.locked = true ∧ (c.faster = true → c.ok = true) ∧ s.op ≠ c.target ∧
          s.pwr.pmb.isNone then
        s.opSwitch c
      else s
    | none => s

/-! ### The governor -/

/-- Energy of the events of a period part, in fJ (R838). -/
def State.energy (s : State) (e : GovEvents) : Nat :=
  e.steps * s.reg Reg.PWR_COEF_STEP + e.plate * s.reg Reg.PWR_COEF_PLATE +
  e.dram * s.reg Reg.PWR_COEF_DRAM + e.link * s.reg Reg.PWR_COEF_LINK

/-- The greatest number below `2^n` that a downward-closed test accepts. -/
def greatest (p : Nat → Bool) : Nat → Nat → Nat
  | 0, acc => acc
  | n + 1, acc => greatest p n (if p (acc + 2 ^ n) then acc + 2 ^ n else acc)

/-- R838: the governed power in whole mW. The power of 2 by 100ths is compared exactly, through
hundredth powers. A word of 0 for OP0 leaves the ratio undefined: the value is free. -/
def State.governed (s : State) (ev : List GovEvents) : Nat :=
  let v0 := s.estWord 0
  if v0 = 0 then Config.freeNat s.fresh 0
  else
    let d := v0 * v0 * 10000000
    let rest := (ev.foldl (fun n e => n + s.estWord e.op * s.estWord e.op * s.energy e) 0)
      + s.reg Reg.PWR_BOARD_ALLOW * d
    let hot := s.fld (Reg.PWR_TJ + 4 * s.fld Reg.PWR_THERM 20 17) 15 0
    let k := signedOf 16 hot - 340
    let stat := (s.reg Reg.PWR_COEF_STATIC * s.estWord s.op * d) ^ 100
    greatest (fun p =>
      decide (p * d ≤ rest) ||
        decide ((p * d - rest) ^ 100 * v0 ^ 100 * 2 ^ (-k).toNat ≤ stat * 2 ^ k.toNat)) 128 0

/-- R840: the ceiling. -/
def State.ceilOp (s : State) : Nat :=
  max (max (s.fld Reg.PWR_OP 5 4) s.pwr.thCeil)
    (if bitOf (s.reg Reg.PWR_PMB_STATUS) 17 then s.pwr.pin else 0)

/-- R840: the cap in force, in mW. -/
def State.capMw (s : State) : Nat :=
  let c := s.fld Reg.PWR_CAP 6 0
  1000 * (if bitOf (s.reg Reg.PWR_GOV) 6 then min c (s.fld Reg.PWR_BRAKE 6 0) else c)

/-- What the governor decides in a period: gate, elastic level, and a change to start. -/
structure GovAct where
  g : Nat
  e : Nat
  go : Option Nat
  deriving DecidableEq, Repr

/-- R841, R843: the governor's decision. `d` is the dwell count after its step, `idle` says that no
change is in progress. -/
def govDecide (op ceil g e d p c maxE : Nat) (idle : Bool) (force : Option Nat)
    (raiseOk : Bool) : GovAct :=
  let aim := force.map fun f => max f ceil
  let slow : Option Nat := match aim with
    | some a => if a ≠ op ∧ idle = true then some a else none
    | none => none
  if op < ceil then ⟨g, e, if idle then some ceil else none⟩
  else if c < p then
    let w := g + cdiv (16 * (p - c)) p
    let stay := decide (w ≤ 4) || op == 3 || decide (0 < d) || !idle || force.isSome
    let g' := if stay then min w 14 else g
    let e' := if op = 3 ∧ 8 ≤ g' ∧ e < maxE then e + 1 else e
    ⟨g', e', if stay then slow else some (op + 1)⟩
  else if 8 * p < 7 * c then
    if 0 < e then ⟨g, e - 1, slow⟩
    else if 0 < g then ⟨g - 1, e, slow⟩
    else if force.isSome then ⟨g, e, slow⟩
    else if ceil < op ∧ d = 0 ∧ idle = true ∧ raiseOk = true then ⟨g, e, some (op - 1)⟩
    else ⟨g, e, none⟩
  else ⟨g, e, slow⟩

/-- R841: the governor acts on the power of the period just ended. -/
def State.govern (s : State) (p : Nat) : State :=
  let op := s.op
  let ceil := s.ceilOp
  let c := s.capMw
  let d := s.pwr.dwell - 1
  let gov := s.reg Reg.PWR_GOV
  let pw := s.reg Reg.PWR_OP
  let va := s.estWord (op - 1)
  let vb := s.estWord op
  let raiseOk := decide (16 * p * freqOf (op - 1) * va * va ≤ 15 * c * freqOf op * vb * vb)
  let r := govDecide op ceil (bits gov 3 0) (bits gov 5 4) d p c
    (s.fld Reg.PWR_ELASTIC_CTRL 17 16) s.pwr.change.isNone
    (if bitOf pw 6 then some (bits pw 8 7) else none) raiseOk
  let g := if s.pwr.thHold then max 8 r.g else r.g
  let s := ((s.setFld Reg.PWR_GOV 3 0 g).setFld Reg.PWR_GOV 5 4 r.e).setFld Reg.PWR_OP 3 2 ceil
  let s := s.setPwr fun q =>
    { q with dwell := if r.go.isSome ∨ op < ceil then 10 else d }
  match r.go with
  | some t => s.startChange t
  | none => s

/-- R838, R841, R859: a governor period ends. `ev` holds its events by operating point. -/
def execGovernorPeriod (ev : List GovEvents) (s : State) : PwrOut :=
  .next <|
    if s.alive = true ∧ s.ready = true then
      let p := s.governed ev
      let s := if s.estWord 0 = 0 then s.bumpFresh else s
      let hist := (p :: s.pwr.hist).take 100
      let avg := hist.foldl (· + ·) 0 / hist.length
      let s := (s.setReg Reg.PWR_P_MW (min p 0xFFFFFFFF)).setReg Reg.PWR_AVG_MW (min avg 0xFFFFFFFF)
      let s := s.setPwr fun q => { q with hist := hist }
      (s.wmTest 0 (min avg 0xFFFFFFFF)).govern p
    else s

/-! ### Temperature -/

/-- A sensor's reading in units of 0.25 °C. -/
def tempOf (l : List Word16) (i : Nat) : Int := signedOf 16 (nth 0 l i).toNat

/-- The hottest of the twelve sensors, the lowest number among equals. -/
def hottest (l : List Word16) : Nat :=
  (upto 12).foldl (fun b i => if tempOf l b < tempOf l i then i else b) 0

/-- R852, R859: the sensors are sampled. -/
def execThermalSample (temps : List Word16) (s : State) : PwrOut :=
  .next <|
    if s.perst then s
    else
      let h := hottest temps
      let tj := tempOf temps h
      let s := (upto 12).foldl (fun s i =>
        s.setReg (Reg.PWR_TJ + 4 * i) (nth 0 temps i).toNat) s
      let s := s.setFld Reg.PWR_THERM 20 17 h
      let now := decide (440 ≤ tj)
      let s := s.setPwr fun p => { p with hot2 := p.hot && now, hot := now }
      s.wmTest 1 (tj + 32768).toNat

/-- R873: THROTTLE_C in force. -/
def State.throttleC (s : State) : Nat := max 60 (min 95 (s.fld Reg.PWR_THERM 7 0))

/-- R853: THROTTLE follows the ceiling and the held gate; each of its edges raises THERMAL. -/
def State.throttleEdge (s : State) : State :=
  let on := decide (s.pwr.thCeil ≠ 0) || s.pwr.thHold
  if on = bitOf (s.reg Reg.PWR_GOV) 7 then s
  else (s.setFld Reg.PWR_GOV 7 7 (b2n on)).notice 6

/-- R853: the 1 ms step of the thermal ceiling. -/
def execThermalCeilingStep (s : State) : PwrOut :=
  .next <|
    if s.alive = true ∧ s.ready = true then
      let tj := signedOf 16 (s.fld (Reg.PWR_TJ + 4 * s.fld Reg.PWR_THERM 20 17) 15 0)
      let t : Int := 4 * s.throttleC
      let c := s.pwr.thCeil
      let s := s.setPwr fun p => { p with
        thHold := decide (t ≤ tj) && decide (3 ≤ c),
        thCeil := if t ≤ tj then min 3 (c + 1) else if tj < t - 12 then c - 1 else c }
      let s := if s.pwr.thHold then s.setFld Reg.PWR_GOV 3 0 (max 8 (s.fld Reg.PWR_GOV 3 0)) else s
      (s.setFld Reg.PWR_OP 3 2 s.ceilOp).throttleEdge
    else s

/-- R854, R868: the trip. -/
def execThermalTrip (s : State) : PwrOut :=
  .next <|
    if s.alive = true ∧ s.pwr.hot2 = true then
      let s := ((s.setFld Reg.PWR_THERM 16 16 1).setFld Reg.PWR_OP 1 0 3).setFld Reg.PWR_OP 9 9 0
      let s := s.setPwr fun p => { p with change := none, thermN := true, brakeDue := false }
      (s.emit (.pin "THERM_N" false)).emit (.pin "SMB_ALERT_N" false)
    else s

/-! ### The brake -/

/-- R855, R856, R867: POWER_BRAKE_N has been low for 1 µs. -/
def execBrakeApply (s : State) : PwrOut :=
  .next <|
    if s.alive = true ∧ s.ready = true ∧ s.pinFn 4 = some 8 then
      let s := { s with balls := putBits s.balls 4 4 0 }
      if bitOf (s.reg Reg.PWR_GOV) 6 then s
      else
        let s := ((s.setFld Reg.PWR_GOV 6 6 1).setFld Reg.PWR_GOV 3 0 14).setFld Reg.PWR_BRAKE 31 16
          (min 0xFFFF (s.fld Reg.PWR_BRAKE 31 16 + 1))
        match s.pwr.change with
        | none => if s.op ≠ 3 then s.startChange 3 else s
        | some c =>
          let step2 := c.faster &&
            (match s.pwr.pmb with
             | some t => !t.write
             | none => true)
          let s := s.setPwr fun p => { p with brakeDue := true }
          if step2 then s.endChange.brakeNext else s
    else s

/-- R855: POWER_BRAKE_N has been high for 1 µs, or its pin has lost the function. -/
def execBrakeRelease (s : State) : PwrOut :=
  .next <|
    if s.alive = true ∧ s.ready = true then
      let s := if s.pinFn 4 = some 8 then { s with balls := putBits s.balls 4 4 1 } else s
      (s.setFld Reg.PWR_GOV 6 6 0).setPwr fun p => { p with brakeDue := false }
    else s

/-! ### Telemetry -/

/-- R857: the bytes of a snapshot record. -/
def State.snapshot (s : State) (n : Nat) : List Byte :=
  let w := n % 2 ^ 32
  leBytes 4 w ++ leBytes 2 0x7A7E ++
  leBytes 1 (s.op + 4 * s.fld Reg.PWR_OP 3 2 + 16 * s.fld Reg.PWR_OP 9 9) ++
  leBytes 1 (s.fld Reg.PWR_GOV 7 0) ++ leBytes 4 (s.reg Reg.PWR_P_MW) ++
  leBytes 4 (s.reg Reg.PWR_AVG_MW) ++ leBytes 8 s.ns ++
  ((upto 12).flatMap fun i => leBytes 2 (s.reg (Reg.PWR_TJ + 4 * i))) ++
  leBytes 4 (s.reg Reg.PWR_GATE_CYC) ++ leBytes 4 (s.reg Reg.PWR_THROTTLE_US) ++
  leBytes 4 (s.reg Reg.PWR_ELASTIC_BUFS) ++ leBytes 4 (s.reg Reg.PWR_OP_SWITCHES) ++
  leBytes 60 0 ++ leBytes 4 w

/-- R857: a snapshot is taken; its two writes wait for an idle cycle (R330). The area is 128-byte
aligned, in host IOVA or local DRAM; none is written elsewhere. -/
def execTelemetrySnapshot (s : State) : PwrOut :=
  .next <|
    let u := s.reg64 Reg.PWR_TELEM_ADDR % 2 ^ 48
    if s.alive = true ∧ s.ready = true ∧ u ≠ 0 then
      let n := s.pwr.telem
      let b := s.snapshot n
      let s := s.setPwr fun p => { p with telem := p.telem + 1 }
      if u % 128 = 0 ∧ (s.inDram u 256 = true ∨ (regionOf u = .host ∧ s.addrOk false u 256 = true))
      then
        let a := u + 128 * (n % 2)
        s.setPwr fun p => { p with telemQ := p.telemQ ++ [(a, b.take 64), (a + 64, b.drop 64)] }
      else s
    else s

/-- A waiting snapshot write is granted a cycle that nothing else uses (R327); part of the tick. -/
def State.telemGrant (s : State) : State :=
  match s.pwr.telemQ with
  | [] => s
  | (u, l) :: t =>
    let s := s.setPwr fun p => { p with telemQ := t }
    if regionOf u = .host then s.emitHost (.write (s.iova u) false l)
    else (s.writeLocal u l).1

/-- R330: the oldest snapshot write was not granted within a period. -/
def execTelemetryDrop (s : State) : PwrOut :=
  .next <|
    match s.pwr.telemQ with
    | [] => s
    | _ :: t =>
      if s.alive then
        (s.setPwr fun p => { p with telemQ := t }).bump Reg.MEM_TELEM_DROP 1
      else s

/-! ### Pin switches -/

/-- The pins of the PMBus host and their functions. -/
def pmbFunc (n : Nat) : Option Nat := if n = 0 then some 6 else if n = 1 then some 7 else none

/-- R906, R907: a write of FUNC to PIN_MUX_n. -/
def State.muxWrite (s : State) (n f : Nat) : State :=
  if funcOk n f = false then s.setFld Reg.PIN_STATUS 17 17 1
  else
    match s.park n with
    | some k => { s with parks := SMap.set State.parkD s.parks n (some { k with next := some f }) }
    | none =>
      if pmbFunc n = some (s.mux n) ∧ f ≠ s.mux n then
        if s.op ≠ 0 ∨ s.fld Reg.PWR_OP 9 9 ≠ 0 then s.setFld Reg.PIN_STATUS 16 16 1
        else if s.pwr.pmb.isSome then { s with muxWait := some (n, f) }
        else s.switchTo n f
      else s.switchTo n f

/-- R908, R907: PWR_PMB_CFG.EN at the end of a switch of MFP0 or MFP1. -/
def State.pmbPins (s : State) (n : Nat) : State :=
  if pmbFunc n = none then s
  else if s.pinFn 0 = some 6 ∧ s.pinFn 1 = some 7 then
    if s.pmbEn then s
    else (s.setFld Reg.PWR_PMB_CFG 16 16 1).pmbStart true (s.voutWord s.op)
  else if pmbFunc n = some (s.mux n) then s
  else s.setFld Reg.PWR_PMB_CFG 16 16 0

/-- R904 to R908: c17 of a switch. -/
def execPinSwitchComplete (pin : Fin 12) (s : State) : PwrOut :=
  .next <|
    let n : Nat := pin
    match s.park n with
    | none => s
    | some k =>
      if s.alive then
        let s := { s with parks := SMap.set State.parkD s.parks n none }
        let s := ((s.setFld Reg.PIN_STATUS n n 0).bump Reg.PIN_SWITCHES 1).pmbPins n
        match k.next with
        | some f => s.muxWrite n f
        | none => s
      else s

end Sys2Proof.Machine
end

