-- ==== Sys2Proof/Machine/Almanac.lean ====
section
/-! DEFINITION. The flash and what is on it (R796 to R802), almanac copies, their records and the
settings they give (R804 to R810), and firmware images (R812, R813). -/

namespace Sys2Proof.Machine

/-! ### The flash -/

/-- An erased byte. -/
def flashD : Nat → Byte := fun _ => 0xFF

/-- A flash with its cells in canonical form. -/
def flashCanon (f : FlashPart) : FlashPart :=
  { f with cells := SMap.setMany flashD [] f.cells.reverse }

/-- Read bytes of the flash. -/
def flashRead (f : FlashPart) (a n : Nat) : List Byte :=
  readFrom flashD (f.cells.filter fun c => decide (a ≤ c.1)) a n

/-- Erase a 4 KiB sector. -/
def flashErase (f : FlashPart) (a : Nat) : FlashPart :=
  { f with cells := f.cells.filter fun c => decide (c.1 < a) || decide (a + 4096 ≤ c.1) }

/-- R796: a program changes bits from 1 to 0 only. -/
def flashProgram (f : FlashPart) (a : Nat) (l : List Byte) : FlashPart :=
  let new := (List.zip (flashRead f a l.length) l).map fun x => x.1 &&& x.2
  { f with
    cells := (f.cells.filter fun c => decide (c.1 < a)) ++ cellsOf flashD a new ++
      (f.cells.filter fun c => decide (a + l.length ≤ c.1)) }

/-- R807: sequence `a` is at or after `b`. -/
def seqNewer (a b : Nat) : Bool := decide ((a + 2 ^ 32 - b % 2 ^ 32) % 2 ^ 32 < 2 ^ 31)

/-- The next sequence number, skipping 0xFFFFFFFF. -/
def seqNext (a : Nat) : Nat := if a % 2 ^ 32 = 0xFFFFFFFE then 0 else (a + 1) % 2 ^ 32

/-! ### The identity block -/

/-- R802: the identity block is valid. -/
def identOk (l : List Byte) : Bool :=
  leAt l 0 2 == 0x7A70 && leAt l 2 1 == 1 && decide (1 ≤ leAt l 3 1) && decide (leAt l 3 1 ≤ 5) &&
  decide (leAt l 8 1 ∈ [1, 2, 4, 8]) && decide (25 ≤ leAt l 9 1) &&
  leAt l 0x3C 4 == crc32 (l.take 0x3C)

/-! ### Almanac copies -/

/-- R805: the records of a TLV area; none when they do not end exactly at its end. -/
def records : Nat → List Byte → Option (List (Nat × List Byte))
  | _, [] => some []
  | 0, _ => none
  | f + 1, l =>
    let n := leAt l 2 2
    let size := 4 + cdiv n 4 * 4
    if l.length < size then none
    else (records f (l.drop size)).map fun t => (leAt l 0 2, (l.drop 4).take n) :: t

/-- Whether no number occurs twice. -/
def noTwice : List Nat → Bool
  | [] => true
  | x :: t => !t.contains x && noTwice t

/-- R806: the critical tags known to the device. -/
def knownCritical (t : Nat) : Bool := t == 0x8001 || t == 0x8002 || t == 0x8003

/-- R804: the CRC of a copy, with its own field taken as 0. -/
def copyCrc (l : List Byte) : Nat := crc32 (l.take 12 ++ leBytes 4 0 ++ l.drop 16)

/-- R806: a copy is valid; `l` holds its header and records. -/
def copyOk (l : List Byte) : Bool :=
  let len := leAt l 8 4
  leAt l 0 2 == 0x7A71 && leAt l 2 1 == 1 && leAt l 4 4 != 0xFFFFFFFF && len % 4 == 0 &&
  decide (len ≤ 65504) && l.length == 0x20 + len && leAt l 12 4 == copyCrc l &&
  (match records (len + 1) (l.drop 0x20) with
   | none => false
   | some r => noTwice (r.map (·.1)) && r.all fun x => !bitOf x.1 15 || knownCritical x.1)

/-- The bytes of the copy at an address, as its LEN gives them. -/
def flashCopy (f : FlashPart) (a : Nat) : List Byte :=
  let h := flashRead f a 0x20
  flashRead f a (0x20 + min (leAt h 8 4) 65504)

/-- R807: the copy chosen: 0 none, 1 A, 2 B; with the validity of each. -/
def flashChoose (f : FlashPart) : Nat × Bool × Bool :=
  let a := flashCopy f 0x10000
  let b := flashCopy f 0x20000
  let va := copyOk a
  let vb := copyOk b
  (if va && vb then (if seqNewer (leAt a 4 4) (leAt b 4 4) then 1 else 2)
   else if va then 1 else if vb then 2 else 0, va, vb)

/-! ### Settings -/

/-- R808: a tag's value is taken; `ex`: the copy permits expert mode. Tags without a rule are
ignored. -/
def tagOk (ex : Bool) (t : Nat) (v : List Byte) : Bool :=
  let b := fun n => leAt v n 1
  if t = 0x8001 then
    v.length == 8 &&
    (upto 3).all (fun a => decide (1 ≤ b a) && decide (b a ≤ 16) &&
      (!bitOf (b 3) a || decide (2 ≤ b a))) &&
    decide (b 4 ≤ 1) && (b 4 == 0 || ex) && (b 5 == 1 || b 5 == 2)
  else if t = 0x8002 then v.length == 4 && decide (b 0 ≤ 2) && decide (b 1 ≤ 1)
  else if t = 0x8003 then v.length == 4
  else if t = 0x0004 then
    v.length == 4 && decide (25 ≤ b 0) && decide (b 0 ≤ 75) && b 0 % 5 == 0 && decide (b 1 ≤ 3) &&
    decide (b 2 < 128) && ((b 1 == 0 && !bitOf (b 3) 0) || ex)
  else if t = 0x0005 then v.length == 4 && decide (b 0 < 128)
  else if t = 0x0006 then
    v.length == 16 && decide (b 0 ≤ 2) &&
    (upto 12).all fun n => b (n + 1) == 0xFF || (ex && funcOk n (b (n + 1)))
  else if t = 0x0007 then v.length == 4
  else if t = 0x0008 then v.length == 4 && (!bitOf (b 0) 0 || ex)
  else if t = 0x0009 then
    v.length == 4 && decide (50 ≤ leAt v 0 2) && decide (leAt v 0 2 ≤ 800) &&
    (leAt v 0 2 == 200 || ex)
  else true

/-- The records of a copy's bytes. -/
def copyRecords (l : List Byte) : List (Nat × List Byte) :=
  (records (l.length + 1) (l.drop 0x20)).getD []

/-- R810: a copy permits expert mode. -/
def permits (r : List (Nat × List Byte)) : Bool :=
  match r.find? fun x => x.1 == 0x8003 with
  | some x => tagOk true x.1 x.2 && bitOf (leAt x.2 0 1) 0
  | none => false

/-- R808: the tags that take their factory default, EXPERT first. -/
def badTags (r : List (Nat × List Byte)) : List Nat :=
  let ex := permits r
  (r.filter (fun x => x.1 == 0x8003 && !tagOk ex x.1 x.2) ++
    r.filter (fun x => x.1 != 0x8003 && !tagOk ex x.1 x.2)).map (·.1)

/-- A setting's value as taken; none is the factory default. -/
def setting (r : List (Nat × List Byte)) (t : Nat) : Option (List Byte) :=
  (r.find? fun x => x.1 == t && tagOk (permits r) t x.2).map (·.2)

/-- R809: the compatibility word. -/
def compatWord (r : List (Nat × List Byte)) : Nat :=
  match setting r 0x8001 with
  | none => 1
  | some v => 1 + leAt v 5 1 * 256 + leAt (sha256 (v.take 5)) 0 4 * 65536

/-- R844: POWER byte 3 bit 0 of the chosen copy. -/
def State.elasticOn (s : State) : Bool :=
  match setting (copyRecords s.copy) 0x0004 with
  | some v => bitOf (leAt v 3 1) 0
  | none => false

/-- The PORT_EN of the chosen copy (R808); its reserved bits are ignored (R9). -/
def State.portEn (s : State) : Nat :=
  match setting (copyRecords s.copy) 0x8001 with
  | some v => leAt v 6 1 % 64
  | none => 0

/-- The almanac's DRAM rate and inline-ECC setting (R315, R319). -/
def State.dramSetting (s : State) : Nat × Nat :=
  match setting (copyRecords s.copy) 0x8002 with
  | some v => (leAt v 0 1, leAt v 1 1)
  | none => (0, 1)

/-! ### Firmware images -/

/-- Where an image starts: 1 A, 2 B. -/
def fwBase (n : Nat) : Nat := if n = 1 then 0x100000 else 0x500000

/-- R813: the legal LEN of an image header. -/
def fwLenOk (h : List Byte) : Bool := decide (1 ≤ leAt h 0x10 4) && decide (leAt h 0x10 4 ≤ 4193792)

/-- R813: an image is valid; `l` holds its header and payload. -/
def fwOk (l : List Byte) (floor : Nat) : Bool :=
  let pk := (l.drop 0x40).take 64
  let signed := l.take 4 ++ leBytes 4 0xFFFFFFFF ++ (l.drop 8).take 0x78 ++ l.drop 0x200
  leAt l 0 2 == 0x7A72 && leAt l 2 1 == 1 && leAt l 4 4 != 0xFFFFFFFF && leAt l 0x0D 1 == 1 &&
  fwLenOk l && l.length == 0x200 + leAt l 0x10 4 && Config.keySet &&
  ofBeBytes (sha256 pk) == Config.keyHash && decide (floor ≤ leAt l 8 4) &&
  ecdsaOk (ofBeBytes (pk.take 32)) (ofBeBytes (pk.drop 32)) (ofBeBytes ((l.drop 0x80).take 32))
    (ofBeBytes ((l.drop 0xA0).take 32)) (sha256 signed)

/-- The bytes of the image in a slot, as its LEN gives them. -/
def fwImage (f : FlashPart) (n : Nat) : List Byte :=
  let h := flashRead f (fwBase n) 0x200
  flashRead f (fwBase n) (0x200 + min (leAt h 0x10 4) 4193792)

/-- R814: the slots in the order in which they are tried. -/
def fwTry (f : FlashPart) : List Nat :=
  if seqNewer (leAt (flashRead f (fwBase 1) 0x200) 4 4) (leAt (flashRead f (fwBase 2) 0x200) 4 4) then [1, 2]
  else [2, 1]

end Sys2Proof.Machine
end

