-- ==== Sys2Proof/Machine/Records.lean ====
section
/-! DEFINITION. Fault records and the record area (R606 to R609), and what a failed remote access
does at its source (R772). -/

namespace Sys2Proof.Machine

/-- The tiles on which an operation is in progress, as a mask: those of a matmul-type operation
that it has begun on and not finished. -/
def OpRec.busyTiles (o : OpRec) : Nat :=
  match o.unit, o.mat with
  | .tiles _, some m =>
    m.tiles.foldl (fun k r => if r.begun && !r.done then k ||| 2 ^ r.tile else k) 0
  | .tiles t, none => if o.begun then t else 0
  | _, _ => 0

/-- R209: the tiles of a cluster with an operation or transfer in progress, as a mask. -/
def State.tileBusy (s : State) (cl : Nat) : Nat :=
  s.ops.foldl (fun m o => if o.node = cl then m ||| o.busyTiles else m) 0

/-- A mover or the egress unit of a cluster has an operation in progress. -/
def State.unitBusy (s : State) (cl : Nat) (u : UnitId) : Bool :=
  s.ops.any fun o => o.node == cl && o.unit == u && o.begun

/-- The number of the slot that holds what `x` holds. -/
def State.slotNumOf (s : State) (x : ExecSlot) : Nat := (s.slotOf x.entry).getD 8

/-- R397: a lane has finished: every operation of it has been issued and has completed, and every
post that they made has been applied. -/
def State.laneFinished (s : State) (n node : Nat) (b : BufInfo) (l : Lane) : Bool :=
  l.block.isNone && (decide (b.descOfs ≤ l.pc) ||
    ((upto 9).any fun k => bitOf b.lanes k && decide (node < k) && nth 0 b.laneOfs k == l.pc)) &&
    !(s.ops.any fun o => o.slot == n && o.node == node) &&
    !(s.posts.any fun p => p.slot == n && p.src == node)

/-- A lane's sequencer is blocked on a wait (R360, R431, R493). -/
def Lane.waiting (l : Lane) : Bool :=
  match l.block with
  | some (.token _ _) | some (.pennant _ _ _ _ _) => true
  | _ => false

/-- R608: the engine summary of a cluster for a slot. -/
def State.engineSummary (s : State) (x : ExecSlot) (b : Option BufInfo) (cl : Nat) : Nat :=
  match x.lane? cl with
  | none => 0
  | some l =>
    let fin := match b with
      | some b => s.laneFinished (s.slotNumOf x) cl b l
      | none => false
    s.tileBusy cl + ((upto 4).foldl (fun a m => a + b2n (s.unitBusy cl (.mover m)) * 2 ^ (16 + m)) 0)
      + b2n (s.unitBusy cl .egress) * 2 ^ 20 + b2n l.waiting * 2 ^ 21 + b2n fin * 2 ^ 22
      + l.pc * 2 ^ 32

/-- The UDA a record names as BUF: the buffer, or a launch's chart image. -/
def State.entryBufUda (s : State) (e : Entry) : Nat :=
  match e.kind with
  | .launch l => (SMap.get State.chartD s.charts l.chart).image
  | _ => (e.buf.map (·.uda)).getD 0

/-- The record particulars of an entry. -/
def State.entryCtx (s : State) (e : Entry) (kind depth : Nat) (engines : List Nat) (age : Nat) :
    RecordCtx :=
  let slot := s.slotOf e.idx
  let l := match e.kind with
    | .launch l => some l
    | _ => none
  { kind := kind, depth := depth, stream := e.stream, slot := slot.getD 0xFF, entry := e.idx,
    buf := s.entryBufUda e,
    progress := match slot with
      | some n => SMap.get State.progD s.prog n
      | none => Prog.zero,
    engines := engines, age := age, chart := (l.map (·.chart)).getD 0,
    version := (l.map (·.version)).getD 0, segment := (l.map (·.seg)).getD 0 }

/-- The word and repetition of an operation in progress: in a unit queue, or the one that its lane
stands at. -/
def State.opParts (s : State) (slot node ofs : Nat) : Nat × Nat :=
  match s.ops.find? fun o => o.slot == slot && o.node == node && o.ofs == ofs with
  | some o => (o.word, o.rep)
  | none =>
    match (s.slot? slot).bind fun x => x.lane? node with
    | some l => if l.pc = ofs ∧ l.block.isSome = true then (l.word, 0) else (0, 0)
    | none => (0, 0)

/-- Raise a fault of an operation of a slot, by its word and repetition, unless its entry is being
stopped (R786). -/
def State.faultOp (s : State) (slot node ofs : Nat) (part : Nat × Nat) (code : FaultCode)
    (addr : Nat) : State :=
  match s.slot? slot with
  | none => s
  | some x =>
    if x.stop.isSome then s
    else
      s.raise x.entry { s.plainFault code addr with
        lane := node, opOfs := ofs, rep := part.2, word := part.1,
        ref := if code = .tokenOverflow then 0 else inlineRef part.1,
        cp := ((x.lane? node).map (·.cp)).getD 0 }

/-- Raise a fault of an operation in progress. -/
def State.faultAt (s : State) (slot node ofs : Nat) (code : FaultCode) (addr : Nat) : State :=
  s.faultOp slot node ofs (s.opParts slot node ofs) code addr

/-- The lanes blocked on a pennant: slot, node and lane (R431). -/
def State.pennantLanes (s : State) (u : Nat) : List (Nat × Nat × Lane) :=
  (upto 8).flatMap fun n =>
    match s.slot? n with
    | none => []
    | some x =>
      x.lanes.filterMap fun l =>
        match l.2.block with
        | some (.pennant a _ _ _ _) =>
          if a = u ∧ s.laneHalted x l.1 = false then some (n, l.1, l.2) else none
        | _ => none

/-- R772: what the failure of a remote request does. Status 3 is ECC; the others are
ADDR_INVALID. -/
def State.rmtFailed (s : State) (r : RmtReq) (status : Nat) : State :=
  let s := s.rmtFail r.uda status
  let code : FaultCode := if status = 3 then .eccUncorr else .addrInvalid
  match r.use with
  | .op slot node ofs => s.faultAt slot node ofs code r.uda
  | .laneSignal slot node =>
    match s.slot? slot with
    | some x => s.faultAt slot node (((x.lane? node).map (·.pc)).getD 0) code r.uda
    | none => s
  | .signal stream => s.halyardRefused stream r.uda
  | .pennant u =>
    (s.pennantLanes u).foldl (fun s (x : Nat × Nat × Lane) =>
      s.faultAt x.1 x.2.1 x.2.2.pc code u) s
  | .front => { s with ring := { s.ring with fetchBad := true } }
  | .device => s

/-- R548: the device is flagged TIME_UNSYNC: heads that wait for a time and do not run fault. -/
def State.unsyncFaults (s : State) : State :=
  s.entries.foldl (fun s e =>
    if e.active && e.notBefore.isSome && (s.slotOf e.idx).isNone
        && !(s.faults.any fun f => f.1 == e.idx) then
      s.raise e.idx (s.plainFault .timeUnsync 0)
    else s) s

/-- Hold signals back until a condition holds. -/
def State.holdSigs (s : State) (w : SigWhen) (poison : Bool) (sigs : List SigRec) : State :=
  { s with pendSigs := s.pendSigs ++ [PendSig.mk w sigs poison] }

/-- Issue the held signals whose condition a test says holds, and drop them (R539). -/
def State.firePend (s : State) (p : SigWhen → Bool) : State :=
  let go := s.pendSigs.filter fun x => p x.whenDone
  go.foldl (fun s x => s.signals (.signal 0xFFFF) x.poison x.sigs)
    { s with pendSigs := s.pendSigs.filter fun x => !p x.whenDone }

/-- The entries admitted and not ended, with the one whose admission waits for seal space. -/
def State.allEntries (s : State) : List Entry := s.entries ++ s.ring.sealing.toList

/-- Requests of these tags have all ended. -/
def State.tagsEnded (s : State) (tags : List Nat) : Bool :=
  tags.all fun t => !(s.rmt.any fun r => r.tag == t)

/-- R550, R615, R785: issue held signals whose condition has come to hold. -/
def State.checkPend (s : State) : State :=
  s.firePend fun w =>
    match w with
    | .gensRetired g => !(s.allEntries.any fun e => decide (0 < e.hgen) && decide (e.hgen < g))
    | .aborted l tags => !(s.entries.any fun e => l.contains e.idx) && s.tagsEnded tags
    | .fenced tags => s.tagsEnded tags
    | .settled => false

/-- Take a remote request off the list: it is performed or has failed. -/
def State.endRmt (s : State) (r : RmtReq) : State :=
  ({ s with rmt := s.rmt.filter fun x => x.tag != r.tag }).checkPend

/-! ### Result words -/

/-- Write the result word of a device-level entry, 0 for none; a failure is recorded in the device
record (R305, R605). Answers also the tags of its remote writes. -/
def State.resultWrite (s : State) (u : Nat) (l : List Byte) : State × List Nat :=
  if u = 0 then (s, [])
  else
    let r := s.ownWrite u l
    let t := match r.2 with
      | some c => r.1.signalFailed (.signal 0xFFFF) c u
      | none => r.1
    (t, (upto (t.nextTag - s.nextTag)).map fun i => s.nextTag + i)

/-- Issue the signals of a device-level entry once its result word is written (R524, R818). -/
def State.resultSignals (s : State) (u : Nat) (l : List Byte) (poison : Bool) (sigs : List SigRec) :
    State :=
  let r := s.resultWrite u l
  (r.1.holdSigs (.fenced r.2) poison sigs).checkPend

end Sys2Proof.Machine
end

