-- ==== Sys2Proof/Machine/Topology.lean ====
section
/-! DEFINITION. The deterministic computations of a settle over the topology database: live links
and components (R746), mapping (R753), joiners (R756), the detour tree and routes (R757 to
R760). -/

namespace Sys2Proof.Machine

/-- A coordinate: X, Y, Z. -/
structure Coord where
  x : Int
  y : Int
  z : Int
  deriving DecidableEq, Repr

/-- One axis of a coordinate. -/
def Coord.axis (c : Coord) (a : Nat) : Int := if a = 0 then c.x else if a = 1 then c.y else c.z

/-- R751: the fabric's shape: extents and torus bits. -/
structure Shape where
  ext : List Nat
  torus : List Bool
  deriving DecidableEq, Repr

/-- R794: the shape FAB_SHAPE holds. -/
def State.shape (s : State) : Shape :=
  let r := s.reg Reg.FAB_SHAPE
  ⟨[bits r 3 0 + 1, bits r 7 4 + 1, bits r 11 8 + 1], [bitOf r 12, bitOf r 13, bitOf r 14]⟩

/-- Extent and torus bit of an axis. -/
def Shape.n (g : Shape) (a : Nat) : Nat := nth 1 g.ext a
def Shape.wraps (g : Shape) (a : Nat) : Bool := nth false g.torus a

/-- R752: the address of a coordinate. -/
def addrOf (c : Coord) : Nat := c.z.toNat * 256 + c.y.toNat * 16 + c.x.toNat

/-- The coordinate of an address. -/
def coordOf (a : Nat) : Coord := ⟨(bits a 3 0 : Nat), (bits a 7 4 : Nat), (bits a 11 8 : Nat)⟩

/-- R753, R896: the direction of a port. -/
def portStep (p : Nat) : Coord :=
  match p with
  | 0 => ⟨1, 0, 0⟩
  | 1 => ⟨-1, 0, 0⟩
  | 2 => ⟨0, 1, 0⟩
  | 3 => ⟨0, -1, 0⟩
  | 4 => ⟨0, 0, 1⟩
  | _ => ⟨0, 0, -1⟩

/-- Sum of coordinates. -/
def Coord.add (a b : Coord) : Coord := ⟨a.x + b.x, a.y + b.y, a.z + b.z⟩

/-- The port that faces `p` under the port convention (R896). -/
def facing (p : Nat) : Nat := if p % 2 = 0 then p + 1 else p - 1

/-- Reduce a coordinate on its torus axes. -/
def Shape.reduce (g : Shape) (c : Coord) : Coord :=
  let f := fun a => if g.wraps a then c.axis a % (g.n a : Int) else c.axis a
  ⟨f 0, f 1, f 2⟩

/-- R753: same(r, r'). -/
def Shape.same (g : Shape) (a b : Coord) : Bool := g.reduce a == g.reduce b

/-- The advert of a UID. -/
def dbFind (db : List Advert) (u : Nat) : Option Advert := db.find? fun a => a.uid == u

/-- R746: the live links of a device. -/
def liveLinks (db : List Advert) (a : Advert) : List LiveLink :=
  (upto 6).filterMap fun p =>
    let e := nth ⟨0, 0, 0⟩ a.ports p
    if e.pstate ≠ 1 then none
    else
      match dbFind db e.peerUid with
      | none => none
      | some b =>
        let r := nth ⟨0, 0, 0⟩ b.ports e.peerPort
        if r.pstate = 1 ∧ r.peerPort = p ∧ r.peerUid = a.uid ∧ e.peerPort < 6 then
          some ⟨p, e.peerUid, e.peerPort⟩
        else none

/-- Breadth-first closure over live links: `seen` grows by the queue's neighbours. -/
def reach (db : List Advert) : Nat → List Nat → List Nat → List Nat
  | 0, seen, _ => seen
  | _, seen, [] => seen
  | f + 1, seen, u :: q =>
    match dbFind db u with
    | none => reach db f seen q
    | some a =>
      let new := ((liveLinks db a).map (·.peer)).eraseDups.filter fun v => !seen.contains v
      reach db f (seen ++ new) (q ++ new)

/-- R746: the component of a device, as its adverts in ascending UID. -/
def component (db : List Advert) (u : Nat) : List Advert :=
  let c := reach db (db.length + 1) [u] [u]
  db.filter fun a => c.contains a.uid

/-- Raw coordinates under way in R753, and the queue. -/
structure MapWalk where
  raw : List (Nat × Coord)
  queue : List Nat
  deriving DecidableEq, Repr

/-- A UID's coordinate in a list. -/
def coordIn (l : List (Nat × Coord)) (u : Nat) : Option Coord :=
  (l.find? fun x => x.1 == u).map (·.2)

/-- R753: visit the links of one device; none is INCONSISTENT. -/
def visitLinks (g : Shape) (c : Coord) : List LiveLink → MapWalk → Option MapWalk
  | [], w => some w
  | l :: t, w =>
    if l.peerPort ≠ facing l.port then none
    else
      let r := c.add (portStep l.port)
      match coordIn w.raw l.peer with
      | none => visitLinks g c t ⟨w.raw ++ [(l.peer, r)], w.queue ++ [l.peer]⟩
      | some r' => if g.same r' r then visitLinks g c t w else none

/-- R753: the walk from the origin. -/
def mapWalk (g : Shape) (db : List Advert) : Nat → MapWalk → Option (List (Nat × Coord))
  | 0, w => some w.raw
  | f + 1, w =>
    match w.queue with
    | [] => some w.raw
    | u :: q =>
      match dbFind db u, coordIn w.raw u with
      | some a, some c =>
        match visitLinks g c (liveLinks db a) { w with queue := q } with
        | some w' => mapWalk g db f w'
        | none => none
      | _, _ => mapWalk g db f { w with queue := q }

/-- Least of nonempty integers, 0 for none. -/
def minInt : List Int → Int
  | [] => 0
  | [x] => x
  | x :: t => min x (minInt t)

/-- R753: a coordinate's axis after the walk. -/
def finalAxis (g : Shape) (raw : List (Nat × Coord)) (a : Nat) (c : Coord) : Int :=
  if g.wraps a then c.axis a % (g.n a : Int)
  else c.axis a - minInt (raw.map fun x => x.2.axis a)

/-- R753: map a component; none is INCONSISTENT. -/
def mapComponent (g : Shape) (db : List Advert) (comp : List Advert) :
    Option (List (Nat × Coord)) :=
  match comp with
  | [] => none
  | o :: _ =>
    match mapWalk g db (comp.length + 1) ⟨[(o.uid, ⟨0, 0, 0⟩)], [o.uid]⟩ with
    | none => none
    | some raw =>
      let l := raw.map fun x =>
        (x.1, (⟨finalAxis g raw 0 x.2, finalAxis g raw 1 x.2, finalAxis g raw 2 x.2⟩ : Coord))
      let inside := l.all fun x =>
        (upto 3).all fun a => decide (0 ≤ x.2.axis a) && decide (x.2.axis a < (g.n a : Int))
      if inside = true ∧ (l.map fun x => x.2).Nodup then some l else none

/-- R756: the mapping an advert carries. -/
def Advert.mapping (a : Advert) : Option (Nat × Nat) :=
  if a.origin = 0 ∨ bitOf a.addr 15 = false then none else some (a.origin, a.mapEpoch)

/-- R756: the better of two adverts that carry mappings: the newer EPOCH, then the lower
MAP_ORIGIN. -/
def betterMap (a b : Advert) : Bool :=
  epochNewer a.epoch b.epoch || (a.epoch == b.epoch && decide (a.origin < b.origin))

/-- R756: the winning mapping of a component. -/
def winning (comp : List Advert) : Option (Nat × Nat) :=
  (comp.foldl (fun best a =>
    if a.mapping.isNone then best
    else
      match best with
      | none => some a
      | some b => if betterMap a b then some a else best) (none : Option Advert)).bind
    Advert.mapping

/-- R756: where a joiner may stand: the one coordinate its live links to placed devices give. -/
def joinCoord (g : Shape) (links : List LiveLink) (placed : List (Nat × Coord))
    (reserved : List (Nat × Nat)) (u : Nat) : Option Coord :=
  let near := links.filterMap fun l =>
    -- the link seen from the placed end (its port is l.peerPort)
    (coordIn placed l.peer).map fun c => (l, g.reduce (c.add (portStep l.peerPort)))
  if near.any fun x => x.1.port != facing x.1.peerPort then none
  else
    match (near.map (·.2)).eraseDups with
    | [c] =>
      if (upto 3).all (fun a => decide (0 ≤ c.axis a) && decide (c.axis a < (g.n a : Int))) = false
      then none
      else if reserved.any fun r => r.1 != u && r.2 == addrOf c then none
      else some c
    | _ => none

/-- R756: the placement loop: joiners in ascending UID with a live link to a placed device. -/
def placeJoiners (g : Shape) (db comp : List Advert) (reserved : List (Nat × Nat)) :
    Nat → List (Nat × Coord) → List Nat → List (Nat × Coord) × List Nat
  | 0, placed, ex => (placed, ex)
  | f + 1, placed, ex =>
    match comp.find? fun a =>
        (coordIn placed a.uid).isNone && !ex.contains a.uid &&
        (liveLinks db a).any fun l => (coordIn placed l.peer).isSome with
    | none => (placed, ex)
    | some a =>
      match joinCoord g (liveLinks db a) placed
          (reserved ++ placed.map fun x => (x.1, addrOf x.2)) a.uid with
      | some c => placeJoiners g db comp reserved f (placed ++ [(a.uid, c)]) ex
      | none => placeJoiners g db comp reserved f placed (ex ++ [a.uid])

/-- R760: depths in the breadth-first tree from the time root. -/
def levels (db : List Advert) : Nat → List (Nat × Nat) → List Nat → List (Nat × Nat)
  | 0, lv, _ => lv
  | _, lv, [] => lv
  | f + 1, lv, u :: q =>
    match dbFind db u, lv.find? (fun x => x.1 == u) with
    | some a, some (_, d) =>
      let new := ((liveLinks db a).map (·.peer)).eraseDups.filter fun v =>
        !(lv.any fun x => x.1 == v)
      levels db f (lv ++ new.map fun v => (v, d + 1)) (q ++ new)
    | _, _ => levels db f lv q

/-- The component as routing needs it. -/
def nodesOf (db comp : List Advert) (coords : List (Nat × Coord)) (root : Nat) : List Node :=
  let lv := levels db (comp.length + 1) [(root, 0)] [root]
  comp.map fun a =>
    { uid := a.uid, addr := (coordIn coords a.uid).map addrOf,
      level := ((lv.find? fun x => x.1 == a.uid).map (·.2)).getD 0,
      links := liveLinks db a }

/-! ### Routes -/

/-- A device of the last settle's component. -/
def nodeByUid (ns : List Node) (u : Nat) : Option Node := ns.find? fun n => n.uid == u
def nodeByAddr (ns : List Node) (a : Nat) : Option Node := ns.find? fun n => n.addr == some a

/-- R757: the port of the next dimension-order step from `c` to `d`; none when there. -/
def dimPort (g : Shape) (c d : Coord) : Option Nat :=
  let ax := (upto 3).find? fun a => c.axis a != d.axis a
  match ax with
  | none => none
  | some a =>
    let n := (g.n a : Int)
    if g.wraps a then
      let δ := (d.axis a - c.axis a) % n
      -- on the tie, the + path crosses the wrap link when it passes n - 1
      let plus := decide (2 * δ < n) || (decide (2 * δ = n) && decide (c.axis a + δ < n))
      some (2 * a + if plus then 0 else 1)
    else some (2 * a + if c.axis a < d.axis a then 0 else 1)

/-- R757: the link out of `c` by a port is its axis's dateline link. -/
def crossesDateline (g : Shape) (c : Coord) (p : Nat) : Bool :=
  let a := p / 2
  g.wraps a && (if p % 2 = 0 then c.axis a == (g.n a : Int) - 1 else c.axis a == 0)

/-- R759: the remaining dimension-order path is LIVE throughout. -/
def dimPathLive (g : Shape) (ns : List Node) : Nat → Nat → Nat → Bool
  | 0, _, _ => false
  | f + 1, c, d =>
    if c = d then true
    else
      match dimPort g (coordOf c) (coordOf d), nodeByAddr ns c with
      | some p, some n =>
        match n.links.find? fun l => l.port == p with
        | some l =>
          match nodeByUid ns l.peer with
          | some m =>
            match m.addr with
            | some a => dimPathLive g ns f a d
            | none => false
          | none => false
        | none => false
      | _, _ => false

/-- R760: the link from `u` to `v` is up. -/
def linkIsUp (u v : Node) : Bool :=
  decide (v.level < u.level) || (v.level == u.level && decide (v.uid < u.uid))

/-- R760: the least number of allowed hops from a device, in a phase, to `d`. -/
def detourLen (ns : List Node) : Nat → List (Nat × Bool × Nat) →
    List (Nat × Bool × Nat)
  | 0, l => l
  | f + 1, l =>
    let new := ns.flatMap fun n =>
      [false, true].filterMap fun down =>
        if l.any (fun x => x.1 == n.uid && x.2.1 == down) then none
        else
          let best := listMin (n.links.filterMap fun k =>
            match nodeByUid ns k.peer with
            | none => none
            | some m =>
              let up := linkIsUp n m
              if down && up then none
              else (l.find? fun x => x.1 == m.uid && x.2.1 == (down || !up)).map (·.2.2))
          best.map fun b => (n.uid, down, b + 1)
    if new = [] then l else detourLen ns f (l ++ new)

/-- Distances to the device at address `d`, by UID and phase (true: DOWN). -/
def detourTable (ns : List Node) (d : Nat) : List (Nat × Bool × Nat) :=
  match nodeByAddr ns d with
  | none => []
  | some n => detourLen ns (2 * ns.length + 1) [(n.uid, false, 0), (n.uid, true, 0)]

/-- R760: the next hop of a class-2 packet: port and new phase. -/
def detourHop (ns : List Node) (own d : Nat) (down : Bool) : Option (Nat × Bool) :=
  match nodeByAddr ns own with
  | none => none
  | some n =>
    let t := detourTable ns d
    let opts := n.links.filterMap fun l =>
      match nodeByUid ns l.peer with
      | none => none
      | some m =>
        let up := linkIsUp n m
        if down && up then none
        else (t.find? fun x => x.1 == m.uid && x.2.1 == (down || !up)).map fun x =>
          (l.port, (down || !up), x.2.2)
    match listMin (opts.map fun o => o.2.2) with
    | none => none
    | some b => (opts.find? fun o => o.2.2 == b).map fun o => (o.1, o.2.1)

/-- Where a packet goes next: the port and its NFLAGS there; none is no route (R757 to R762). -/
def State.route (s : State) (k : Pkt) : Option (Nat × Nat) :=
  let g := s.shape
  let ns := s.fab.nodes
  let keep := k.nflags / 8 * 8
  if bitOf (s.reg Reg.FAB_SHAPE) 15 then
    let p := bits (nth 0xFFFFFFFF s.fab.static (k.dst / 8)) (4 * (k.dst % 8) + 3) (4 * (k.dst % 8))
    if p < 6 ∧ s.linkSt p = 5 then some (p, keep + 2) else none
  else
    let own := s.ownAddr
    let detour := fun (down : Bool) =>
      match detourHop ns own k.dst down with
      | some (p, d) => some (p, keep + 2 + 4 * b2n d)
      | none => none
    if k.nflags % 4 = 2 then detour (bitOf k.nflags 2)
    else if dimPathLive g ns 64 own k.dst then
      match dimPort g (coordOf own) (coordOf k.dst) with
      | none => none
      | some p =>
        let cls := match k.from? with
          | none => 0
          | some q =>
            if q / 2 ≠ p / 2 then 0
            else if crossesDateline g (coordOf own) q then 1 else k.nflags % 4
        some (p, keep + cls)
    else detour false

end Sys2Proof.Machine
end

