-- ==== Sys2Proof/Machine/Fabric.lean ====
section
/-! DEFINITION. The commands of discovery, fabric time and the settle (chapter 16): HELLO and adverts
(R743 to R745), the time parent (R775 to R779), and FABRIC_SETTLE (R747). -/

namespace Sys2Proof.Machine

abbrev FabOut := Host.Outcome State Fault Refusal

/-! ### Fabric time -/

/-- R777, R778: TIME_UNSYNC is the state of R778 or a step not yet followed by an exchange; each
change raises the TIME notice (R665). -/
def State.setUnsync (s : State) (unsync stepped : Bool) : State :=
  let was := bitOf (s.reg Reg.FAB_STATE) 3
  let now := unsync || stepped
  let s := { s with fab := { s.fab with unsync := unsync, stepped := stepped } }
  let s := s.setFld Reg.FAB_STATE 3 3 (b2n now)
  if was = now then s else if now then (s.notice 5).unsyncFaults else s.notice 5

/-- This device is its own time root: OFF, alone, or chosen (R775). -/
def State.isRoot (s : State) : Bool :=
  !s.fabOn || s.fab.root == s.uid || s.fab.root == 0

/-- Own ROOT_HOPS (R776): 0 at the root, 0xFFFF with no parent. -/
def State.rootHops (s : State) : Nat :=
  if s.isRoot then 0
  else
    let r := s.reg Reg.FAB_TIME_PARENT
    if bitOf r 3 then
      match (s.port (r % 8)).hello with
      | some h => if h.hops = 0xFFFF then 0xFFFF else min 0xFFFF (h.hops + 1)
      | none => 0xFFFF
    else 0xFFFF

/-- R743: the HELLO payload of a port. -/
def State.helloPayload (s : State) (p : Nat) : List Byte :=
  let h := (s.port p).hello
  leBytes 8 s.uid ++ leBytes 4 s.incarnation ++ leBytes 4 (s.reg Reg.FAB_EPOCH) ++
  leBytes 8 s.ns ++ leBytes 8 ((h.map (·.tsend)).getD 0) ++
  leBytes 8 ((h.map (·.trecv)).getD 0) ++
  leBytes 4 (if s.isRoot then 0 else s.reg Reg.FAB_TIME_BOUND) ++ leBytes 2 s.rootHops ++
  leBytes 2 0 ++ leBytes 8 (if s.fab.root = 0 then s.uid else s.fab.root) ++ leBytes 8 0

/-- R743: send a HELLO on an ACTIVE port. -/
def execHelloSend (port : Fin 6) (s : State) : FabOut :=
  .next (if s.alive = true ∧ s.fabOn = true then s.sendMgt port (s.mgtPkt 0x40 (s.helloPayload port))
    else s)

/-- Take the first packet of the router that a test accepts. -/
def takeFirst (p : Pkt → Bool) : List Pkt → Option (Pkt × List Pkt)
  | [] => none
  | k :: t =>
    if p k then some (k, t)
    else
      match takeFirst p t with
      | some (x, r) => some (x, k :: r)
      | none => none

/-- Own link on a port is live (R746). -/
def State.liveAt (s : State) (p : Nat) : Option LiveLink :=
  match dbFind s.fab.db s.uid with
  | none => none
  | some a => (liveLinks s.fab.db a).find? fun l => l.port == p

/-- R776: the time parent: over live links, the smallest ROOT_HOPS, then the lowest UID, then the
lowest port. -/
def State.chooseParent (s : State) : Option Nat :=
  ((upto 6).foldl (fun best p =>
    match s.liveAt p, (s.port p).hello with
    | some _, some h =>
      if h.hops = 0xFFFF then best
      else
        match best with
        | none => some (h.hops, h.uid, p)
        | some (b, u, q) =>
          if h.hops < b ∨ (h.hops = b ∧ h.uid < u) then some (h.hops, h.uid, p)
          else some (b, u, q)
    | _, _ => best) (none : Option (Nat × Nat × Nat))).map fun x => x.2.2

/-- One nanosecond and half of one in units of `ftime`. -/
def nsUnit : Int := 36000
def halfNs : Int := 18000

/-- Shift fabric time by units, modulo its 64 bits of nanoseconds. -/
def State.shiftTime (s : State) (d : Int) : State :=
  { s with ftime := (((s.ftime : Int) + d) % ((2 ^ 64 * 36000 : Nat) : Int)).toNat }

/-- R778: what a bound does to TIME_UNSYNC and the run of calm exchanges. -/
def State.timeBound (s : State) (bound : Nat) (stepped : Bool) : State :=
  let s := s.setReg Reg.FAB_TIME_BOUND (min bound 0xFFFFFFFF)
  let calm := if bound ≤ 80 then s.fab.calm + 1 else 0
  let uns := if 100 < bound then true else if 4 ≤ calm then false else s.fab.unsync
  ({ s with fab := { s.fab with calm := calm } }).setUnsync uns stepped

/-- R776, R777: an exchange with the parent. `tw` is 2θ in ns. -/
def State.exchange (s : State) (h : HelloRec) (tw : Int) : State :=
  if 2000 < tw.natAbs then
    let s := (s.shiftTime (tw * halfNs)).bump Reg.FAB_TIME_STEPS 1
    ({ s with fab := { s.fab with slew := 0, slewAt := 0 } }).timeBound (h.bound + 2) true
  else
    -- at most ±500 ppm over the 100 µs to the next HELLO: ±50 ns
    let c : Int := max (-100) (min 100 tw)
    let rest := (tw - c).natAbs
    ({ s with fab := { s.fab with slew := c * halfNs, slewAt := 0 } }).timeBound
      (h.bound + 2 + cdiv rest 2) false

/-- R777: one step of the slew: what `dt` units of time add beyond themselves. -/
def slewPart (slew : Int) (a dt : Nat) : Int :=
  let period : Nat := 100000 * 36000
  slew * (min period (a + dt) : Nat) / (period : Int) - slew * (min period a : Nat) / (period : Int)

/-- R749, R776 to R778: a HELLO of a port is taken from its buffer. -/
def execHelloReceived (port : Fin 6) (s : State) : FabOut :=
  let p : Nat := port
  .next <|
    if s.alive = true ∧ s.linkSt p = 5 then
      match takeFirst (fun k => k.from? == some p && k.ptype == 0x40) s.router with
      | none => s
      | some (k, rest) =>
        let s := ({ s with router := rest }).releasePkt k
        let l := k.data
        let h : HelloRec := ⟨fieldAt l 0 8, fieldAt l 8 4, fieldAt l 0x10 8, s.ns,
          fieldAt l 0x28 4, fieldAt l 0x2C 2, fieldAt l 0x30 8⟩
        let s := s.adoptEpoch (fieldAt l 0x0C 4)
        let s := s.setPort p { s.port p with hello := some h }
        let s := if s.reg (lk p Reg.FAB_LINK_PEER_INC) ≠ h.inc then
            (s.setReg (lk p Reg.FAB_LINK_PEER_INC) h.inc).advanceEpoch none
          else s
        if s.isRoot then (s.setReg Reg.FAB_TIME_PARENT 16).setReg Reg.FAB_TIME_BOUND 0
        else
          match s.chooseParent with
          | none => (s.setReg Reg.FAB_TIME_PARENT 0).setUnsync true s.fab.stepped
          | some q =>
            let s := s.setReg Reg.FAB_TIME_PARENT (q + 8)
            if q ≠ p ∨ fieldAt l 0x18 8 = 0 then s
            else
              let t1 : Int := fieldAt l 0x18 8
              let t2 : Int := fieldAt l 0x20 8
              let t3 : Int := h.tsend
              let t4 : Int := h.trecv
              s.exchange h ((t2 - t1) + (t3 - t4))
    else s

/-- R778: no HELLO from the parent for 800 µs. -/
def execParentTimeout (s : State) : FabOut :=
  .next <|
    if s.alive = true ∧ s.isRoot = false then
      ({ s with fab := { s.fab with calm := 0 } }).setUnsync true s.fab.stepped
    else s

/-- R745: advert `x` is newer than `y` of the same UID. -/
def advertNewer (x y : Advert) : Bool :=
  epochNewer x.epoch y.epoch ||
  (x.epoch == y.epoch && x.inc == y.inc && decide (y.aseq < x.aseq)) ||
  (x.epoch == y.epoch && decide (y.inc < x.inc))

/-- R745, R746, R754: store a received advert; true when it is new. -/
def State.storeAdvert (s : State) (a : Advert) : State × Bool :=
  match dbFind s.fab.db a.uid with
  | none =>
    if 4096 ≤ s.fab.db.length then ({ s with fab := { s.fab with tooMany := true } }, false)
    else ({ s with fab := { s.fab with db := dbPut a s.fab.db } }, true)
  | some b =>
    let twin := a.epoch == b.epoch && a.inc != b.inc && a.via != b.via
    if a.uid ≠ s.uid ∧ advertNewer a b = true then
      let a := { a with dup := twin || (b.dup && a.epoch == b.epoch) }
      ({ s with fab := { s.fab with db := dbPut a s.fab.db } }, true)
    else if twin then
      ({ s with fab := { s.fab with db := dbPut { b with dup := true } s.fab.db } }, false)
    else (s, false)

/-- R745: an advert is taken from a port's buffer; a newer one is stored and forwarded. -/
def execAdvertReceived (port : Fin 6) (s : State) : FabOut :=
  let p : Nat := port
  .next <|
    if s.alive = true ∧ s.fabOn = true then
      match takeFirst (fun k => k.from? == some p && k.ptype == 0x41) s.router with
      | none => s
      | some (k, rest) =>
        let s := ({ s with router := rest }).releasePkt k
        let a := advertOf p k.data
        let s := s.adoptEpoch a.epoch
        let r := s.storeAdvert a
        if r.2 then r.1.settling.flood (some p) { a with dup := false } else r.1
    else s

/-- R779: at a whole millisecond of fabric time the FSB_SYNC pin pulses. -/
def execFsbSyncPulse (s : State) : FabOut :=
  .next <|
    if s.alive = true ∧ bitOf (s.reg Reg.FAB_STATE) 3 = false ∧
        s.fld (Reg.PIN_MUX + 4 * 5) 3 0 = 3 ∧ (SMap.get State.parkD s.parks 5).isNone then
      s.emit (.syncPulse [5])
    else s

/-! ### The settle -/

/-- What the mapping rules decide for the component (R753 to R756). -/
structure Mapped where
  cause : Nat
  /-- UIDs with their coordinates. -/
  coords : List (Nat × Coord)
  origin : Nat
  epoch : Nat
  excluded : List Nat
  deriving DecidableEq, Repr

/-- R753 to R756: map the component. -/
def State.mapping (s : State) (comp : List Advert) : Mapped :=
  let db := s.fab.db
  let g := s.shape
  let fail := fun c => (⟨c, [], 0, 0, []⟩ : Mapped)
  if s.fab.tooMany then fail 3
  else if comp.any fun a => a.dup then fail 2
  else
    match winning comp, comp.any (·.remap) with
    | some (o, e), false =>
      let placed := comp.filterMap fun a =>
        if a.mapping = some (o, e) then some (a.uid, coordOf (a.addr % 4096)) else none
      let reserved := db.filterMap fun a =>
        if a.mapping = some (o, e) ∧ !(comp.any fun b => b.uid == a.uid) then
          some (a.uid, a.addr % 4096) else none
      let held := s.fab.map.filterMap fun m =>
        if m.uid ≠ 0 ∧ m.live = false then some (m.uid, m.addr) else none
      let r := placeJoiners g db comp (reserved ++ held) (comp.length + 1) placed []
      ⟨0, r.1, o, e, r.2⟩
    | _, _ =>
      match mapComponent g db comp with
      | none => fail 1
      | some l => ⟨0, l, ((comp.head?).map (·.uid)).getD 0, s.reg Reg.FAB_EPOCH, []⟩

/-- R781, R782: the entry of the map for a device of the mapping. -/
def mapEntry (old : List MapEnt) (epoch : Nat) (addr uid inc : Nat) (live : Bool) : MapEnt :=
  match old.find? fun m => m.addr == addr with
  | some m =>
    let inc := if live then inc else m.inc
    if m.uid = uid ∧ m.live = live ∧ m.inc = inc then m
    else ⟨addr, uid, inc, live, epoch % 65536⟩
  | none => ⟨addr, uid, inc, live, epoch % 65536⟩

/-- R755, R781, R782: the map after a settle: devices of the component LIVE; the rest of the same
mapping LOST; addresses no longer held ABSENT. -/
def State.newMap (s : State) (comp : List Advert) (m : Mapped) (kept : Bool) : List MapEnt :=
  let ep := s.reg Reg.FAB_EPOCH
  let old := s.fab.map
  let live := m.coords.map fun x =>
    mapEntry old ep (addrOf x.2) x.1 (((comp.find? fun a => a.uid == x.1).map (·.inc)).getD 0) true
  let free := fun (a : Nat) => !(live.any fun x => x.addr == a)
  let known := s.fab.db.filterMap fun a =>
    if a.mapping = some (m.origin, m.epoch) ∧ free (a.addr % 4096) = true ∧
        !(m.coords.any fun x => x.1 == a.uid) then
      some (mapEntry old ep (a.addr % 4096) a.uid a.inc false) else none
  let held := old.filterMap fun x =>
    if free x.addr = true ∧ !(known.any fun y => y.addr == x.addr) then
      if kept = true ∧ x.uid ≠ 0 ∧ !(m.coords.any fun y => y.1 == x.uid) then
        some (mapEntry old ep x.addr x.uid x.inc false)
      else some (mapEntry old ep x.addr 0 0 false)
    else none
  sortBy (fun a b => decide (a.addr < b.addr)) (live ++ known ++ held)

/-- R782: 16 bytes of a map entry. -/
def mapEntBytes (m : MapEnt) : List Byte :=
  leBytes 8 m.uid ++ leBytes 4 m.inc ++
  leBytes 1 (if m.uid = 0 then 0 else if m.live then 1 else 2) ++ leBytes 1 0 ++ leBytes 2 m.changed

/-- R782: the header of the host fabric map. -/
def State.mapHeader (s : State) (wseq : Nat) : List Byte :=
  let st := s.reg Reg.FAB_STATE
  let lost := (s.fab.map.filter fun m => m.uid != 0 && !m.live).length
  leBytes 4 wseq ++ leBytes 2 0x7A6A ++ leBytes 1 (bits st 1 0) ++ leBytes 1 (bits st 5 4) ++
  leBytes 4 (s.reg Reg.FAB_EPOCH) ++ leBytes 2 (s.ownAddr + 32768 * b2n (bitOf st 2)) ++
  leBytes 2 (s.reg Reg.FAB_LIVE) ++ leBytes 8 (s.reg64 Reg.FAB_ORIGIN_UID) ++
  leBytes 4 (s.reg Reg.FAB_MAP_EPOCH) ++ leBytes 2 lost ++ leBytes 2 s.fab.excluded.length ++
  leBytes 8 s.fab.root ++ leBytes 8 s.ns ++ leBytes 12 0 ++ leBytes 4 wseq

/-- R783: write changed entries and the header, signal the epoch, raise the FABRIC notice. -/
def State.writeMap (s : State) (old : List MapEnt) (oldState : Nat) : State :=
  let base := s.reg64 Reg.FAB_MAP_ADDR
  let changed := s.fab.map.filter fun m => !(old.contains m)
  let wseq := (s.fab.wseq + 1) % 2 ^ 32
  let s := if base = 0 then s
    else
      let s := changed.foldl (fun s m =>
        s.emitHost (.write (base + 0x40 + 16 * m.addr) false (mapEntBytes m))) s
      let s := s.emitHost (.write base false (s.mapHeader wseq))
      { s with fab := { s.fab with wseq := wseq } }
  let ev := s.reg64 Reg.FAB_EVT_PENNANT % 2 ^ 48
  let s := if ev = 0 then s else s.signalWrite ev (s.reg Reg.FAB_EPOCH)
  if changed ≠ [] ∨ s.fld Reg.FAB_STATE 1 0 ≠ oldState then s.notice 4 else s

/-- R771: what happens to one request issued under an earlier epoch: it fails, or its target must
be probed. -/
def State.settleReq (s : State) (remapped : Bool) (r : RmtReq) : State :=
  let dst := s.fab.map.find? fun m => m.addr == r.dst
  let ended := fun (st : Nat) => (s.rmtFailed r st).endRmt r
  if remapped then ended 7
  else
    match dst with
    | some m =>
      if m.live = false then ended 5
      else if m.inc ≠ r.inc ∧ r.inc ≠ 0 then ended 6
      else if s.fab.probing.contains r.dst then s
      else
        let k : Pkt := {
          from? := none, sp16 := false, sat := 0, ptype := 0x05, nflags := 0, dst := r.dst, src := s.ownAddr, dlen := 0,
          epoch := s.reg Reg.FAB_EPOCH, pseq := r.pseq, off := 0, inc := s.incarnation,
          tag := r.tag % 65536, status := 0, hops := 0, data := [] }
        { s with
          fab := { s.fab with probing := s.fab.probing ++ [r.dst] }
          router := s.router ++ [k] }
    | none => ended 5

/-- R768: pair sequences restart for targets whose incarnation has changed. -/
def State.renewPairs (s : State) (remapped : Bool) : State :=
  s.fab.map.foldl (fun s m =>
    let p := SMap.get State.pairD s.pairs m.addr
    if m.live = true ∧ (p.inc ≠ m.inc ∨ remapped = true) then
      let q : PairSeq := ⟨if p.inc = m.inc ∧ remapped = false then p.next else 0, m.inc⟩
      { s with pairs := SMap.set State.pairD s.pairs m.addr q }
    else s) s

/-- R747: settle: component, mapping, time root, routes, state, and the host map. -/
def State.settle (s : State) : State :=
  let comp := component s.fab.db s.uid
  let m := s.mapping comp
  let oldMap := s.fab.map
  let oldState := s.fld Reg.FAB_STATE 1 0
  let oldPorts := (upto 6).map s.advPort
  let oldAddr := (bitOf (s.reg Reg.FAB_STATE) 2, s.ownAddr)
  let oldMapping := (s.reg64 Reg.FAB_ORIGIN_UID, s.reg Reg.FAB_MAP_EPOCH)
  let own := coordIn m.coords s.uid
  let kept := oldMapping.1 == 0 || oldMapping == (m.origin, m.epoch)
  let remapped := decide (oldMapping.1 ≠ 0) && (own.isNone && m.cause == 0 || !kept && m.cause == 0)
  -- the mapping held, and the own address
  let s := match own with
    | some c =>
      let s := ((s.setReg Reg.FAB_ADDR (addrOf c)).setReg64 Reg.FAB_ORIGIN_UID m.origin).setReg
        Reg.FAB_MAP_EPOCH m.epoch
      ((s.setFld Reg.FAB_STATE 2 2 1).setFld Reg.FAB_STATE 1 0 3).setFld Reg.FAB_STATE 5 4 0
    | none =>
      let s := (s.setFld Reg.FAB_STATE 1 0 1).setFld Reg.FAB_STATE 5 4 m.cause
      if m.cause = 0 then
        (((s.setFld Reg.FAB_STATE 2 2 0).setReg Reg.FAB_ADDR 0).setReg64 Reg.FAB_ORIGIN_UID 0).setReg
          Reg.FAB_MAP_EPOCH 0
      else s
  -- root, routes and map
  let root := if comp.any (fun a => a.uid == m.origin) ∧ m.origin ≠ 0 then m.origin
    else ((comp.head?).map (·.uid)).getD s.uid
  let newMap := if m.cause = 0 then s.newMap comp m kept else oldMap
  let s := { s with fab := { s.fab with
    map := newMap, excluded := m.excluded, root := root, remap := false, probing := [],
    nodes := nodesOf s.fab.db comp m.coords root,
    static := (upto 512).map fun n => s.reg (Reg.FAB_STATIC + 4 * n) } }
  let s := s.setReg Reg.FAB_LIVE ((newMap.filter (·.live)).length)
  let s := s.setReg Reg.FAB_FW_LEVEL ((listMin (comp.map (·.fw))).getD 0)
  let s := if root = s.uid then
      ((s.setReg Reg.FAB_TIME_PARENT 16).setReg Reg.FAB_TIME_BOUND 0).setUnsync false false
    else
      let s := s.setFld Reg.FAB_TIME_PARENT 4 4 0
      match s.chooseParent with
      | some q => s.setReg Reg.FAB_TIME_PARENT (q + 8)
      | none => (s.setReg Reg.FAB_TIME_PARENT 0).setUnsync true s.fab.stepped
  let s := s.bump Reg.FAB_SETTLES 1
  -- requests issued under an earlier epoch
  let ep := s.reg Reg.FAB_EPOCH
  let s := { s with router := s.router.filter fun k =>
    !(k.from?.isNone && decide (k.ptype < 0x40) && k.epoch != ep) }
  let s := (s.rmt.filter fun r => r.epoch != ep).foldl (fun s r => s.settleReq remapped r) s
  let s := s.renewPairs remapped
  -- the advert, the host's map, and the signals that wait for it
  let s := if oldAddr ≠ (bitOf (s.reg Reg.FAB_STATE) 2, s.ownAddr) ∨ oldPorts ≠ (upto 6).map s.advPort
    then s.originate none else s
  (s.writeMap oldMap oldState).firePend fun w => w == .settled

/-- R747: 200 µs have passed without change. -/
def execFabricSettle (s : State) : FabOut :=
  .next (if s.running = true ∧ s.fabOn = true then s.settle else s)

end Sys2Proof.Machine
end

