-- ==== Sys2Proof/Machine/Links.lean ====
section
/-! DEFINITION. The commands of the Cunery ports (chapter 15): training, the INIT exchange, frames
received, and the deadlines that keep a link alive or take it down. A command that the port's
present state does not allow changes nothing (log entry 2). -/

namespace Sys2Proof.Machine

open Host (Outcome)

/-- Outcome of a command that has its effect. -/
abbrev Out := Host.Outcome State Fault Refusal

/-- R710: in DETECT, with EN 1, a port sends a burst of TS blocks. -/
def execTsBurst (port : Fin 6) (s : State) : Out :=
  .next (if s.alive = true ∧ s.linkSt port = 1 then s.emit (.tsBurst port) else s)

/-- R710: TS blocks on all four lanes of one lane group move DETECT to TRAIN, which starts at
16 GT/s (R717). -/
def execTsReceived (port : Fin 6) (lanes : BitVec 8) (s : State) : Out :=
  let m := lanes.toNat
  .next <|
    if s.alive = true ∧ s.linkSt port = 1 ∧ (m % 16 = 15 ∨ m / 16 = 15) then
      (s.setLink port 2 1 0).setPort port { s.port port with began := s.now }
    else s

/-- R718: fall back from SPEED to training at 16 GT/s. -/
def State.speedFallback (s : State) (p : Nat) : State :=
  ((s.setLink p 2 1 0).setFld (lk p Reg.FAB_LINK_STATE) 18 18 1).setPort p
    { s.port p with began := s.now }

/-- R713: the good lanes fix the lane set; with none the training fails. -/
def execTrainLanesFixed (port : Fin 6) (lanes : BitVec 8) (s : State) : Out :=
  let p : Nat := port
  let st := s.linkSt p
  .next <|
    if s.alive = true ∧ (st = 2 ∨ st = 4) then
      let s := s.setFld (lk p Reg.FAB_LINK_STATE) 17 10 lanes.toNat
      match laneWidth lanes.toNat with
      | some w => (s.trainUs p).enterInit p (if st = 4 then 2 else 1) w
      | none => if st = 4 then s.speedFallback p else (s.linkEvent p 2).enterDetect p
    else s

/-- R710: TRAIN or INIT misses its deadline. -/
def execTrainDeadline (port : Fin 6) (s : State) : Out :=
  let st := s.linkSt port
  .next <|
    if s.alive = true ∧ (st = 2 ∨ (st = 3 ∧ (s.port port).fast = false)) then
      (s.linkEvent port 2).enterDetect port
    else s

/-- R718: SPEED misses its deadline. -/
def execSpeedDeadline (port : Fin 6) (s : State) : Out :=
  .next (if s.alive = true ∧ s.linkSt port = 4 then s.speedFallback port else s)

/-- R719: send an INIT; the exchange ends once an INIT with PEER_SEEN follows the peer's. -/
def execInitSend (port : Fin 6) (s : State) : Out :=
  let p : Nat := port
  .next <|
    if s.alive = true ∧ s.linkSt p = 3 then
      let x := s.port p
      let s := (s.txFrame p 4 0 0 (s.initPayload p)).setPort p { x with sentValid := x.rxValid }
      match x.init, x.gotSeen with
      | some pl, true => s.initEnd p pl
      | _, _ => s
    else s

/-- R719: a good INIT is recorded, and its sender's training generation learned (R694). -/
def execInitReceived (port : Fin 6) (frame : List Byte) (coding : Bool) (s : State) : Out :=
  let p : Nat := port
  .next <|
    if s.alive = true ∧ s.linkSt p = 3 then
      let x := s.port p
      match checkFrame x.peerTgen frame coding with
      | .good =>
        if fieldAt frame 0 1 = 4 then
          let tg := fieldAt frame 14 2
          let fresh := x.init.isNone || x.peerTgen != tg
          s.setPort p { x with
            peerTgen := tg, init := some ((frame.drop 16).take 64),
            gotSeen := (if fresh then false else x.gotSeen) || bitOf (fieldAt frame (16 + 34) 1) 0 }
        else s
      | c => s.badFrame p frame c
    else s

/-- R698: what a good DATA frame does, after R695. -/
def State.dataFrame (s : State) (p : Nat) (f : List Byte) : State :=
  let x := s.port p
  let seq := fieldAt f 2 2 % 4096
  let vc := fieldAt f 1 1 % 4
  let len := fieldAt f 6 2
  if seq = x.rxE then
    let k := pktOfBytes p ((f.drop 16).take len)
    let s := s.adoptEpoch k.epoch
    if s.linkSt p = 6 ∧ vc ≠ 2 then
      (((s.bump (lk p Reg.FAB_LINK_STALE) 1).setPort p { x with
        rxE := (x.rxE + 1) % 4096, nacked := false }).txFrame p 2 0 0 [])
    else if s.vcFree p vc < cdiv len 64 then s.linkDown p (some 3)
    else
      let s := (s.setPort p { x with rxE := (x.rxE + 1) % 4096, nacked := false }).bump64
        (lk p Reg.FAB_LINK_RX_BYTES) len
      let s := if ptypeVc k.ptype = some vc then { s with router := s.router ++ [k] }
        else s.releasePkt k
      s.txFrame p 2 0 0 []
  else if 1 ≤ (x.rxE + 4096 - seq) % 4096 ∧ (x.rxE + 4096 - seq) % 4096 ≤ 1024 then
    s.txFrame p 2 0 0 []
  else if x.nacked then s
  else (s.setPort p { x with nacked := true }).txFrame p 3 0 0 []

/-- R698, R694: a DATA frame is received. -/
def execDataFrameReceived (port : Fin 6) (frame : List Byte) (coding : Bool) (s : State) : Out :=
  let p : Nat := port
  .next <|
    if s.alive = true ∧ s.linkUp p = true then
      match checkFrame (s.port p).peerTgen frame coding with
      | .good => if fieldAt frame 0 1 = 1 then (s.noteFrame p frame).dataFrame p frame else s
      | c => s.badFrame p frame c
    else s

/-- R695: a CTRL frame updates acknowledgement and credits. -/
def execCtrlFrameReceived (port : Fin 6) (frame : List Byte) (coding : Bool) (s : State) : Out :=
  let p : Nat := port
  .next <|
    if s.alive = true ∧ s.linkUp p = true then
      match checkFrame (s.port p).peerTgen frame coding with
      | .good => if fieldAt frame 0 1 = 2 then s.noteFrame p frame else s
      | c => s.badFrame p frame c
    else s

/-- The frames of the retry buffer that have been sent. -/
def Port.sentFrames (x : Port) : List RetryRec := x.retry.take (x.retry.length - x.todo)

/-- R700: a good NACK makes the sender resend every frame after ACK_SEQ. -/
def execNackReceived (port : Fin 6) (frame : List Byte) (coding : Bool) (s : State) : Out :=
  let p : Nat := port
  .next <|
    if s.alive = true ∧ s.linkUp p = true then
      match checkFrame (s.port p).peerTgen frame coding with
      | .good =>
        if fieldAt frame 0 1 = 3 then
          let s := s.noteFrame p frame
          s.resend p (s.port p).sentFrames
        else s
      | c => s.badFrame p frame c
    else s

/-- R721: a good GOODBYE takes the link down. -/
def execGoodbyeReceived (port : Fin 6) (frame : List Byte) (coding : Bool) (s : State) : Out :=
  let p : Nat := port
  .next <|
    if s.alive = true ∧ s.linkUp p = true then
      match checkFrame (s.port p).peerTgen frame coding with
      | .good => if fieldAt frame 0 1 = 5 then s.linkDown p (some 4) else s
      | c => s.badFrame p frame c
    else s

/-- R706: a transmitter idle for H sends a CTRL frame. -/
def execHeartbeat (port : Fin 6) (s : State) : Out :=
  .next (if s.alive = true ∧ s.linkUp port = true then s.txFrame port 2 0 0 [] else s)

/-- R708, R709: the end of a check interval. -/
def execCheckInterval (port : Fin 6) (s : State) : Out :=
  let p : Nat := port
  .next <|
    if s.alive = true ∧ s.linkUp p = true then
      let x := s.port p
      let miss := !x.good || decide (0 < x.old)
      let m := if miss then x.misses + 1 else 0
      let s := if miss then s.bump (lk p Reg.FAB_LINK_MISSES) 1 else s
      let s := if 0 < x.old then s.resend p x.sentFrames else s
      let s := s.setPort p { s.port p with good := false, old := x.retry.length, misses := m }
      if 3 ≤ m then s.linkDown p (some 1) else s
    else s

/-- R721: loss of block lock on an active lane. -/
def execLaneLockLoss (port : Fin 6) (s : State) : Out :=
  .next (if s.alive = true then s.linkDown port (some 2) else s)

/-- R723: electrical idle on all active lanes. -/
def execElectricalIdleDetected (port : Fin 6) (s : State) : Out :=
  .next (if s.alive = true then s.linkDown port (some 2) else s)

/-- R710, R735: after 1 µs of electrical idle DOWN leads to FAST_TRAIN, or to DISABLED, where the
retry buffer is discarded. -/
def execDownIdleExpiry (port : Fin 6) (s : State) : Out :=
  let p : Nat := port
  .next <|
    if s.alive = true ∧ s.linkSt p = 7 then
      if bitOf (s.reg (lk p Reg.FAB_LINK_CTRL)) 0 then s.setLink p 8 (s.port p).rate 0
      else ((s.setLink p 0 0 0).linkDiscard p).setPort p
        { (s.linkDiscard p).port p with fast := false }
    else s

/-- R714: the lanes lock with the stored settings. -/
def execFastTrainLocked (port : Fin 6) (s : State) : Out :=
  let p : Nat := port
  .next <|
    if s.alive = true ∧ s.linkSt p = 8 then
      (s.trainUs p).enterInit p (s.port p).rate (s.port p).width
    else s

/-- R710, R726: the 50 µs from DOWN pass without ACTIVE or QUARANTINED. -/
def execFastTrainDeadline (port : Fin 6) (s : State) : Out :=
  let p : Nat := port
  .next <|
    if s.alive = true ∧ (s.port p).fast = true ∧ (s.linkSt p = 8 ∨ s.linkSt p = 3) then
      ((s.linkEvent p 3).linkDiscard p).enterDetect p
    else s

/-- R710, R721, R735: what a write to FAB_LINK_CTRL does, `was` and `now` being EN before and
after. RETRAIN acts on a link that is up, and clears. -/
def State.linkCtrl (s : State) (p : Nat) (was : Bool) : State :=
  let c := s.reg (lk p Reg.FAB_LINK_CTRL)
  let s := s.setReg (lk p Reg.FAB_LINK_CTRL) (c % 2)
  if c % 2 = 0 then
    if s.linkUp p then s.goodbye p (some 5)
    else if was = true ∧ s.linkSt p ≠ 7 then (s.setLink p 0 0 0).linkDiscard p
    else s
  else if was = false ∧ s.linkSt p = 0 then s.enterDetect p
  else if bitOf c 1 then s.goodbye p (some 6)
  else s

end Sys2Proof.Machine
end

