-- ==== Sys2Proof/Machine/Boot.lean ====
section
/-! DEFINITION. The power-up sequence (R815): the boot sequencer's steps, DRAM training (R315), the
firmware check (R814) and READY; flash updates (R819 to R821), recovery (R823) and the SVN commit. -/

namespace Sys2Proof.Machine

/-- What a boot event answers. -/
abbrev BootOut := Host.Outcome State Fault Refusal

/-- ALM_BOOT_STATUS.STEP: the last boot step completed. -/
def State.bootStep (s : State) : Nat := s.fld Reg.ALM_BOOT_STATUS 14 11

/-- Record a boot step. -/
def State.setStep (s : State) (n : Nat) : State := s.setFld Reg.ALM_BOOT_STATUS 14 11 n

/-! ### Steps 1 to 3 -/

/-- R797, R798: the flash as discovery finds it; none is no flash. -/
def discover (f : Option FlashPart) : Option FlashPart :=
  match f with
  | some x => if x.sfdp then some (flashCanon x) else none
  | none => none

/-- R797: the commands of the reset and of the discovery. -/
def State.flashHello (s : State) : State :=
  ((s.emit (.flash 0x66 0 [])).emit (.flash 0x99 0 [])).emit (.flash 0x5A 0 [])

/-- R799: the fast read chosen: 0 1-1-1, 1 1-1-4, 2 1-4-4. -/
def fastMode (f : FlashPart) : Nat :=
  if f.qer && f.read144 then 2 else if f.qer && f.read114 then 1 else 0

/-- R800, R802, R803, R648: the identity block is applied. -/
def State.applyIdent (s : State) (l : List Byte) : State :=
  if identOk l then
    let rate := leAt l 3 1
    let s := (s.setFld Reg.HI_BOOT 2 2 1).setFld Reg.ALM_BOOT_STATUS 3 3 1
    let s := s.setReg Reg.ALM_BOARD_ID (leAt l 0x0C 4)
    let s := s.setPwr fun p => { p with flMax := min 104 (leAt l 9 1) }
    let put := fun (s : State) (o v : Nat) =>
      { s with cfg := SMap.set cfgReset s.cfg o (BitVec.ofNat 32 v) }
    let s := put s 0x2C (leAt l 4 4)
    let s := put s 0x7C (putBits (putBits (s.cfgD 0x7C) 3 0 rate) 9 4 (leAt l 8 1))
    let s := put s 0x9C (2 ^ (rate + 1) - 2)
    put s 0xA0 (putBits (s.cfgD 0xA0) 3 0 rate)
  else s.setPwr fun p => { p with flMax := 50 }

/-- ALM_FLASH_INFO (R832). -/
def State.flashInfo (s : State) (f : FlashPart) : State :=
  s.setReg Reg.ALM_FLASH_INFO (f.capMib % 512 + 512 * b2n (decide (16 < f.capMib)) +
    1024 * fastMode f + 4096 * flashMhz s.pwr.flMax 3)

/-- R903: every pin takes its function. -/
def State.applyPins (s : State) (v : Option (List Byte)) : State :=
  let prof := (v.map fun l => leAt l 0 1).getD 0
  let s := s.setReg Reg.PIN_PROFILE prof
  (upto 12).foldl (fun s n =>
    let c := (v.map fun l => leAt l (n + 1) 1).getD 0xFF
    s.switchTo n (if c = 0xFF then profileFunc prof n else c)) s

/-- R808: the settings of a copy's records are applied to every register they set. -/
def State.applySettings (s : State) (r : List (Nat × List Byte)) : State :=
  let ex := permits r
  let bad := badTags r
  let s := (s.setFld Reg.ALM_BOOT_STATUS 10 10 (b2n ex)).setFld Reg.FE_EXPERT_STATUS 0 0 (b2n ex)
  let s := match bad with
    | [] => s
    | t :: _ => (s.setFld Reg.ALM_BOOT_STATUS 9 9 1).setReg Reg.ALM_SETTING_ERR
        (t + 65536 * min 255 bad.length)
  let s := match setting r 0x8001 with
    | some v =>
      s.setReg Reg.FAB_SHAPE ((leAt v 0 1 - 1) + 16 * (leAt v 1 1 - 1) + 256 * (leAt v 2 1 - 1)
        + 4096 * (leAt v 3 1 % 8) + 32768 * leAt v 4 1)
    | none => s
  let s := match setting r 0x0004 with
    | some v =>
      ((s.setFld Reg.PWR_CAP 6 0 (leAt v 0 1)).setFld Reg.PWR_OP 5 4 (leAt v 1 1)).setFld
        Reg.PWR_PMB_CFG 6 0 (leAt v 2 1)
    | none => s
  let s := match setting r 0x0005 with
    | some v => s.setFld Reg.PWR_SMB_STATUS 6 0 (leAt v 0 1)
    | none => s
  let s := match setting r 0x0007 with
    | some v => s.setFld Reg.FE_PD_RESP 15 0 (leAt v 0 2)
    | none => s
  let s := match setting r 0x0008 with
    | some v => s.setFld Reg.DBG_TAP 1 1 (leAt v 0 1 % 2)
    | none => s
  match setting r 0x0009 with
  | some v => s.setFld Reg.FAB_LINK_ACK 15 0 (leAt v 0 2)
  | none => s

/-- R804 to R810: the chosen copy is applied, or a bare boot is taken. -/
def State.applyCopy (s : State) (f : Option FlashPart) : State :=
  let bare := fun (s : State) =>
    ((s.setFld Reg.HI_BOOT 1 1 1).setFld Reg.ALM_BOOT_STATUS 2 2 1).applyPins none
  match f with
  | none => bare s
  | some f =>
    let (c, va, vb) := flashChoose f
    let s := s.setFld Reg.ALM_BOOT_STATUS 5 4 (b2n va + 2 * b2n vb)
    if c = 0 then bare s
    else
      let l := flashCopy f (0x10000 * c)
      let r := copyRecords l
      let s := { s with copy := l }
      let s := (s.setFld Reg.ALM_BOOT_STATUS 1 0 c).setReg Reg.ALM_ACTIVE_SEQ (leAt l 4 4)
      let s := s.setReg64 Reg.FAB_LINK_COMPAT (compatWord r)
      (s.applySettings r).applyPins (setting r 0x0006)

/-- R811, R742, R649: what the fuses and the entropy source give. -/
def State.applyFuses (s : State) : State :=
  let s := s.setReg Reg.ALM_FUSE
    (b2n Config.keySet + 2 * b2n Config.debugDisable + 4 * min 32 s.svnFloor)
  let s := s.setFld Reg.DBG_TAP 0 0 (b2n Config.debugDisable)
  let s := s.setReg64 Reg.FAB_UID Config.uid.toNat
  let s := { s with
    cfg := SMap.set cfgReset (SMap.set cfgReset s.cfg 0x14C (Config.uid.setWidth 32)) 0x150
      ((Config.uid >>> (32 : Nat)).setWidth 32) }
  (s.setReg Reg.FAB_INCARNATION (Config.freeNat s.fresh 0 % (2 ^ 32 - 1) + 1)).bumpFresh

/-- R815: boot starts: PERST_N is high, and steps 1 to 3 run. THERM_N is released (R854). -/
def execBootStart (flash : Option FlashPart) (s : State) : BootOut :=
  .next <|
    if s.perst then
      let s := { s with perst := false, now := 0, tap := { s.tap with drive := 0 } }
      let s := s.emit (.pin "THERM_N" true)
      let f := discover flash
      let s := { s with flash := f }
      let s := (s.flashHello).applyFuses
      let s := match f with
        | some x => (s.applyIdent (flashRead x 0 0x1000)).flashInfo x
        | none => s
      (s.applyCopy f).setStep 3
    else s

/-! ### Steps 4 to 6 -/

/-- R315, R341, R342, R319: training ends at a rate, or at none; DRAM holds undefined bytes. -/
def execDramTrainingDone (rate : Option (Fin 3)) (chOk : BitVec 16) (big : Bool) (s : State) :
    BootOut :=
  .next <|
    if s.alive = true ∧ 3 ≤ s.bootStep ∧ s.ready = false ∧
        bitOf (s.reg Reg.MEM_TRAIN_STATUS) 16 = false then
      let set := s.dramSetting
      -- a channel that fails at a rate forces the next lower one (R315)
      let r : Nat := match rate with
        | some r => if chOk.toNat = 0xFFFF then max r set.1 else 3
        | none => 3
      let s := s.setReg Reg.MEM_TRAIN_STATUS (chOk.toNat + 65536 +
        131072 * b2n (decide (set.1 < r ∧ r < 3)))
      let s := ((s.setFld Reg.MEM_ID 7 0 (if big then 0x40 else 0x20)).setFld Reg.MEM_ID 13 13
        set.2).setFld Reg.MEM_ID 15 14 r
      let s := ({ s with dram := ⟨some s.fresh, []⟩ }).bumpFresh
      s.setStep 4
    else s

/-- A firmware image starts the Gnous cores (R814, R823). -/
def State.startFw (s : State) (n : Nat) (l : List Byte) : State :=
  let s := (s.setFld Reg.ALM_BOOT_STATUS 7 6 n).setFld Reg.ALM_BOOT_STATUS 8 8 0
  ((s.setReg Reg.ALM_FW_INFO (leAt l 0x0C 2)).setReg Reg.ALM_FW_SVN (leAt l 8 4)).setReg
    Reg.ALM_FW_SEQ (leAt l 4 4)

/-- Whether step 5 has ended: an image runs, or there is none. -/
def State.fwDone (s : State) : Bool :=
  s.fld Reg.ALM_BOOT_STATUS 7 6 != 0 || bitOf (s.reg Reg.ALM_BOOT_STATUS) 8

/-- R814: the newer image is checked first, then the other. -/
def execFirmwareCheckDone (s : State) : BootOut :=
  .next <|
    if s.alive = true ∧ 3 ≤ s.bootStep ∧ s.ready = false ∧ s.fwDone = false then
      let none' := s.setFld Reg.ALM_BOOT_STATUS 8 8 1
      let s := match s.flash with
        | none => none'
        | some f =>
          match (fwTry f).find? fun n => fwOk (fwImage f n) s.svnFloor with
          | some n => s.startFw n (fwImage f n)
          | none => none'
      s.setStep 5
    else s

/-- R809, R815, R744: the ports of PORT_EN are enabled, and the fabric starts. -/
def State.startFabric (s : State) : State :=
  let en := s.portEn
  if en = 0 then s
  else
    let s := (s.setFld Reg.FAB_STATE 1 0 1).advanceEpoch none
    (upto 6).foldl (fun s p =>
      if bitOf en p then
        let was := bitOf (s.reg (lk p Reg.FAB_LINK_CTRL)) 0
        (s.setFld (lk p Reg.FAB_LINK_CTRL) 0 0 1).linkCtrl p was
      else s) s

/-- R815 step 6: READY. The registers as they are now are the post-almanac state (R935). -/
def execBootReady (s : State) : BootOut :=
  .next <|
    if s.alive = true ∧ s.ready = false ∧ bitOf (s.reg Reg.MEM_TRAIN_STATUS) 16 = true ∧
        s.fwDone = true then
      let s := (s.setStep 6).setReg Reg.ALM_BOOT_US (s.now / 36000000 % 2 ^ 32)
      let s := s.setFld Reg.HI_BOOT 0 0 1
      -- alone until a settle says otherwise, it is its own time root (R775, R776)
      let s := (s.startFabric.setReg Reg.FAB_TIME_PARENT 16).setReg Reg.FAB_TIME_BOUND 0
      { s with postAlm := s.regs }
    else s

/-! ### Updates -/

/-- Erase commands for a range. -/
def eraseCmds (base len : Nat) : List FlashCmd :=
  (upto (cdiv len 4096)).map fun i => .erase (base + 4096 * i)

/-- Program commands for a range, page by page. -/
def pageCmds (base : Nat) (l : List Byte) : List FlashCmd :=
  ((chunks 256 (l.length / 256 + 1) l).zipIdx).map fun x => .program (base + 256 * x.2) x.1

/-- R820: the commands that write a copy or an image: erase, program with SEQ erased, read back,
program SEQ, read back SEQ. SEQ stands at byte 4 of both. -/
def updateCmds (base : Nat) (l : List Byte) : List FlashCmd :=
  let blank := l.take 4 ++ leBytes 4 0xFFFFFFFF ++ l.drop 8
  let sq := (l.drop 4).take 4
  eraseCmds base l.length ++ pageCmds base blank ++
    [.readBack base blank, .program (base + 4) sq, .readBack (base + 4) sq]

/-- The flash interface's form of a command (R798). -/
def cmdOut (addr4 : Bool) : FlashCmd → Outbound
  | .erase a => .flash (if addr4 then 0x21 else 0x20) a []
  | .program a l => .flash (if addr4 then 0x12 else 0x02) a l
  | .readBack a _ => .flash (if addr4 then 0x0C else 0x0B) a []

/-- Issue the command at the front of the update. -/
def State.issueFlash (s : State) : State :=
  match s.update, s.flash with
  | some u, some f =>
    match u.cmds with
    | c :: _ => s.emit (cmdOut (f.addr4 && decide (16 < f.capMib)) c)
    | [] => s
  | _, _ => s

/-- R818: the result word. SEQ where none was written or read, and TAG but for INVALID with a
failing tag, are left open by the spec: free values. -/
def resultWord (fresh code : Nat) (seq tag : Option Nat) : Nat :=
  code + (seq.getD (Config.freeNat fresh 0)) % 2 ^ 32 * 2 ^ 16 +
    (tag.getD (Config.freeNat fresh 1)) % 2 ^ 16 * 2 ^ 48

/-- R818: write the result word, then issue the signals, poisoned when CODE is not 0. -/
def State.flashResult (s : State) (code : Nat) (seq tag : Option Nat) (result : Nat)
    (sigs : List SigRec) : State :=
  let w := leBytes 8 (resultWord s.fresh code seq tag)
  s.bumpFresh.resultSignals result w (decide (code ≠ 0)) sigs

/-- R819: an update begins. -/
def State.beginUpdate (s : State) (k : UpdKind) (seq base : Nat) (l : List Byte) (result : Nat)
    (sigs : List SigRec) : State :=
  let u : Update := ⟨k, seq, updateCmds base l, result, sigs⟩
  (({ s with update := some u }).setFld Reg.ALM_UPDATE 0 0 1).issueFlash

/-- The SEQ that R821 gives a new image. -/
def newFwSeq (f : FlashPart) : Nat :=
  let q := fun n => leAt (flashRead f (fwBase n) 0x200) 4 4
  seqNext (if seqNewer (q 1) (q 2) then q 1 else q 2)

/-- Put a SEQ into an image. -/
def withSeq (l : List Byte) (seq : Nat) : List Byte := l.take 4 ++ leBytes 4 seq ++ l.drop 8

/-! ### Recovery -/

/-- R823: the image that the driver has placed in DRAM. -/
def State.placedImage (s : State) : State × Option (List Byte) :=
  let o := s.reg64 Reg.ALM_RECOVERY_OFS % 2 ^ 44
  if s.inDram o 0x200 = false then (s, none)
  else
    match s.readLocal o 0x200 with
    | (s, none) => (s, none)
    | (s, some h) =>
      let n := 0x200 + leAt h 0x10 4
      if fwLenOk h = false ∨ s.inDram o n = false then (s, none) else s.readLocal o n

/-- R823: START of ALM_RECOVERY. -/
def State.recover (s : State) : State :=
  let result := fun (s : State) (c : Nat) => s.setFld Reg.ALM_RECOVERY 8 1 c
  match s.flash with
  | none => result s 7
  | some f =>
    if bitOf (s.reg Reg.ALM_BOOT_STATUS) 8 = false ∨ s.dramCap = 0 then result s 2
    else if s.update.isSome then result s 1
    else
      match s.placedImage with
      | (s, none) => result s 2
      | (s, some l) =>
        if fwOk l s.svnFloor then
          let seq := newFwSeq f
          s.beginUpdate .recovery seq (fwBase 1) (withSeq l seq) 0 []
        else result s 2

/-- R823, R832: a recovery starts; START reads 1 until RESULT is written. -/
def State.startRecovery (s : State) : State :=
  let s := (s.setFld Reg.ALM_RECOVERY 0 0 1).recover
  match s.update with
  | some u => if u.kind = .recovery then s else s.setFld Reg.ALM_RECOVERY 0 0 0
  | none => s.setFld Reg.ALM_RECOVERY 0 0 0

/-- R932: take a re-armed SC command; answers whether its bit had been written again. -/
def State.rearmed (s : State) (n : Nat) : State × Bool :=
  ({ s with rearm := s.rearm.filter fun x => x != n }, s.rearm.contains n)

/-- R823, R932: a recovery has ended; a re-armed one runs next. -/
def State.recoveryDone (s : State) : State :=
  match s.rearmed 1 with
  | (s, true) => s.startRecovery
  | (s, false) => s.setFld Reg.ALM_RECOVERY 0 0 0

/-- R832: an update ends with a CODE. -/
def State.endUpdate (s : State) (u : Update) (code : Nat) : State :=
  let s := ({ s with update := none }).setReg Reg.ALM_UPDATE (16 * code)
  let s := match u.kind with
    | .recovery =>
      let s := s.setFld Reg.ALM_RECOVERY 8 1 code
      if code = 0 then
        match s.flash with
        | some f => s.startFw 1 (fwImage f 1)
        | none => s
      else s
    | _ => s
  match u.kind with
  | .recovery => s.recoveryDone
  | _ => s.flashResult code (if code = 0 then some u.seq else none) none u.result u.sigs

/-- R820: an ALMANAC update of these records: BUSY, NO_FLASH, INVALID, or the write of the inactive
copy begins. -/
def State.almanacUpdate (s : State) (tlv : List Byte) (result : Nat) (sigs : List SigRec) : State :=
  if s.update.isSome then s.flashResult 1 none none result sigs
  else
    match s.flash with
    | none => (s.setFld Reg.ALM_UPDATE 11 4 7).flashResult 7 none none result sigs
    | some f =>
      let c := (flashChoose f).1
      let seq := if c = 0 then 1 else seqNext (leAt (flashCopy f (0x10000 * c)) 4 4)
      let h := leBytes 2 0x7A71 ++ [1, 0] ++ leBytes 4 seq ++ leBytes 4 tlv.length
      let raw := h ++ leBytes 4 0 ++ leBytes 16 0 ++ tlv
      let l := raw.take 12 ++ leBytes 4 (copyCrc raw) ++ raw.drop 16
      let bad := badTags (copyRecords l)
      if copyOk l = true ∧ bad = [] then
        s.beginUpdate .almanac seq (if c = 1 then 0x20000 else 0x10000) l result sigs
      else (s.setFld Reg.ALM_UPDATE 11 4 2).flashResult 2 none bad.head? result sigs

/-- R821: a FIRMWARE update of this image. -/
def State.firmwareUpdate (s : State) (l : List Byte) (result : Nat) (sigs : List SigRec) : State :=
  if s.update.isSome then s.flashResult 1 none none result sigs
  else
    match s.flash with
    | none => (s.setFld Reg.ALM_UPDATE 11 4 7).flashResult 7 none none result sigs
    | some f =>
      if fwOk l s.svnFloor then
        let seq := newFwSeq f
        let slot := if s.fld Reg.ALM_BOOT_STATUS 7 6 = 1 then 2 else 1
        s.beginUpdate .firmware seq (fwBase slot) (withSeq l seq) result sigs
      else (s.setFld Reg.ALM_UPDATE 11 4 2).flashResult 2 none none result sigs

/-- R820: the flash after a command that went well. -/
def applyCmd (f : FlashPart) : FlashCmd → FlashPart
  | .erase a => flashErase f a
  | .program a l => flashProgram f a l
  | .readBack _ _ => f

/-- Where a command acts, as address and length. -/
def cmdRange : FlashCmd → Nat × Nat
  | .erase a => (a, 4096)
  | .program a l => (a, l.length)
  | .readBack a l => (a, l.length)

/-- R820: the command at the front of the update has ended. -/
def execFlashCommandDone (res : FlashResult) (s : State) : BootOut :=
  .next <|
    match s.update, s.flash with
    | some u, some f =>
      match u.cmds with
      | [] => s
      | c :: t =>
        let f' := applyCmd f c
        let (a, n) := cmdRange c
        let f' := match res with
          | .corrupt x b =>
            if a ≤ x ∧ x < a + n ∧ (match c with
                | .readBack _ _ => false
                | _ => true) = true then
              { f' with cells := SMap.set flashD f'.cells x b }
            else f'
          | _ => f'
        let s := { s with flash := some f' }
        match c, res with
        | .erase _, .eraseFailed => s.endUpdate u 3
        | .readBack x l, _ =>
          if flashRead f' x l.length = l then
            match t with
            | [] => s.endUpdate u 0
            | _ => ({ s with update := some { u with cmds := t } }).issueFlash
          else s.endUpdate u 4
        | _, _ => ({ s with update := some { u with cmds := t } }).issueFlash
    | _, _ => s

/-- R820: an erase or program stays busy beyond the time SFDP gives. -/
def execFlashDeadline (s : State) : BootOut :=
  .next <|
    match s.update with
    | some u =>
      match u.cmds with
      | .erase _ :: _ => s.endUpdate u 5
      | .program _ _ :: _ => s.endUpdate u 5
      | _ => s
    | none => s

/-- R826: a reset abandons an update once its command in progress has completed. -/
def State.abandonUpdate (s : State) : State :=
  match s.update, s.flash with
  | some u, some f =>
    (({ s with
      flash := match u.cmds with
        | c :: _ => some (applyCmd f c)
        | [] => some f,
      update := none,
      rearm := s.rearm.filter fun x => x != 1 }).setFld Reg.ALM_UPDATE 0 0 0).setFld
        Reg.ALM_RECOVERY 0 0 0
  | _, _ => s

/-! ### The SVN floor -/

/-- R832: the fuses have been blown. -/
def execSvnCommitDone (s : State) : BootOut :=
  .next <|
    if s.svnBusy = true ∧ s.alive = true then
      let n := max s.svnFloor (min 32 (s.reg Reg.ALM_FW_SVN))
      let r := s.rearmed 2
      (({ r.1 with svnFloor := n, svnBusy := r.2 }).setFld Reg.ALM_FUSE 7 2 n).setFld
        Reg.ALM_SVN_COMMIT 0 0 (b2n r.2)
    else s

end Sys2Proof.Machine
end

