-- ==== Sys2Proof/Machine/Streams.lean ====
section
/-! DEFINITION. Streams, their heads and waits (R521, R529, R536 to R548), the token counters of a
slot (R350, R352), lanes whose operations complete, and the ends of entries: commit, abort and
isolation (R540, R602, R616). -/

namespace Sys2Proof.Machine

/-! ### Operations that complete and their posts -/

/-- A slot's progress counters (R610). -/
def State.progOf (s : State) (n : Nat) : Prog := SMap.get State.progD s.prog n

/-- Replace a slot's progress counters. -/
def State.setProg (s : State) (n : Nat) (p : Prog) : State :=
  { s with prog := SMap.set State.progD s.prog n p }

/-- R610: a completed repetition of an operation, and bytes of accesses performed. -/
def State.countOp (s : State) (slot : Nat) : State :=
  let p := s.progOf slot
  s.setProg slot { p with ops := (p.ops + 1) % 2 ^ 48 }
def State.countBytes (s : State) (slot n : Nat) : State :=
  let p := s.progOf slot
  s.setProg slot { p with bytes := (p.bytes + n) % 2 ^ 48 }

/-- R353, R358: make a post. -/
def State.makePost (s : State) (p : Post) : State :=
  let g := s.progOf p.slot
  let s := s.setProg p.slot { g with tokens := (g.tokens + 1) % 2 ^ 48 }
  { s with posts := s.posts ++ [p] }

/-- R354: the header post of an operation word, made once the operation has completed. -/
def State.headerPost (s : State) (slot node ofs w rep : Nat) : State :=
  if postEn w then s.makePost ⟨slot, node, postNode w, postTok w, postN w, ofs, w, rep⟩ else s

/-- R452: a lane's operation without a unit queue completes and the lane goes on behind it. -/
def State.laneDone (s : State) (slot node : Nat) : State :=
  match s.slot? slot with
  | none => s
  | some x =>
    match x.lane? node with
    | none => s
    | some l =>
      let s := s.setSlot slot (some (x.setLane node { l with pc := l.pc + 32, block := none }))
      (s.countOp slot).headerPost slot node l.pc l.word 0

/-- Block a lane at an operation word. -/
def State.laneBlock (s : State) (slot node w : Nat) (b : Block) : State :=
  match s.slot? slot with
  | none => s
  | some x =>
    match x.lane? node with
    | none => s
    | some l => s.setSlot slot (some (x.setLane node { l with block := some b, word := w }))

/-- R352: free the counters of a slot. -/
def State.freeToks (s : State) (slot : Nat) : State :=
  { s with toks := s.toks.filter fun t => !(t.2.alloc && t.2.slot == slot) }

/-- R350: the numbers of a node's counters that are free, lowest first. -/
def State.freeTokNums (s : State) (node : Nat) : List Nat :=
  (upto (if node = 8 then 32 else 64)).filter fun i =>
    !(SMap.get State.tokD s.toks (64 * node + i)).alloc

/-- R350: counters of a buffer per node: `lanes` as the header's LANES. -/
def needToks (lanes nCl nFe : Nat) : List (Nat × Nat) :=
  (upto 9).map fun n => (n, if n = 8 then nFe else if bitOf lanes n then nCl else 0)

/-- R351: the counters are free in every node. -/
def State.toksFree (s : State) (need : List (Nat × Nat)) : Bool :=
  need.all fun x => decide (x.2 ≤ (s.freeTokNums x.1).length)

/-- R350: allocate the counters of a slot, with the values they start from. -/
def State.allocToks (s : State) (slot : Nat) (need : List (Nat × Nat)) (val : Nat → Nat → Nat) :
    State :=
  need.foldl (fun s x =>
    (((s.freeTokNums x.1).take x.2).zipIdx).foldl (fun s c =>
      { s with toks := SMap.set State.tokD s.toks (64 * x.1 + c.1) ⟨true, slot, c.2, val x.1 c.2, 0⟩ })
      s) s

/-- The physical counter of a token number of a slot. -/
def State.tokAt (s : State) (slot node tok : Nat) : Option Nat :=
  (upto 64).find? fun i =>
    let t := SMap.get State.tokD s.toks (64 * node + i)
    t.alloc && t.slot == slot && t.token == tok

/-! ### Waits on pennants -/

/-- R538: watches in use. -/
def State.watches (s : State) : Nat :=
  s.entries.foldl (fun n e => n + (e.waits.filter fun w => w.watch && !w.met).length) 0 +
  (upto 8).foldl (fun n i =>
    match s.slot? i with
    | none => n
    | some x => n + (x.lanes.filter fun l =>
        match l.2.block with
        | some (.pennant _ _ _ _ w) => w
        | _ => false).length) 0

/-- An unmet active wait on a pennant that its value meets (R537). -/
def waitSees (u x : Nat) (p : Bool → Bool) (w : WaitRec) : Bool :=
  w.addr == u && !w.met && w.since.isSome && decide (w.target ≤ x % 2 ^ 63) && p w.watch

/-- The entry has a fault raised that has not been responded to. -/
def State.faulted (s : State) (idx : Nat) : Bool := s.faults.any fun f => f.1 == idx

/-- R537, R541: what an observed pennant does to the waits of an entry. -/
def State.observeEntry (s : State) (u x : Nat) (p : Bool → Bool) (e : Entry) : State :=
  if e.active && !s.faulted e.idx && e.waits.any (waitSees u x p) then
    let s := s.setEntry { e with
      waits := e.waits.map fun (w : WaitRec) =>
        if waitSees u x p w then { w with met := true, watch := false } else w }
    if bitOf x 63 && !e.tolerate then s.raise e.idx (s.plainFault .pennantPoison u) else s
  else s

/-- R431, R432: what an observed pennant does to a lane blocked on it. -/
def State.observeLane (s : State) (u x : Nat) (p : Bool → Bool) (slot node : Nat) (l : Lane) :
    State :=
  match l.block with
  | some (.pennant a target tol _ w) =>
    if a = u ∧ target ≤ x % 2 ^ 63 ∧ p w = true then
      if bitOf x 63 && !tol then s.faultAt slot node l.pc .pennantPoison u
      else s.laneDone slot node
    else s
  | _ => s

/-- The device observes a pennant word `x` at `u`; `p` selects waits by their holding a watch. -/
def State.observe (s : State) (u x : Nat) (p : Bool → Bool) : State :=
  let s := s.entries.foldl (fun s e => s.observeEntry u x p e) s
  (s.pennantLanes u).foldl (fun s (y : Nat × Nat × Lane) =>
    s.observeLane u x p y.1 y.2.1 y.2.2) s

/-- A lane is blocked on a pennant, with a wait that `p` selects. -/
def Lane.watches (l : Lane) (p : Bool → Bool) : Bool :=
  match l.block with
  | some (.pennant _ _ _ _ w) => p w
  | _ => false

/-- A local pennant cannot be read (R305, R335): the waits for which it was read fault. -/
def State.waitFault (s : State) (u : Nat) (p : Bool → Bool) (code : FaultCode) : State :=
  let s := s.entries.foldl (fun s e =>
    if e.active && !s.faulted e.idx && e.waits.any (fun w => w.addr == u && !w.met && p w.watch)
    then s.raise e.idx (s.plainFault code u)
    else s) s
  (s.pennantLanes u).foldl (fun s (y : Nat × Nat × Lane) =>
    if y.2.2.watches p then s.faultAt y.1 y.2.1 y.2.2.pc code u else s) s

/-- Read a local pennant for the waits on it. -/
def State.readPennant (s : State) (u : Nat) (p : Bool → Bool) : State :=
  if s.addrOk true u 8 = false then s.waitFault u p .addrInvalid
  else
    match s.readLocal u 8 with
    | (s, some l) => s.observe u (ofLeBytes l) p
    | (s, none) => s.waitFault u p .eccUncorr

/-- Whether a UDA lies in local memory. -/
def isLocal (u : Nat) : Bool :=
  match regionOf u with
  | .dram | .plate => true
  | _ => false

/-- R538: a wait on a pennant becomes active: it takes a watch where one is free. -/
def State.takeWatch (s : State) (u : Nat) : State × Bool :=
  if isLocal u then
    if s.watches < 1024 then (s, true) else (s.bump Reg.FE_WATCH_OVF 1, false)
  else (s, false)

/-- R538: the read of a pennant when a wait on it becomes active; `poll`: at a poll. -/
def State.askPennant (s : State) (u : Nat) (poll : Bool) : State :=
  match regionOf u with
  | .dram | .plate => s.readPennant u fun _ => true
  | .host =>
    if s.ring.penReads.any fun x => x.1 == u then s
    else
      let s := s.emitHost (.read (s.iova u) 8)
      { s with ring := { s.ring with penReads := s.ring.penReads ++ [(u, poll)] } }
  | .remote =>
    if s.rmt.any fun r => r.use == .pennant u then s
    else if s.remoteOk u = some false then
      let s := s.rmtFail u 4
      (s.pennantLanes u).foldl (fun s (y : Nat × Nat × Lane) =>
        s.faultAt y.1 y.2.1 y.2.2.pc .addrInvalid u) s
    else s.rmtSend (.pennant u) .read u 8 [] false
  | .regs | .reserved => s

/-! ### Heads -/

/-- R521, R603: the head of a stream. -/
def State.head? (s : State) (st : Nat) : Option Entry :=
  if (s.stream st).isolated then none else s.entries.find? fun e => e.stream == st

/-- R548: the entry waits for a time and the device is TIME_UNSYNC. -/
def State.unsyncFor (s : State) (e : Entry) : Bool :=
  e.notBefore.isSome && bitOf (s.reg Reg.FAB_STATE) 3

/-- R521, R538, R548: an entry becomes the head of its stream. A fault found at its admission is
raised now (R600). -/
def State.activate (s : State) (e : Entry) : State :=
  let now := s.ns
  let s := s.setEntry { e with active := true, due := match e.notBefore with
    | some t => decide (t ≤ now)
    | none => true }
  match e.fault with
  | some f => s.raise e.idx { f with ftime := now }
  | none =>
    if s.unsyncFor e then s.raise e.idx (s.plainFault .timeUnsync 0)
    else
      let s := (upto e.waits.length).foldl (fun s i =>
        match s.entry? e.idx with
        | none => s
        | some e =>
          match e.waits[i]? with
          | none => s
          | some w =>
            if w.met then s
            else
              let r := s.takeWatch w.addr
              r.1.setEntry { e with
                waits := setNth { w with since := some now, watch := r.2 } e.waits i }) s
      e.waits.foldl (fun s w => if w.met then s else s.askPennant w.addr false) s

/-- R521: make every entry that has become a head active. -/
def State.heads (s : State) : State :=
  s.entries.foldl (fun s e =>
    match s.head? e.stream with
    | some h => if h.idx = e.idx ∧ h.active = false then s.activate h else s
    | none => s) s

/-- Every wait of an entry is met, and its time has come (R537, R547). -/
def Entry.met (e : Entry) : Bool := e.waits.all fun w => w.met
def Entry.ready (e : Entry) : Bool := e.active && e.met && e.due

/-- Kinds that take a slot (R519). -/
def Entry.takesSlot (e : Entry) : Bool :=
  match e.kind with
  | .submit | .launch _ => true
  | _ => false

/-- R529: the state of a stream, as FE_STREAM_INFO shows it. A head that takes no slot and is about
to commit shows as PARKED (log entry 12). -/
def State.streamState (s : State) (st : Nat) : Nat :=
  let x := s.stream st
  if x.created = false then 0
  else if x.isolated then 5
  else
    match s.head? st with
    | none => 1
    | some e =>
      if (s.slotOf e.idx).isSome then 4
      else if e.takesSlot && e.ready && !s.faulted e.idx then 3
      else 2

/-! ### Charts and generations let go -/

/-- A chart (R571). -/
def State.chart (s : State) (id : Nat) : ChartRec := SMap.get State.chartD s.charts id

/-- Replace a chart. -/
def State.setChart (s : State) (id : Nat) (c : ChartRec) : State :=
  { s with charts := SMap.set State.chartD s.charts id c }

/-- R575: a launch that has not ended pins this version. -/
def State.pinned (s : State) (id ver : Nat) : Bool :=
  s.allEntries.any fun e =>
    match e.kind with
    | .launch l => l.chart == id && l.version == ver
    | _ => false

/-- R573, R576, R583: free the versions of a chart that are neither current nor pinned; a dropped
chart without versions becomes FREE. -/
def State.freeVersions (s : State) (id : Nat) : State :=
  let c := s.chart id
  if c.used = false then s
  else
    let keep := fun (v : ChartVer) => v.ver == c.current || s.pinned id v.ver
    let gone := c.vers.filter fun v => !keep v
    let c := { c with vers := c.vers.filter keep }
    let s := s.setChart id (if c.dropping && c.vers.isEmpty then ChartRec.free else c)
    let s := gone.foldl (fun s v => s.signalWrite v.retire v.ver) s
    if c.dropping && c.vers.isEmpty then s.signals (.signal 0xFFFF) false c.dropSigs else s

/-- R550: a generation is live. -/
def State.genLive (s : State) (g : Nat) : Bool := s.allEntries.any fun e => e.hgen == g

/-! ### Ends of entries -/

/-- R523: a pending DESTROY takes effect once no entry of the stream is left. -/
def State.checkDestroy (s : State) (st : Nat) : State :=
  let x := s.stream st
  match x.destroy with
  | none => s
  | some sigs =>
    if s.entries.any fun e => e.stream == st then s
    else (s.setStream st { StreamRec.free with lastMap := x.lastMap }).signals
      (.signal st) false sigs

/-- R624: a save that ends lets the slot whose cut it was taking go on. -/
def State.uncut (s : State) (idx : Nat) : State :=
  (upto 8).foldl (fun s n =>
    match s.slot? n with
    | some x => if x.cutting = some idx then s.setSlot n (some { x with cutting := none }) else s
    | none => s) s

/-- R352, R381, R508, R576: an entry leaves its stream, committed or aborted. Its slot and counters
are freed, a save pending on it lapses (R623), and a cut that it was taking is given up (R624). -/
def State.dropEntry (s : State) (e : Entry) (committed : Bool) : State :=
  let s := match s.slotOf e.idx with
    | some n =>
      let s := (s.setSlot n none).freeToks n
      { s with posts := s.posts.filter fun p => p.slot != n,
               ops := s.ops.filter fun o => o.slot != n }
    | none => s
  let s := s.uncut e.idx
  let s := { s with
    entries := (s.entries.filter fun x => x.idx != e.idx).map fun (x : Entry) =>
      match x.kind with
      | .save im ar cf (some t) g w =>
        if t = e.idx then { x with kind := .save im ar cf none g w } else x
      | _ => x,
    faults := s.faults.filter fun f => f.1 != e.idx,
    past := SMap.set State.pastD s.past e.idx (some (e.stream, committed)),
    ring := { s.ring with commits := (s.ring.commits + 1) % 2 ^ 64 } }
  match e.kind with
  | .launch l => s.freeVersions l.chart
  | _ => s

/-- What follows the end of an entry: held signals, a DESTROY, and the next head. -/
def State.afterEntry (s : State) (st : Nat) : State := ((s.checkPend).checkDestroy st).heads

/-- R540, R602, R615: an entry ends without committing: its signals are issued poisoned, or not at
all. -/
def State.endAborted (s : State) (e : Entry) (silent : Bool) : State :=
  let s := if silent then s else s.signals (.signal e.stream) true e.sigs
  s.dropEntry e false

/-- R616: an entry commits. -/
def State.endCommitted (s : State) (e : Entry) : State :=
  ((s.signals (.signal e.stream) false e.sigs).dropEntry e true).afterEntry e.stream

/-- R609: the capture depth with which a fault of an entry is recorded. -/
def State.entryDepth (s : State) (e : Entry) : Nat := s.depthOf (s.stream e.stream).domain

/-- R609: the dump of depth 2: the faulting lane's registers, then the values of the counters. -/
def State.dumpBytes (s : State) (e : Entry) (node : Nat) : List Byte :=
  match s.slotOf e.idx with
  | none => List.replicate 4096 0
  | some n =>
    let lane := (s.slot? n).bind fun x => x.lane? node
    let regs := (upto 32).flatMap fun i =>
      match lane.bind fun l => drOf l.drs i with
      | some d => dregBytes d
      | none => leBytes 64 0
    let count := fun m => match e.kind, e.buf with
      | .launch l, _ => if m = 8 then l.nFe else l.nCl
      | _, some b => b.counters m
      | _, none => 0
    let vals := (upto 9).flatMap fun m => (upto (count m)).flatMap fun t =>
      match s.tokAt n m t with
      | some i => leBytes 2 (SMap.get State.tokD s.toks (64 * m + i)).value
      | none => leBytes 2 0
    let l := regs ++ vals
    l ++ List.replicate (4096 - l.length) 0

/-- R602, steps 2 to 5: record, poisoned signals, slot freed and stream ISOLATED, notice. -/
def State.contain (s : State) (e : Entry) (f : FaultInfo) (engines : List Nat) (age : Nat)
    (dump : List Byte) : State :=
  let d := s.entryDepth e
  let s := if d = 2 then s.writeDump e.stream dump else s
  let s := s.writeRecord e.stream f (s.entryCtx e 1 d engines age)
  let s := s.endAborted e false
  let s := s.setStream e.stream { s.stream e.stream with isolated := true }
  (s.notice 0).afterEntry e.stream

end Sys2Proof.Machine
end

