-- ==== Sys2Proof/Machine/Ring.lean ====
section
/-! DEFINITION. The submission ring (R502 to R519, R526, R528): its set-up, the status line, polling,
the reading of entries, and the checks and steps that the admission of every entry shares. -/

namespace Sys2Proof.Machine

abbrev RingOut := Host.Outcome State Fault Refusal

/-! ### State and status line -/

/-- R528: admission must pause. -/
def State.ringFull (s : State) : Bool :=
  decide (4096 ≤ s.entries.length) || decide (512 ≤ s.entries.foldl (fun n e => n + e.ext) 0)

/-- FE_RING_STATUS.STATE (R561). -/
def State.ringState (s : State) : Nat :=
  if s.ring.started = false ∨ s.ring.halted = true ∨ bitOf (s.reg Reg.FE_RING_CTRL) 0 = false then 0
  else if s.ringFull then 3
  else if s.ring.stalled && s.ring.arrived.isEmpty then 2
  else 1

/-- R508: RUNNING. -/
def State.runningMask (s : State) : Nat :=
  (upto 8).foldl (fun m n => m + b2n (s.slot? n).isSome * 2 ^ n) 0

/-- R508, R509: the fields of the status line but WSEQ and FTIME. -/
def State.lineFields (s : State) : List Nat :=
  [s.reg Reg.FE_RING_HEAD, s.ringState, s.incarnation, s.ring.commits, s.ring.errCount,
   s.ring.lastErr, s.ring.faultSeq, s.reg Reg.FE_POLL_NOW, s.runningMask]

/-- R508: the bytes of the line. -/
def lineBytes (wseq ftime : Nat) (f : List Nat) : List Byte :=
  let g := fun i => nth 0 f i
  leBytes 4 wseq ++ leBytes 4 (g 0) ++ leBytes 1 (g 1) ++ leBytes 3 0 ++ leBytes 4 (g 2) ++
  leBytes 8 ftime ++ leBytes 8 (g 3) ++ leBytes 4 (g 4) ++ leBytes 4 (g 5) ++ leBytes 4 (g 6) ++
  leBytes 4 (g 7) ++ leBytes 2 (g 8) ++ leBytes 10 0 ++ leBytes 4 wseq

/-- R509: write the line. -/
def State.writeLine (s : State) : State :=
  let f := s.lineFields
  let w := (s.ring.wseq + 1) % 2 ^ 32
  let s := s.emitHost (.write s.ring.lineAt false (lineBytes w s.ns f))
  { s with ring := { s.ring with
      wseq := w
      shown := f
      lineLive := s.ring.lineLive && !s.ring.closing
      closing := false } }

/-- R509: RING_STATUS_WRITE: a field other than FTIME has changed, or the last write of R504 is
due. -/
def execRingStatusWrite (s : State) : RingOut :=
  .next <|
    if s.running && s.ring.lineLive && (s.ring.closing || s.lineFields != s.ring.shown) then
      s.writeLine
    else s

/-! ### Set-up -/

/-- Set a flag of FE_RING_STATUS (bit 2 CFG_IGNORED, 3 CFG_ERR, 4 TAIL_ERR, 5 READ_ERR); the last
three raise RING when they rise (R665). -/
def State.ringFlag (s : State) (b : Nat) : State :=
  let v := s.reg Reg.FE_RING_STATUS
  let t := s.setReg Reg.FE_RING_STATUS (v ||| 2 ^ b)
  if 3 ≤ b ∧ bitOf v b = false then t.notice 3 else t

/-- R665: RING, when FE_RING_STATUS.STATE has left 1 between two states while EN is 1. -/
def State.ringEdge (s t : State) : State :=
  if s.ringState = 1 ∧ t.ringState ≠ 1 ∧ bitOf (t.reg Reg.FE_RING_CTRL) 0 = true then t.notice 3
  else t

/-- R503, R814: the set-up is good. -/
def State.ringSetupOk (s : State) : Bool :=
  let l := s.fld Reg.FE_RING_CTRL 5 1
  decide (6 ≤ l) && decide (l ≤ 16) && s.reg64 Reg.FE_RING_BASE % 4096 == 0 &&
    s.reg64 Reg.FE_DB_ADDR % 64 == 0 && s.reg64 Reg.FE_STATUS_ADDR % 64 == 0 &&
    !bitOf (s.reg Reg.ALM_BOOT_STATUS) 8

/-- R512: the limits of the adaptive period are good. -/
def State.pollLimitsOk (s : State) : Bool :=
  decide (375 ≤ s.reg Reg.FE_POLL_MIN) && decide (s.reg Reg.FE_POLL_MIN ≤ s.reg Reg.FE_POLL_MAX)
    && decide (s.reg Reg.FE_POLL_MAX ≤ 1500000)

/-- R511, R512: bring the period in force in line with FE_RING_CTRL.ADAPT and the limits. -/
def State.pollPeriod (s : State) : State :=
  if bitOf (s.reg Reg.FE_RING_CTRL) 6 then
    if s.pollLimitsOk then
      if s.ring.adapt then
        s.setReg Reg.FE_POLL_NOW
          (max (s.reg Reg.FE_POLL_MIN) (min (s.reg Reg.FE_POLL_NOW) (s.reg Reg.FE_POLL_MAX)))
      else
        ({ s with ring := { s.ring with adapt := true, quiet := 0 } }).setReg Reg.FE_POLL_NOW
          (s.reg Reg.FE_POLL_MIN)
    else
      (({ s with ring := { s.ring with adapt := false } }).ringFlag 3).setReg Reg.FE_POLL_NOW 1500
  else ({ s with ring := { s.ring with adapt := false } }).setReg Reg.FE_POLL_NOW 1500

/-- The entry at the front is in the middle of its admission: it waits for seal space, for the copy
that it makes of the handle table, or for bytes of a remote device (R422, R523, R549). An implicit
copy goes on without its entry once a read error has stopped admission (R559). -/
def State.frontBusy (s : State) : Bool :=
  s.ring.sealing.isSome ||
    (match s.hcopy with
     | some h => h.sync || !s.ring.halted
     | none => false) ||
    s.rmt.any fun r => r.use == .front

/-- R503: what follows EN turning 1. An entry still in its admission (R504) is not read again. -/
def State.ringOn (s : State) : State :=
  if s.ringSetupOk then
    let h := s.reg Reg.FE_RING_START
    let l := if s.frontBusy then s.ring.arrived.take 1 else []
    let s := { s with ring := { s.ring with
      started := true
      halted := false
      lineLive := true
      lineAt := s.reg64 Reg.FE_STATUS_ADDR
      closing := false
      commits := 0
      errCount := 0
      lastErr := 0
      quiet := 0
      adapt := false
      reading := 0
      readHead := if l.any fun x => x.1 == h then (h + 1) % 2 ^ 32 else h
      arrived := l
      stalled := false } }
    ((s.setReg Reg.FE_RING_HEAD h).pollPeriod).writeLine
  else
    (({ s with ring := { s.ring with started := false, lineLive := false } }).ringFlag 3)

/-- R504: what follows EN turning 0: only the entry in progress is still admitted. -/
def State.ringOff (s : State) : State :=
  { s with ring := { s.ring with
      started := false
      closing := s.ring.lineLive
      pollOpen := false
      pollOut := false
      penReads := s.ring.penReads.filter fun x => !x.2
      reading := 0
      stalled := false
      arrived := if s.frontBusy then s.ring.arrived.take 1 else [] } }

/-- R503, R504: what a write of FE_RING_CTRL does beside storing its fields; `was`: EN before. -/
def State.ringCtrl (s : State) (was : Bool) : State :=
  let now := bitOf (s.reg Reg.FE_RING_CTRL) 0
  if now && !was then s.ringOn
  else if was && !now then s.ringOff
  else if s.ring.started then s.pollPeriod
  else s

/-! ### Polling -/

/-- The unmet active waits of entries and lanes: the pennant, and whether the wait has a watch. -/
def State.openWaits (s : State) : List (Nat × Bool) :=
  s.entries.flatMap (fun e =>
    if e.active && !s.faulted e.idx then
      e.waits.filterMap fun w => if w.met then none else some (w.addr, w.watch)
    else []) ++
  (upto 8).flatMap fun n =>
    match s.slot? n with
    | none => []
    | some x => x.lanes.filterMap fun l =>
        match l.2.block with
        | some (.pennant a _ _ _ w) => if s.laneHalted x l.1 then none else some (a, w)
        | _ => none

/-- The pennants that unmet active waits name, each once: those of entries, then those of lanes. -/
def State.waitedOn (s : State) : List Nat := (s.openWaits.map (·.1)).eraseDups

/-- R538: those of them with a wait that found no watch free. -/
def State.unwatched (s : State) : List Nat :=
  ((s.openWaits.filter fun x => !x.2).map (·.1)).eraseDups

/-- R511: the host pennants of this poll, at most 64, in round-robin order. -/
def State.pollSet (s : State) : List Nat :=
  let l := s.waitedOn.filter fun u => regionOf u == .host
  if l = [] then [] else ((l.drop (s.ring.rr % l.length)) ++ l.take (s.ring.rr % l.length)).take 64

/-- R511, R538: POLL. Remote pennants, and local ones without a watch, are read once per period. -/
def execPoll (s : State) : RingOut :=
  .next <|
    if s.running && s.ring.started && !s.ring.pollOpen then
      let s := (s.pollPeriod).bump Reg.FE_POLLS 1
      let s := s.emitHost (.read (s.reg64 Reg.FE_DB_ADDR) 64)
      let l := s.pollSet
      let s := { s with ring := { s.ring with
        pollOpen := true
        pollOut := true
        news := false
        rr := s.ring.rr + l.length } }
      let s := l.foldl (fun s u => s.askPennant u true) s
      s.unwatched.foldl (fun s u =>
        match regionOf u with
        | .remote => s.askPennant u true
        | .dram | .plate => s.readPennant u fun w => !w
        | _ => s) s
    else s

/-- R512: a poll ends once its reads have returned. -/
def State.pollEnd (s : State) : State :=
  if s.ring.pollOpen && !s.ring.pollOut && !(s.ring.penReads.any fun x => x.2) then
    let s := { s with ring := { s.ring with pollOpen := false } }
    if s.ring.adapt = false then s
    else if s.ring.news then
      ({ s with ring := { s.ring with quiet := 0 } }).setReg Reg.FE_POLL_NOW
        (s.reg Reg.FE_POLL_MIN)
    else if s.ring.quiet + 1 < 8 then { s with ring := { s.ring with quiet := s.ring.quiet + 1 } }
    else
      ({ s with ring := { s.ring with quiet := 0 } }).setReg Reg.FE_POLL_NOW
        (min (2 * s.reg Reg.FE_POLL_NOW) (s.reg Reg.FE_POLL_MAX))
  else s

/-- R507: TAIL is within the ring from an index on. -/
def State.tailOk (s : State) (tail a : Nat) : Bool :=
  decide ((tail + 2 ^ 32 - a) % 2 ^ 32 ≤ s.ringSize)

/-- R526: read the next entries, at most 16, up to TAIL and to the end of the ring's memory; none
where TAIL has fallen back behind those already read. -/
def State.readEntries (s : State) : State :=
  let a := s.ring.readHead
  let n := min 16 (min ((s.reg Reg.FE_RING_TAIL + 2 ^ 32 - a) % 2 ^ 32)
    (s.ringSize - a % s.ringSize))
  if n = 0 ∨ s.ring.reading ≠ 0 ∨ s.ring.halted = true ∨
      s.tailOk (s.reg Reg.FE_RING_TAIL) a = false then s
  else
    let s := s.emitHost
      (.read (s.reg64 Reg.FE_RING_BASE + 64 * (a % s.ringSize)) (64 * n))
    { s with ring := { s.ring with reading := n } }

/-- R559: a read of the doorbell line, an entry or an extension block failed. -/
def State.ringReadErr (s : State) : State :=
  ({ s with ring := { s.ring with halted := true, reading := 0 } }).ringFlag 5

/-- R650, R663: how a host read has failed, unless it is a timeout that Completion Timeout Disable
rules out; such a read goes on waiting. -/
def State.noTimeout (s : State) (fail : Option ReadFail) : Bool :=
  fail == some .timeout && bitOf (s.cfgD 0x98) 4

/-- R507: DOORBELL_READ_RETURN. -/
def execDoorbellReadReturn (tail : Word32) (fail : Option ReadFail) (s : State) : RingOut :=
  .next <| s.ringEdge <|
    if s.running && s.ring.started && s.ring.pollOut && !s.noTimeout fail then
      let s := { s with ring := { s.ring with pollOut := false } }
      match fail with
      | some x =>
        ((((s.hostErr (readStatus x) (s.reg64 Reg.FE_DB_ADDR)).ringReadErr).pollEnd).flushHeld)
      | none =>
        let t := tail.toNat
        let s : State := if s.tailOk t (s.reg Reg.FE_RING_HEAD) then
            let s : State := if t = s.reg Reg.FE_RING_TAIL then s
              else { s with ring := { s.ring with news := true } }
            s.setReg Reg.FE_RING_TAIL t
          else s.ringFlag 4
        ((s.readEntries).pollEnd).flushHeld
    else s

/-! ### Entries -/

/-- The rows of the table that ring entries take. -/
inductive RowKind where
  | nop | submit | launch | create | configure | destroy | release | waitOnly | signalOnly | abort
  | save | restore | chartLoad | patchVersioned | patchHot | chartDrop | handleSync
  | almanac | firmware | almRead | rediscover | remap | fence
  deriving DecidableEq, Repr

/-- R519: the row of an entry by its KIND and its OP or PMODE; none is reserved. -/
def rowKind (raw : List Byte) : Option RowKind :=
  let op := leAt raw 8 1
  match leAt raw 0 1 with
  | 0x00 => some .nop
  | 0x01 => some .submit
  | 0x02 => some .launch
  | 0x03 =>
    match op with
    | 0 => some .create
    | 1 => some .configure
    | 2 => some .destroy
    | 3 => some .release
    | _ => none
  | 0x04 => some .waitOnly
  | 0x05 => some .signalOnly
  | 0x06 => some .abort
  | 0x07 => some .save
  | 0x08 => some .restore
  | 0x09 => some .chartLoad
  | 0x0A =>
    match leAt raw 10 1 with
    | 0 => some .patchVersioned
    | 1 => some .patchHot
    | _ => none
  | 0x0B => some .chartDrop
  | 0x0C => some .handleSync
  | 0x0D =>
    match op with
    | 0 => some .almanac
    | 1 => some .firmware
    | 2 => some .almRead
    | _ => none
  | 0x0E =>
    match op with
    | 0 => some .rediscover
    | 1 => some .remap
    | 2 => some .fence
    | _ => none
  | _ => none

/-- R519: stream-ordered kinds. -/
def RowKind.ordered : RowKind → Bool
  | .submit | .launch | .waitOnly | .signalOnly | .save | .restore => true
  | _ => false

/-- R520: kinds that use the STREAM field. -/
def RowKind.usesStream (k : RowKind) : Bool :=
  k.ordered ||
    (match k with
     | .create | .configure | .destroy | .release | .abort => true
     | _ => false)

/-- An entry as its checks have read it. -/
structure Req where
  idx : Nat
  raw : List Byte
  stream : Nat
  waits : List WaitRec
  sigs : List SigRec
  ext : Nat
  tolerate : Bool
  notBefore : Option Nat
  deriving Repr

/-- R516. -/
def waitOf (l : List Byte) (o : Nat) : WaitRec :=
  { addr := leAt l o 8 % 2 ^ 48, target := leAt l (o + 8) 8 % 2 ^ 63, met := false, since := none,
    watch := false }
def sigOf (l : List Byte) (o : Nat) : SigRec :=
  { addr := leAt l o 8 % 2 ^ 48, max := bitOf (leAt l o 8) 63, value := leAt l (o + 8) 8 % 2 ^ 63 }

/-- R517: a pennant address. -/
def pennantOk (u : Nat) : Bool :=
  u % 8 == 0 &&
    (match regionOf u with
     | .regs | .reserved => false
     | _ => true)
def sigOk (g : SigRec) : Bool := pennantOk g.addr && !(g.max && regionOf g.addr == .host)

/-- Whether a UDA lies in host IOVA or local DRAM, aligned. -/
def inHostOrDram (u al : Nat) : Bool :=
  u % al == 0 && (regionOf u == .host || regionOf u == .dram)

/-- R517: the checks of an entry that its class alone decides. -/
def State.shapeOk (s : State) (k : RowKind) (raw : List Byte) : Bool :=
  let flags := leAt raw 1 1
  let st := leAt raw 2 2
  let nw := leAt raw 6 1
  let ns := leAt raw 7 1
  let x := s.stream st
  (!k.usesStream || (decide (st < 512) &&
    (if k = .create then !x.created else x.created) && (x.destroy.isNone || k == .abort))) &&
  decide (nw ≤ 16) && decide (ns ≤ 4) && (bitOf flags 2 || (decide (nw ≤ 1) && decide (ns ≤ 1))) &&
  (k.ordered || nw == 0) && !(k == .nop && ns != 0) && !(k == .waitOnly && nw == 0) &&
  !(k == .signalOnly && ns == 0) && (!bitOf flags 1 || k == .submit || k == .launch)

/-- What the checks of an entry answer. -/
inductive Checked where
  | stall
  | readErr (s : State)
  | reject (s : State)
  | ok (s : State) (r : Req)
  deriving Repr

/-- R514, R515, R517: check an entry and copy its extension block. -/
def State.checkEntry (s : State) (v : View) (k : RowKind) (idx : Nat) (raw : List Byte) : Checked :=
  if s.shapeOk k raw = false then .reject s
  else
    let flags := leAt raw 1 1
    let nw := leAt raw 6 1
    let ns := leAt raw 7 1
    let finish (s : State) (ws : List WaitRec) (gs : List SigRec) (ext : Nat) : Checked :=
      if ws.all (fun w => pennantOk w.addr) && gs.all sigOk then
        .ok s { idx := idx, raw := raw, stream := leAt raw 2 2, waits := ws, sigs := gs,
                ext := ext, tolerate := bitOf flags 0,
                notBefore := if bitOf flags 1 then some (leAt raw 16 8) else none }
      else .reject s
    if bitOf flags 2 then
      let u := leAt raw 32 8 % 2 ^ 48
      if inHostOrDram u 64 = false ∨ s.addrOk true u 320 = false then .reject s
      else
        let r := (Ctx.start s v []).read true u 320
        if r.1.stall then .stall
        else if r.1.err.isSome then
          if regionOf u = .host then .readErr r.1.s else .reject r.1.s
        else
          finish r.1.s ((upto nw).map fun i => waitOf r.2 (16 * i))
            ((upto ns).map fun i => sigOf r.2 (256 + 16 * i)) 1
    else
      finish s ((upto nw).map fun _ => waitOf raw 32) ((upto ns).map fun _ => sigOf raw 48) 0

/-- R520: the stream of an entry whose kind uses STREAM, whatever its other fields hold. -/
def rawStream (raw : List Byte) : Option Nat :=
  let k := leAt raw 0 1
  let st := leAt raw 2 2
  if 1 ≤ k ∧ k ≤ 8 ∧ st < 512 then some st else none

/-- R518, R605: reject the entry at the front: it counts, and is recorded. -/
def State.rejectFront (s : State) : State :=
  match s.ring.arrived with
  | [] => s
  | (a, raw) :: t =>
    let s := { s with ring := { s.ring with
      arrived := t
      fetched := []
      fetchBad := false
      errCount := (s.ring.errCount + 1) % 2 ^ 32
      lastErr := a } }
    let s := (s.bump Reg.FE_ENTRY_ERRS 1).setReg Reg.FE_RING_HEAD ((a + 1) % 2 ^ 32)
    let f := s.plainFault .entryInvalid 0
    match rawStream raw with
    | some n =>
      let x := s.stream n
      s.recordOnly (if x.created && !x.isolated then n else 512) n a f
    | none => s.recordOnly 512 0xFFFF a f

/-- R519: reject the entries at the front whose KIND, OP or PMODE is reserved. -/
def State.skipReserved (s : State) : Nat → State
  | 0 => s
  | n + 1 =>
    match s.ring.arrived with
    | [] => s
    | (_, raw) :: _ => if (rowKind raw).isNone then (s.rejectFront).skipReserved n else s

/-- Admission goes on (R504, R526, R528, R559): of what has been read, and while EN is 0 of the
entry in progress alone. -/
def State.admits (s : State) : Bool :=
  s.running && !s.ring.halted && s.hcopy.isNone && s.ring.sealing.isNone && !s.ringFull

/-- Reject the reserved entries at the front, as many as there are, while admission goes on. -/
def State.clearFront (s : State) : State :=
  if s.admits then s.skipReserved s.ring.arrived.length else s

/-- R510: the admission of the entry at the front is complete. -/
def State.passHead (s : State) : State :=
  match s.ring.arrived with
  | [] => s
  | (a, _) :: t =>
    let s := { s with ring := { s.ring with arrived := t, fetched := [], fetchBad := false } }
    let s := if s.reg Reg.FE_RING_HEAD = a then s.setReg Reg.FE_RING_HEAD ((a + 1) % 2 ^ 32) else s
    s.clearFront

/-- R526: take the entries of a read that are written; answers the state, stopped at the first that
is not. -/
def State.takeEntries (s : State) : List (List Byte) → State
  | [] => s
  | l :: t =>
    let a := s.ring.readHead
    if leAt l 4 2 = a % 65536 then
      ({ s with ring := { s.ring with
        arrived := s.ring.arrived ++ [(a, l)]
        readHead := (a + 1) % 2 ^ 32 } }).takeEntries t
    else
      ({ s with ring := { s.ring with stalled := true } }).bump Reg.FE_SEQ_RETRY 1

/-- R526: ENTRY_READ_RETURN. -/
def execEntryReadReturn (bytes : List Byte) (fail : Option ReadFail) (s : State) : RingOut :=
  .next <| s.ringEdge <|
    if s.running && s.ring.started && decide (s.ring.reading ≠ 0) && !s.noTimeout fail then
      let n := s.ring.reading
      match fail with
      | some x =>
        ((s.hostErr (readStatus x)
          (s.reg64 Reg.FE_RING_BASE + 64 * (s.ring.readHead % s.ringSize))).ringReadErr).flushHeld
      | none =>
        let s := { s with ring := { s.ring with reading := 0, stalled := false } }
        let l := (upto n).map fun i => (bytes.drop (64 * i)).take 64
        let s := (s.takeEntries l).clearFront
        (if s.ring.stalled then s else s.readEntries).flushHeld
    else s

/-- The entry at the front, when it may be admitted and is of this row. -/
def State.front (s : State) (k : RowKind) : Option (Nat × List Byte) :=
  if s.admits then
    match s.ring.arrived with
    | [] => none
    | (a, raw) :: _ => if rowKind raw = some k then some (a, raw) else none
  else none

/-- What the action of a kind answers. -/
inductive Acted where
  /-- A body check fails: the entry is rejected. -/
  | reject (s : State)
  /-- It cannot act yet. -/
  | wait
  /-- Its admission has begun and goes on in later steps (R422, R549). -/
  | hold (s : State)
  /-- It is taken up anew once it has the first copy of the handle table (R549), or bytes of a
  remote device (R523). -/
  | copy (h : HandleCopy)
  | fetch (miss : List (Nat × Nat))
  /-- Its admission is complete. -/
  | done (s : State)
  deriving Repr

/-- The sealed images held: those of the buffers and segments of entries that have not ended. -/
def State.sealed (s : State) : List (Nat × Nat) :=
  s.entries.flatMap fun e =>
    (match e.buf with
     | some b => b.sealAt.toList
     | none => []) ++
    (match e.kind with
     | .launch l => l.ahead.flatMap fun b => b.sealAt.toList
     | _ => [])

/-- R441: at an admission with no sealed image held, the registers' seal area comes into force. -/
def State.sealRefresh (s : State) : State :=
  if s.sealed = [] then
    { s with sealBase := s.reg64 Reg.FE_SEAL_BASE % 2 ^ 48, sealSize := s.reg Reg.FE_SEAL_SIZE }
  else s

/-- R527: take in the entry at the front, if it is of this row. -/
def State.admitRow (s : State) (k : RowKind) (v : View) (act : State → Req → Acted) : State :=
  s.ringEdge <| match s.front k with
  | none => s
  | some (a, raw) =>
    match s.sealRefresh.checkEntry v k a raw with
    | .stall => s
    | .readErr s => s.ringReadErr
    | .reject s => (s.rejectFront).clearFront
    | .ok t r =>
      match act t r with
      | .reject t => (t.rejectFront).clearFront
      | .wait => s
      | .hold t => t
      | .copy h => { s with hcopy := some h }
      | .fetch m => s.fetchMissing .front m
      | .done t => t.passHead

/-- Issue the signals of a device-level entry. -/
def State.reSignals (s : State) (r : Req) (poison : Bool) : State :=
  s.signals (.signal 0xFFFF) poison r.sigs

end Sys2Proof.Machine
end

