-- ==== Sys2Proof/Machine/Seal.lean ====
section
/-! DEFINITION. Relocation and checking of a buffer's operations before they run (R415, R428,
R453), and Direct dispatch: the seal area and sealing (R419 to R424, R441). -/

namespace Sys2Proof.Machine

/-! ### Checking operations -/

/-- The generation a number names. -/
def State.genOf (s : State) (g : Nat) : Option HandleGen := s.gens.find? fun x => x.gen == g

/-- The environment in which a node's operations of a buffer are checked. -/
def State.opEnv (s : State) (e : Entry) (b : BufInfo) (node : Nat) : OpEnv :=
  { buf := b, domain := (s.stream e.stream).domain, node := node, gen := s.genOf e.hgen,
    expert := s.expert || b.sealAt.isSome, count := b.sealAt.isNone,
    segment := match e.kind with
      | .launch _ => true
      | _ => false }

/-- R404, R405, R453: check an operation with the registers of its lane, and give the registers a
TENSOR_DESC leaves. Answers also the relocated inline reference. A SEED_SET was checked at
admission and is not checked again (R485). -/
def Ctx.prepOp (c : Ctx) (e : OpEnv) (w : Nat) (drs : SMap (Option DReg)) :
    Ctx × SMap (Option DReg) × Nat :=
  let c := if e.count then { c with s := c.s.bump Reg.FE_RELOC_OPS 1 } else c
  if opCode w = 0x08 ∧ e.node = 8 ∧ e.segment = false then (c, drs, 0)
  else
    let r := c.checkOp e w drs
    if r.1.err.isSome then (r.1, drs, 0)
    else if opCode w = 0x01 then
      let n := bits w 68 64
      let inv := SMap.set (fun _ => (none : Option DReg)) drs n none
      if e.buf.descCount ≤ bits w 89 80 then (r.1.bad .descInvalid, inv, 0)
      else
        let d := r.1.bufRead e.buf (e.buf.descOfs + 64 * bits w 89 80) 64
        if d.1.err.isSome then (d.1, drs, 0)
        else
          let x := d.1.loadDesc e w d.2
          (x.1, SMap.set (fun _ => (none : Option DReg)) drs n x.2, 0)
    else (r.1, drs, r.2)

/-- R415: where the next operation to relocate stands, and the registers it finds. -/
def Lane.rel (l : Lane) : Nat × SMap (Option DReg) :=
  match l.ahead.getLast? with
  | some r => (r.ofs + 32, r.drs)
  | none =>
    match l.block with
    | none | some .room => (l.pc, l.drs)
    | some _ => (l.pc + 32, l.drs)

/-- R415: fetch the piece of 4 KiB of a lane that holds the operation at `ofs`. -/
def Ctx.fetchPiece (c : Ctx) (b : BufInfo) (node ofs : Nat) : Ctx × Nat × List Byte :=
  let o := b.laneStart node + (ofs - b.laneStart node) / 4096 * 4096
  let r := c.bufRead b o (min 4096 (b.laneEnd node - o))
  (r.1, o, r.2)

/-- A lane's piece in staging holds the operation at `ofs`. -/
def Lane.holds (l : Lane) (ofs : Nat) : Bool :=
  match l.piece with
  | some p => decide (p.1 ≤ ofs) && decide (ofs + 32 ≤ p.1 + p.2.length)
  | none => false

/-- R415, R418, R421: the word of an operation of a lane, at its byte offset: from the piece in
staging, which is fetched first where it is another one; a sealed lane's from the seal area. -/
def Ctx.fetchOp (c : Ctx) (b : BufInfo) (node : Nat) (l : Lane) (ofs : Nat) :
    Ctx × Option (Nat × List Byte) × Nat :=
  if b.sealAt.isSome then
    let r := c.bufRead b ofs 32
    (r.1, l.piece, ofLeBytes r.2)
  else
    let r : Ctx × Option (Nat × List Byte) :=
      if l.holds ofs then (c, l.piece)
      else
        let q := c.fetchPiece b node ofs
        (q.1, some q.2)
    (r.1, r.2, (r.2.map fun p => leAt p.2 (ofs - p.1) 32).getD 0)

/-- What relocating the next operation of a lane comes to. -/
inductive Relocated where
  /-- There is nothing to relocate now. -/
  | none
  /-- Its read failed. -/
  | unread (c : Ctx) (ofs : Nat) (x : AccErr)
  /-- A check of it failed (R417): its place and word, and the registers it leaves. -/
  | fault (c : Ctx) (ofs word : Nat) (drs : SMap (Option DReg)) (x : AccErr)
  | ok (c : Ctx) (l : Lane)
  deriving Repr

/-- R415: G0 relocates the next operation of a lane, if it is one of the given row; at most 8 are
held ahead of issue. A sealed lane's needs no relocation and is taken one at a time. -/
def Ctx.relocNext (c : Ctx) (e : OpEnv) (l : Lane) (row : Nat → Bool) : Relocated :=
  let at' := l.rel
  if (if e.buf.sealAt.isSome then 1 else 8) ≤ l.ahead.length ∨ e.buf.laneEnd e.node ≤ at'.1 then .none
  else
    let r := c.fetchOp e.buf e.node l at'.1
    if r.1.stall || r.1.miss != [] then .none
    else
      match r.1.err with
      | some x => .unread r.1 at'.1 x
      | none =>
        if row r.2.2 = false then .none
        else
          let q := r.1.prepOp e r.2.2 at'.2
          if q.1.stall || q.1.miss != [] then .none
          else
            match q.1.err with
            | some x => .fault q.1 at'.1 r.2.2 q.2.1 x
            | none =>
              .ok q.1 { l with
                piece := r.2.1, ahead := l.ahead ++ [⟨at'.1, r.2.2, q.2.1, q.2.2⟩] }

/-- The words of a byte string. -/
def opWords (l : List Byte) : List Nat := (chunks 32 (l.length / 32 + 1) l).map ofLeBytes

/-- The record of a failed check at an operation (R607). -/
def State.opFault (s : State) (e : AccErr) (node ofs rep cp word : Nat) : FaultInfo :=
  { s.plainFault e.code e.addr with
    lane := node, opOfs := ofs, rep := rep, cp := cp, word := word, ref := e.ref,
    detail := e.detail }

/-! ### Direct dispatch -/

/-- A word with its inline reference replaced by the address it relocates to (R419). -/
def sealedWord (w u : Nat) : Nat :=
  match opCode w with
  | 0x09 | 0x0A => putBits w 191 128 u
  | 0x0D | 0x0E => putBits w 127 64 u
  | _ => w

/-- What sealing has come to: the accesses, the first fault, the words as they are written, and the
descriptors that the operations have loaded. -/
structure SealRun where
  c : Ctx
  fault : Option FaultInfo
  words : List Nat
  loaded : List Nat
  deriving Repr

/-- R419, R420: check the operations of a lane in order; the first failure is the fault. -/
def SealRun.lane (a : SealRun) (e : OpEnv) (base : Nat) :
    List Nat → Nat → SMap (Option DReg) → SealRun
  | [], _, _ => a
  | w :: t, i, drs =>
    let r := a.c.prepOp e w drs
    match r.1.err with
    | some x => { a with c := r.1, fault := some (r.1.s.opFault x e.node (base + 32 * i) 0 0 w) }
    | none =>
      ({ c := r.1, fault := none, words := a.words ++ [sealedWord w r.2.2],
         loaded := if opCode w = 0x01 then a.loaded ++ [bits w 89 80] else a.loaded } : SealRun).lane
        e base t (i + 1) r.2.1

/-- R419: check a descriptor that no operation loads, without adjustments (R402, R409). -/
def SealRun.desc (a : SealRun) (e : OpEnv) (i : Nat) (d : List Byte) : SealRun :=
  if a.fault.isSome || a.loaded.contains i then a
  else
    let r := a.c.loadDesc e 0 d
    match r.1.err with
    | some x => { a with c := r.1, fault := some (r.1.s.opFault x 0xFF 0xFFFFFFFF 0 0 0) }
    | none => { a with c := r.1 }

/-- The address that a reference stands for in a sealed image: BASE + OFFSET (R409). -/
def State.refUda (s : State) (e : OpEnv) (ref : Nat) : Nat :=
  match e.gen with
  | some g =>
    if refHandle ref = 0 then 0
    else (s.rawWord (g.base + 32 * refHandle ref) % 2 ^ 48 + refOffset ref) % 2 ^ 48
  | none => 0

/-- R419: a descriptor as the sealed image holds it. -/
def State.sealedDesc (s : State) (e : OpEnv) (d : List Byte) : List Byte :=
  leBytes 8 (s.refUda e (leAt d 0 8)) ++ (d.drop 8).take 24 ++
    leBytes 8 (s.refUda e (leAt d 32 8)) ++ (d.drop 40).take 16 ++
    leBytes 8 Config.checkedMark.toNat

/-- Read handle-table entries of a generation, checked as any read (R334, R335). -/
def Ctx.readHandles (c : Ctx) (g : HandleGen) : List Nat → Ctx × List (Nat × List Byte)
  | [] => (c, [])
  | h :: t =>
    if h < g.count then
      let r := c.read true (g.base + 32 * h) 32
      let k := r.1.readHandles g t
      (k.1, (h, r.2) :: k.2)
    else c.readHandles g t

/-- The handles a list of references names. -/
def refsHandles (l : List RefUse) : List Nat := l.map fun u => refHandle u.ref

/-- The handles that the words and descriptors of an image name, as far as a lane can reach them. -/
def imageHandles (b : BufInfo) (l : List Byte) : List Nat :=
  let d := (upto b.descCount).flatMap fun i =>
    let r := dregOfBytes ((l.drop (b.descOfs + 64 * i)).take 64)
    [refHandle r.ref, refHandle r.expRef]
  let w := (opWords ((l.drop 64).take (b.descOfs - 64))).map fun w => refHandle (inlineRef w)
  (d ++ w).eraseDups.filter fun h => h != 0

/-- R422: the seal area's size in bytes, 0 where it is absent. -/
def State.sealBytes (s : State) : Nat :=
  let n := s.sealSize / 4 * 4096
  if s.sealBase % 4096 = 0 ∧ s.inDram s.sealBase n = true ∧ n ≠ 0 then n else 0

/-- R422: the lowest place for an image of `n` bytes. -/
def State.sealPlace (s : State) (n : Nat) : Option Nat :=
  let held := s.sealed
  let cand := s.sealBase :: held.map fun x => x.1 + x.2
  listMin (cand.filter fun a =>
    decide (a + n ≤ s.sealBase + s.sealBytes) &&
      held.all fun x => decide (x.1 + x.2 ≤ a) || decide (a + n ≤ x.1))

/-- What sealing answers. -/
inductive Sealed where
  | noRoom
  | stall
  | fault (s : State) (f : FaultInfo)
  | done (s : State) (b : BufInfo)
  deriving Repr

/-- R419 to R423: seal a buffer (for a chart segment: with its substitutions), and write its sealed
image into the seal area. -/
def State.sealBuf (s : State) (v : View) (e : Entry) (b : BufInfo) : Sealed :=
  let n := cdiv b.size 4096 * 4096
  if s.sealBytes < n then .fault s (s.plainFault .sealSize 0)
  else
    match s.sealPlace n with
    | none => .noRoom
    | some a =>
      let r := (Ctx.start s v []).bufRead b 0 b.size
      if r.1.stall then .stall
      else
        match r.1.err with
        | some x => .fault r.1.s (r.1.s.opFault x 0xFF 0xFFFFFFFF 0 0 0)
        | none =>
          let whole : BufInfo := { b with sealAt := some (a, n), image := r.2 }
          let env := fun node =>
            { (s.opEnv e whole node) with expert := s.expert, count := true }
          let desc := fun i => (r.2.drop (b.descOfs + 64 * i)).take 64
          let k := b.present.foldl (fun (acc : SealRun) node =>
            if acc.fault.isSome then acc
            else
              acc.lane (env node) (b.laneStart node)
                (opWords ((r.2.drop (b.laneStart node)).take (b.laneEnd node - b.laneStart node)))
                0 []) ⟨r.1, none, [], []⟩
          let k := (upto b.descCount).foldl (fun acc i => acc.desc (env 8) i (desc i)) k
          match k.fault with
          | some f => .fault k.c.s f
          | none =>
            let h := match s.genOf e.hgen with
              | some g => k.c.readHandles g (imageHandles b r.2)
              | none => (k.c, [])
            let img := r.2.take 64 ++ k.words.flatMap (leBytes 32) ++
              (upto b.descCount).flatMap fun i => h.1.s.sealedDesc (env 8) (desc i)
            match h.1.err with
            | some x => .fault h.1.s (h.1.s.opFault x 0xFF 0xFFFFFFFF 0 0 0)
            | none => .done (h.1.s.writeLocal a img).1 { whole with handles := h.2, written := img }

end Sys2Proof.Machine
end

