-- ==== Sys2Proof/Machine/Charts.lean ====
section
/-! DEFINITION. Charts (chapter 12): loading and dropping (R568 to R573), patches (R584 to R590), and
the binding of a launch's segments (R582), with the capture of elastic precision (R845, R847). -/

namespace Sys2Proof.Machine

/-! ### Results -/

/-- R570: write the result word and answer whether the signals are to be poisoned. -/
def State.chartResult (s : State) (uda code ver detail : Nat) : State :=
  (s.resultWrite uda (leBytes 8 (code + ver % 65536 * 2 ^ 16 + detail % 2 ^ 32 * 2 ^ 32))).1

/-- R569: an 8-byte result word in host IOVA or local DRAM, or none. -/
def resultOk (u : Nat) : Bool := u == 0 || inHostOrDram u 8

/-- R569: the body checks of the three chart kinds. -/
def State.chartBodyOk (s : State) (k : RowKind) (raw : List Byte) : Bool :=
  let res := leAt raw 0x18 8 % 2 ^ 48
  let a := leAt raw 0x10 8 % 2 ^ 48
  decide (leAt raw 8 2 < 1024) && resultOk res &&
  (match k with
   | .chartLoad => leAt raw 12 4 == 0 && a % 64 == 0 && s.inDram a 64
   | .patchVersioned | .patchHot =>
     leAt raw 11 1 == 0 && leAt raw 14 2 == 0 && inHostOrDram a 64
   | _ => leAt raw 10 6 == 0)

/-! ### Loading -/

/-- A relocation entry (R566). -/
structure Reloc where
  seg : Nat
  ofs : Nat
  param : Nat
  kind : Nat
  deriving DecidableEq, Repr

/-- R566. -/
def relocOf (x : Nat) : Reloc := ⟨bits x 7 0, bits x 31 8, bits x 43 32, bits x 45 44⟩

/-- R566: the first entry that breaks its rules; `last` is the place of the one before. -/
def badReloc (nseg nparam : Nat) (size : Nat → Nat) :
    List Nat → Nat → Option (Nat × Nat) → Option Nat
  | [], _, _ => none
  | x :: t, i, last =>
    let r := relocOf x
    let rises := match last with
      | none => true
      | some (a, b) => decide (a < r.seg) || (a == r.seg && decide (b < r.ofs))
    if r.seg < nseg ∧ r.ofs % 8 = 0 ∧ 64 ≤ r.ofs ∧ r.ofs < size r.seg ∧ r.param < nparam ∧
        r.kind < 2 ∧ rises = true then
      badReloc nseg nparam size t (i + 1) (some (r.seg, r.ofs))
    else some i

/-- What reading an image finds. -/
inductive Image where
  | bad (s : State) (code detail : Nat)
  | good (s : State) (c : ChartRec)
  deriving Repr

/-- R571: read the header, the tables and every segment header of the image at `u`, and check
them. An unreadable image is invalid. -/
def State.readImage (s : State) (u ver : Nat) : Image :=
  let c0 := Ctx.start s View.none []
  let h := c0.read true u 64
  let g := fun o n => leAt h.2 o n
  let nseg := g 4 2
  let nparam := g 6 2
  let nreloc := g 8 4
  let narg := g 12 2
  let size := g 0x1C 4
  let fits := fun (o n : Nat) => decide (o + n ≤ size)
  if h.1.err.isSome then .bad h.1.s 6 0
  else if (g 0 2 == 0x7A4D && g 2 1 == 1 && decide (1 ≤ nseg) && decide (nseg ≤ 256) &&
      decide (nparam ≤ 4096) && decide (nreloc ≤ 2 ^ 20) && decide (narg ≤ min nparam 256) &&
      fits (g 0x10 4) (8 * nseg) && fits (g 0x14 4) (16 * nparam) && fits (g 0x18 4) (8 * nreloc) &&
      s.inDram u size) = false then .bad h.1.s 6 0
  else
    let seg := h.1.readWords true (u + g 0x10 4) 8 nseg
    let ofs := seg.2.map fun x => x % 2 ^ 32
    let hdrs := ofs.foldl (fun (acc : Ctx × List (List Byte)) o =>
      let r := acc.1.read true (u + o) 64
      (r.1, acc.2 ++ [r.2])) (seg.1, [])
    let segs := (List.zip ofs hdrs.2).map fun x => (x.1, bufOfHeader (u + x.1) x.2, x.2)
    let badSeg := segs.findIdx? fun x =>
      !(x.1 % 64 == 0 && s.headerOk (u + x.1) x.2.2 && x.2.1.sampleAdvance == 0 &&
        fits x.1 x.2.1.size)
    let par := hdrs.1.read true (u + g 0x14 4) (16 * nparam)
    let rel := par.1.readWords true (u + g 0x18 4) 8 nreloc
    if seg.1.err.isSome then .bad rel.1.s 6 0
    else
      -- a header that cannot be read fails its checks (R570, R571)
      match badSeg with
      | some i => .bad rel.1.s 6 i
      | none =>
        if rel.1.err.isSome then .bad rel.1.s 6 0 else
        match badReloc nseg nparam (fun i => nth 0 (segs.map fun x => x.2.1.size) i) rel.2 0 none with
        | some i => .bad rel.1.s 6 i
        | none =>
          match segs.findIdx? fun x => x.2.1.direct && !s.expert with
          | some i => .bad rel.1.s 8 i
          | none =>
            .good rel.1.s
              { used := true
                dropping := false
                current := ver
                image := u
                nseg := nseg
                nparam := nparam
                narg := narg
                nreloc := nreloc
                relocUda := u + g 0x18 4
                patchable := (upto nparam).map fun p => bitOf (leAt par.2 (16 * p + 8) 1) 0
                lanes := segs.foldl (fun m x => m ||| x.2.1.lanes) 0
                nCl := segs.foldl (fun m x => max m x.2.1.nCl) 0
                nFe := segs.foldl (fun m x => max m x.2.1.nFe) 0
                vers := [⟨ver, u + g 0x14 4, segs.map fun x => u + x.1, g 0x20 8 % 2 ^ 48⟩]
                dropSigs := []
                dropPoison := false }

/-- R570, R571: the action of RE_CHART_LOAD. -/
def actChartLoad (s : State) (r : Req) : Acted :=
  if s.chartBodyOk .chartLoad r.raw = false then .reject s
  else
    let id := leAt r.raw 8 2
    let res := leAt r.raw 0x18 8 % 2 ^ 48
    let v := leAt r.raw 10 2
    let ver := if v = 0 then 1 else v
    if (s.chart id).used then
      .done ((s.chartResult res 1 (s.chart id).current 0).reSignals r true)
    else
      match s.readImage (leAt r.raw 0x10 8 % 2 ^ 48) ver with
      | .bad s code d => .done ((s.chartResult res code 0 d).reSignals r true)
      | .good s c => .done (((s.setChart id c).chartResult res 0 ver 0).reSignals r false)

/-- R573: the action of RE_CHART_DROP. -/
def actChartDrop (s : State) (r : Req) : Acted :=
  if s.chartBodyOk .chartDrop r.raw = false then .reject s
  else
    let id := leAt r.raw 8 2
    let res := leAt r.raw 0x18 8 % 2 ^ 48
    let c := s.chart id
    if c.used = false ∨ c.dropping = true then
      .done ((s.chartResult res 2 0 0).reSignals r true)
    else
      let s := s.chartResult res 0 0 0
      let s := s.setChart id { c with dropping := true, current := 0, dropSigs := r.sigs }
      .done (s.freeVersions id)

/-! ### Patches -/

/-- A patch entry (R584). -/
structure PatchEnt where
  etype : Nat
  seg : Nat
  param : Nat
  ofs : Nat
  value : Nat
  deriving DecidableEq, Repr

/-- R584. -/
def patchEnt (l : List Byte) : PatchEnt := ⟨leAt l 0 1, leAt l 1 1, leAt l 2 2, leAt l 4 4, leAt l 8 8⟩

/-- The version of a chart with this number. -/
def ChartRec.version? (c : ChartRec) (v : Nat) : Option ChartVer := c.vers.find? fun x => x.ver == v

/-- R584: read the patch request block; none where its header breaks the rule or it cannot be
read. -/
def State.readPatch (s : State) (v : View) (u : Nat) : Ctx × Option (List Byte × List PatchEnt) :=
  let h := (Ctx.start s v []).read true u 64
  let n := leAt h.2 2 2
  if h.1.err.isSome ∨ leAt h.2 0 2 ≠ 0x7A4E ∨ n = 0 ∨ 4096 < n then (h.1, none)
  else
    let b := h.1.read true (u + 64) (16 * n)
    if b.1.err.isSome then (b.1, none)
    else (b.1, some (h.2, (chunks 16 n b.2).map patchEnt))

/-- The sizes of the segments that entries name, read once each from the headers of the version. -/
def Ctx.segSize (x : Ctx) (v : ChartVer) (known : List (Nat × Nat)) (i : Nat) :
    Ctx × List (Nat × Nat) × Nat :=
  match known.find? fun y => y.1 == i with
  | some y => (x, known, y.2)
  | none =>
    let r := x.read true (nth 0 v.segUda i) 64
    let n := leAt r.2 4 4
    (r.1, known ++ [(i, n)], n)

/-- R585: check the entries of a VERSIONED patch against R584: the first that fails, or whose segment
cannot be read, and the sizes of the segments named. -/
def Ctx.patchEntsOk (x : Ctx) (c : ChartRec) (v : ChartVer) (known : List (Nat × Nat)) :
    List PatchEnt → Nat → Ctx × Option Nat × List (Nat × Nat)
  | [], _ => (x, none, known)
  | e :: t, i =>
    match e.etype with
    | 0 =>
      if c.narg ≤ e.param ∧ e.param < c.nparam then x.patchEntsOk c v known t (i + 1)
      else (x, some i, known)
    | 1 =>
      if e.seg < c.nseg ∧ e.ofs % 8 = 0 ∧ 64 ≤ e.ofs then
        let r := x.segSize v known e.seg
        if r.1.err.isNone && decide (e.ofs < r.2.2) then r.1.patchEntsOk c v r.2.1 t (i + 1)
        else (r.1, some i, r.2.1)
      else (x, some i, known)
    | _ => (x, some i, known)

/-- R586: bytes with the entries of a patch applied, in block order. -/
def patchBytes (at? : PatchEnt → Option Nat) (es : List PatchEnt) (l : List Byte) : List Byte :=
  es.foldl (fun l e =>
    match at? e with
    | some o => l.take o ++ leBytes 8 e.value ++ l.drop (o + 8)
    | none => l) l

/-- What a VERSIONED patch copies: for each piece its number (none: the parameter table), source,
length, and length rounded up to 64. -/
def patchPieces (sizes : List (Nat × Nat)) (c : ChartRec) (v : ChartVer) (es : List PatchEnt) :
    List (Option Nat × Nat × Nat × Nat) :=
  (none, v.paramUda, 16 * c.nparam, cdiv (16 * c.nparam) 64 * 64) ::
    ((upto c.nseg).filter fun i => es.any fun e => e.etype == 1 && e.seg == i).map fun i =>
      let n := ((sizes.find? fun y => y.1 == i).map (·.2)).getD 0
      (some i, nth 0 v.segUda i, n, cdiv n 64 * 64)

/-- R586: the first piece, by its segment, that does not fit `room`. -/
def pieceOver (room : Nat) : List (Option Nat × Nat × Nat × Nat) → Nat → Option Nat
  | [], _ => none
  | p :: t, at' => if room < at' + p.2.2.2 then some (p.1.getD 0) else pieceOver room t (at' + p.2.2.2)

/-- The pieces as they are stored, with the entries applied; the piece whose source cannot be read
fails the patch (R570): its number. -/
def Ctx.readPieces (x : Ctx) (es : List PatchEnt) :
    List (Option Nat × Nat × Nat × Nat) → Ctx × Except Nat (List (List Byte))
  | [] => (x, .ok [])
  | p :: t =>
    let r := x.read true p.2.1 p.2.2.1
    if r.1.err.isSome then (r.1, .error (p.1.getD 0))
    else
      let l := match p.1 with
        | none => patchBytes (fun e => if e.etype = 0 then some (16 * e.param) else none) es r.2
        | some i =>
          patchBytes (fun e => if e.etype = 1 ∧ e.seg = i then some e.ofs else none) es r.2
      match r.1.readPieces es t with
      | (c, .ok q) => (c, .ok ((l ++ List.replicate (p.2.2.2 - p.2.2.1) 0) :: q))
      | q => q

/-- R586: write the pieces into the copy area, one behind the other; answers the version they
make. -/
def State.writePieces (s : State) :
    List (Option Nat × List Byte) → Nat → ChartVer → State × ChartVer
  | [], _, v => (s, v)
  | (p, l) :: t, a, v =>
    (s.writeLocal a l).1.writePieces t (a + l.length)
      (match p with
       | none => { v with paramUda := a }
       | some i => { v with segUda := setNth a v.segUda i })

/-- R585, R586: the action of RE_CHART_PATCH VERSIONED. -/
def actPatchVersioned (v : View) (s : State) (r : Req) : Acted :=
  if s.chartBodyOk .patchVersioned r.raw = false then .reject s
  else
    let id := leAt r.raw 8 2
    let res := leAt r.raw 0x18 8 % 2 ^ 48
    let c := s.chart id
    let fail := fun (s : State) code d => Acted.done
      ((s.chartResult res code c.current d).reSignals r true)
    let base := leAt r.raw 12 2
    if c.used = false ∨ c.dropping = true then fail s 2 0
    else if base ≠ 0 ∧ base ≠ c.current then fail s 4 0
    else
      match c.version? c.current with
      | none => fail s 2 0
      | some cur =>
        let q := s.readPatch v (leAt r.raw 0x10 8 % 2 ^ 48)
        if q.1.stall then .wait
        else
          match q.2 with
          | none => fail q.1.s 6 0
          | some (h, es) =>
            let area := leAt h 8 8 % 2 ^ 48
            let room := leAt h 16 8
            let k := q.1.patchEntsOk c cur [] es 0
            let s := k.1.s
            match k.2.1 with
            | some i => fail s 6 i
            | none =>
              if area % 64 ≠ 0 ∨ s.inDram area 0 = false then fail s 6 0
              else if 4 < ((c.vers.filter fun x => x.ver != cur.ver || s.pinned id x.ver).length + 1)
              then fail s 3 0
              else
                let ps := patchPieces k.2.2 c cur es
                match pieceOver room ps 0 with
                | some i => fail s 7 i
                | none =>
                  let total := ps.foldl (fun n p => n + p.2.2.2) 0
                  if s.inDram area total = false then fail s 6 0
                  else
                    let nv := if cur.ver = 65535 then 1 else cur.ver + 1
                    match k.1.readPieces es ps with
                    | (x, .error i) => fail x.s 6 i
                    | (x, .ok ls) =>
                      let w := x.s.writePieces (List.zip (ps.map (·.1)) ls) area
                        ⟨nv, cur.paramUda, cur.segUda, leAt h 24 8 % 2 ^ 48⟩
                      let s := w.1.setChart id { c with current := nv, vers := c.vers ++ [w.2] }
                      .done (((s.freeVersions id).chartResult res 0 nv 0).reSignals r false)

/-! ### Binding -/

/-- Read the relocation list of a chart (R335, R970). -/
def Ctx.relocs (x : Ctx) (c : ChartRec) : Ctx × List Reloc :=
  let r := x.readWords true c.relocUda 8 c.nreloc
  (r.1, r.2.map relocOf)

/-- The parameters that a segment names. -/
def segParams (l : List Reloc) (seg : Nat) : List Nat :=
  ((l.filter fun r => r.seg == seg).map fun r => r.param).eraseDups

/-- R588, R589: the action of RE_CHART_PATCH HOT. -/
def actPatchHot (v : View) (s : State) (r : Req) : Acted :=
  if s.chartBodyOk .patchHot r.raw = false then .reject s
  else
    let id := leAt r.raw 8 2
    let res := leAt r.raw 0x18 8 % 2 ^ 48
    let c := s.chart id
    let fail := fun (s : State) code d => Acted.done
      ((s.chartResult res code c.current d).reSignals r true)
    let base := leAt r.raw 12 2
    if s.expert = false then fail s 8 0
    else if c.used = false ∨ c.dropping = true then fail s 2 0
    else if base ≠ 0 ∧ base ≠ c.current then fail s 4 0
    else
      match c.version? c.current with
      | none => fail s 2 0
      | some cur =>
        let q := s.readPatch v (leAt r.raw 0x10 8 % 2 ^ 48)
        if q.1.stall then .wait
        else
          let s := q.1.s
          match q.2 with
          | none => fail s 6 0
          | some (_, es) =>
            match es.findIdx? fun e =>
                !(e.etype == 0 && decide (c.narg ≤ e.param) && decide (e.param < c.nparam)
                  && nth false c.patchable e.param) with
            | some i => fail s 5 i
            | none =>
              let s := es.foldl (fun s e =>
                (s.writeLocal (cur.paramUda + 16 * e.param) (leBytes 8 e.value)).1) s
              let ps := es.map fun e => e.param
              let s := { s with
                entries := s.entries.map fun (x : Entry) =>
                  match x.kind with
                  | .launch l =>
                    if l.chart = id ∧ l.version = cur.ver ∧
                        l.named.any (fun p => ps.contains p) = true then
                      { x with kind := .launch { l with hot := l.hot ++ [ps] } }
                    else x
                  | _ => x }
              let s := s.bump Reg.FE_CHART_HOT 1
              .done ((s.chartResult res 0 cur.ver 0).reSignals r false)

/-- R845, R847: a buffer or segment of a stream captures the elastic level. -/
def State.captureElastic (s : State) (st : Nat) : State × Nat :=
  let e := s.fld Reg.PWR_GOV 5 4
  if e = 0 then (s, 0)
  else
    let k := Reg.PWR_ELASTIC_STRM + 4 * (st / 32)
    let s := s.setReg k (s.reg k ||| 2 ^ (st % 32))
    ((s.bump Reg.PWR_ELASTIC_BUFS 1).setReg Reg.PWR_ELASTIC_LAST (st + e * 2 ^ 9), e)

/-- What binding a segment answers. -/
inductive Bound where
  | wait
  | fault (s : State) (f : FaultInfo)
  | done (s : State) (b : BufInfo) (l : Launch)
  deriving Repr

/-- R582: the value a parameter has at a binding, with the checks of the read. -/
def Ctx.paramValue (c : Ctx) (l : Launch) (narg : Nat) (v : ChartVer) (p : Nat) : Ctx × Word64 :=
  if p < narg then (c, nth 0 l.args p)
  else
    let r := c.read true (v.paramUda + 16 * p) 8
    (r.1, BitVec.ofNat 64 (ofLeBytes r.2))

/-- The values of a list of parameters; `saved` gives those a context has saved. -/
def Ctx.paramValues (c : Ctx) (l : Launch) (narg : Nat) (v : ChartVer)
    (saved : Nat → Option Word64) : List Nat → Ctx × List (Nat × Word64)
  | [] => (c, [])
  | p :: t =>
    let r := match saved p with
      | some x => (c, x)
      | none => c.paramValue l narg v p
    let q := r.1.paramValues l narg v saved t
    (q.1, (p, r.2) :: q.2)

/-- R582, R583: segment `seg` of a version as its lanes see it: its header's fields, and the
substitutions with the values captured now. `saved` gives values saved with a context. -/
def Ctx.segInfo (x : Ctx) (c : ChartRec) (l : Launch) (ver : ChartVer) (seg : Nat)
    (saved : Nat → Option Word64) : Ctx × BufInfo × List Byte :=
  let rl := x.relocs c
  let k := rl.1.paramValues l c.narg ver saved (segParams rl.2 seg)
  let u := nth 0 ver.segUda seg
  let h := k.1.read true u 64
  let val := fun p => ((k.2.find? fun x => x.1 == p).map (·.2)).getD 0
  (h.1,
    { bufOfHeader u h.2 with
      subst := (rl.2.filter fun r => r.seg == seg).map fun r => (r.ofs, r.kind == 1, val r.param)
      params := k.2 },
    h.2)

/-- R582, R583, R596: bind segment `seg` of a launch: capture the values its relocation entries
name, and under Direct dispatch seal it. `saved` gives values saved with a context. -/
def State.bindSeg (s : State) (v : View) (e : Entry) (l : Launch) (seg : Nat)
    (saved : Nat → Option Word64) : Bound :=
  let c := s.chart l.chart
  match c.version? l.version with
  | none => .fault s { s.plainFault .chartAbsent 0 with detail := seg }
  | some ver =>
    let h := (Ctx.start s v []).segInfo c l ver seg saved
    match h.1.err with
    | some x => .fault h.1.s { h.1.s.opFault x 0xFF 0xFFFFFFFF 0 0 0 with detail := seg }
    | none =>
      let s := h.1.s
      if s.headerOk h.2.1.uda h.2.2 = false then
        .fault s { s.plainFault .cbInvalid h.2.1.uda with detail := seg }
      else
        let el := s.captureElastic e.stream
        let b : BufInfo := { h.2.1 with elastic := el.2 }
        let s := el.1.bump Reg.FE_CHART_BINDS 1
        let names := b.params.map (·.1)
        let split := l.hot.filter fun ps => names.any fun p => ps.contains p
        let s := s.bump Reg.FE_CHART_HOT_SPLIT split.length
        let l := { l with
          hot := l.hot.filter fun ps => !(names.any fun p => ps.contains p)
          named := (l.named ++ names).eraseDups }
        if b.direct then
          match s.sealBuf v e b with
          | .noRoom => .wait
          | .stall => .wait
          | .fault s f => .fault s { f with detail := seg }
          | .done s b => .done s b l
        else .done s b l

end Sys2Proof.Machine
end

