-- ==== Sys2Proof/Machine/Tiles.lean ====
section
/-! DEFINITION. Tiles: the cells of a slot and their undefined contents (R75, R76, R201), and tiles
in memory (R191 to R194). -/

namespace Sys2Proof.Machine

/-! ### Tiles and slots -/

/-- A tile. -/
def State.tile (s : State) (cl t : Nat) : Tile := SMap.get State.tileD s.tiles (16 * cl + t)

/-- Replace a tile. -/
def State.setTile (s : State) (cl t : Nat) (x : Tile) : State :=
  { s with tiles := SMap.set State.tileD s.tiles (16 * cl + t) x }

/-- A slot of a tile. -/
def slotD : Nat → TileSlot := fun _ => TileSlot.init
def Tile.slot (t : Tile) (j : Nat) : TileSlot := SMap.get slotD t.slots j
def Tile.setSlot (t : Tile) (j : Nat) (x : TileSlot) : Tile :=
  { t with slots := SMap.set slotD t.slots j x }

/-- Slots of a file (R75). -/
def Tile.count (t : Tile) : Nat := if t.a16 then 4 else 2

/-- What an unlisted cell holds: 0, or the free values of an undefined slot, within the format. -/
def cellD (a16 : Bool) (junk : Option Nat) (e : Nat) : CellVal :=
  match junk with
  | none => CellVal.zero
  | some n =>
    ⟨signedOf (if a16 then 16 else 32) (Config.freeNat n (3 * e)),
      Config.freeNat n (3 * e + 1) % (if a16 then 16 else 32), Config.freeNat n (3 * e + 2) % 2 == 1⟩

/-- A cell of a slot. -/
def TileSlot.cell (x : TileSlot) (a16 : Bool) (e : Nat) : CellVal :=
  SMap.get (cellD a16 x.junk) x.cells e

/-- The slot with all 4096 cells given, each by its number; none is undefined any more. -/
def TileSlot.fill (x : TileSlot) (f : Nat → CellVal) : TileSlot :=
  { x with junk := none, cells := SMap.build (cellD false none) f 0 4096 }

/-- R201: a slot with undefined contents and metadata, from a serial of free values. -/
def junkSlot (n : Nat) : TileSlot :=
  let f := fun k => Config.freeNat n (1000000 + k)
  ⟨some n, some (f 6 % 2 == 1), [], f 0 % 8, f 1 % 2 ^ 32, f 2 % 2 ^ 32, f 3 % 2 ^ 16,
    f 4 % 2 ^ 16, f 5 % 2 ^ 16⟩

/-- Slots of a file become undefined, from a serial of free values on. -/
def Tile.spoil (x : Tile) (n : Nat) (js : List Nat) : Tile :=
  js.foldl (fun (x : Tile) j => x.setSlot j (junkSlot (n + j))) x

/-- The slots of a file that have been written since reset (R205). -/
def Tile.written (x : Tile) : List Nat := (upto 4).filter fun j => (x.slot j).fmt.isSome

/-- R201: slots of a tile become undefined; `switched`: its mode does too, and with it every slot
that has been written. -/
def State.junkTile (s : State) (cl t : Nat) (switched : Bool) (js : List Nat) : State :=
  let x := s.tile cl t
  let n := s.fresh
  let y := if switched then
      ({ x with a16 := Config.freeNat n 2000000 % 2 == 1 }).spoil n x.written
    else x
  { s.setTile cl t (y.spoil n js) with fresh := s.fresh + 4 }

/-- R185, R205: bring a file into a mode. Slots that a switch leaves are undefined, but for those that
have never been written; the caller writes its own. -/
def State.switchTile (s : State) (cl t : Nat) (a16 : Bool) : State :=
  let x := s.tile cl t
  if x.a16 = a16 then s
  else
    { s.setTile cl t (({ x with a16 := a16 }).spoil s.fresh x.written) with fresh := s.fresh + 4 }

/-- R184, R474, R487: a slot holds a format: its file is in that mode, and the slot has recorded no
other. -/
def Tile.holds (x : Tile) (j : Nat) (a16 : Bool) : Bool :=
  x.a16 == a16 && (x.slot j).fmt.getD a16 == a16

/-! ### Tiles in memory -/

/-- The fields of a tile header (R192). -/
structure TileHdr where
  magic : Nat
  format : Nat
  shift : Nat
  fold : Nat
  flags : Nat
  originI : Nat
  originJ : Nat
  rows : Nat
  cols : Nat
  tag : Nat
  deriving DecidableEq, Repr

/-- R192: SHIFT's reserved bits are ignored (R9). -/
def tileHdr (l : List Byte) : TileHdr :=
  { magic := leAt l 0 2, format := leAt l 2 1, shift := leAt l 3 1 % 32, fold := leAt l 4 1,
    flags := leAt l 5 1, originI := leAt l 8 4, originJ := leAt l 12 4, rows := leAt l 16 2,
    cols := leAt l 18 2, tag := leAt l 20 2 }

/-- R192: the bytes of a tile header. -/
def TileHdr.bytes (h : TileHdr) : List Byte :=
  leBytes 2 h.magic ++ leBytes 1 h.format ++ leBytes 1 h.shift ++ leBytes 1 h.fold ++
  leBytes 1 h.flags ++ leBytes 2 0 ++ leBytes 4 h.originI ++ leBytes 4 h.originJ ++
  leBytes 2 h.rows ++ leBytes 2 h.cols ++ leBytes 2 h.tag ++ leBytes 42 0

/-- R194, R262: a header is good for one of these formats. -/
def TileHdr.ok (h : TileHdr) (formats : List Nat) : Bool :=
  h.magic == 0x7A1E && formats.contains h.format && (h.format != 0 || decide (h.shift ≤ 15)) &&
  (foldShape h.fold).isSome && decide (1 ≤ h.rows) && decide (h.rows ≤ foldRows h.fold) &&
  decide (1 ≤ h.cols) && decide (h.cols ≤ foldCols h.fold)

/-- The byte of an inexact map with its eight bits. -/
def inexactByte (f : Nat → Bool) (b : Nat) : Byte :=
  BitVec.ofNat 8 ((upto 8).foldl (fun m i => m + b2n (f (8 * b + i)) * 2 ^ i) 0)

/-- R191: the bytes of an A16 or A32 tile, from its header fields and cells. -/
def tileBytesOf (h : TileHdr) (f : Nat → CellVal) : List Byte :=
  let w := if h.format = 0 then 2 else 4
  h.bytes ++ ((upto 4096).flatMap fun e => leBytes w (unsignedOf (8 * w) (f e).v)) ++
  ((upto 512).map fun b => inexactByte (fun e => (f e).i) b)

/-- R193: the header of a slot written as a tile. -/
def TileSlot.hdr (x : TileSlot) (a16 : Bool) : TileHdr :=
  { magic := 0x7A1E, format := if a16 then 0 else 1, shift := (x.cell a16 0).s, fold := x.fold,
    flags := b2n ((upto 4096).any fun e => (x.cell a16 e).i), originI := x.originI,
    originJ := x.originJ, rows := x.rows, cols := x.cols, tag := x.tag }

/-- R193: the bytes of a slot as a tile. -/
def TileSlot.bytes (x : TileSlot) (a16 : Bool) : List Byte :=
  tileBytesOf (x.hdr a16) fun e => x.cell a16 e

/-- R235: all cells of a slot hold the same shift. -/
def TileSlot.oneShift (x : TileSlot) (a16 : Bool) : Bool :=
  (upto 4096).all fun e => (x.cell a16 e).s == (x.cell a16 0).s

/-- The cells `0 … ` of an A16 or A32 tile, in order. -/
def tileCells (fmt shift : Nat) (l : List Byte) : List CellVal :=
  let w := if fmt = 0 then 2 else 4
  let vals := (chunks w 4096 ((l.drop 64).take (4096 * w))).map ofLeBytes
  let map := ((l.drop (64 + 4096 * w)).take 512).flatMap fun b => (upto 8).map fun i => bitOf b.toNat i
  (List.zip vals map).map fun x => ⟨signedOf (8 * w) x.1, shift, x.2⟩

/-- Cells by number from a list. -/
def cellsFrom (l : List CellVal) : SMap CellVal :=
  (l.zipIdx).filterMap fun x => if x.1 = CellVal.zero then none else some (x.2, x.1)

/-- R194: the slot that the bytes of a tile load. -/
def slotOfBytes (l : List Byte) : TileSlot :=
  let h := tileHdr l
  ⟨none, some (h.format == 0), cellsFrom (tileCells h.format h.shift l), h.fold, h.originI, h.originJ, h.rows, h.cols,
    h.tag⟩

/-- R180: the slot that the bytes of a partial tile load: an A32 tile, whatever its header has become
since it was checked. -/
def partialOfBytes (l : List Byte) : TileSlot :=
  { slotOfBytes l with fmt := some false, cells := cellsFrom (tileCells 1 (tileHdr l).shift l) }

/-- R190: the stream's domain may use a tile. -/
def State.tileAllowed (s : State) (cl t domain : Nat) : Bool :=
  bitOf (s.reg (clReg cl Reg.CL_TILE_PDMASK + 4 * t)) domain

end Sys2Proof.Machine
end

