-- ==== Sys2Proof/Machine/Stop.lean ====
section
/-! DEFINITION. Stopping a running entry (R613, R614): its operations are abandoned, and what they
had written or would have written becomes undefined (R201, R253). -/

namespace Sys2Proof.Machine

/-- Rows of a tensor as address and length. -/
def DReg.rowRanges (d : DReg) : List (Nat × Nat) :=
  (upto d.rows).map fun r => (d.uda + r * d.rowStride, d.rowBytes)

/-- An area of a register, cut to a length. -/
def areaRange (drs : SMap (Option DReg)) (n len : Nat) : List (Nat × Nat) :=
  match drOf drs n with
  | none => []
  | some d => [(d.uda, len)]

/-- Bytes of a top-k list of `rows` rows (R275). -/
def listBytes (rows k : Nat) : Nat := 64 + rows * (k + 1) * 16

/-- Rows of the register a field names. -/
def rowsOf (drs : SMap (Option DReg)) (n : Nat) : Nat := ((drOf drs n).map (·.rows)).getD 0

/-- The memory an operation has yet to write, from repetition `rep` on; `u` is its inline
reference's address. -/
def opDests (w rep u : Nat) (drs : SMap (Option DReg)) : List (Nat × Nat) :=
  match opCode w with
  | 0x02 =>
    match matOf w drs with
    | none => []
    | some c =>
      (if c.w.spillEn then areaRange drs c.w.drSpill (c.blocks * 32832) else []) ++
      (if c.streamed then areaRange drs c.w.drPart (c.blocks * 16960) else []) ++
      (if c.w.margin then areaRange drs c.w.drTopk (listBytes c.m c.w.marginK) else [])
  | 0x03 =>
    let f := moveWord w
    if f.kind = 0 ∨ 4 ≤ f.kind then areaRange drs f.dst f.bytes
    else
      (upto (f.repeats + 1 - rep)).flatMap fun i =>
        match drsAt w (rep + i) drs with
        | some m =>
          match drOf m f.dst with
          | some d => d.rowRanges
          | none => []
        | none => []
  | 0x04 =>
    let f := egWord w
    (match drOf drs f.drOut with
     | some d => if f.noWrite then [] else d.rowRanges
     | none => []) ++
    (if f.status then areaRange drs f.drStatus 8 else []) ++
    (if f.k ≠ 0 then areaRange drs f.drTopk (listBytes (rowsOf drs f.drOut) f.k) else [])
  | 0x05 => areaRange drs (bits w 76 72) (listBytes (rowsOf drs (bits w 68 64)) (bits w 93 88)) ++
      (if bitOf w 70 then areaRange drs (bits w 84 80) 8 else [])
  | 0x06 => areaRange drs (bits w 76 72) (listBytes (bits w 120 112) (bits w 109 104)) ++
      areaRange drs (bits w 84 80) (bits w 120 112 * reqStride (bits w 109 104)) ++
      (if bitOf w 69 then areaRange drs (bits w 92 88) 8 else [])
  | 0x07 =>
    if bitOf w 64 then
      match drOf drs (bits w 84 80) with
      | some d => areaRange drs (bits w 76 72)
          (regionBlocks (bits w 68 66) d.rows d.cols * tileBytes (if bitOf w 65 then 0 else 1))
      | none => []
    else
      match drOf drs (bits w 76 72) with
      | some d => d.rowRanges
      | none => []
  | 0x09 => [(u, tileBytes (if bitOf w 70 then 0 else 1))]
  | _ => []

/-- The member number of a tile (R176), and its local blocks. -/
def MatCfg.member (c : MatCfg) (t : Nat) : Nat := (c.tiles.takeWhile fun x => x != t).length
def MatCfg.locals (c : MatCfg) (t : Nat) : Nat :=
  cdiv (c.blocks - c.member t) c.tiles.length

/-- The tile slots an operation writes, those of the blocks that each tile owns: tile, slots, and
whether it has switched the file's mode (R185). -/
def opSlots (w : Nat) (drs : SMap (Option DReg)) (mat : Option MatRun) :
    List (Nat × List Nat × Bool) :=
  match opCode w with
  | 0x02 =>
    match matOf w drs with
    | none => []
    | some c =>
      c.tiles.map fun t =>
        (t, if c.streamed then upto 2 else (upto (c.locals t)).map fun j => c.w.slotBase + j,
          match mat.bind fun m => m.tiles.find? fun r => r.tile == t with
          | some r => r.begun && r.switched
          | none => false)
  | 0x0A => [(bits w 67 64, [bits w 69 68], false)]
  | _ => []

/-- R614: what an operation of a node has yet to write becomes undefined. -/
def State.forget (s : State) (node w rep u : Nat) (drs : SMap (Option DReg)) (mat : Option MatRun) :
    State :=
  let l := opSlots w drs mat
  let s := (opDests w rep u drs).foldl (fun s r => s.havoc r.1 r.2) s
  l.foldl (fun s x => s.junkTile node x.1 x.2.2 x.2.1) s

/-- R614: abandon an operation of a unit queue. -/
def State.abandon (s : State) (o : OpRec) : State := s.forget o.node o.word o.rep o.uda o.drs o.mat

/-- R614: the operations of a lane from a byte offset on that were never relocated: what they would
have written becomes undefined. The registers evolve as the lane's TENSOR_DESCs would have loaded
them; one that fails its checks would have written nothing (R453). The first argument bounds their
number. -/
def State.forgetLane (s : State) (e : OpEnv) (c : Ctx) (l : Lane) :
    Nat → Nat → SMap (Option DReg) → State
  | 0, _, _ => s
  | n + 1, ofs, drs =>
    if e.buf.laneEnd e.node ≤ ofs then s
    else
      let f := c.fetchOp e.buf e.node l ofs
      if f.1.err.isSome then s
      else
        let r := f.1.prepOp e f.2.2 drs
        let l := { l with piece := f.2.1 }
        if r.1.err.isSome then s.forgetLane e f.1 l n (ofs + 32) r.2.1
        else (s.forget e.node f.2.2 0 r.2.2 drs none).forgetLane e r.1 l n (ofs + 32) r.2.1

/-- The accesses that tell what was never issued: the machine makes none of them, so they wait for
nothing, and what they do to the state is dropped. -/
def State.ghost (s : State) (v : View) : Ctx :=
  Ctx.start { s.orCfg 0x04 4 with ring := Ring.init, held := [] } v []

/-- R614: one lane of a stopped slot: the operations relocated ahead, then those behind them. -/
def State.forgetFrom (s : State) (v : View) (e : OpEnv) (l : Lane) : State :=
  let t := l.ahead.foldl (fun (s : State) r => s.forget e.node r.word 0 r.uda r.drs none) s
  t.forgetLane e (s.ghost v) l ((e.buf.laneEnd e.node - l.rel.1) / 32 + 1) l.rel.1 l.rel.2

/-- R614: the segments of a launch behind the one in progress: those bound, and the others as they
would be bound now. -/
def State.laterSegs (s : State) (v : View) (l : Launch) : List BufInfo :=
  let c := s.chart l.chart
  l.ahead ++
    match c.version? l.version with
    | none => []
    | some ver =>
      ((upto l.nseg).drop (l.seg + 1 + l.ahead.length)).filterMap fun i =>
        let r := (s.ghost v).segInfo c l ver i fun _ => none
        if r.1.err.isNone then some r.2.1 else none

/-- R614: what a stopped slot had not issued: the rest of each lane, and the later segments of a
launch. `v` answers for lanes in host memory. -/
def State.forgetRest (s : State) (v : View) (x : ExecSlot) : State :=
  match s.entry? x.entry with
  | none => s
  | some e =>
    match e.buf with
    | none => s
    | some b =>
      let t := x.lanes.foldl (fun (s : State) (l : Nat × Lane) =>
        s.forgetFrom v (s.opEnv e b l.1) l.2) s
      let more := match e.kind with
        | .launch l => s.laterSegs v l
        | _ => []
      more.foldl (fun (s : State) b =>
        b.present.foldl (fun (s : State) n =>
          s.forgetFrom v (s.opEnv e b n) (Lane.start (b.laneStart n))) s) t

/-- Faults of conditions that are checked before an operation writes anything (R190, R220, R235, R262,
R270, R272, R284, R290, R474, R487). -/
def FaultCode.early : FaultCode → Bool
  | .opInvalid | .handleInvalid | .handleDomain | .handleRights | .handleBounds | .tileDenied
  | .slotMismatch | .tileInvalid | .shiftMixed | .shaperInvalid | .topkInvalid => true
  | _ => false

/-- R453: the fault is of a check that the operation failed before it had done anything; it is not
performed, so it would have written nothing. A matmul-type operation makes its checks before its
first step on any tile. -/
def StopWhy.spares (w : StopWhy) (o : OpRec) : Bool :=
  match w with
  | .abort => false
  | .fault f _ _ _ =>
    f.lane == o.node && f.opOfs == o.ofs && f.rep == o.rep &&
      (if opCode o.word = 0x02 then
        match o.mat with
        | some m => m.tiles.all fun r => !r.begun
        | none => true
      else f.code.early)

/-- R613: stop the entry in a slot: its sequencers issue nothing more, its operations are abandoned,
its watches are released. `v` answers for lanes in host memory. -/
def State.stopSlot (s : State) (v : View) (n : Nat) (why : StopWhy) : State :=
  match s.slot? n with
  | none => s
  | some x =>
    if x.stop.isSome then s
    else
      let mine := s.ops.filter fun o => o.slot == n && !why.spares o
      let s := mine.foldl (fun s o => s.abandon o) s
      let s := s.forgetRest v x
      let s := { s with ops := s.ops.filter fun o => o.slot != n }
      s.setSlot n (some { x with
        stop := some why
        lanes := x.lanes.map fun (l : Nat × Lane) => 
          (l.1, { l.2 with block := none, piece := none, ahead := [] }) })

end Sys2Proof.Machine
end

