-- ==== Sys2Proof/Machine/Admission.lean ====
section
/-! DEFINITION. The admission of ring entries, one command per row (R519 to R528, R549, R580, R603,
R615, R621, R622, R628, R785, R817), with the waits for seal space (R422) and for the copy of the
handle table (R549). -/

namespace Sys2Proof.Machine

abbrev AdmOut := Host.Outcome State Fault Refusal

/-! ### Entries and generator state -/

/-- A stream-ordered entry as admission begins it. -/
def newEntry (r : Req) (k : EKind) : Entry :=
  { idx := r.idx, stream := r.stream, kind := k, tolerate := r.tolerate,
    notBefore := r.notBefore, waits := r.waits, sigs := r.sigs, ext := r.ext, buf := none,
    gen := Gen.zero, hgen := 0, fault := none, active := false, due := false,
    prefetched := false, staged := [], restored := none }

/-- Add an admitted entry to its stream (R521). -/
def State.addEntry (s : State) (e : Entry) : State :=
  let s := s.setStream e.stream { s.stream e.stream with lastIdx := some e.idx }
  ({ s with entries := s.entries ++ [e],
            past := SMap.set State.pastD s.past e.idx none }).heads

/-- R484, R485: one item of a SEED_SET. -/
def Gen.put (g : Gen) (sel : Nat) (x : Word64) : Gen :=
  match sel with
  | 0 => { g with operand := x }
  | 1 => { g with mask := x }
  | 2 => { g with noise := x }
  | 3 => { g with round := x }
  | _ => { g with ctr := x }

/-- R485: a SEED_SET, item 0 before item 1. -/
def Gen.seedSet (g : Gen) (w : Nat) : Gen :=
  let g := if bitOf w 64 then g.put (bits w 67 65) (BitVec.ofNat 64 (bits w 191 128)) else g
  if bitOf w 68 then g.put (bits w 71 69) (BitVec.ofNat 64 (bits w 255 192)) else g

/-- Five words of generator state (R134, R523). -/
def genOfBytes (l : List Byte) : Gen :=
  let x := fun i => BitVec.ofNat 64 (leAt l (8 * i) 8)
  ⟨x 0, x 1, x 2, x 3, x 4⟩
def genBytes (g : Gen) : List Byte :=
  [g.operand, g.mask, g.noise, g.round, g.ctr].flatMap fun x => leBytes 8 x.toNat

/-- R131, R132: capture the stream's generator state `g` for a buffer and advance its counter. -/
def State.capture (s : State) (st : Nat) (g : Gen) (adv : Nat) : State :=
  s.setStream st { s.stream st with gen := { g with ctr := g.ctr + BitVec.ofNat 64 adv } }

/-! ### Handle generations -/

/-- R549: the set-up that a copy of the handle table needs. -/
def State.handleSetupOk (s : State) : Bool :=
  let n := s.reg Reg.FE_HTAB_COUNT
  let m := s.reg Reg.FE_HSHADOW_ENTRIES
  let hb := s.reg64 Reg.FE_HSHADOW_BASE
  let tb := s.reg64 Reg.FE_HTAB_BASE
  decide (n ≤ m) && hb != 0 && hb % 64 == 0 && s.inDram hb (64 * m) && tb % 32 == 0 &&
    s.inDram tb (32 * n)

/-- R549: the copy to use: one that no live generation holds, rather the one not in force. -/
def State.freeCopy (s : State) : Option Nat :=
  let held := fun c => s.gens.any fun g => g.copy == c && s.genLive g.gen
  let force := (s.gens.getLast?.map (·.copy)).getD 1
  if !held (1 - force) then some (1 - force) else if !held force then some force else none

/-- R549: the copy of the handle table that an entry begins; `sync`: as an RE_HANDLE_SYNC. -/
def State.startCopy (s : State) (sigs : List SigRec) (sync : Bool) : Acted :=
  if s.handleSetupOk = false then .reject s
  else
    match s.freeCopy with
    | none => .wait
    | some c =>
      let h : HandleCopy :=
        { copy := c
          base := s.reg64 Reg.FE_HSHADOW_BASE + c * 32 * s.reg Reg.FE_HSHADOW_ENTRIES
          count := s.reg Reg.FE_HTAB_COUNT
          src := s.reg64 Reg.FE_HTAB_BASE
          sigs := sigs
          sync := sync }
      if sync then .hold { s with hcopy := some h } else .copy h

/-- The number of the generation in force; 0 with none. -/
def State.genInForce (s : State) : Nat := (s.gens.getLast?.map (·.gen)).getD 0

/-- R549: HANDLE_COPY_DONE: the copy is the generation in force, or is abandoned on an
uncorrectable word of the table. Entry 0 is never read (R408), and its place in the copy is left as
it is. A first copy whose entry a read error has cut off (R559) rejects none. -/
def execHandleCopyDone (s : State) : AdmOut :=
  .next <| s.ringEdge <|
    match s.hcopy with
    | none => s
    | some h =>
      if s.running = false then s
      else
        match s.readLocal (h.src + 32) (32 * (h.count - 1)) with
        | (s, none) =>
          let s := { s with hcopy := none }
          if h.sync || !s.ring.halted then (s.rejectFront).clearFront else s
        | (s, some l) =>
          let s := (s.writeLocal (h.base + 32) l).1
          let g := s.genInForce + 1
          let s := { s with
            hcopy := none
            gens := (s.gens.filter fun x => s.genLive x.gen) ++
              [HandleGen.mk g h.copy h.base h.count] }
          if h.sync then ((s.holdSigs (.gensRetired g) false h.sigs).checkPend).passHead
          else s

/-- R549: RE_HANDLE_SYNC. -/
def execReHandleSync (v : View) (s : State) : AdmOut :=
  .next (s.admitRow .handleSync v fun s r => s.startCopy r.sigs true)

/-- R549: an entry that needs a generation makes the first one. -/
def State.needGen (s : State) (act : State → Acted) : Acted :=
  if s.gens.isEmpty then s.startCopy [] false else act s

/-! ### RE_SUBMIT -/

/-- What the reading of a buffer at admission finds (R527). -/
inductive BufRead where
  | stall
  | fault (s : State) (f : FaultInfo) (b : Option BufInfo)
  | ok (s : State) (b : BufInfo) (seeds : List Nat)
  deriving Repr

/-- A failed read of G0 at admission, as a fault of the entry (R663, R970). -/
def admFault (c : Ctx) (x : AccErr) : FaultInfo := c.s.opFault x 0xFF 0xFFFFFFFF 0 0 0

/-- The SEED_SET operations of a front-end lane checked in lane order (R130, R485): the words, or the
place of the first that fails. -/
def seedWords (e : OpEnv) (s : State) : List Nat → Nat → Option Nat × List Nat
  | [], _ => (none, [])
  | w :: t, i =>
    if opCode w = 0x08 then
      if stage1 e w && s.stage3 e w [] then
        let r := seedWords e s t (i + 1)
        (r.1, w :: r.2)
      else (some i, [])
    else seedWords e s t (i + 1)

/-- A buffer of which only the address is known, as a record shows it (R607). -/
def unreadBuf (u : Nat) : BufInfo := bufOfHeader u []

/-- R527: read `n` bytes at `u` in pieces of 4 KiB. The first argument bounds their number. -/
def Ctx.readLong (c : Ctx) : Nat → Nat → Nat → Ctx × List Byte
  | 0, _, _ => (c, [])
  | k + 1, u, n =>
    if n = 0 then (c, [])
    else
      let r := c.read true u (min n 4096)
      let t := r.1.readLong k (u + min n 4096) (n - min n 4096)
      (t.1, r.2 ++ t.2)

/-- R527: the front-end lane of a buffer whose first bytes are `l`: what lies beyond them is read
now. -/
def Ctx.readFront (c : Ctx) (b : BufInfo) (l : List Byte) : Ctx × List Byte :=
  if bitOf b.lanes 8 then
    let a := b.laneStart 8
    let z := b.laneEnd 8
    let r := c.readLong (z / 4096 + 1) (b.uda + max a l.length) (z - max a l.length)
    (r.1, (l.take z).drop a ++ r.2)
  else (c, [])

/-- R389, R392, R393, R527: read and check a buffer's header, its first 4 KiB and its SEED_SETs. -/
def State.readBuf (s : State) (v : View) (e : Entry) (u : Nat) : BufRead :=
  if u % 64 ≠ 0 ∨ inHostOrDram u 64 = false ∨ s.addrOk true u 64 = false then
    .fault s (s.plainFault .cbInvalid u) (some (unreadBuf u))
  else
    let h := (Ctx.start s v []).read true u 64
    if h.1.stall then .stall
    else
      match h.1.err with
      | some x => .fault h.1.s (admFault h.1 x) (some (unreadBuf u))
      | none =>
        let b := bufOfHeader u h.2
        if s.headerOk u h.2 = false then
          .fault h.1.s (h.1.s.plainFault .cbInvalid u) (some (unreadBuf u))
        else if b.direct ∧ s.expert = false then
          .fault h.1.s (h.1.s.plainFault .expertLocked u) (some b)
        else
          let r := h.1.read true (u + 64) (min b.size 4096 - 64)
          let q := r.1.readFront b (h.2 ++ r.2)
          if q.1.stall then .stall
          else
          match q.1.err with
          | some x => .fault q.1.s (admFault q.1 x) (some b)
          | none =>
            let w := seedWords (s.opEnv e b 8) s (opWords q.2) 0
            match w.1 with
            | some i =>
              .fault q.1.s { q.1.s.plainFault .opInvalid 0 with
                lane := 8, opOfs := b.laneStart 8 + 32 * i,
                word := leAt q.2 (32 * i) 32 } (some b)
            | none => .ok q.1.s b w.2

/-- Finish an admission whose buffer waits for sealing, if it needs any (R419, R422). -/
def State.finishSubmit (s : State) (v : View) (e : Entry) (b : BufInfo) : Acted :=
  if b.direct then
    match s.sealBuf v e b with
    | .noRoom => .hold { s with ring := { s.ring with sealing := some { e with buf := some b } } }
    | .stall => .hold { s with ring := { s.ring with sealing := some { e with buf := some b } } }
    | .fault s f => .done (s.addEntry { e with buf := some b, fault := some f })
    | .done s b => .done (s.addEntry { e with buf := some b })
  else .done (s.addEntry { e with buf := some b })

/-- R527: the action of RE_SUBMIT. -/
def actSubmit (v : View) (s : State) (r : Req) : Acted :=
  s.needGen fun s =>
    let e := { newEntry r .submit with hgen := s.genInForce }
    match s.readBuf v e (leAt r.raw 8 8 % 2 ^ 48) with
    | .stall => .wait
    | .fault s f b => .done (s.addEntry { e with buf := b, fault := some f })
    | .ok s b seeds =>
      let g := seeds.foldl Gen.seedSet (s.stream r.stream).gen
      (s.capture r.stream g b.sampleAdvance).finishSubmit v { e with gen := g } b

/-- R527: RE_SUBMIT. -/
def execReSubmit (v : View) (s : State) : AdmOut := .next (s.admitRow .submit v (actSubmit v))

/-! ### RE_LAUNCH -/

/-- R578: body checks of a launch. -/
def launchBodyOk (raw : List Byte) : Bool :=
  let a := leAt raw 0x18 8 % 2 ^ 48
  decide (leAt raw 8 2 < 1024) && leAt raw 12 4 == 0 && (a == 0 || inHostOrDram a 64)

/-- An argument block (R579): SAMPLE_ADVANCE, given seeds, and arguments. -/
structure ArgBlock where
  adv : Nat
  seeds : Option Gen
  args : List Word64
  deriving Repr

/-- R579, R580: read the argument block; none is LAUNCH_INVALID. -/
def State.readArgs (s : State) (v : View) (u narg : Nat) : Ctx × Option ArgBlock :=
  let c := Ctx.start s v []
  if u = 0 then (c, if narg = 0 then some ⟨0, none, []⟩ else none)
  else
    let r := c.read true u (64 + 8 * narg)
    let g := fun o n => leAt r.2 o n
    if r.1.err.isNone && g 0 2 == 0x7A4F && g 2 2 == narg && decide (g 4 1 < 2) && g 5 3 == 0
        && g 12 4 == 0 && g 0x38 8 == 0 then
      (r.1, some
        { adv := g 8 4
          seeds := if g 4 1 = 1 then some (genOfBytes ((r.2.drop 16).take 40)) else none
          args := (upto narg).map fun i => BitVec.ofNat 64 (g (64 + 8 * i) 8) })
    else (r.1, none)

/-- Bind segment 0 of a launch and add its entry, or wait for seal space (R580, R422). -/
def State.finishLaunch (s : State) (v : View) (e : Entry) (l : Launch) : Acted :=
  match s.bindSeg v e l 0 (fun _ => none) with
  | .wait => .hold { s with ring := { s.ring with sealing := some e } }
  | .fault s f => .done (s.addEntry { e with fault := some f })
  | .done s b l => .done (s.addEntry { e with kind := .launch l, buf := some b })

/-- R580: the action of RE_LAUNCH. -/
def actLaunch (v : View) (s : State) (r : Req) : Acted :=
  if launchBodyOk r.raw = false then .reject s
  else s.needGen fun s =>
    let id := leAt r.raw 8 2
    let c := s.chart id
    let want := leAt r.raw 10 2
    let ver := if want = 0 then c.current else want
    let l0 : Launch :=
      { chart := id, version := 0, nseg := 0, seg := 0, args := [], ahead := [], named := [],
        hot := [], lanes := 0, nCl := 0, nFe := 0 }
    let e := { newEntry r (.launch l0) with hgen := s.genInForce }
    if c.used = false ∨ c.dropping = true ∨ (c.version? ver).isNone = true then
      .done (s.addEntry { e with fault := some (s.plainFault .chartAbsent 0) })
    else
      let l : Launch := { l0 with
        version := ver, nseg := c.nseg, lanes := c.lanes, nCl := c.nCl, nFe := c.nFe }
      let u := leAt r.raw 0x18 8 % 2 ^ 48
      let e := { e with kind := .launch l, ext := e.ext + (if u = 0 then 0 else 1) }
      let a := s.readArgs v u c.narg
      if a.1.stall then .wait
      else
        let s := a.1.s
        match a.2 with
        | none => .done (s.addEntry { e with fault := some (s.plainFault .launchInvalid u) })
        | some b =>
          let l := { l with args := b.args }
          match b.seeds with
          | some g => s.finishLaunch v { e with kind := .launch l, gen := g } l
          | none =>
            let g := (s.stream r.stream).gen
            (s.capture r.stream g b.adv).finishLaunch v { e with kind := .launch l, gen := g } l

/-- R580: RE_LAUNCH. -/
def execReLaunch (v : View) (s : State) : AdmOut := .next (s.admitRow .launch v (actLaunch v))

/-- R422: SEAL_SPACE_FREED: the entry that waits for seal space is sealed. -/
def execSealSpaceFreed (v : View) (s : State) : AdmOut :=
  .next <| s.ringEdge <|
    match s.ring.sealing with
    | none => s
    | some e =>
      if s.running = false then s
      else
        let t := { s with ring := { s.ring with sealing := none } }
        let r := match e.kind, e.buf with
          | .launch l, _ => t.finishLaunch v e l
          | _, some b => t.finishSubmit v e b
          | _, none => .wait
        match r with
        | .done t => t.passHead
        | _ => s

/-! ### Other stream-ordered and stream entries -/

/-- R519: RE_NOP. -/
def execReNop (v : View) (s : State) : AdmOut := .next (s.admitRow .nop v fun s _ => .done s)

/-- R519: RE_WAIT_ONLY. -/
def execReWaitOnly (v : View) (s : State) : AdmOut :=
  .next (s.admitRow .waitOnly v fun s r => .done (s.addEntry (newEntry r .waitOnly)))

/-- R519: RE_SIGNAL_ONLY. -/
def execReSignalOnly (v : View) (s : State) : AdmOut :=
  .next (s.admitRow .signalOnly v fun s r => .done (s.addEntry (newEntry r .signalOnly)))

/-- R523: the seed block of an RE_STREAM, when SFLAGS gives one; an unreadable one is an
ENTRY_INVALID (R663). A block at a remote address is fetched first. -/
def State.seedBlock (s : State) (v : View) (raw : List Byte) (g : Gen) : Ctx × Option Gen :=
  let c := Ctx.start s v s.ring.fetched
  if bitOf (leAt raw 0x0B 1) 0 then
    let u := leAt raw 0x10 8 % 2 ^ 48
    if u % 8 ≠ 0 ∨ s.ring.fetchBad = true then (c, none)
    else
      let r := c.read true u 40
      if r.1.err.isSome then (r.1, none) else (r.1, some (genOfBytes r.2))
  else (c, some g)

/-- R523, R128: the action of RE_STREAM CREATE. -/
def actCreate (v : View) (s : State) (r : Req) : Acted :=
  let b := s.seedBlock v r.raw Gen.zero
  if b.1.stall then .wait
  else if b.1.miss ≠ [] then .fetch b.1.miss
  else
    match b.2 with
    | none => .reject b.1.s
    | some g =>
      let s := b.1.s.setStream r.stream
        { StreamRec.free with
          created := true, prio := leAt r.raw 9 1 % 4, domain := leAt r.raw 10 1 % 16, gen := g,
          lastMap := (s.stream r.stream).lastMap }
      .done (s.reSignals r false)

/-- R523: RE_STREAM CREATE. -/
def execReStreamCreate (v : View) (s : State) : AdmOut := .next (s.admitRow .create v (actCreate v))

/-- R523, R131: the action of RE_STREAM CONFIGURE. -/
def actConfigure (v : View) (s : State) (r : Req) : Acted :=
  let b := s.seedBlock v r.raw (s.stream r.stream).gen
  if b.1.stall then .wait
  else if b.1.miss ≠ [] then .fetch b.1.miss
  else
    match b.2 with
    | none => .reject b.1.s
    | some g =>
      let s := b.1.s.setStream r.stream
        { s.stream r.stream with prio := leAt r.raw 9 1 % 4, gen := g }
      .done (s.reSignals r false)

/-- R523: RE_STREAM CONFIGURE. -/
def execReStreamConfigure (v : View) (s : State) : AdmOut :=
  .next (s.admitRow .configure v (actConfigure v))

/-- R523: RE_STREAM DESTROY. -/
def execReStreamDestroy (v : View) (s : State) : AdmOut :=
  .next (s.admitRow .destroy v fun s r =>
    let s := s.setStream r.stream { s.stream r.stream with destroy := some r.sigs }
    .done (s.checkDestroy r.stream))

/-- R603: RE_STREAM RELEASE. -/
def execReStreamRelease (v : View) (s : State) : AdmOut :=
  .next (s.admitRow .release v fun s r =>
    let x := s.stream r.stream
    if x.isolated = false then .reject s
    else
      let fl := leAt r.raw 0x0B 1
      let s := s.setStream r.stream { x with isolated := false }
      let s := if bitOf fl 1 then
          (s.entries.filter fun e => e.stream == r.stream).foldl
            (fun s e => s.endAborted e (bitOf fl 2)) s
        else s
      .done ((s.checkPend.heads).reSignals r false))

/-! ### RE_ABORT -/

/-- R615: abort one admitted entry; a running one is stopped. An entry with a fault, or that is
being stopped, is left to the response it has. `v` answers for its lanes in host memory. -/
def State.abortEntry (s : State) (v : View) (e : Entry) : State :=
  if s.faulted e.idx then s
  else
    match s.slotOf e.idx with
    | some n =>
      match s.slot? n with
      | some x => if x.stop.isSome then s else s.stopSlot v n .abort
      | none => s
    | none => s.endAborted e false

/-- R524, R615: the action of RE_ABORT. -/
def actAbort (v : View) (s : State) (r : Req) : Acted :=
  let t := leAt r.raw 8 4
  let scope := bitOf (leAt r.raw 12 1) 0
  let res := leAt r.raw 16 8 % 2 ^ 48
  let live := s.entries.find? fun e => e.idx == t && e.stream == r.stream
  let code : Nat := match live with
    | some _ => 0
    | none =>
      match SMap.get State.pastD s.past t with
      | some (st, committed) => if st = r.stream then (if committed then 1 else 0) else 2
      | none => 2
  let later := s.entries.filter fun e =>
    e.stream == r.stream && e.idx != t && decide ((e.idx + 2 ^ 32 - t) % 2 ^ 32 < 2 ^ 31)
  let hit := if code = 2 then []
    else live.toList ++ (if scope then later else [])
  let s := hit.foldl (fun s e => s.abortEntry v e) s
  let w := s.resultWrite res (leBytes 8 code)
  .done ((w.1.holdSigs (.aborted (hit.map fun e => e.idx) w.2) false r.sigs).afterEntry r.stream)

/-- R443: the entry that waits for seal space, when the RE_ABORT behind it names it. -/
def State.abortsSealing (s : State) : Option Entry :=
  match s.ring.sealing, s.ring.arrived with
  | some e, _ :: (_, raw) :: _ =>
    if s.running && !s.ring.halted && rowKind raw == some .abort && s.shapeOk .abort raw
        && leAt raw 2 2 == e.stream && leAt raw 8 4 == e.idx then some e
    else none
  | _, _ => none

/-- R443: the entry that waits for seal space is aborted without being sealed, and HEAD passes it. -/
def State.dropSealing (s : State) (e : Entry) : State :=
  let s := { s with ring := { s.ring with sealing := none } }
  let s := s.setStream e.stream { s.stream e.stream with lastIdx := some e.idx }
  (s.endAborted e false).passHead

/-- R443, R615: RE_ABORT. One that names the entry in front of it, which waits for seal space, ends
that wait. -/
def execReAbort (v : View) (s : State) : AdmOut :=
  .next <|
    let t := match s.abortsSealing with
      | some e => s.dropSealing e
      | none => s
    t.admitRow .abort v (actAbort v)

/-! ### RE_SAVE and RE_RESTORE -/

/-- R626: the state area's size for a target. -/
def State.areaSize (s : State) (e : Entry) (plate : Bool) : Nat :=
  let lanes := match e.kind, e.buf with
    | .launch l, _ => l.lanes
    | _, some b => b.lanes
    | _, none => 0
  let all := ((upto 9).filter fun n => bitOf lanes n).length
  let cl := ((upto 8).filter fun n => bitOf lanes n).length
  64 + all * (64 + 2112) + cl * (64 + 16 * 49216) +
    (if plate then cl * (64 + 12582912) else 0) +
    (match e.kind with
     | .launch l => (1 + l.ahead.length) * (64 + 8 * (s.chart l.chart).nparam)
     | _ => 0)

/-- R620, R621, R622: the action of RE_SAVE. -/
def actSave (s : State) (r : Req) : Acted :=
  let image := leAt r.raw 8 8 % 2 ^ 48
  let area := leAt r.raw 16 8 % 2 ^ 48
  let kib := leAt r.raw 0x18 4
  let cf := leAt r.raw 0x1C 1 % 8
  let g := (s.stream r.stream).gen
  if inHostOrDram image 4096 = false ∨ s.addrOk true image 4096 = false then .reject s
  else if bitOf cf 0 = false then .done (s.addEntry (newEntry r (.save image area cf none g false)))
  else
    let prev := (s.stream r.stream).lastIdx.bind fun i =>
      s.entries.find? fun e => e.idx == i && e.stream == r.stream && e.takesSlot
    match prev with
    | none => .reject s
    | some t =>
      if inHostOrDram area 64 = false ∨ s.addrOk true area (s.areaSize t (bitOf cf 2)) = false ∨
          kib * 1024 < s.areaSize t (bitOf cf 2) then .reject s
      else if s.expert = false then
        .done (s.addEntry { newEntry r (.save image area cf none g false) with
          fault := some (s.plainFault .expertLocked 0) })
      else .done (s.addEntry (newEntry r (.save image area cf (some t.idx) g false)))

/-- R621, R622: RE_SAVE. -/
def execReSave (v : View) (s : State) : AdmOut := .next (s.admitRow .save v actSave)

/-- R625, R628: the image is good for a stream of this domain. -/
def imageOk (l : List Byte) (domain : Nat) : Bool :=
  leAt l 0 2 == 0x7A5C && leAt l 2 1 == 1 && decide (leAt l 3 1 < 2) && leAt l 7 1 == domain &&
    leAt l 0x10 4 == crc32c (l.take 0x10 ++ leBytes 4 0 ++ l.drop 0x14)

/-- R628: the action of RE_RESTORE at its admission. -/
def actRestore (v : View) (s : State) (r : Req) : Acted :=
  let image := leAt r.raw 8 8 % 2 ^ 48
  let bufR := leAt r.raw 16 8 % 2 ^ 48
  if inHostOrDram image 4096 = false then .reject s
  else
    let q := (Ctx.start s v []).read true image 4096
    if q.1.stall then .wait
    else
      let s := q.1.s
      let e := newEntry r (.restore image bufR q.2)
      if q.1.err.isSome ∨ imageOk q.2 (s.stream r.stream).domain = false then
        .done (s.addEntry { e with fault := some (s.plainFault .contextInvalid image) })
      else
        let s := s.setStream r.stream
          { s.stream r.stream with gen := genOfBytes ((q.2.drop 0x18).take 40) }
        .done (s.addEntry { e with hgen := if leAt q.2 3 1 = 1 then s.genInForce else 0 })

/-- R626: the sections that a state area must hold: type, number and payload length. -/
def State.sectionsOf (s : State) (img : List Byte) : List (Nat × Nat × Nat) :=
  let lanes := leAt img 0x82 2
  let all := (upto 9).filter fun n => bitOf lanes n
  let cl := all.filter fun n => decide (n < 8)
  let ch := leAt img 0x100 2
  let seg := leAt img 0x104 2
  (all.map fun n => (1, n, 2112)) ++ (cl.map fun n => (2, n, 16 * 49216)) ++
  (if bitOf (leAt img 0x8A 1) 2 then cl.map fun n => (3, n, 12582912) else []) ++
  (if leAt img 0x80 1 = 2 then
     (upto (1 + leAt img 0x106 2)).map fun i => (4, seg + i, 8 * (s.chart ch).nparam)
   else [])

/-- Where a section's payload begins. -/
def sectionAt : List (Nat × Nat × Nat) → Nat → Nat → Nat → Option Nat
  | [], _, _, _ => none
  | x :: t, o, ty, n => if x.1 = ty ∧ x.2.1 = n then some (o + 64) else
    sectionAt t (o + 64 + x.2.2) ty n

/-- R626, R628: the area's headers agree with the image. -/
def sectionsOk (area : List Byte) : List (Nat × Nat × Nat) → Nat → Bool
  | [], o => o == area.length
  | x :: t, o =>
    leAt area o 1 == x.1 && leAt area (o + 2) 2 == x.2.1 && leAt area (o + 8) 8 == x.2.2 &&
      sectionsOk area t (o + 64 + x.2.2)

/-- R628 step 2: a RE_RESTORE of KIND CUT whose turn as head has come. -/
def State.restoreDue (s : State) : Option Entry :=
  s.entries.find? fun e =>
    e.ready && !s.faulted e.idx &&
      (match e.kind with
       | .restore _ _ img => leAt img 3 1 == 1
       | _ => false)

/-- The saved values of a launch's parameters for a bound segment. -/
def savedParams (area : List Byte) (o n : Nat) (p : Nat) : Option Word64 :=
  if p < n then some (BitVec.ofNat 64 (leAt area (o + 8 * p) 8)) else none

/-- R596, R628: the launch that an image and its state area describe; `rl` is its chart's relocation
list. Arguments that no bound segment names are not in the context: free values (log entry 14). -/
def State.savedLaunch (s : State) (rl : List Reloc) (img area : List Byte) : Launch :=
  let id := leAt img 0x100 2
  let seg := leAt img 0x104 2
  let c := s.chart id
  let secs := s.sectionsOf img
  let arg := fun p =>
    let hit := (upto (1 + leAt img 0x106 2)).find? fun i => (segParams rl (seg + i)).contains p
    match hit.bind fun i => sectionAt secs 64 4 (seg + i) with
    | some o => BitVec.ofNat 64 (leAt area (o + 8 * p) 8)
    | none => BitVec.ofNat 64 (Config.freeNat s.fresh p)
  { chart := id, version := leAt img 0x102 2, nseg := c.nseg, seg := seg,
    args := (upto c.narg).map arg, ahead := [], named := [], hot := [], lanes := leAt img 0x82 2,
    nCl := leAt img 0x84 1, nFe := leAt img 0x85 1 }

/-- R628 step 2, R596: read the state area and make the saved target the stream's head. The chart
version is looked for before the sections whose sizes it gives. -/
def State.restoreTarget (s : State) (v : View) (e : Entry) (bufR : Nat) (img : List Byte) : State :=
  let n := leAt img 0x40 8
  let q := (Ctx.start s v []).read true (leAt img 0x48 8 % 2 ^ 48) n
  let kind := leAt img 0x80 1
  let secs := s.sectionsOf img
  let c := s.chart (leAt img 0x100 2)
  let k := if kind = 2 then q.1.relocs c else (q.1, [])
  if q.1.stall then s
  else if q.1.err.isSome || q.1.miss != [] || leAt img 0x14 4 != crc32c q.2
      || leAt q.2 0 2 != 0x7A5D || !(kind == 1 || kind == 2) || decide (4 < leAt img 0x81 1) then
    q.1.s.raise e.idx (s.plainFault .contextInvalid 0)
  else if kind = 2 ∧ (c.version? (leAt img 0x102 2)).isNone = true then
    q.1.s.raise e.idx (s.plainFault .chartAbsent 0)
  else if leAt q.2 2 2 != secs.length || !sectionsOk q.2 secs 64 then
    q.1.s.raise e.idx (s.plainFault .contextInvalid 0)
  else
    match k.1.err with
    | some x => k.1.s.raise e.idx (s.plainFault x.code x.addr)
    | none =>
    let s := k.1.s.signals (.signal e.stream) false e.sigs
    let l := s.savedLaunch k.2 img q.2
    let t : Entry := { e with
      kind := if kind = 2 then .launch l else .submit
      tolerate := false
      notBefore := none
      waits := []
      sigs := (upto (leAt img 0x81 1)).map fun i => sigOf img (0xC0 + 16 * i)
      ext := 0
      gen := genOfBytes ((img.drop 0x90).take 40)
      restored := some ⟨img, q.2, bufR⟩ }
    let s := s.setEntry t
    ({ s with ring := { s.ring with commits := (s.ring.commits + 1) % 2 ^ 64 } }).bumpFresh

/-- R628: RE_RESTORE: the head whose turn has come loads its saved target; otherwise the entry at
the front is admitted. -/
def execReRestore (v : View) (s : State) : AdmOut :=
  .next <|
    match s.restoreDue with
    | some e =>
      match e.kind with
      | .restore _ b img => if s.running then s.restoreTarget v e b img else s
      | _ => s
    | none => s.admitRow .restore v (actRestore v)

/-! ### Charts, updates and the fabric -/

/-- R571: RE_CHART_LOAD. -/
def execReChartLoad (v : View) (s : State) : AdmOut := .next (s.admitRow .chartLoad v actChartLoad)

/-- R586: RE_CHART_PATCH VERSIONED. -/
def execReChartPatchVersioned (v : View) (s : State) : AdmOut :=
  .next (s.admitRow .patchVersioned v (actPatchVersioned v))

/-- R589: RE_CHART_PATCH HOT. -/
def execReChartPatchHot (v : View) (s : State) : AdmOut :=
  .next (s.admitRow .patchHot v (actPatchHot v))

/-- R573: RE_CHART_DROP. -/
def execReChartDrop (v : View) (s : State) : AdmOut := .next (s.admitRow .chartDrop v actChartDrop)

/-- R817: body checks of RE_ALMANAC_UPDATE. -/
def updateBodyOk (raw : List Byte) : Bool :=
  leAt raw 9 3 == 0 && inHostOrDram (leAt raw 16 8 % 2 ^ 48) 64 && resultOk (leAt raw 24 8 % 2 ^ 48)

/-- R817 to R822: the action of RE_ALMANAC_UPDATE; `go` has the bytes at SRC. -/
def actUpdate (v : View) (cap : Nat) (go : State → List Byte → Nat → List SigRec → State)
    (s : State) (r : Req) : Acted :=
  if updateBodyOk r.raw = false then .reject s
  else
    let res := leAt r.raw 24 8 % 2 ^ 48
    let q := (Ctx.start s v []).read true (leAt r.raw 16 8 % 2 ^ 48) (min cap (leAt r.raw 12 4))
    if s.update.isSome ∨ s.flash.isNone then .done (go s [] res r.sigs)
    else if q.1.stall then .wait
    else if q.1.err.isSome then
      .done ((q.1.s.setFld Reg.ALM_UPDATE 11 4 2).flashResult 2 none none res r.sigs)
    else .done (go q.1.s q.2 res r.sigs)

/-- R820: RE_ALMANAC_UPDATE ALMANAC. No copy is longer than 65,536 bytes (R806), so more of SRC is
not read. -/
def execReAlmanacUpdateAlmanac (v : View) (s : State) : AdmOut :=
  .next (s.admitRow .almanac v (actUpdate v 65508 fun s l res g => s.almanacUpdate l res g))

/-- R821: RE_ALMANAC_UPDATE FIRMWARE. -/
def execReAlmanacUpdateFirmware (v : View) (s : State) : AdmOut :=
  .next (s.admitRow .firmware v (actUpdate v (2 ^ 32) fun s l res g => s.firmwareUpdate l res g))

/-- R822: RE_ALMANAC_UPDATE READ. -/
def execReAlmanacUpdateRead (v : View) (s : State) : AdmOut :=
  .next (s.admitRow .almRead v fun s r =>
    if updateBodyOk r.raw = false then .reject s
    else
      let res := leAt r.raw 24 8 % 2 ^ 48
      let done := fun (s : State) code seq =>
        Acted.done ((s.setFld Reg.ALM_UPDATE 11 4 code).flashResult code seq none res r.sigs)
      if s.update.isSome then .done (s.flashResult 1 none none res r.sigs)
      else if s.flash.isNone then done s 7 none
      else if s.copy = [] then done s 2 none
      else if leAt r.raw 12 4 < s.copy.length then done s 6 none
      else
        let w := s.ownWrite (leAt r.raw 16 8 % 2 ^ 48) s.copy
        if w.2.isSome then done w.1 2 none else done w.1 0 (some (leAt s.copy 4 4)))

/-- R785: RE_FABRIC REDISCOVER. -/
def execReFabricRediscover (v : View) (s : State) : AdmOut :=
  .next (s.admitRow .rediscover v fun s r =>
    .done ((s.advanceEpoch none).holdSigs .settled false r.sigs))

/-- R785: RE_FABRIC REMAP. -/
def execReFabricRemap (v : View) (s : State) : AdmOut :=
  .next (s.admitRow .remap v fun s r =>
    if s.expert = false then .reject s
    else
      let s := ({ s with fab := { s.fab with remap := true } }).advanceEpoch none
      .done (s.holdSigs .settled false r.sigs))

/-- R785: RE_FABRIC FENCE. -/
def execReFabricFence (v : View) (s : State) : AdmOut :=
  .next (s.admitRow .fence v fun s r =>
    let tags := s.rmt.map fun x => x.tag
    .done ((s.holdSigs (.fenced tags) false r.sigs).checkPend))

end Sys2Proof.Machine
end

