-- ==== Sys2Proof/Machine/Sequencer.lean ====
section
/-! DEFINITION. The lanes' sequencers (R370, R395, R403 to R406): fetching, checking and issuing the
next operation of a lane; the unit queues and their waits (R359 to R363, R371); the completion of
operations and their posts (R353 to R358); and the operations without a unit queue (R452,
R488 to R494). -/

namespace Sys2Proof.Machine

abbrev SeqOut := Host.Outcome State Fault Refusal

/-! ### Unit queues -/

/-- Tiles an operation of a unit queue names: its own, or those an EGRESS drains from slots (R294). -/
def OpRec.tileMask (o : OpRec) : Nat :=
  match o.unit with
  | .tiles m => m
  | .egress =>
    if opCode o.word = 0x04 ∧ bitOf o.word 64 = false then bits o.word 95 80 else 0
  | .mover _ => 0

/-- Two operations of one cluster share a unit queue; tile queues are told by `t`. -/
def sameQueue (a b : OpRec) (t : Nat) : Bool :=
  a.node == b.node &&
    (match a.unit, b.unit with
     | .mover x, .mover y => x == y
     | .egress, .egress => true
     | .tiles x, .tiles y => bitOf x t && bitOf y t
     | _, _ => false)

/-- The lowest tile of a mask (R360). -/
def lowTile (m : Nat) : Nat := ((maskTiles m).head?).getD 16

/-- Where an operation stands among the queued ones. -/
def OpRec.same (a b : OpRec) : Bool := a.slot == b.slot && a.node == b.node && a.ofs == b.ofs

/-- The operations issued before `o`. -/
def State.before (s : State) (o : OpRec) : List OpRec := s.ops.takeWhile fun x => !x.same o

/-- An operation is at the head of its queue (R360): for several tiles, of the lowest one's. -/
def State.atHead (s : State) (o : OpRec) : Bool :=
  let t := match o.unit with
    | .tiles m => lowTile m
    | _ => 0
  !((s.before o).any fun x => sameQueue x o t)

/-- A tile of a matmul-type operation is done, in its last repetition. -/
def OpRec.tileDone (o : OpRec) (t : Nat) : Bool :=
  o.issued || (o.rep == opRepeat o.word &&
    (match o.mat with
     | some m => m.tiles.any fun r => r.tile == t && r.done
     | none => false))

/-- R188, R189, R294: an operation may begin on a tile. -/
def State.tileOpen (s : State) (o : OpRec) (t : Nat) : Bool :=
  !((s.before o).any fun x =>
    x.node == o.node && bitOf x.tileMask t && !x.tileDone t &&
      (match x.unit, o.unit with
       | .tiles _, .tiles _ => true
       | _, _ => x.slot == o.slot))

/-- R371: operations a queue holds. -/
def queueDepth : UnitId → Nat
  | .tiles _ => 2
  | _ => 4

/-- R370: there is room for an operation in every queue it needs. -/
def State.hasRoom (s : State) (o : OpRec) : Bool :=
  let ts := match o.unit with
    | .tiles m => maskTiles m
    | _ => [0]
  ts.all fun t => decide ((s.ops.filter fun x => sameQueue x o t).length < queueDepth o.unit)

/-- R451: the unit queue of an operation word. -/
def opUnit (w : Nat) : Option UnitId :=
  match opCode w with
  | 0x02 => some (.tiles (bits w 111 96))
  | 0x03 => some (.mover (bits w 65 64))
  | 0x04 | 0x05 | 0x06 | 0x07 => some .egress
  | 0x09 | 0x0A => some (.tiles (2 ^ bits w 67 64))
  | _ => none

/-- The operation of a slot's lane at a byte offset. -/
def State.opAt (s : State) (slot node ofs : Nat) : Option OpRec :=
  s.ops.find? fun o => o.slot == slot && o.node == node && o.ofs == ofs

/-- Replace an operation. -/
def State.setOp (s : State) (o : OpRec) : State :=
  { s with ops := s.ops.map fun x => if x.same o then o else x }

/-! ### Waits -/

/-- The value of a slot's token. -/
def State.tokVal (s : State) (slot node tok : Nat) : Nat :=
  match s.tokAt slot node tok with
  | some i => (SMap.get State.tokD s.toks (64 * node + i)).value
  | none => 0

/-- Set the value of a slot's token. -/
def State.setTokVal (s : State) (slot node tok v : Nat) : State :=
  match s.tokAt slot node tok with
  | some i =>
    let k := 64 * node + i
    { s with toks := SMap.set State.tokD s.toks k { SMap.get State.tokD s.toks k with value := v } }
  | none => s

/-- An operation of a queue has a wait on this token left, in this repetition or a later one
(R363). -/
def OpRec.waits (o : OpRec) (slot node tok : Nat) : Bool :=
  o.slot == slot && o.node == node && waitEn o.word && waitTok o.word == tok &&
    !(o.waited && o.rep == opRepeat o.word)

/-- Take `n` from a slot's token if it holds as many and has satisfied no wait in this cycle (R359,
R362). -/
def State.takeTok (s : State) (slot node tok n : Nat) : Option State :=
  (s.tokAt slot node tok).bind fun i =>
    let k := 64 * node + i
    let t := SMap.get State.tokD s.toks k
    if n ≤ t.value ∧ t.served ≠ s.cycle + 1 then
      let t := { t with value := t.value - n, served := s.cycle + 1 }
      some { s with toks := SMap.set State.tokD s.toks k t }
    else none

/-- R361, R362: satisfy the eligible wait on a counter, if the counter allows: the first in lane
order that has been reached; at most one wait in one cycle. -/
def State.serveWaits (s : State) (slot node tok : Nat) : State :=
  match s.ops.find? fun o => o.waits slot node tok with
  | some o =>
    if s.atHead o && !o.waited then
      match s.takeTok slot node tok (waitN o.word) with
      | some t => t.setOp { o with waited := true }
      | none => s
    else s
  | none =>
    match (s.slot? slot).bind fun x => x.lane? node with
    | some l =>
      match l.block with
      | some (.token t n) =>
        if t = tok then
          match s.takeTok slot node tok n with
          | some t => t.laneDone slot node
          | none => s
        else s
      | _ => s
    | none => s

/-- Test the waits on a counter, unless the slot is halted (R613). -/
def State.testWaits (s : State) (slot node tok : Nat) : State :=
  match s.slot? slot with
  | none => s
  | some x => if s.laneHalted x node then s else s.serveWaits slot node tok

/-! ### Fetching and issuing -/

/-- The next operation of a lane: its slot, entry, buffer and lane, the accesses made so far, and its
word. -/
structure Fetch where
  slot : Nat
  node : Nat
  x : ExecSlot
  e : Entry
  b : BufInfo
  l : Lane
  w : Nat
  deriving Repr

/-- The lane may issue its next operation (R370, R613, R623): answers what it belongs to. -/
def State.laneReady (s : State) (slot node : Nat) : Option Fetch :=
  if s.running = false then none
  else
    match s.slot? slot with
    | none => none
    | some x =>
      if s.laneHalted x node || x.cutting.isSome then none
      else
        match x.lane? node, s.entry? x.entry with
        | some l, some e =>
          match e.buf with
          | some b =>
            if (l.block.isNone || l.block == some .room) && decide (l.pc < b.laneEnd node) then
              some ⟨slot, node, x, e, b, l, 0⟩
            else none
          | none => none
        | _, _ => none

/-- Fault an operation that a lane would issue (R417, R424). -/
def State.issueFault (s : State) (f : Fetch) (x : AccErr) : State :=
  s.raise f.x.entry (s.opFault x f.node f.l.pc 0 f.l.cp f.w)

/-- Replace a lane of a slot. -/
def State.putLane (s : State) (slot node : Nat) (l : Lane) : State :=
  match s.slot? slot with
  | none => s
  | some x => s.setSlot slot (some (x.setLane node l))

/-- A lane whose next operation G0 may relocate: its slot, entry and buffer, and the lane. -/
def State.laneAhead (s : State) (slot node : Nat) : Option (ExecSlot × Entry × BufInfo × Lane) :=
  if s.running = false then none
  else
    match s.slot? slot with
    | none => none
    | some x =>
      if s.laneHalted x node || x.cutting.isSome then none
      else
        match x.lane? node, s.entry? x.entry with
        | some l, some e => e.buf.map fun b => (x, e, b, l)
        | _, _ => none

/-- R415, R417: G0 fetches and relocates the next operation of a lane, if it is of the given row. A
failure faults the buffer at that operation; where the operation was the next to issue, the register
that a TENSOR_DESC then leaves invalid shows (R404). -/
def State.relocate (s : State) (slot node : Nat) (v : View) (row : Nat → Bool) : State :=
  match s.laneAhead slot node with
  | none => s
  | some (x, e, b, l) =>
    match (Ctx.start s v []).relocNext (s.opEnv e b node) l row with
    | .none => s
    | .unread c ofs er => c.s.raise x.entry (c.s.opFault er node ofs 0 l.cp 0)
    | .fault c ofs w drs er =>
      let t := if l.ahead = [] ∧ l.pc = ofs then c.s.putLane slot node { l with drs := drs } else c.s
      t.raise x.entry (t.opFault er node ofs 0 l.cp w)
    | .ok c l => c.s.putLane slot node l

/-- Issue the next operation of a lane, if it is of the given row: the first of those relocated
(R415, R453), or the next one, which is relocated first. `k` has the state, the registers the lane
then holds, and the inline reference's address. -/
def State.issue (s : State) (slot node : Nat) (v : View) (row : Nat → Bool)
    (k : Fetch → State → SMap (Option DReg) → Nat → State) : State :=
  let s := match s.laneReady slot node with
    | some f => if f.l.ahead = [] then s.relocate slot node v row else s
    | none => s
  match s.laneReady slot node with
  | none => s
  | some f =>
    match f.l.ahead with
    | [] => s
    | r :: t =>
      if row r.word then k { f with w := r.word, l := { f.l with ahead := t } } s r.drs r.uda
      else s

/-- The two steps of an operation without a unit queue. -/
def State.step2 (s : State) (slot : Fin 8) (node : Fin 9) (st : SeqStep)
    (row : Nat → Bool) (k : Fetch → State → SMap (Option DReg) → Nat → State) : State :=
  match st with
  | .relocate v => s.relocate slot node v row
  | .issue v => s.issue slot node v row k

/-- An operation as it enters its unit queue, with the registers it captures (R406). -/
def newOp (slot node ofs word : Nat) (q : UnitId) (drs : SMap (Option DReg)) (u : Nat) : OpRec :=
  { slot := slot, node := node, ofs := ofs, word := word, unit := q, drs := drs, uda := u,
    rep := 0, waited := false, begun := false, issued := false,
    hostWait := false, owed := 0, mat := none, fetched := [], after := [] }

/-- R370, R406: issue an operation into its unit queue, capturing its registers, or wait for
room. -/
def State.enqueue (s : State) (slot node : Nat) (v : View) (row : Nat → Bool) : State :=
  s.issue slot node v row fun f s drs u =>
    match opUnit f.w with
    | none => s
    | some q =>
      let o := newOp slot node f.l.pc f.w q drs u
      if s.hasRoom o then
        let t := s.putLane slot node { f.l with pc := f.l.pc + 32, drs := drs, block := none }
        { t with ops := t.ops ++ [o] }
      else
        match (s.slot? slot).bind fun x => x.lane? node with
        | some l => s.putLane slot node { l with block := some .room }
        | none => s

/-- A lane's operations have all completed (R354, R430). -/
def State.laneIdle (s : State) (slot node : Nat) : Bool :=
  !(s.ops.any fun o => o.slot == slot && o.node == node)

/-- Complete a lane's operation at once (R452), with the registers it leaves. -/
def State.finishLane (s : State) (f : Fetch) (drs : SMap (Option DReg)) : State :=
  (s.putLane f.slot f.node { f.l with drs := drs, word := f.w }).laneDone f.slot f.node

/-- R488: NOP. A SEED_SET completes without effect at its issue (R485); an unknown opcode raises
OP_INVALID when it is relocated (R396, R497). -/
def execNop (slot : Fin 8) (node : Fin 9) (st : SeqStep) (s : State) : SeqOut :=
  .next (s.step2 slot node st
    (fun w => opCode w == 0x00 || opCode w == 0x08 || decide (0x10 < opCode w))
    fun f s drs _ => s.finishLane f drs)

/-- R404, R405: TENSOR_DESC. -/
def execTensorDesc (slot : Fin 8) (node : Fin 9) (st : SeqStep) (s : State) : SeqOut :=
  .next (s.step2 slot node st (fun w => opCode w == 0x01) fun f s drs _ => s.finishLane f drs)

/-- R354, R488: TOKEN_POST, once every earlier operation of its lane has completed. -/
def execTokenPost (slot : Fin 8) (node : Fin 9) (st : SeqStep) (s : State) : SeqOut :=
  .next (s.step2 slot node st (fun w => opCode w == 0x0B) fun f s drs _ =>
    if s.laneIdle slot node then s.finishLane f drs else s)

/-- Block the lane at the operation fetched. -/
def State.blockAt (s : State) (f : Fetch) (drs : SMap (Option DReg)) (b : Block) : State :=
  s.putLane f.slot f.node { f.l with drs := drs, word := f.w, block := some b }

/-- R360, R488: TOKEN_WAIT blocks the sequencer until its wait is satisfied. -/
def execTokenWait (slot : Fin 8) (node : Fin 9) (st : SeqStep) (s : State) : SeqOut :=
  .next (s.step2 slot node st (fun w => opCode w == 0x0C) fun f s drs _ =>
    (s.blockAt f drs (.token (waitTok f.w) (waitN f.w))).testWaits slot node (waitTok f.w))

/-- R430, R490: perform a lane's pennant signal on local or host memory, or send it; a remote one
blocks the lane until its response. -/
def State.laneSignal (s : State) (f : Fetch) (drs : SMap (Option DReg)) (u : Nat) : State :=
  let c := Ctx.start s View.none []
  let sg : SigRec := ⟨u, bitOf f.w 191, bits f.w 190 128⟩
  let done := fun (c : Ctx) =>
    match c.err with
    | some x => (c.s.countBytes f.slot c.moved).issueFault f x
    | none => (c.s.countBytes f.slot c.moved).finishLane f drs
  match regionOf u with
  | .remote =>
    match s.remoteOk u with
    | none => s
    | some false => (s.rmtFail u 4).issueFault f ⟨.addrInvalid, u, 0, 0⟩
    | some true =>
      (s.rmtSend (.laneSignal f.slot f.node) (if sg.max then .pennantMax else .pennantWrite) u 8
        (leBytes 8 sg.value) false).blockAt f drs (.signal u)
  | .host =>
    if s.bme then done (c.write true false u (leBytes 8 sg.value)) else s
  | _ =>
    if sg.max then
      let r := c.read true u 8
      done (r.1.write true false u (leBytes 8 (pennantAfter (ofLeBytes r.2) sg false)))
    else done (c.write true false u (leBytes 8 sg.value))

/-- PENNANT_SIGNAL of one mode. -/
def State.pennantSignal (s : State) (slot : Fin 8) (node : Fin 9) (st : SeqStep)
    (max : Bool) : State :=
  s.step2 slot node st (fun w => opCode w == 0x0D && bitOf w 191 == max) fun f s drs u =>
    if s.laneIdle slot node then s.laneSignal f drs u else s

/-- R430: PENNANT_SIGNAL WRITE. -/
def execPennantSignalWrite (slot : Fin 8) (node : Fin 9) (st : SeqStep) (s : State) :
    SeqOut :=
  .next (s.pennantSignal slot node st false)

/-- R430: PENNANT_SIGNAL MAX. -/
def execPennantSignalMax (slot : Fin 8) (node : Fin 9) (st : SeqStep) (s : State) :
    SeqOut :=
  .next (s.pennantSignal slot node st true)

/-- R431: PENNANT_WAIT blocks the sequencer; the pennant is read as the wait becomes active
(R538). -/
def execPennantWait (slot : Fin 8) (node : Fin 9) (st : SeqStep) (s : State) : SeqOut :=
  .next (s.step2 slot node st (fun w => opCode w == 0x0E) fun f s drs u =>
    let r := s.takeWatch u
    (r.1.blockAt f drs (.pennant u (bits f.w 190 128) (bitOf f.w 191) s.ns r.2)).askPennant u false)

/-- R622: a cut save of an entry is pending. -/
def State.cutPending (s : State) (idx : Nat) : Bool :=
  s.entries.any fun e =>
    match e.kind with
    | .save _ _ _ (some t) _ w => t == idx && !w
    | _ => false

/-- R492: CHECKPOINT; a lane that a save has stopped goes on once none is pending. -/
def execCheckpoint (slot : Fin 8) (node : Fin 9) (st : SeqStep) (s : State) : SeqOut :=
  .next <|
    match (s.slot? slot).bind fun x => (x.lane? node).map fun l => (x, l) with
    | some (x, l) =>
      match l.block, st with
      | some (.checkpoint _ _), .issue _ =>
        if s.running && !s.laneHalted x node && x.cutting.isNone && !s.cutPending x.entry then
          s.laneDone slot node
        else s
      | _, _ =>
        s.step2 slot node st (fun w => opCode w == 0x0F) fun f s drs _ =>
          let f := { f with l := { f.l with cp := bits f.w 79 64 } }
          if s.cutPending f.x.entry then
            s.blockAt f drs (.checkpoint (bits f.w 79 64) (bits f.w 88 80))
          else s.finishLane f drs
    | none => s

/-- R493: BARRIER: its posts, then its wait. -/
def execBarrier (slot : Fin 8) (node : Fin 9) (st : SeqStep) (s : State) : SeqOut :=
  .next (s.step2 slot node st (fun w => opCode w == 0x10) fun f s drs _ =>
    if s.laneIdle slot node then
      let nodes := (upto 9).filter fun n => bitOf (bits f.w 88 80) n
      let t := (nodes.filter fun n => n != node.val).foldl (fun s n =>
        s.makePost ⟨slot, node, n, bits f.w 69 64, 1, f.l.pc, f.w, 0⟩) s
      (t.blockAt f drs (.token (bits f.w 69 64) (nodes.length - 1))).testWaits slot node
        (bits f.w 69 64)
    else s)

/-! ### Performing, completing and posting -/

/-- The registers of an operation in its repetition (R426). -/
def OpRec.drsNow (o : OpRec) : SMap (Option DReg) := (drsAt o.word o.rep o.drs).getD o.drs

/-- Fault an operation in its unit (R424). -/
def State.unitFault (s : State) (o : OpRec) (x : AccErr) : State :=
  match s.slot? o.slot with
  | none => s
  | some y =>
    s.raise y.entry (s.opFault x o.node o.ofs o.rep (((y.lane? o.node).map (·.cp)).getD 0) o.word)

/-- R360, R363: an operation of a lane that its unit may perform: at the head of its queue, its wait
satisfied. `none`, with the state, where it must wait. -/
def State.claim (s : State) (slot node ofs : Nat) (row : Nat → Bool) : State × Option OpRec :=
  match s.opAt slot node ofs, s.slot? slot with
  | some o, some x =>
    if s.running && !s.laneHalted x node && row o.word && !o.issued && s.atHead o then
      if waitEn o.word && !o.waited then
        let s := s.testWaits slot node (waitTok o.word)
        match s.opAt slot node ofs with
        | some o => if o.waited then (s, some o) else (s, none)
        | none => (s, none)
      else (s, some o)
    else (s, none)
  | _, _ => (s, none)

/-- R188, R294: every tile that a transfer or an EGRESS names is open to it. -/
def State.tilesOpen (s : State) (o : OpRec) : Bool := (maskTiles o.tileMask).all fun t => s.tileOpen o t

/-- Settle one repetition's accesses: fault, wait for what must be waited for, ask for remote bytes
that are missing, or send its remote writes and have it issued. -/
def State.settleOp (s : State) (o : OpRec) (c : Ctx) : State :=
  let use : RmtUse := .op o.slot o.node o.ofs
  match c.err with
  | some x => ((c.flush use).countBytes o.slot c.moved).unitFault { o with begun := true } x
  | none =>
    if c.stall then s.setOp { o with begun := true, hostWait := c.hostWait }
    else if c.miss ≠ [] then
      (s.setOp { o with begun := true, hostWait := false }).fetchMissing use c.miss
    else
      let c := c.blur s.out.length s.held.length
      (((c.flush use).countBytes o.slot c.moved).setOp
        { o with
          begun := true, issued := true, hostWait := c.hostWait, owed := c.owed, fetched := [],
          after := c.after })

/-- Perform one repetition of an operation as a body of accesses. -/
def State.performOp (s : State) (slot node ofs : Nat) (v : View) (row : Nat → Bool)
    (body : OpRec → Ctx → Ctx) : State :=
  match s.claim slot node ofs row with
  | (s, none) => s
  | (s, some o) => if s.tilesOpen o then s.settleOp o (body o (Ctx.start s v o.fetched)) else s

/-- R293: the egress unit idles for want of credit while it has an operation. -/
def State.idleOp (s : State) (slot node ofs : Nat) (row : Nat → Bool) (n : Nat) : State :=
  match s.opAt slot node ofs, s.slot? slot with
  | some o, some x =>
    if s.running && !s.laneHalted x node && row o.word && o.unit == .egress && s.atHead o &&
        (o.waited || !waitEn o.word) then
      s.bump (clReg node Reg.CL_EG_STALL) n
    else s
  | _, _ => s

/-- The steps of an operation whose repetitions are bodies of accesses. -/
def State.unitOp (s : State) (slot : Fin 8) (node : Fin 9) (ph : Phase) (v : View)
    (row : Nat → Bool) (body : OpRec → Ctx → Ctx) : State :=
  match ph with
  | .relocate => s.relocate slot node v row
  | .issue => s.enqueue slot node v row
  | .perform ofs => s.performOp slot node ofs v row body
  | .idle ofs n => s.idleOp slot node ofs row n

/-- Every access of the repetition is performed (R355, R676). -/
def State.opQuiet (s : State) (o : OpRec) : Bool :=
  !(s.rmt.any fun r => r.use == .op o.slot o.node o.ofs) && !(o.hostWait && !s.held.isEmpty)

/-- R354, R355, R363, R427: OP_COMPLETE: a repetition completes, makes its post, and gives way to the
next repetition or operation. -/
def execOpComplete (slot : Fin 8) (node : Fin 9) (ofs : Nat) (s : State) : SeqOut :=
  .next <|
    match s.opAt slot node ofs, s.slot? slot with
    | some o, some x =>
      if s.running && !s.laneHalted x node && o.issued && s.opQuiet o then
        let t := s.countBytes slot o.owed
        if o.after ≠ [] then
          let c := o.after.foldl (fun (c : Ctx) x => c.write false true x.1 x.2)
            (Ctx.start t View.none [])
          if c.stall then s
          else
            match c.err with
            | some x => c.s.unitFault o x
            | none =>
              ((c.flush (.op o.slot o.node o.ofs)).countBytes slot c.moved).setOp
                { o with after := [], hostWait := c.hostWait, owed := c.owed }
        else
        let s := (t.countOp slot).headerPost slot node ofs o.word o.rep
        if o.rep < opRepeat o.word then
          s.setOp { o with
            rep := o.rep + 1
            waited := false
            begun := false
            issued := false
            hostWait := false
            owed := 0
            mat := none
            fetched := [] }
        else { s with ops := s.ops.filter fun y => !y.same o }
      else s
    | _, _ => s

/-- R357, R362, R382: apply posts to a counter in order; from the first that would overflow on, each
faults its operation. -/
def State.applyPosts (s : State) (spill : Bool) : List Post → State
  | [] => s
  | p :: t =>
    let v := s.tokVal p.slot p.node p.tok
    if spill || decide (65535 < v + p.n) then
      (s.faultOp p.slot p.src p.ofs (p.word, p.rep) .tokenOverflow 0).applyPosts true t
    else
      let s := if p.node < 8 then s.bump (clReg p.node Reg.CL_TOK_POSTS) 1 else s
      (s.setTokVal p.slot p.node p.tok (v + p.n)).applyPosts false t

/-- The first post from each of some nodes to a counter, and the others. -/
def takePosts (slot node tok : Nat) : List Nat → List Post → List Post × List Post
  | [], l => ([], l)
  | n :: t, l =>
    let mine := fun (p : Post) => p.slot == slot && p.node == node && p.tok == tok && p.src == n
    match l.find? mine with
    | none => takePosts slot node tok t l
    | some p =>
      let r := takePosts slot node tok t ((l.takeWhile fun q => !mine q) ++
        (l.dropWhile fun q => !mine q).drop 1)
      (p :: r.1, r.2)

/-- R362: POST_APPLY: the posts of these nodes arrive at a counter in one cycle. Those of an entry
that is being stopped are drained and discarded (R381). -/
def execPostApply (slot : Fin 8) (node : Fin 9) (tok : Fin 64) (srcs : List (Fin 9)) (s : State) :
    SeqOut :=
  .next <|
    if s.running = false then s
    else
      let r := takePosts slot node tok ((upto 9).filter fun n => srcs.any fun x => x.val == n) s.posts
      let t := { s with posts := r.2 }
      match s.slot? slot with
      | none => t
      | some x =>
        if x.stop.isSome then t
        else (t.applyPosts false r.1).testWaits slot node tok

end Sys2Proof.Machine
end

