-- ==== Sys2Proof/Machine/Slots.lean ====
section
/-! DEFINITION. Execution slots (R529 to R535, R581, R582): mapping, prefetch, the segments of a
launch; the events that meet waits (R537, R538, R547); and the commit of entries (R616). -/

namespace Sys2Proof.Machine

abbrev SlotOut := Host.Outcome State Fault Refusal

/-! ### Mapping -/

/-- The streams that are RUNNABLE (R529). -/
def State.runnable (s : State) : List Nat :=
  (s.entries.map fun e => e.stream).eraseDups.filter fun st => s.streamState st == 3

/-- R531: priority descending, last mapping ascending, number ascending. -/
def State.mapBefore (s : State) (a b : Nat) : Bool :=
  let x := s.stream a
  let y := s.stream b
  decide (y.prio < x.prio) || (x.prio == y.prio &&
    (decide (x.lastMap < y.lastMap) || (x.lastMap == y.lastMap && decide (a < b))))

/-- R531: the candidates in order. -/
def State.candidates (s : State) : List Nat := sortBy s.mapBefore s.runnable

/-- The lowest-numbered free slot. -/
def State.freeSlot (s : State) : Option Nat := (upto 8).find? fun n => (s.slot? n).isNone

/-- R350, R581: the counters the head of a stream needs. -/
def entryToks (e : Entry) : List (Nat × Nat) :=
  match e.restored, e.kind, e.buf with
  | some r, _, _ => needToks (leAt r.image 0x82 2) (leAt r.image 0x84 1) (leAt r.image 0x85 1)
  | none, .launch l, _ => needToks l.lanes l.nCl l.nFe
  | none, _, some b => needToks b.lanes b.nCl b.nFe
  | none, _, none => []

/-- A lane at its start (R403). -/
def BufInfo.newLane (b : BufInfo) (n : Nat) : Nat × Lane := (n, Lane.start (b.laneStart n))

/-- R531: give a head its slot and counters. -/
def State.occupy (s : State) (n : Nat) (e : Entry) (lanes : List (Nat × Lane))
    (val : Nat → Nat → Nat) : State :=
  let s := s.setStream e.stream { s.stream e.stream with lastMap := s.mapSeq }
  let s := { s with mapSeq := (s.mapSeq + 1) % 2 ^ 64 }
  (s.setSlot n (some ⟨e.stream, e.idx, lanes, none, none⟩)).allocToks n (entryToks e) val

/-- R531, R533, R845: map a head that has its buffer, with its lanes as prefetch has staged them. -/
def State.mapPlain (s : State) (n : Nat) (e : Entry) (b : BufInfo) : State :=
  let lanes := b.present.map fun k =>
    match e.staged.find? fun x => x.1 == k with
    | some x => x
    | none => b.newLane k
  match e.kind with
  | .launch _ => (s.setEntry { e with staged := [] }).occupy n e lanes fun _ _ => 0
  | _ =>
    let r := s.captureElastic e.stream
    (r.1.setEntry { e with staged := [], buf := some { b with elastic := r.2 } }).occupy n e lanes
      fun _ _ => 0

/-! ### Mapping a restored target -/

/-- R626: the number of bytes of a tile's payload in a TILES section, and of its header. -/
def tileSecBytes : Nat := 49216

/-- R626: the 15 bytes that describe a slot in a tile's header (log entry 46). -/
def slotHeadBytes (a16 : Bool) (x : TileSlot) : List Byte :=
  leBytes 1 (x.fold + 8 * b2n (!x.fmt.getD a16)) ++ leBytes 2 x.tag ++ leBytes 4 x.originI ++
  leBytes 4 x.originJ ++ leBytes 2 x.rows ++ leBytes 2 x.cols

/-- R626: one cell over all slots: the 64-bit file, then the shifts and inexact bits. -/
def cellBytes (t : Tile) (e : Nat) : List Byte :=
  let w := if t.a16 then 16 else 32
  let c := fun j => (t.slot j).cell t.a16 e
  leBytes 8 ((upto t.count).foldl (fun m j => m + unsignedOf w (c j).v * 2 ^ (w * j)) 0) ++
  leBytes 4 ((upto t.count).foldl (fun m j => m + ((c j).s + 32 * b2n (c j).i) * 2 ^ (6 * j)) 0)

/-- R626: a tile as a TILES section holds it. -/
def Tile.saved (t : Tile) : List Byte :=
  leBytes 2 0x7A1F ++ leBytes 1 (b2n t.a16) ++
  ((upto 4).flatMap fun j => slotHeadBytes t.a16 (t.slot j)) ++ leBytes 1 0 ++
  (upto 4096).flatMap fun e => cellBytes t e

/-- R629: slot `j` of a saved tile. -/
def savedSlot (a16 : Bool) (l : List Byte) (j : Nat) : TileSlot :=
  let w := if a16 then 16 else 32
  let h := 3 + 15 * j
  let cell := fun e =>
    let x := leAt l (64 + 12 * e) 8 / 2 ^ (w * j) % 2 ^ w
    let y := leAt l (72 + 12 * e) 4 / 2 ^ (6 * j)
    CellVal.mk (signedOf w x) (y % 32) (bitOf y 5)
  { junk := none, fmt := some (leAt l h 1 / 8 % 2 == 0), cells := SMap.build (cellD a16 none) cell 0 4096, fold := leAt l h 1 % 8,
    originI := leAt l (h + 3) 4, originJ := leAt l (h + 7) 4, rows := leAt l (h + 11) 2,
    cols := leAt l (h + 13) 2, tag := leAt l (h + 1) 2 }

/-- R629: the tile that a TILES section holds. -/
def savedTile (l : List Byte) : Tile :=
  let a16 := leAt l 2 1 == 1
  (upto (if a16 then 4 else 2)).foldl (fun (t : Tile) j => t.setSlot j (savedSlot a16 l j))
    ⟨a16, []⟩

/-- R629: load the tile files, and the plate store with PLATE, of a cluster. -/
def State.loadCluster (s : State) (area : List Byte) (secs : List (Nat × Nat × Nat)) (cl : Nat) :
    State :=
  let s := match sectionAt secs 64 2 cl with
    | some o => (upto 16).foldl (fun s t =>
        s.setTile cl t (savedTile ((area.drop (o + tileSecBytes * t)).take tileSecBytes))) s
    | none => s
  match sectionAt secs 64 3 cl with
  | some o => (s.writeLocal (2 ^ 44 + 2 ^ 24 * cl) ((area.drop o).take plateSize)).1
  | none => s

/-- R629: relocate the saved registers of a lane against the entry's generation. -/
def Ctx.loadRegs (c : Ctx) (e : OpEnv) (sec : List Byte) : Ctx × SMap (Option DReg) :=
  (upto 32).foldl (fun (a : Ctx × SMap (Option DReg)) i =>
    if a.1.err.isSome || !bitOf (leAt sec 4 4) i then a
    else
      let r := a.1.loadDesc e 0 ((sec.drop (64 + 64 * i)).take 64)
      (r.1, SMap.set (fun _ => (none : Option DReg)) a.2 i r.2)) (c, [])

/-- R629: a saved lane. One stopped at a CHECKPOINT resumes there, and completes it. -/
def Ctx.loadLane (c : Ctx) (e : OpEnv) (b : BufInfo) (sec : List Byte) (cp lanes : Nat) :
    Ctx × Lane :=
  let r := c.loadRegs e sec
  let pc := leAt sec 0 4
  if leAt sec 8 2 = 0 then
    let w := r.1.bufRead b pc 32
    (w.1, { Lane.start pc with
      drs := r.2, cp := cp, block := some (.checkpoint cp lanes), word := ofLeBytes w.2 })
  else (r.1, { Lane.start pc with drs := r.2, cp := cp })

/-- What fetching the buffer of a restored target finds. -/
inductive Refetched where
  | wait
  | fault (s : State) (f : FaultInfo)
  | ok (s : State) (e : Entry) (b : BufInfo)
  deriving Repr

/-- R596, R629: bind again the segments of a launch that were bound when it was saved. -/
def State.rebind (s : State) (v : View) (e : Entry) (r : Restored)
    (secs : List (Nat × Nat × Nat)) : List Nat → Launch → List BufInfo → Refetched
  | [], l, done =>
    match done with
    | b :: t => .ok s { e with kind := .launch { l with ahead := t }, buf := some b } b
    | [] => .wait
  | seg :: t, l, done =>
    let n := (s.chart l.chart).nparam
    let saved := match sectionAt secs 64 4 seg with
      | some o => savedParams r.area o n
      | none => fun _ => none
    match s.bindSeg v { e with kind := .launch { l with ahead := done } } l seg saved with
    | .wait => .wait
    | .fault s f => .fault s f
    | .done s b l => s.rebind v e r secs t l (done ++ [b])

/-- R629: fetch and, under Direct dispatch, seal the buffer of a restored target. -/
def State.refetch (s : State) (v : View) (e : Entry) (r : Restored) : Refetched :=
  match e.kind with
  | .launch l =>
    let n := 1 + leAt r.image 0x106 2
    s.rebind v { e with kind := .launch { l with named := [] } } r (s.sectionsOf r.image) ((upto n).map fun i => l.seg + i) l []
  | _ =>
    match s.readBuf v e r.bufR with
    | .stall => .wait
    | .fault s f _ => .fault s f
    | .ok s b _ =>
      let k := s.captureElastic e.stream
      let b := { b with elastic := k.2 }
      if b.direct then
        match k.1.sealBuf v e b with
        | .noRoom | .stall => .wait
        | .fault s f => .fault s f
        | .done s b => .ok s { e with buf := some b } b
      else .ok k.1 { e with buf := some b } b

/-- R189, R639: an operation is in progress on the tiles of a cluster; one that repeats is so between
its repetitions too. -/
def State.tilesInUse (s : State) (lanes : Nat) : Bool :=
  (upto 8).any fun cl => bitOf lanes cl && s.ops.any fun o =>
    o.node == cl && (o.begun || o.issued || decide (0 < o.rep)) && o.tileMask != 0

/-- R629: map a restored target to a slot, with its counters set from TOKENS. Its lanes follow once its
state is loaded. -/
def State.mapRestored (s : State) (n : Nat) (e : Entry) (r : Restored) : State :=
  s.occupy n e [] fun node t => leAt r.image (0x590 + 2 * (64 * node + t)) 2

/-- R629, R639: load the state of a restored target that holds slot `n`, once no operation is in
progress on its tiles: its buffer, tiles, plate store and lanes. `s` while it must wait. -/
def State.loadRestored (s : State) (v : View) (n : Nat) (e : Entry) (r : Restored) : State :=
  let lanes := leAt r.image 0x82 2
  let secs := s.sectionsOf r.image
  let was := s
  if s.tilesInUse lanes || s.faulted e.idx then s
  else
    match s.refetch v e r with
    | .wait => s
    | .fault s f => s.raise e.idx f
    | .ok s e' b =>
      let s := (upto 8).foldl (fun s cl =>
        if bitOf lanes cl then s.loadCluster r.area secs cl else s) s
      let q := ((upto 9).filter fun k => bitOf b.lanes k).foldl
        (fun (a : Ctx × List (Nat × Lane)) node =>
          match sectionAt secs 64 1 node with
          | some o =>
            let x := a.1.loadLane (s.opEnv e' b node) b ((r.area.drop o).take 2112)
              (leAt r.image 0x86 2) (leAt r.image 0x88 2)
            (x.1, a.2 ++ [(node, x.2)])
          | none => (a.1, a.2 ++ [b.newLane node])) (Ctx.start s v [], [])
      let stopped := q.2.filter fun x => x.2.block.isSome
      if q.1.stall then was
      else
        let s := q.1.s.setEntry { e' with restored := none }
        match s.slot? n, q.1.err with
        | none, _ => s
        | some _, some x => s.raise e.idx (s.opFault x 0xFF 0xFFFFFFFF 0 0 0)
        | some y, none =>
          stopped.foldl (fun s (x : Nat × Lane) => s.laneDone n x.1)
            (s.setSlot n (some { y with lanes := q.2 }))

/-- R629: a restored target in a slot whose state is still to be loaded. -/
def State.loadOne (s : State) (v : View) (n : Nat) : State :=
  match (s.slot? n).bind fun x => if x.stop.isNone then s.entry? x.entry else none with
  | some e =>
    match e.restored with
    | some r => s.loadRestored v n e r
    | none => s
  | none => s

/-- R531: consider one candidate. -/
def State.mapOne (s : State) (v : View) (st : Nat) : State :=
  match s.freeSlot, s.head? st with
  | some n, some e =>
    if s.toksFree (entryToks e) = false then s
    else
      match e.restored, e.buf with
      | some r, _ => (s.mapRestored n e r).loadOne v n
      | none, some b => s.mapPlain n e b
      | none, none => s
  | _, _ => s

/-- R531: SLOT_MAP. A restored target that has waited for its tiles, for seal space or for host memory
goes on first (R639). -/
def execSlotMap (v : View) (s : State) : SlotOut :=
  .next <|
    if s.running then
      let s := (upto 8).foldl (fun s n => s.loadOne v n) s
      s.candidates.foldl (fun s st => s.mapOne v st) s
    else s

/-! ### Prefetch -/

/-- R533: the buffers of a stream to prefetch: the next two of a stream that holds a slot, or the
head of one of the first eight other RUNNABLE or PARKED streams. -/
def State.prefetchOf (s : State) (st : Nat) : List Entry :=
  let mine := s.entries.filter fun e => e.stream == st
  if (upto 8).all fun n => (s.slot? n).isNone then []
  else
    match s.streamState st with
    | 4 => ((mine.drop 1).filter fun e => e.takesSlot).take 2
    | 2 | 3 =>
      let others := (s.entries.map fun e => e.stream).eraseDups.filter fun x =>
        s.streamState x == 2 || s.streamState x == 3
      if ((sortBy s.mapBefore others).take 8).contains st then
        (mine.take 1).filter fun e => e.takesSlot
      else []
    | _ => []

/-- R533: relocate operations of a lane into staging, at most `n`. Answers also where a read failed. An
operation that fails its checks is left: it faults where it is relocated to run (R417). -/
def Ctx.stageOps (c : Ctx) (e : OpEnv) (l : Lane) : Nat → Ctx × Lane × Option (Nat × AccErr)
  | 0 => (c, l, none)
  | n + 1 =>
    match c.relocNext e l fun _ => true with
    | .ok c l => c.stageOps e l n
    | .unread c ofs x => (c, l, some (ofs, x))
    | .none | .fault _ _ _ _ _ => (c, l, none)

/-- R533: the first 4 KiB of a lane in staging, and under Central dispatch up to 8 operations
relocated. -/
def Ctx.stageLane (c : Ctx) (e : OpEnv) (node : Nat) : Ctx × Lane × Option (Nat × AccErr) :=
  let l := Lane.start (e.buf.laneStart node)
  let r := c.fetchPiece e.buf node l.pc
  if r.1.stall then (c, l, none)
  else
    match r.1.err with
    | some x => (r.1, l, some (l.pc, x))
    | none =>
      let l := { l with piece := some r.2 }
      if e.buf.sealAt.isSome then (r.1, l, none) else r.1.stageOps e l 8

/-- R600: a fault of an admitted entry before it runs: raised at once at the head of its stream, else
when the entry becomes head. -/
def State.entryFault (s : State) (e : Entry) (f : FaultInfo) : State :=
  if e.active then s.raise e.idx f
  else
    match s.entry? e.idx with
    | some x => s.setEntry { x with fault := some (x.fault.getD f) }
    | none => s

/-- R533, R663: prefetch a buffer into staging, lane by lane; a failed read is a fault of its
entry. -/
def State.prefetchBuf (s : State) (v : View) (e : Entry) : State :=
  match e.buf with
  | some b =>
    if e.prefetched || e.fault.isSome || s.faulted e.idx then s
    else
      let q := b.present.foldl
        (fun (a : Ctx × List (Nat × Lane) × Option FaultInfo) node =>
          if a.2.2.isSome then a
          else
            let r := a.1.stageLane (a.1.s.opEnv e b node) node
            (r.1, a.2.1 ++ [(node, r.2.1)], r.2.2.map fun x => r.1.s.opFault x.2 node x.1 0 0 0))
        (Ctx.start s v [], [], none)
      let t := q.1.s.setEntry { e with prefetched := true, staged := q.2.1 }
      match q.2.2 with
      | some f => t.entryFault e f
      | none => t
  | none => s

/-- R533: PREFETCH. -/
def execPrefetch (stream : Fin 512) (s : State) (v : View := View.none) : SlotOut :=
  .next <|
    if s.running then (s.prefetchOf stream).foldl (fun s e => s.prefetchBuf v e) s else s

/-! ### Waits and times -/

/-- R547: NOT_BEFORE_REACHED. -/
def execNotBeforeReached (stream : Fin 512) (s : State) : SlotOut :=
  .next <|
    match s.head? stream with
    | some e =>
      match e.notBefore with
      | some t =>
        if s.running && e.active && decide (t ≤ s.ns) then s.setEntry { e with due := true } else s
      | none => s
    | none => s

/-- R538: an unmet wait holds a watch on a pennant. -/
def State.watched (s : State) (u : Nat) : Bool :=
  (s.entries.any fun e => e.active && e.waits.any fun w => w.addr == u && w.watch && !w.met) ||
  (s.pennantLanes u).any fun x =>
    match x.2.2.block with
    | some (.pennant _ _ _ _ w) => w
    | _ => false

/-- R538: WATCH_REREAD. -/
def execWatchReread (uda : BitVec 48) (s : State) : SlotOut :=
  .next (if s.running && isLocal uda.toNat && s.watched uda.toNat then
      s.readPennant uda.toNat fun w => w
    else s)

/-- R511: a host pennant read is outstanding no longer. -/
def State.dropPenRead (s : State) (u : Nat) : State :=
  { s with ring := { s.ring with penReads := s.ring.penReads.filter fun x => x.1 != u } }

/-- R512, R537, R538: HOST_PENNANT_READ_RETURN. A failed one is repeated at the next poll (R663). -/
def execHostPennantReadReturn (uda : BitVec 48) (word : Word64) (fail : Option ReadFail) (s : State) :
    SlotOut :=
  .next <|
    let u := uda.toNat
    match s.ring.penReads.find? fun x => x.1 == u with
    | none => s
    | some p =>
      if s.running = false ∨ s.noTimeout fail = true then s
      else
        let s := s.dropPenRead u
        match fail with
        | some x => ((s.hostErr (readStatus x) (s.iova u)).pollEnd).flushHeld
        | none =>
          let old := s.ring.penSeen.find? fun x => x.1 == u
          let new := p.2 && (match old with
            | some x => x.2 != word.toNat
            | none => false)
          let s := { s with ring := { s.ring with
            penSeen := (s.ring.penSeen.filter fun (x : Nat × Nat) => x.1 != u) ++ [(u, word.toNat)]
            news := s.ring.news || new } }
          ((s.observe u word.toNat fun _ => true).pollEnd).flushHeld

/-! ### Segments of a launch -/

/-- R397: every present lane of the buffer in a slot has finished. -/
def State.bufDone (s : State) (n : Nat) (x : ExecSlot) (b : BufInfo) : Bool :=
  !s.slotHalted x && x.cutting.isNone && !(s.ops.any fun o => o.slot == n) &&
    !(s.posts.any fun p => p.slot == n) &&
    x.lanes.all fun l => l.2.block.isNone && decide (b.laneEnd l.1 ≤ l.2.pc)

/-- The launch that runs in a slot. -/
def State.launchIn (s : State) (n : Nat) : Option (ExecSlot × Entry × Launch) :=
  match s.slot? n with
  | none => none
  | some x =>
    match s.entry? x.entry with
    | none => none
    | some e =>
      match e.kind with
      | .launch l => some (x, e, l)
      | _ => none

/-- R582: SEGMENT_BIND: the next unbound segment of a running launch, at most two ahead (R533). -/
def execSegmentBind (stream : Fin 512) (v : View) (s : State) : SlotOut :=
  .next <|
    match ((s.head? stream).bind fun e => s.slotOf e.idx).bind fun n => s.launchIn n with
    | none => s
    | some (x, e, l) =>
      let seg := l.seg + 1 + l.ahead.length
      if s.running && !s.slotHalted x && e.restored.isNone && decide (seg < l.nseg) &&
          decide (l.ahead.length < 2) then
        match s.bindSeg v e l seg (fun _ => none) with
        | .wait => s
        | .fault s f => s.raise e.idx f
        | .done s b l => s.setEntry { e with kind := .launch { l with ahead := l.ahead ++ [b] } }
      else s

/-- R581: SEGMENT_ADVANCE. -/
def execSegmentAdvance (slot : Fin 8) (s : State) : SlotOut :=
  .next <|
    match s.launchIn slot with
    | none => s
    | some (x, e, l) =>
      match e.buf, l.ahead with
      | some b, nb :: t =>
        if s.running && s.bufDone slot x b then
          let s := s.setEntry { e with
            kind := .launch { l with seg := l.seg + 1, ahead := t }, buf := some nb }
          let s := s.setSlot slot (some { x with lanes := nb.present.map nb.newLane })
          { s with toks := s.toks.map fun (y : Nat × Tok) =>
              if y.2.alloc = true ∧ y.2.slot = slot.val then (y.1, { y.2 with value := 0 }) else y }
        else s
      | _, _ => s

/-! ### Context images -/

/-- R516: the bytes of a signal. -/
def SigRec.bytes (g : SigRec) : List Byte :=
  leBytes 8 (g.addr + 2 ^ 63 * b2n g.max) ++ leBytes 8 g.value

/-- R625: an image, its CRC filled in. -/
def sealImage (l : List Byte) : List Byte :=
  let z := l.take 0x10 ++ leBytes 4 0 ++ l.drop 0x14
  l.take 0x10 ++ leBytes 4 (crc32c z) ++ l.drop 0x14

/-- R625: the first 128 bytes of an image. -/
def State.imageHead (s : State) (st kind area areaBytes areaCrc : Nat) (g : Gen) :
    List Byte :=
  let x := s.stream st
  leBytes 2 0x7A5C ++ leBytes 1 1 ++ leBytes 1 kind ++ leBytes 2 st ++ leBytes 1 x.prio ++
  leBytes 1 x.domain ++ leBytes 8 s.ns ++ leBytes 4 0 ++ leBytes 4 areaCrc ++ genBytes g ++
  leBytes 8 areaBytes ++ leBytes 8 area ++ leBytes 48 0

/-- R621, R625: the image of a boundary save. -/
def State.boundaryImage (s : State) (e : Entry) (cflags : Nat) (g : Gen) : List Byte :=
  sealImage (s.imageHead e.stream 0 0 0 0 g ++ leBytes 10 0 ++ leBytes 1 cflags ++
    List.replicate 3957 0)

/-! ### Commit -/

/-- R521, R616, R621, R628: COMMIT: the head of a stream has finished. -/
def execCommit (stream : Fin 512) (s : State) : SlotOut :=
  .next <|
    match s.head? stream with
    | none => s
    | some e =>
      if s.running = false ∨ s.faulted e.idx = true then s
      else
        match s.slotOf e.idx with
        | some n =>
          match s.slot? n, e.buf with
          | some x, some b =>
            let last := match e.kind with
              | .launch l => l.seg + 1 == l.nseg
              | _ => true
            if last && s.bufDone n x b then s.endCommitted e else s
          | _, _ => s
        | none =>
          if e.ready = false then s
          else
            match e.kind with
            | .waitOnly | .signalOnly => s.endCommitted e
            | .save image _ cf none g written =>
              if written then s.endCommitted e
              else (s.ownWrite image (s.boundaryImage e cf g)).1.endCommitted e
            | .restore _ _ img => if leAt img 3 1 = 1 then s else s.endCommitted e
            | _ => s

end Sys2Proof.Machine
end

