-- ==== Sys2Proof/Machine/Context.lean ====
section
/-! DEFINITION. Cut saves (R622 to R627): the cut, its image and state area, and what follows once
they are written. -/

namespace Sys2Proof.Machine

/-! ### The state area -/

/-- R626: a section: its header and payload. -/
def secBytes (ty n : Nat) (l : List Byte) : List Byte :=
  leBytes 1 ty ++ leBytes 1 0 ++ leBytes 2 n ++ leBytes 4 0 ++ leBytes 8 l.length ++ leBytes 48 0 ++ l

/-- R626, R627: the payload of a lane's section. A lane of the launch that the segment in progress
does not have counts as finished. -/
def lanePayload (l : Option Lane) (fin : Bool) : List Byte :=
  match l with
  | none => leBytes 8 0 ++ leBytes 2 1 ++ leBytes 2102 0
  | some l =>
    let mask := (upto 32).foldl (fun m i => m + b2n (drOf l.drs i).isSome * 2 ^ i) 0
    leBytes 4 l.pc ++ leBytes 4 mask ++
    leBytes 2 (if fin then 1 else match l.block with
      | some (.checkpoint _ _) => 0
      | _ => 2) ++ leBytes 54 0 ++
    (upto 32).flatMap fun i =>
      match drOf l.drs i with
      | some d => dregBytes d
      | none => leBytes 64 0

/-- R626: the bytes of a BIND section of a segment. -/
def bindPayload (nparam : Nat) (b : BufInfo) : List Byte :=
  (upto nparam).flatMap fun p => leBytes 8
    (((b.params.find? fun x => x.1 == p).map fun x => x.2.toNat).getD 0)

/-- R626: the state area of a target, or an uncorrectable word of its plate store. -/
def State.stateArea (s : State) (x : ExecSlot) (e : Entry) (b : BufInfo) (plate : Bool) :
    State × Option (List Byte) :=
  let lanes := match e.kind with
    | .launch l => l.lanes
    | _ => b.lanes
  let all := (upto 9).filter fun n => bitOf lanes n
  let cl := all.filter fun n => decide (n < 8)
  let laneSecs := all.map fun n =>
    let l := x.lane? n
    secBytes 1 n (lanePayload l (match l with
      | some l => decide (b.laneEnd n ≤ l.pc)
      | none => true))
  let tileSecs := cl.map fun n => secBytes 2 n ((upto 16).flatMap fun t => (s.tile n t).saved)
  let pl := if plate then
      cl.foldl (fun (a : State × Option (List (List Byte))) n =>
        let r := a.1.readLocal (2 ^ 44 + 2 ^ 24 * n) plateSize
        (r.1, match a.2, r.2 with
          | some t, some l => some (t ++ [secBytes 3 n l])
          | _, _ => none)) (s, some [])
    else (s, some [])
  let binds := match e.kind with
    | .launch l => ((b :: l.ahead).zipIdx).map fun y =>
        secBytes 4 (l.seg + y.2) (bindPayload (s.chart l.chart).nparam y.1)
    | _ => []
  (pl.1, pl.2.map fun p =>
    let secs := laneSecs ++ tileSecs ++ p ++ binds
    leBytes 2 0x7A5D ++ leBytes 2 secs.length ++ leBytes 60 0 ++ secs.flatten)

/-- R625: the values of a slot's counters. -/
def State.tokenBytes (s : State) (n : Nat) : List Byte :=
  (upto 9).flatMap fun node => (upto (if node = 8 then 32 else 64)).flatMap fun t =>
    leBytes 2 (s.tokVal n node t)

/-- R625: the image of a cut. -/
def State.cutImage (s : State) (n : Nat) (e : Entry) (b : BufInfo) (st area cflags cp lanes : Nat)
    (g : Gen) (l : List Byte) : List Byte :=
  let la := match e.kind with
    | .launch x => some x
    | _ => none
  let p := fun (f : Launch → Nat) (d : Nat) => match la with
    | some x => f x
    | none => d
  let body := s.imageHead st 1 area l.length (crc32c l) g ++
    leBytes 1 (if la.isSome then 2 else 1) ++ leBytes 1 e.sigs.length ++
    leBytes 2 (p (·.lanes) b.lanes) ++ leBytes 1 (p (·.nCl) b.nCl) ++ leBytes 1 (p (·.nFe) b.nFe) ++
    leBytes 2 cp ++ leBytes 2 lanes ++ leBytes 1 cflags ++ leBytes 5 0 ++ genBytes e.gen ++
    leBytes 8 0 ++
    ((upto 4).flatMap fun i => match e.sigs[i]? with
      | some g => g.bytes
      | none => leBytes 16 0) ++
    leBytes 2 (p (·.chart) 0) ++ leBytes 2 (p (·.version) 0) ++ leBytes 2 (p (·.seg) 0) ++
    leBytes 2 (p (fun x => x.ahead.length) 0) ++ leBytes 1160 0 ++ s.tokenBytes n ++
    leBytes 1584 0
  sealImage body

/-! ### The cut -/

/-- A save that is pending on a target that holds a slot: the save's entry, its fields, the slot
and the target (R622). -/
structure Cut where
  save : Entry
  image : Nat
  area : Nat
  cflags : Nat
  gen : Gen
  slot : Nat
  x : ExecSlot
  e : Entry
  b : BufInfo
  deriving Repr

/-- The pending save of a stream. -/
def State.cut? (s : State) (st : Nat) : Option Cut :=
  s.entries.findSome? fun v =>
    if v.stream = st then
      match v.kind with
      | .save image area cf (some t) g false =>
        match s.entry? t, s.slotOf t with
        | some e, some n =>
          match s.slot? n, e.buf with
          | some x, some b => some ⟨v, image, area, cf, g, n, x, e, b⟩
          | _, _ => none
        | _, _ => none
      | _ => none
    else none

/-- The CP_ID and LANES of the CHECKPOINTs at which lanes have stopped. -/
def ExecSlot.stopped (x : ExecSlot) : List (Nat × Nat) :=
  x.lanes.filterMap fun l =>
    match l.2.block with
    | some (.checkpoint cp lanes) => some (cp, lanes)
    | _ => none

/-- R623: the cut can be taken: every operation issued has completed and its posts are applied;
every lane in LANES is stopped or finished, and every other one finished. -/
def State.cutReady (s : State) (c : Cut) (lanes : Nat) : Bool :=
  !(s.ops.any fun o => o.slot == c.slot) && !(s.posts.any fun p => p.slot == c.slot) &&
  c.x.lanes.all fun l =>
    match l.2.block with
    | some (.checkpoint _ _) => bitOf lanes l.1
    | none => decide (c.b.laneEnd l.1 ≤ l.2.pc)
    | _ => false

/-- R623, R624: CUT_TAKEN: the image and then the state area are written. -/
def execCutTaken (stream : Fin 512) (s : State) : SlotOut :=
  .next <|
    match s.cut? stream with
    | none => s
    | some c =>
      if s.running = false ∨ s.slotHalted c.x = true ∨ c.x.cutting.isSome = true then s
      else
        match c.x.stopped with
        | [] => s
        | (cp, lanes) :: t =>
          if t.any fun y => y != (cp, lanes) then s.raise c.e.idx (s.plainFault .cutMismatch 0)
          else if s.cutReady c lanes = false then s
          else
            match s.stateArea c.x c.e c.b (bitOf c.cflags 2) with
            | (s, none) => s.raise c.e.idx (s.plainFault .eccUncorr 0)
            | (s, some l) =>
              let img := s.cutImage c.slot c.e c.b c.save.stream c.area c.cflags cp lanes c.gen l
              ((s.ownWrite c.image img).1.ownWrite c.area l).1.setSlot c.slot
                (some { c.x with cutting := some c.save.idx })

/-- R624: CONTEXT_IMAGE_WRITTEN: the target goes on from its CHECKPOINTs, or vacates its slot and
the save's signals are issued. -/
def execContextImageWritten (stream : Fin 512) (s : State) : SlotOut :=
  .next <|
    match s.cut? stream with
    | none => s
    | some c =>
      if s.running = false ∨ s.slotHalted c.x = true ∨ c.x.cutting ≠ some c.save.idx ∨
          (s.held.isEmpty || s.bme) = false then s
      else
        let s := s.setSlot c.slot (some { c.x with cutting := none })
        if bitOf c.cflags 1 then
          let s := s.dropEntry c.e false
          let s := s.setStream c.e.stream { s.stream c.e.stream with isolated := true }
          s.endCommitted c.save
        else
          let s := s.setEntry { c.save with
            kind := .save c.image c.area c.cflags (some c.e.idx) c.gen true }
          (c.x.lanes.filter fun l =>
            match l.2.block with
            | some (.checkpoint _ _) => true
            | _ => false).foldl (fun s (l : Nat × Lane) => s.laneDone c.slot l.1) s

end Sys2Proof.Machine
end

