-- ==== Sys2Proof/Machine/Reset.lean ====
section
/-! DEFINITION. Resets: the sequence of R617 and R670, its purge (R344, R936), the rejoining of the
fabric, configuration space across resets (R670), and the fundamental reset (R673). -/

namespace Sys2Proof.Machine

abbrev ResetOut := Host.Outcome State Fault Refusal

/-! ### The start of a reset -/

/-- R721, R737: GOODBYE on every port that is up. -/
def State.allGoodbye (s : State) : State := (upto 6).foldl (fun s p => s.goodbye p none) s

/-- R638: an image whose writing a reset cuts off is undefined, and fails its CRC check: free bytes, but
for a CRC field that is not theirs. A host image has left the device. -/
def State.spoilImage (s : State) (u : Nat) : State :=
  if s.inDram u 4096 then
    let l := freeBytes s.fresh (List.replicate 4096 0)
    let k := crc32c (l.take 0x10 ++ leBytes 4 0 ++ l.drop 0x14)
    let bad := (k + 1 + Config.freeNat s.fresh 4096 % (2 ^ 32 - 1)) % 2 ^ 32
    (s.rawWrite u (l.take 0x10 ++ leBytes 4 bad ++ l.drop 0x14)).bumpFresh
  else s

/-- R638: the cut saves whose image and state area are being written. -/
def State.spoilCuts (s : State) : State :=
  ((upto 512).filterMap s.cut?).foldl (fun s c =>
    if c.x.cutting = some c.save.idx then
      (s.spoilImage c.image).havoc c.area (s.areaSize c.e (bitOf c.cflags 2))
    else s) s

/-- R253, R619: the operations that have begun are abandoned: what they write is undefined. -/
def State.abandonOps (s : State) : State :=
  (s.ops.filter fun o => o.begun).foldl (fun s o => s.abandon o) s

/-- R617 steps 2 and 3, R670, R678: a reset begins, or merges into the one in progress. Nothing
waiting for Bus Master Enable is sent any more, and a flash update is abandoned (R679). -/
def State.beginReset (s : State) (c : ResetCause) : State :=
  match s.resetPend with
  | some .fault => { s with resetPend := some c }
  | some _ => s
  | none =>
    let s := ({ s.spoilCuts.abandonOps with held := [] }).allGoodbye
    { s.abandonUpdate.bump Reg.FE_RESET_COUNT 1 with resetPend := some c }

/-! ### Configuration space -/

/-- R670: configuration dwords that a reset leaves: hardware-set ones, sticky AER bits with the header
log, and across an FLR the link controls, as PCIe keeps them (log entry 20). -/
def cfgKept (flr : Bool) (o : Nat) : Bool :=
  o == 0x2C || o == 0x7C || o == 0x9C || o == 0x14C || o == 0x150 ||
    (decide (0x104 ≤ o) && decide (o < 0x12C)) || (flr && (o == 0x80 || o == 0xA0))

/-- R670: configuration space after a reset. -/
def State.cfgAfter (s : State) (flr : Bool) : State :=
  let mps := s.cfgD 0x78 &&& 0xE0
  let s := { s with cfg := s.cfg.filter fun x => cfgKept flr x.1 }
  let d := BitVec.ofNat 32 (putBits (s.cfgD 0x78) 7 5 (mps / 32))
  if flr then { s with cfg := SMap.set cfgReset s.cfg 0x78 d } else s

/-- R670, R674: a reset that the PCIe side starts, with what it does there. -/
def State.pcieResetBy (s : State) (c : ResetCause) : State :=
  if s.perst then s
  else
    let s := s.beginReset c
    match c with
    | .fault => s
    | .flr => s.cfgAfter true
    | .d3hot =>
      let s := s.cfgAfter true
      { s with cfg := SMap.set cfgReset s.cfg 0x44 3 }
    | .hotReset | .linkDisable | .dlDown => s.cfgAfter false

/-! ### The purge -/

/-- R936, R837, R684: registers kept across the purge; `fault`: a fault alone caused it. -/
def keptReg (fault : Bool) (o : Nat) : Bool :=
  (decide (Reg.MEM_CE_PS ≤ o) && decide (o ≤ Reg.MEM_TELEM_DROP)) ||
  o == Reg.FE_FAULT_LOST || o == Reg.FE_RESET_COUNT ||
  (decide (0x40000 ≤ o) && decide (o < 0x50000)) ||
  (decide (0x70000 ≤ o) && decide (o < 0x80000)) ||
  (fault && (o == Reg.HI_NOTICE_EN || o == Reg.HI_NOTICE_MAP0 || o == Reg.HI_NOTICE_MAP1))

/-- R935: registers whose fields of type RO report live hardware state, or what it last saw of it. -/
def liveReg (o : Nat) : Bool :=
  o == Reg.HI_BOOT || o == Reg.HI_LINK || o == Reg.PWR_OP || o == Reg.PWR_GOV ||
  o == Reg.MEM_REFRESH || o == Reg.PWR_P_MW || o == Reg.PWR_AVG_MW || o == Reg.PWR_THERM || o == Reg.PWR_PMB_CFG ||
  (decide (Reg.PWR_TJ ≤ o) && decide (o < Reg.PWR_TJ + 48)) || o == Reg.PIN_STATUS ||
  o == Reg.FAB_EPOCH || o == Reg.FAB_INCARNATION ||
  (decide (0x31000 ≤ o) && decide (o < 0x31600) &&
    (o % 256 == 4 || (decide (0x38 ≤ o % 256) && decide (o % 256 < 0x50)) || o % 256 == 0x58))

/-- A dword after the purge: its post-almanac value, with the RO fields of a live register as they
are. -/
def State.purgedDword (s : State) (fault : Bool) (o : Nat) : Nat :=
  let post := (SMap.get regReset s.postAlm o).toNat
  if keptReg fault o then s.reg o
  else if liveReg o then
    match regAt o with
    | some (r, _, _, high) =>
      (dwordFields r high).foldl (fun (v : Nat) f =>
        if f.ty = .ro then putBits v f.hi f.lo (bits (s.reg o) f.hi f.lo) else v) post
    | none => post
  else post

/-- R617, R936: every register after the purge. Before READY no software write has reached one, and
they stay. -/
def State.purgeRegs (s : State) (fault : Bool) : State :=
  if s.ready = false then s
  else
    ((s.regs ++ s.postAlm).map fun x => x.1).foldl (fun (t : State) o =>
      t.setReg o (s.purgedDword fault o)) s

/-- R617, R906: pins return to their post-almanac functions. -/
def State.purgePins (s was : State) : State :=
  (upto 12).foldl (fun (s : State) n =>
    let f := s.mux n
    let old := was.mux n
    let s := s.setReg (muxReg n) (was.reg (muxReg n))
    match s.park n with
    | some k => { s with parks := SMap.set State.parkD s.parks n (some { k with next := some f }) }
    | none => if f = old then s else s.startSwitch n f) { s with muxWait := none }

/-- A port with its buffers and sequence state purged (R737). -/
def Port.purged (x : Port) : Port :=
  { x with
    txSeq := 0, rxE := 0, rxValid := false, sentValid := false, retry := [], nacked := false,
    credit := [0, 0, 0], crSeen := [0, 0, 0], rel := [0, 0, 0], mgtq := [], good := false,
    old := 0, misses := 0, todo := 0, init := none, gotSeen := false, hello := none }

/-- Every port purged. -/
def portsPurged (l : SMap Port) : SMap Port :=
  (l.map fun x => (x.1, x.2.purged)).filter fun x => decide (x.2 ≠ Port.init₀)

/-- R617 step 6, R742: rejoin the fabric with a new incarnation; the ports take their post-almanac
enables, whose effect is that of a write. `was`: the state before the purge. -/
def State.rejoin (s was : State) : State :=
  let s := s.setReg Reg.FAB_INCARNATION
    (if s.incarnation + 1 = 2 ^ 32 then 1 else s.incarnation + 1)
  let s := (({ s with fab := Fabric.init }).setReg Reg.FAB_TIME_PARENT 16).setReg Reg.FAB_TIME_BOUND 0
  let en := (upto 6).map fun p => bitOf (s.reg (lk p Reg.FAB_LINK_CTRL)) 0
  let s := if en.any fun b => b then (s.setReg Reg.FAB_STATE 1).advanceEpoch none
    else s.setReg Reg.FAB_STATE 0
  (upto 6).foldl (fun (s : State) p =>
    s.linkCtrl p (bitOf (was.reg (lk p Reg.FAB_LINK_CTRL)) 0)) s

/-- R344: whether a stored word lies in the plate store. -/
def plateWord (w : Nat) : Bool := regionOf (8 * w) == .plate

/-- R617 step 5, R344: compute, front end and plate store are purged; DRAM is kept. -/
def State.purgeState (s : State) : State :=
  { s with
    bar0 := PathState.init, smbPath := PathState.init, fePath := PathState.init,
    plate := Mem.zero, ecc := s.ecc.filter (fun e => !plateWord e.1),
    corrQ := s.corrQ.filter (fun l => !plateWord (8 * l)),
    tiles := [], ops := [], posts := [], toks := [],
    ring := { Ring.init with faultSeq := s.ring.faultSeq },
    streams := [], entries := [], slots := [], mapSeq := 1, prog := [], faults := [], gens := [],
    hcopy := none, charts := [], pendSigs := [], rmt := [], router := [], pairs := [], tgts := [],
    held := [], ephRun := none, rearm := s.rearm.filter (fun x => x != 0), sealBase := 0,
    sealSize := 0, past := [], stepped := [],
    ports := portsPurged s.ports,
    pwr := { s.pwr with cross := [0, 0], telemQ := [] } }

/-- R667, R684: the MSI-X table and its pending bits return to their reset values. -/
def State.purgeMsix (s : State) : State := { s with msixTab := [], pba := 0, msixReq := [] }

/-- R617 steps 5 and 6, R665: RESET_PURGE. -/
def execResetPurge (s : State) : ResetOut :=
  .next <|
    match s.resetPend with
    | none => s
    | some c =>
      if s.alive = false then s
      else
        let fault := decide (c = .fault)
        let t := (s.purgeState.purgeRegs fault).purgePins s
        let t := if fault then t else t.purgeMsix
        let t : State := if t.ready then ({ t with resetPend := none }).rejoin s
          else { t with resetPend := none }
        if fault then t.notice 1 else t

/-! ### The fundamental reset -/

/-- R673, R742, R935: every register at its reset value and the whole state as after reset. What
PERST_N does not reach: the queue, the fuses, the flash, the JTAG port, the levels that the board
drives, and the model's own counters and record. The vendor debug TAP closes, as no almanac copy is
chosen any more (R912). -/
def State.fundamental (s : State) : State :=
  if s.perst then s
  else
    let t := { State.reset with
      pending := s.pending, cycle := s.cycle, fresh := s.fresh, out := s.out, flash := s.flash,
      svnFloor := s.svnFloor, tap := { s.tap with debug := false }, balls := s.balls }
    if s.smbAlert then t.emit (.pin "SMB_ALERT_N" true) else t

/-- R673: PERST_N is asserted for `us` µs; less than 100 µs has no defined effect. -/
def execPerstN (us : Nat) (s : State) : ResetOut :=
  if us < 100 then .fault .shortPerst else .next s.fundamental

/-- R913: 200 ns without a REFCLK edge. -/
def execRefclkLoss (s : State) : ResetOut := .next s.fundamental

/-- R914: PWR_GOOD falls. -/
def execPwrGoodFall (s : State) : ResetOut := .next s.fundamental

/-! ### The commands that start a reset -/

/-- R670: FLR. -/
def execFlr (s : State) : ResetOut := .next (s.pcieResetBy .flr)

/-- The link is down: HI_LINK shows none (R684). -/
def State.hostLinkDown (s : State) : State := if s.perst then s else s.setReg Reg.HI_LINK 0

/-- R670: a hot reset. -/
def execHotReset (s : State) : ResetOut := .next (s.pcieResetBy .hotReset).hostLinkDown

/-- R670: the link is disabled. -/
def execLinkDisable (s : State) : ResetOut := .next (s.pcieResetBy .linkDisable).hostLinkDown

/-- R670: the link goes to DL_Down. -/
def execDlDown (s : State) : ResetOut := .next (s.pcieResetBy .dlDown).hostLinkDown

/-- R674: the function enters D3hot. -/
def execD3hotEntry (s : State) : ResetOut := .next (s.pcieResetBy .d3hot)

end Sys2Proof.Machine
end

