-- ==== Sys2Proof/Machine/Router.lean ====
section
/-! DEFINITION. The router (R757 to R766): forwarding and injection of packets, the target side of
remote operations (R767, R768), and the source's resends and refusals (R771, R772). -/

namespace Sys2Proof.Machine

/-- Request packets (R765). -/
def Pkt.isReq (k : Pkt) : Bool := decide (k.ptype < 0x40)

/-- Packets of the management channel, which the router does not route. -/
def Pkt.isMgt (k : Pkt) : Bool := k.ptype == 0x40 || k.ptype == 0x41

/-- R768: `x` comes before `y` in pair order. -/
def pairBefore (x y : Nat) : Bool :=
  let d := (y + 2 ^ 32 - x % 2 ^ 32) % 2 ^ 32
  decide (1 ≤ d) && decide (d ≤ 2 ^ 31)

/-- R764: an answer to a packet. -/
def State.answerPkt (s : State) (k : Pkt) (ptype status pseq : Nat) (data : List Byte) : Pkt :=
  { from? := none, sp16 := false, sat := 0, ptype := ptype, nflags := 0, dst := k.src, src := s.ownAddr,
    dlen := data.length, epoch := s.reg Reg.FAB_EPOCH, pseq := pseq, off := k.off,
    inc := s.incarnation, tag := k.tag, status := status, hops := 0, data := data }

/-- Answer a packet: the answer joins the router. -/
def State.answer (s : State) (k : Pkt) (ptype status pseq : Nat) (data : List Byte) : State :=
  { s with router := s.router ++ [s.answerPkt k ptype status pseq data] }

/-- Discard a packet taken from the router; a request is answered by a NACK (R750, R766). -/
def State.dropPkt (s : State) (k : Pkt) (status : Nat) : State :=
  let s := s.releasePkt k
  if k.isReq then s.answer k 0x8F status k.pseq [] else s

/-- R750: a packet's epoch is older than the device's. -/
def State.stalePkt (s : State) (k : Pkt) : Bool := epochNewer (s.reg Reg.FAB_EPOCH) k.epoch

/-- R750: a packet may be forwarded or applied now. -/
def State.actsNow (s : State) (k : Pkt) : Bool :=
  s.fld Reg.FAB_STATE 1 0 == 3 && k.epoch == s.reg Reg.FAB_EPOCH

/-- Drop a stale packet (R750). -/
def State.dropStale (s : State) (k : Pkt) : State := (s.bump Reg.FAB_RMT_STALE 1).dropPkt k 2

/-- R771: an own new request waits until the resends to its target have been issued. -/
def State.awaitsProbe (s : State) (k : Pkt) : Bool :=
  k.from?.isNone && k.isReq && k.ptype != 0x05 && s.fab.probing.contains k.dst

/-- What the router does with a packet next. -/
inductive Hop where
  /-- Discard it as stale, as having gone too far, or as having no route. -/
  | stale | far | lost
  /-- Send it on a port with these NFLAGS. -/
  | send (port nflags : Nat)
  /-- It waits: for this device as its target, its epoch, a probe, or credit on a port. -/
  | wait (port : Option Nat)
  deriving DecidableEq, Repr

/-- R758: the link has room for a packet of its class. -/
def State.roomFor (s : State) (p nflags : Nat) (k : Pkt) : Bool :=
  let x := s.port p
  let reserve := 10 * (2 - nflags % 4)
  s.linkSt p == 5 && x.todo == 0 && decide (x.retry.length < 1024) &&
    decide (k.credits + reserve ≤ x.credits k.vc)

/-- R750, R757 to R766: the next hop of a packet. -/
def State.nextHop (s : State) (k : Pkt) : Hop :=
  if k.isMgt then .wait none
  else if s.stalePkt k then (if k.dst = s.ownAddr ∧ k.ptype = 0x05 then .wait none else .stale)
  else if s.actsNow k = false then .wait none
  else if k.dst = s.ownAddr then .wait none
  else if s.awaitsProbe k then .wait none
  else if 63 ≤ k.hops then .far
  else
    match s.route k with
    | none => .lost
    | some (p, nf) => if s.roomFor p nf k then .send p nf else .wait (some p)

/-- Find the first packet that the router can act on. A packet that waits for a port holds back
those after it on the same port and virtual channel, and those to the same destination, so that
R763 and R769 hold. -/
def State.scan (s : State) : List (Nat × Nat) → List Nat → List Pkt → List Pkt →
    Option (Pkt × Hop × List Pkt)
  | _, _, _, [] => none
  | ports, dsts, seen, k :: t =>
    match s.nextHop k with
    | .wait none =>
      s.scan ports (if s.awaitsProbe k then k.dst :: dsts else dsts) (seen ++ [k]) t
    | .wait (some p) => s.scan ((p, k.vc) :: ports) dsts (seen ++ [k]) t
    | .send p nf =>
      if ports.contains (p, k.vc) || (k.isReq && k.from?.isNone && dsts.contains k.dst) then
        s.scan ports dsts (seen ++ [k]) t
      else some (k, .send p nf, seen ++ t)
    | h => some (k, h, seen ++ t)

/-- Act on a packet. -/
def State.hop (s : State) (k : Pkt) : Hop → State
  | .stale => s.dropStale k
  | .far => (s.bump Reg.FAB_HOPS_DROP 1).dropPkt k 4
  | .lost => s.dropPkt k 4
  | .send p nf =>
    (s.sendData p k.vc (pktBytes { k with nflags := nf, hops := k.hops + 1 })).releasePkt k
  | .wait _ => s

/-- R757: the router sends its first packet that can go, or discards one. -/
def execPacketForward (s : State) : FabOut :=
  .next <|
    if s.alive = true ∧ s.fabOn = true then
      match s.scan [] [] [] s.router with
      | some (k, h, rest) => ({ s with router := rest }).hop k h
      | none => s
    else s

/-! ### The target -/

/-- What a request comes to at its target: STATUS, the bytes read, and how many words of an add
saturated (R246, R252). -/
structure Applied where
  s : State
  status : Nat
  data : List Byte
  sat : Nat
  deriving Repr

/-- R236, R245: an atomic add of the words of a request of `n` bytes each: read, replaced as `f`
says, and written back. -/
def State.applyAdd (s : State) (u n : Nat) (data : List Byte)
    (f : List Nat → List Nat → List Nat × Nat) : Applied :=
  if u % n ≠ 0 ∨ data.length % n ≠ 0 then ⟨s, 1, [], 0⟩
  else
    match s.readLocal u data.length with
    | (s, none) => ⟨s, 3, [], 0⟩
    | (s, some l) =>
      let r := f (wordsOf n l) (wordsOf n data)
      ⟨s.storeBack u (r.1.flatMap (leBytes n)), 0, [], r.2⟩

/-- Apply sp16_add to consecutive elements; answers the new ones and how many saturated. -/
def sp16Words : List Nat → List Nat → List Nat × Nat
  | x :: xs, y :: ys =>
    let r := sp16Add x y
    let t := sp16Words xs ys
    (r.1 :: t.1, b2n r.2 + t.2)
  | _, _ => ([], 0)

/-- R767: apply a request. -/
def State.applyReq (s : State) (k : Pkt) : Applied :=
  match s.targetOk k.off (if k.ptype = 0x01 then k.dlen else k.data.length) with
  | none => ⟨s, 1, [], 0⟩
  | some u =>
    if k.ptype = 0x01 then
      match s.readLocal u k.dlen with
      | (s, some l) => ⟨s, 0, l, 0⟩
      | (s, none) => ⟨s, 3, [], 0⟩
    else if k.ptype = 0x02 then
      let r := s.writeLocal u k.data
      ⟨r.1, if r.2 then 3 else 0, [], 0⟩
    else if k.ptype = 0x03 then
      if k.sp16 then s.applyAdd u 2 k.data sp16Words else s.applyAdd u 8 k.data a48Words
    else
      let v := ofLeBytes (k.data.take 8)
      let sg : SigRec := ⟨u, bitOf k.nflags 4, v % 2 ^ 63⟩
      if sg.max then
        match s.readLocal u 8 with
        | (s, none) => ⟨s, 3, [], 0⟩
        | (s, some l) =>
          ⟨s.storeBack u (leBytes 8 (pennantAfter (ofLeBytes l) sg (bitOf v 63))), 0, [], 0⟩
      else ⟨(s.writeLocal u (leBytes 8 (pennantAfter 0 sg (bitOf v 63)))).1, 0, [], 0⟩

/-- Answer a request as it was applied. -/
def Applied.answer (a : Applied) (k : Pkt) (rsp : Nat) : State :=
  { a.s with router := a.s.router ++ [{ (a.s.answerPkt k rsp a.status k.pseq a.data) with
    sat := a.sat }] }

/-- R768: the pair state of a source as a packet finds it. -/
def State.pairOf (s : State) (k : Pkt) : PairSeq :=
  let p := SMap.get State.pairD s.tgts k.src
  if p.inc = k.inc then p else ⟨0, k.inc⟩

/-- Store the pair state of a source. -/
def State.setPair (s : State) (src : Nat) (p : PairSeq) : State :=
  { s with tgts := SMap.set State.pairD s.tgts src p }

/-- R767, R768: the target acts on a request in pair order. -/
def State.serve (s : State) (k : Pkt) : State :=
  let p := s.pairOf k
  let rsp := if k.ptype = 0x01 then 0x81 else 0x82
  let s := s.releasePkt k
  if k.pseq = p.next ∧ bitOf k.nflags 3 = false then
    ((s.setPair k.src { p with next := (p.next + 1) % 2 ^ 32 }).applyReq k).answer k rsp
  else if k.pseq ≠ p.next ∧ pairBefore k.pseq p.next = false then
    (s.setPair k.src p).bump Reg.FAB_GAP_DROP 1
  else
    let s := s.setPair k.src p
    if k.ptype = 0x01 then (s.applyReq k).answer k rsp
    else s.answer k rsp 0 k.pseq []

/-- A packet at this device as its target. -/
def State.isMine (s : State) (k : Pkt) : Bool :=
  !k.isMgt && bitOf (s.reg Reg.FAB_STATE) 2 && k.dst == s.ownAddr && !s.awaitsProbe k

/-- The first request of each source; those behind it wait (R769). -/
def firstOfSrc (seen : List Nat) (mine : Pkt → Bool) (p : Pkt → Bool) :
    List Pkt → Option (Pkt × List Pkt)
  | [] => none
  | k :: t =>
    if mine k && k.isReq && !seen.contains k.src && p k then some (k, t)
    else
      match firstOfSrc (if mine k && k.isReq then k.src :: seen else seen) mine p t with
      | some (x, r) => some (x, k :: r)
      | none => none

/-- A request of one type at its target: dropped when stale, applied when its turn has come. -/
def State.serveType (s : State) (t : Nat) : State :=
  if s.running = true then
    match firstOfSrc [] s.isMine (fun k => k.ptype == t && (s.stalePkt k || s.actsNow k)) s.router with
    | none => s
    | some (k, rest) =>
      let s := { s with router := rest }
      if s.stalePkt k then s.dropStale k else s.serve k
  else s

/-- R767: READ. -/
def execRemoteRead (s : State) : FabOut := .next (s.serveType 0x01)
/-- R767: WRITE. -/
def execRemoteWrite (s : State) : FabOut := .next (s.serveType 0x02)
/-- R767: A48_ADD. -/
def execRemoteA48Add (s : State) : FabOut := .next (s.serveType 0x03)
/-- R767: HALYARD. -/
def execHalyard (s : State) : FabOut := .next (s.serveType 0x04)

/-- R771: a settled target answers a PROBE with NEXT. -/
def execProbe (s : State) : FabOut :=
  .next <|
    if s.running = true ∧ s.fld Reg.FAB_STATE 1 0 = 3 then
      match firstOfSrc [] s.isMine
          (fun k => k.ptype == 0x05 && (s.stalePkt k || s.actsNow k)) s.router with
      | none => s
      | some (k, rest) =>
        let p := s.pairOf k
        ((({ s with router := rest }).releasePkt k).setPair k.src p).answer k 0x85 0 p.next []
    else s

/-! ### The source -/

/-- Take the first answer of a kind that has come back; a stale one is dropped (R750). -/
def State.takeAnswer (s : State) (p : Nat → Bool) : Option (State × Option Pkt) :=
  match takeFirst (fun k => s.isMine k && p k.ptype && (s.stalePkt k || s.actsNow k)) s.router with
  | none => none
  | some (k, rest) =>
    let s := { s with router := rest }
    if s.stalePkt k then some (s.dropStale k, none)
    else some (s.releasePkt k, some k)

/-- The request that an answer is for. -/
def State.reqOf (s : State) (k : Pkt) : Option RmtReq :=
  s.rmt.find? fun r => r.tag % 65536 == k.tag && r.off == k.off

/-- R771: the requests of a pair to be resent, under the current epoch. -/
def State.resendPair (s : State) (dst next : Nat) : State :=
  let ep := s.reg Reg.FAB_EPOCH
  let old := s.rmt.filter fun r => r.dst == dst && r.epoch != ep
  let pk := old.map fun r => s.rmtPkt { r with epoch := ep } (pairBefore r.pseq next)
  let n := old.length
  ({ s with
    rmt := s.rmt.map fun (r : RmtReq) => if r.dst = dst then { r with epoch := ep } else r,
    fab := { s.fab with probing := s.fab.probing.filter fun d => d != dst },
    router := pk ++ s.router }).bump Reg.FAB_RMT_REPLAY n

/-- R771: the target's NEXT has come. -/
def execProbeRspReceived (s : State) : FabOut :=
  .next <|
    if s.running then
      match s.takeAnswer fun t => t == 0x85 with
      | none => s
      | some (s, none) => s
      | some (s, some k) => if s.fab.probing.contains k.src then s.resendPair k.src k.pseq else s
    else s

/-- R771, R772: a NACK. STALE waits for the settle; NO_ROUTE fails the request. One that answers a
PROBE fails every request that waited for it. -/
def execRemoteNackReceived (s : State) : FabOut :=
  .next <|
    if s.running then
      match s.takeAnswer fun t => t == 0x8F with
      | none => s
      | some (s, none) => s
      | some (s, some k) =>
        match s.reqOf k with
        | none => s
        | some r =>
          if k.status = 2 then s
          else if s.fab.probing.contains r.dst then
            let ep := s.reg Reg.FAB_EPOCH
            let s := { s with
              fab := { s.fab with probing := s.fab.probing.filter fun d => d != r.dst } }
            (s.rmt.filter fun x => x.dst == r.dst && x.epoch != ep).foldl
              (fun s x => (s.rmtFailed x k.status).endRmt x) s
          else (s.rmtFailed r k.status).endRmt r
    else s

end Sys2Proof.Machine
end

