-- ==== Sys2Proof/Machine/Faults.lean ====
section
/-! DEFINITION. The responses to faults (R600 to R604, R613), progress monitoring (R611), and the
host reads and remote requests that end (R650, R663, R770, R772). -/

namespace Sys2Proof.Machine

/-! ### Responses -/

/-- R604: the minimal device record is written, and the reset begins. -/
def State.resetResponse (s : State) (f : FaultInfo) (c : RecordCtx) : State :=
  (s.writeRecord 512 f c).beginReset .fault

/-- A fault has had its response. -/
def State.dropFault (s : State) (idx : Nat) : State :=
  { s with faults := s.faults.filter fun x => x.1 != idx }

/-- R600, R602, R604: STREAM_FAULT: the response to the stream fault raised first. `v` answers for the
entry's lanes in host memory. -/
def execStreamFault (s : State) (v : View := View.none) : SlotOut :=
  .next <|
    match s.faults with
    | [] => s
    | (idx, f) :: _ =>
      if s.running = false then s
      else
        match s.entry? idx with
        | none => s.dropFault idx
        | some e =>
          if f.reset then (s.dropFault idx).resetResponse f (s.entryCtx e 3 0 [] 0)
          else
            let dump := s.dumpBytes e f.lane
            match s.slotOf idx with
            | none => (s.dropFault idx).contain e f [] (s.entryWaitAge e) dump
            | some n =>
              match s.slot? n with
              | none => s
              | some x =>
                let eng := (upto 8).map fun cl => s.engineSummary x e.buf cl
                (s.dropFault idx).stopSlot v n (.fault f eng (s.slotWaitAge x) dump)

/-- R613: every access that a stopped slot issued is performed or abandoned. -/
def State.quiet (s : State) (n : Nat) : Bool :=
  (s.held.isEmpty || s.bme) && !(s.rmt.any fun r =>
    match r.use with
    | .op slot _ _ => slot == n
    | .laneSignal slot _ => slot == n
    | _ => false)

/-- The slot a stream holds. -/
def State.slotOfStream (s : State) (st : Nat) : Option (Nat × ExecSlot) :=
  (upto 8).findSome? fun n =>
    match s.slot? n with
    | some x => if x.stream = st then some (n, x) else none
    | none => none

/-- R602, R613, R615: ENTRY_QUIESCED. -/
def execEntryQuiesced (stream : Fin 512) (s : State) : SlotOut :=
  .next <|
    match s.slotOfStream stream with
    | none => s
    | some (n, x) =>
      match x.stop, s.entry? x.entry with
      | some why, some e =>
        if s.running = false ∨ s.quiet n = false then s
        else
          match why with
          | .fault f eng age dump => s.contain e f eng age dump
          | .abort => (s.endAborted e false).afterEntry e.stream
      | _, _ => s

/-- R604: DEVICE_INTERNAL_FAULT. -/
def execDeviceInternalFault (s : State) : SlotOut :=
  .next <|
    if s.running then
      (s.bump Reg.FE_FAULT_COUNT 1).resetResponse (s.plainFault .deviceInternal 0)
        (plainCtx 3 0 0xFFFF)
    else s

/-! ### Progress -/

/-- R611: HANG_WINDOW. -/
def State.hangWindow (s : State) : Nat := max 2 (s.fld Reg.FE_HANG_WINDOW 15 0)

/-- R433, R543: a lane of the slot is blocked on a pennant. -/
def ExecSlot.exempt (x : ExecSlot) : Bool :=
  x.lanes.any fun l =>
    match l.2.block with
    | some (.pennant _ _ _ _ _) => true
    | _ => false

/-- R360: the operation of a lane that waits for a token at the head of its queue. -/
def State.waitingOp (s : State) (n node : Nat) : Option OpRec :=
  s.ops.find? fun o => o.slot == n && o.node == node && waitEn o.word && !o.waited && s.atHead o

/-- The particulars of a HANG: the first lane that is held up, and where. -/
def State.hangInfo (s : State) (n : Nat) (x : ExecSlot) : FaultInfo :=
  let f := s.plainFault .hang 0
  let hit := x.lanes.findSome? fun l =>
    match s.waitingOp n l.1 with
    | some o => some (l.1, o.ofs, o.rep, o.word, l.2.cp)
    | none => if l.2.block.isSome then some (l.1, l.2.pc, 0, l.2.word, l.2.cp) else none
  match hit with
  | some (node, ofs, rep, w, cp) =>
    { f with lane := node, opOfs := ofs, rep := rep, word := w, cp := cp }
  | none => f

/-- R611: sample one slot. -/
def State.sampleSlot (s : State) (n : Nat) : State :=
  let p := s.progOf n
  let cur := [p.ops, p.cyc, p.bytes, p.tokens]
  match s.slot? n with
  | none => s.setProg n { p with last := cur, still := 0 }
  | some x =>
    if p.last ≠ cur ∨ x.exempt = true then s.setProg n { p with last := cur, still := 0 }
    else
      let s := s.setProg n { p with last := cur, still := p.still + 1 }
      if p.still + 1 = s.hangWindow ∧ s.slotHalted x = false then
        (s.bump Reg.FE_HANG_COUNT 1).raise x.entry (s.hangInfo n x)
      else s

/-- R611: PROGRESS_SAMPLE. -/
def execProgressSample (s : State) : SlotOut :=
  .next (if s.running then (upto 8).foldl (fun s n => s.sampleSlot n) s else s)

/-! ### Host reads that end -/

/-- The failure of a completion, if it is one (R663). -/
def cplFail : CplStatus → Option ReadFail
  | .success => none
  | .unsupported => some .unsupported
  | .abort => some .abort
  | .poisoned => some .poisoned

/-- Where the block read of the entry at the front begins, by its row (R523, R578, R584, R620). -/
def blockAddr (raw : List Byte) : Nat :=
  match rowKind raw with
  | some .launch => leAt raw 0x18 8 % 2 ^ 48
  | some .restore => leAt raw 8 8 % 2 ^ 48
  | _ => leAt raw 0x10 8 % 2 ^ 48

/-- R663: a block read of the entry in admission fails: the entry's own fault. -/
def State.blockFails (s : State) (v : View) (x : ReadFail) : State :=
  match s.restoreDue with
  | some e =>
    match e.kind with
    | .restore _ b img =>
      s.restoreTarget { v with fails := v.fails ++ [(leAt img 0x48 8 % 2 ^ 48, x)] } e b img
    | _ => s
  | none =>
    match s.ring.arrived with
    | [] => s
    | (_, raw) :: _ =>
      let v := { v with fails := v.fails ++ [(blockAddr raw, x)] }
      match rowKind raw with
      | some .launch => s.admitRow .launch v (actLaunch v)
      | some .create => s.admitRow .create v (actCreate v)
      | some .configure => s.admitRow .configure v (actConfigure v)
      | some .restore => s.admitRow .restore v (actRestore v)
      | some .patchVersioned => s.admitRow .patchVersioned v (actPatchVersioned v)
      | some .patchHot => s.admitRow .patchHot v (actPatchHot v)
      | _ => s

/-- The entry of a stream for whose buffer G0 reads host memory at `u`: the one that runs, or the first
whose buffer lies there. -/
def State.bufferEntry (s : State) (st u : Nat) : Option Entry :=
  let l := s.entries.filter fun e => e.stream == st && e.takesSlot && !s.faulted e.idx &&
    (match e.buf with
     | some b => b.sealAt.isNone && decide (b.uda ≤ u) && decide (u < b.uda + b.size)
     | none => e.restored.isSome)
  match l.find? fun e => (s.slotOf e.idx).isSome with
  | some e => some e
  | none => l.head?

/-- R600, R663: a G0 read of a buffer fails: at its admission, at its prefetch, or while it runs. -/
def State.bufferFails (s : State) (st u : Nat) (v : View) (x : ReadFail) : State :=
  match s.front .submit with
  | some (_, raw) =>
    if leAt raw 2 2 = st then
      let v := { v with fails := v.fails ++ [(u, x)] }
      s.admitRow .submit v (actSubmit v)
    else entryFails
  | none => entryFails
where
  /-- The entry faults, at once or as it becomes head. -/
  entryFails : State :=
    match s.bufferEntry st u with
    | some e =>
      if ((s.slotOf e.idx).bind s.slot?).any fun x => x.stop.isSome then s
      else (s.hostErr (readStatus x) (s.iova u)).entryFault e (s.plainFault (readFault x) u)
    | none => s

/-- R663: a read of host memory that an issuer has outstanding fails. -/
def State.readFails (s : State) (i : HostIssuer) (x : ReadFail) : State :=
  match i with
  | .operation slot node ofs uda =>
    match s.opAt slot node ofs, s.slot? slot with
    | some o, some y =>
      if o.issued then s
      else
        let s := s.hostErr (readStatus x) (s.iova uda.toNat)
        if s.laneHalted y node then s else s.unitFault o ⟨readFault x, uda.toNat, 0, 0⟩
    | _, _ => s
  | .doorbell =>
    if s.ring.pollOut then
      ((({ s with ring := { s.ring with pollOut := false } }).hostErr (readStatus x)
        (s.reg64 Reg.FE_DB_ADDR)).ringReadErr).pollEnd
    else s
  | .entry =>
    if s.ring.reading ≠ 0 then
      (s.hostErr (readStatus x)
        (s.reg64 Reg.FE_RING_BASE + 64 * (s.ring.readHead % s.ringSize))).ringReadErr
    else s
  | .pennant uda =>
    if s.ring.penReads.any fun p => p.1 == uda.toNat then
      ((s.dropPenRead uda.toNat).hostErr (readStatus x) (s.iova uda.toNat)).pollEnd
    else s
  | .block v => s.blockFails v x
  | .buffer st uda v => s.bufferFails st uda.toNat v x
  | .record => s

/-- R634: the writes of a fault record have completed; in error it is lost, and not written again. -/
def State.recordDone (s : State) (bad : Bool) : State :=
  if s.ring.records = 0 then s
  else
    ({ s with ring := { s.ring with records := s.ring.records - 1 } }).bump Reg.FE_FAULT_LOST (b2n bad)

/-- R634, R663: HOST_READ_COMPLETION. The data of a successful read comes with the step that uses
it. -/
def execHostReadCompletion (issuer : HostIssuer) (status : CplStatus) (s : State) : SlotOut :=
  .next <|
    if issuer = .record then s.recordDone (cplFail status).isSome
    else
      match cplFail status with
      | some x => if s.running then (s.ringEdge (s.readFails issuer x)).flushHeld else s
      | none => s

/-- R650: COMPLETION_TIMEOUT, unless Completion Timeout Disable is set. -/
def execCompletionTimeout (issuer : HostIssuer) (s : State) : SlotOut :=
  .next <|
    if s.running && !bitOf (s.cfgD 0x98) 4 then (s.ringEdge (s.readFails issuer .timeout)).flushHeld else s

/-! ### Remote responses -/

/-- Bytes that a remote read returns to the operation that asked for them. -/
def State.fillOp (s : State) (slot node ofs u : Nat) (l : List Byte) : State :=
  match s.opAt slot node ofs with
  | none => s
  | some o => s.setOp { o with
      fetched := (l.zipIdx).foldl (fun m x =>
        SMap.set (fun _ => (none : Option Byte)) m (u + x.2) (some x.1)) o.fetched }

/-- R430, R770: a lane's remote signal is performed. -/
def State.signalDone (s : State) (slot node : Nat) : State :=
  match s.slot? slot with
  | none => s
  | some x =>
    if s.laneHalted x node then s
    else
      match (x.lane? node).bind fun l => l.block with
      | some (.signal _) => (s.countBytes slot 8).laneDone slot node
      | _ => s

/-- R246, R252: the words of an add issued by a cluster that have saturated at their target. No packet
carries the number: that of another device is a free value (log entry 32). -/
def State.satOf (s : State) (r : RmtReq) (k : Pkt) (size : Nat) : State × Nat :=
  if k.src = s.ownAddr then (s, k.sat)
  else (s.bumpFresh, Config.freeNat s.fresh 0 % (r.data.length / size + 1))

/-- R610, R770: an access of an operation is performed: its bytes count, a read's once they are used;
and so do the words of an add that have saturated (R246, R252). -/
def State.accessDone (s : State) (slot node ofs : Nat) (r : RmtReq) (k : Pkt) : State :=
  let t := s.countBytes slot r.data.length
  match r.kind with
  | .read => s.fillOp slot node ofs r.uda k.data
  | .a48Add =>
    let q := t.satOf r k 8
    q.1.bump (clReg node Reg.CL_A48_SAT) q.2
  | .sp16Add =>
    let q := t.satOf r k 2
    q.1.bump (clReg node Reg.CL_SP16_SAT) q.2
  | .write | .pennantWrite | .pennantMax => t

/-- R770: what a successful response does. -/
def State.rmtDone (s : State) (r : RmtReq) (k : Pkt) : State :=
  match r.use with
  | .op slot node ofs => s.accessDone slot node ofs r k
  | .laneSignal slot node => s.signalDone slot node
  | .pennant u => s.observe u (ofLeBytes (k.data.take 8)) fun _ => true
  | .front =>
    { s with ring := { s.ring with
        fetched := k.data.zipIdx.foldl (fun m x =>
          SMap.set (fun _ => (none : Option Byte)) m (r.uda + x.2) (some x.1)) s.ring.fetched } }
  | .signal _ | .device => s

/-- R770, R772: REMOTE_RESPONSE. -/
def execRemoteResponse (s : State) : FabOut :=
  .next <|
    if s.running then
      match s.takeAnswer fun t => t == 0x81 || t == 0x82 with
      | none => s
      | some (s, none) => s
      | some (s, some k) =>
        match s.reqOf k with
        | none => s
        | some r =>
          if k.status = 0 then (s.rmtDone r k).endRmt r
          else (s.rmtFailed r k.status).endRmt r
    else s

end Sys2Proof.Machine
end

