-- ==== Sys2Proof/Machine/Access.lean ====
section
/-! DEFINITION. Set-up registers as the access paths see them (chapter 20): live values, dword reads
and writes by field type (R16, R922 to R932), 64-bit pairs (R926 to R928), access errors (R925), the
expert session (R942 to R945), and what writes set off. -/

namespace Sys2Proof.Machine

abbrev RegOut := Host.Outcome State Fault Refusal

/-! ### Live values -/

/-- R388: a counter as CL_TOK_VAL and FE_TOK_VAL show it. -/
def Tok.word (t : Tok) : Nat :=
  t.value % 65536 + t.slot % 8 * 2 ^ 16 + b2n t.alloc * 2 ^ 19 + t.token % 64 * 2 ^ 20

/-- The physical counter `i` of a node. -/
def State.tokWord (s : State) (node i : Nat) : Nat :=
  (SMap.get State.tokD s.toks (64 * node + i)).word

/-- R387: allocated counters of a node. -/
def State.tokInUse (s : State) (node : Nat) : Nat :=
  (s.toks.filter fun t => t.2.alloc && t.1 / 64 == node).length

/-- R207, R209, R387, R388: the CL_ registers that show the state of a cluster's parts. -/
def State.clLive (s : State) (n o : Nat) : Option Nat :=
  if o = Reg.CL_TILE_BUSY then some (s.tileBusy n)
  else if o = Reg.CL_TOK_INUSE then some (s.tokInUse n)
  else if 0x10400 ≤ o ∧ o < 0x10500 then some (s.tokWord n ((o - 0x10400) / 4))
  else none

/-- R550: generations that are live. -/
def State.liveGens (s : State) : Nat := (s.gens.filter fun g => s.genLive g.gen).length

/-- R561: FE_STREAM_INFO of a stream. -/
def State.streamInfo (s : State) (st : Nat) : Nat :=
  let x := s.stream st
  if x.created then s.streamState st + 8 * (x.prio % 4) + 32 * (x.domain % 16) else 0

/-- R598: FE_CHART_INFO of a chart. -/
def State.chartInfo (s : State) (id : Nat) : Nat :=
  let c := s.chart id
  if c.used then 1 + b2n c.dropping + 4 * (c.vers.length % 8) + 65536 * (c.current % 65536) else 0

/-- R612: FE_WAIT_AGE of a stream. -/
def State.waitAge (s : State) (st : Nat) : Nat := min (s.streamAge st) 0xFFFFFFFF

/-- R561: FE_SLOT_n. -/
def State.slotWord (s : State) (n : Nat) : Nat :=
  match s.slot? n with
  | some x => x.stream + 512
  | none => 0

/-- R642: FE_PROG_STILL of a slot. -/
def State.stillWord (s : State) (n : Nat) : Nat :=
  (s.progOf n).still % 65536 +
    65536 * b2n (match s.slot? n with
      | some x => x.exempt
      | none => false)

/-- R642: the counter of a FE_PROG_ pair. -/
def Prog.counter (p : Prog) (i : Nat) : Nat :=
  if i = 0 then p.ops else if i = 1 then p.cyc else if i = 2 then p.bytes else p.tokens

/-- The FE_ registers that show the state of the front end. -/
def State.feLive (s : State) (o : Nat) : Option Nat :=
  if o = Reg.FE_RING_STATUS then some (putBits (s.reg o) 1 0 s.ringState)
  else if o = Reg.FE_WATCH then some (s.watches % 2048)
  else if o = Reg.FE_HGEN then some (s.genInForce % 65536 + 65536 * (s.liveGens % 4))
  else if o = Reg.FE_STREAM_INFO then some (s.streamInfo (s.fld Reg.FE_STREAM_SEL 8 0))
  else if 0x4080 ≤ o ∧ o < 0x40A0 then some (s.slotWord ((o - 0x4080) / 4))
  else if Reg.FE_PROG_OPS ≤ o ∧ o < Reg.FE_PROG_STILL then
    let v := (s.progOf (s.fld Reg.FE_PROG_SEL 2 0)).counter ((o - Reg.FE_PROG_OPS) / 8)
    some (if (o - Reg.FE_PROG_OPS) % 8 = 4 then v / 2 ^ 32 % 65536 else v % 2 ^ 32)
  else if o = Reg.FE_PROG_STILL then some (s.stillWord (s.fld Reg.FE_PROG_SEL 2 0))
  else if o = Reg.FE_WAIT_AGE then some (s.waitAge (s.fld Reg.FE_STREAM_SEL 8 0))
  else if o = Reg.FE_CHART_INFO then some (s.chartInfo (s.fld Reg.FE_CHART_SEL 9 0))
  else if o = Reg.FE_CHART_COUNT then some (s.charts.filter fun c => c.2.used).length
  else if 0x4800 ≤ o ∧ o < 0x4880 then some (s.tokWord 8 ((o - 0x4800) / 4))
  else none

/-- The other registers that show state held elsewhere. -/
def State.restLive (s : State) (o : Nat) : Option Nat :=
  if o = Reg.HI_TAGS then some (min s.tagLimit s.tagsInUse + 1024 * s.tagLimit)
  else if o = Reg.FAB_TIME then some (s.ns % 2 ^ 32)
  else if o = Reg.FAB_TIME + 4 then some (s.ns / 2 ^ 32)
  else if o = Reg.PIN_IN then some s.pinIn
  else if o = Reg.PIN_LINK_PRESENT then some s.linkPresent
  else if 0x31000 ≤ o ∧ o < 0x31600 ∧ o % 256 = 0x50 then
    some (s.port ((o - 0x31000) / 256)).retry.length
  else none

/-- R667: the pending bits: of requests made against a masked vector, or masked since. -/
def State.pendingBits (s : State) : Nat :=
  s.msixReq.foldl (fun x v => if s.msixMasked v then x ||| 2 ^ v else x) s.pba

/-- The live value of the dword at an aligned offset (R924: 0 where none is assigned). -/
def State.live (s : State) (o : Nat) : Nat :=
  if 0x2000 ≤ o ∧ o < 0x2200 then (SMap.get msixReset s.msixTab ((o - 0x2000) / 4)).toNat
  else if o = 0x3000 then s.pendingBits % 2 ^ 32
  else
    let sp :=
      if o < 0x4000 then s.restLive o
      else if o < 0x8000 then s.feLive o
      else if 0x10000 ≤ o ∧ o < 0x20000 then
        s.clLive ((o - 0x10000) / 0x2000) (0x10000 + (o - 0x10000) % 0x2000)
      else s.restLive o
    sp.getD (s.reg o)

/-! ### Who may reach what -/

/-- R920: a path's snapshot and staging. -/
def State.path (s : State) : Path → PathState
  | .bar0 => s.bar0
  | .smbus => s.smbPath
  | .frontEnd => s.fePath

/-- Replace a path's snapshot and staging. -/
def State.setPath (s : State) (p : Path) (x : PathState) : State :=
  match p with
  | .bar0 => { s with bar0 := x }
  | .smbus => { s with smbPath := x }
  | .frontEnd => { s with fePath := x }

/-- Whether an offset lies in the HI_ or the PWR_ block (R946). -/
def inHi (o : Nat) : Bool := decide (o < 0x4000)
def inPwr (o : Nat) : Bool := decide (0x50000 ≤ o) && decide (o < 0x60000)

/-- R854: the die has tripped. -/
def State.tripped (s : State) : Bool := bitOf (s.reg Reg.PWR_THERM) 16

/-- A reset of R670 is under way: memory requests are unsupported. -/
def State.pcieReset (s : State) : Bool := s.resetPend.isSome && s.resetPend != some .fault

/-- R670, R674, R677: memory requests of the host are handled as unsupported requests. -/
def State.memOff (s : State) : Bool :=
  s.pcieReset || s.inD3 || !bitOf (s.cfgD 0x04) 1

/-- What an access on a path meets. -/
inductive Reach where
  /-- Nothing answers. -/
  | nobody
  | unsupported
  /-- A read returns 0, and a write is dropped. -/
  | blank
  /-- A read returns the value, and a write is dropped. -/
  | readOnly
  | full
  deriving DecidableEq, Repr

/-- R646, R670, R677, R854, R861: what an access at an offset meets. -/
def State.reach (s : State) (p : Path) (o : Nat) : Reach :=
  if s.perst then .nobody
  else
    let dead := s.tripped && !inHi o && !inPwr o
    match p with
    | .bar0 =>
      if s.memOff then .unsupported
      else if s.ready = false then (if inHi o then .readOnly else .blank)
      else if dead then .blank
      else .full
    | .smbus =>
      if s.bootStep < 3 then .nobody
      else if s.ready = false then (if inHi o || inPwr o then .readOnly else .blank)
      else if dead then .blank
      else .full
    | .frontEnd => if s.tripped then .nobody else .full

/-- R677: a request handled as unsupported, as PCIe does: a posted one is dropped and has no
completion; the completion of another makes the error an advisory one (log entry 20). -/
def State.unsupported (s : State) (posted : Bool) : State :=
  if posted then s.aer 20 false else (s.aer 20 true).emit .unsupported

/-! ### Reads -/

/-- Whether an offset is a half of a 64-bit register: its high half (R926). -/
def pairHalf (o : Nat) : Option Bool :=
  match regAt o with
  | some (r, _, _, high) => if r.pair then some high else none
  | none => none

/-- R923, R927: the value that a dword read returns, and its effects. -/
def State.readDword (s : State) (p : Path) (o be : Nat) : State × Nat :=
  let v := s.live o
  match pairHalf o with
  | some false =>
    (if be = 15 then
      s.setPath p { s.path p with snap := some (o, BitVec.ofNat 32 (s.live (o + 4))) }
     else s, v)
  | some true =>
    match (s.path p).snap with
    | some (b, w) => (s, if b + 4 = o then w.toNat else v)
    | none => (s, v)
  | none => (s, v)

/-- R921, R923: a dword read on a path. -/
def State.dwordRead (s : State) (p : Path) (ofs be : Nat) : State :=
  let o := ofs - ofs % 4
  match s.reach p o with
  | .nobody => s
  | .unsupported => s.unsupported false
  | .blank => s.emit (.regRead p o 0)
  | .readOnly | .full =>
    let r := s.readDword p o be
    r.1.emit (.regRead p o r.2)

/-! ### Field types and access errors -/

/-- R16, R944: a dword after a write of `w` to one field. -/
def Fld.write (f : Fld) (locked : Bool) (old w : Nat) : Nat :=
  let a := bits old f.hi f.lo
  let b := bits w f.hi f.lo
  if f.expert && locked then old
  else
    match f.ty with
    | .rw | .rwhCount | .rwhState => putBits old f.hi f.lo b
    | .w1c => putBits old f.hi f.lo (a - (a &&& b))
    | .w1s | .sc => putBits old f.hi f.lo (a ||| b)
    | .rc | .ro | .wo => old

/-- R932: a dword after a write to all its fields. -/
def writeFields (fs : List Fld) (locked : Bool) (old w : Nat) : Nat :=
  fs.foldl (fun v f => f.write locked v w) old

/-- Whether software can change a field. -/
def FldTy.writable : FldTy → Bool
  | .rw | .rwhCount | .rwhState | .w1c | .w1s | .sc => true
  | .rc | .ro | .wo => false

/-- R944: a write would change an Expert field. -/
def expertChange (fs : List Fld) (old w : Nat) : Bool :=
  fs.any fun f => f.expert && f.ty.writable && bits old f.hi f.lo != bits w f.hi f.lo

/-- R925, R924: log an access error; none before READY. -/
def State.accErr (s : State) (p : Path) (kind o be : Nat) : State :=
  if s.ready = false then s
  else
    let s := s.bump Reg.DBG_ACCESS_COUNT 1
    if bitOf (s.reg Reg.DBG_ACCESS_STATUS) 0 then s.setFld Reg.DBG_ACCESS_STATUS 1 1 1
    else
      let n := match p with
        | .bar0 => 0
        | .smbus => 1
        | .frontEnd => 2
      (((s.setFld Reg.DBG_ACCESS_STATUS 0 0 1).setFld Reg.DBG_ACCESS_STATUS 4 2 kind).setFld
        Reg.DBG_ACCESS_STATUS 6 5 n).setReg Reg.DBG_ACCESS_ADDR (o + be * 2 ^ 20)

/-! ### The expert session -/

/-- R640: every run of still samples starts again. -/
def State.stillZero (s : State) : State :=
  (upto 8).foldl (fun s n => s.setProg n { s.progOf n with still := 0 }) s

/-- R945: one dword's Expert fields of type RW return to their post-almanac values. The functions of
the pins have their own rule (R904). -/
def State.lockDword (s : State) (o : Nat) : State :=
  if Reg.PIN_MUX ≤ o ∧ o < Reg.PIN_MUX + 48 then s
  else match regAt o with
  | none => s
  | some (r, _, _, high) =>
    let old := s.reg o
    let post := (SMap.get regReset s.postAlm o).toNat
    let v := (dwordFields r high).foldl (fun (v : Nat) f =>
      if f.expert ∧ f.ty = .rw then putBits v f.hi f.lo (bits post f.hi f.lo) else v) old
    if v = old then s
    else
      let s := s.setReg o v
      if o = Reg.FE_SAMPLE ∨ o = Reg.FE_HANG_WINDOW then s.stillZero else s

/-- R904, R945: at a lock the pins return to their post-almanac functions, as a write of each would
switch them. -/
def State.lockPins (s : State) : State :=
  (upto 12).foldl (fun s n =>
    s.muxWrite n ((SMap.get regReset s.postAlm (muxReg n)).toNat % 16)) s

/-- R942, R945: the session locks. -/
def State.lockSession (s : State) : State :=
  if s.unlocked then
    (((s.regs ++ s.postAlm).map fun x => x.1).foldl (fun s o => s.lockDword o)
      (s.setFld Reg.FE_EXPERT_STATUS 1 1 0)).lockPins
  else s

/-- R942: a write of KEY. -/
def State.unlockWrite (s : State) (key : Nat) : State :=
  if key = 0x5EA7 then
    if bitOf (s.reg Reg.FE_EXPERT_STATUS) 0 then s.setFld Reg.FE_EXPERT_STATUS 1 1 1
    else s.setFld Reg.FE_EXPERT_STATUS 2 2 1
  else s.lockSession

/-! ### What writes set off -/

/-- R932: an SC bit is written again while its command runs. -/
def State.rearmSc (s : State) (n : Nat) : State :=
  if s.rearm.contains n then s else { s with rearm := s.rearm ++ [n] }

/-- R150, R152: a self-test begins, with the inputs as they stand. -/
def State.ephBegin (s : State) : State :=
  { s with ephRun := some (s.fld Reg.EPH_TEST_CTRL 3 1,
      BitVec.ofNat 64 (s.reg64 Reg.EPH_TEST_KEY), BitVec.ofNat 64 (s.reg64 Reg.EPH_TEST_IN)) }

/-- R666: EN bits that rise on a set STATUS bit are notice edges. -/
def State.noticeRise (s : State) (was : Nat) : State :=
  (upto 8).foldl (fun s n =>
    if bitOf was n = false ∧ bitOf (s.reg Reg.HI_NOTICE_EN) n = true ∧
        bitOf (s.reg Reg.HI_NOTICE_STATUS) n = true then
      s.requestMsix (s.noticeVec n)
    else s) s

/-- R865: a cap in whole W that is taken. -/
def capOk (c : Nat) : Bool := decide (25 ≤ c) && decide (c ≤ 75) && c % 5 == 0

/-- R865: a cap that is not taken keeps its old value and sets CAP_ERR. -/
def State.capCheck (s : State) (o old : Nat) : State :=
  if capOk (s.fld o 6 0) then s
  else (s.setFld o 6 0 (bits old 6 0)).setFld Reg.PWR_GOV 8 8 1

/-- R864: a change of SMB_ALERT_N between two states. -/
def State.alertEdge (s t : State) : State :=
  if s.smbAlert = t.smbAlert then t else t.emit (.pin "SMB_ALERT_N" (!t.smbAlert))

/-- R503, R504: FE_RING_CTRL was written; LOG2 keeps its value while EN was 1. -/
def State.ringCtrlWrite (t : State) (old : Nat) : State :=
  let was := bitOf old 0
  let t : State :=
    if was = true ∧ t.fld Reg.FE_RING_CTRL 5 1 ≠ bits old 5 1 then
      (t.setFld Reg.FE_RING_CTRL 5 1 (bits old 5 1)).ringFlag 2
    else t
  t.ringCtrl was

/-- What a write of `w` to the FE_ dword at `o`, which held `old`, sets off. -/
def State.feWrite (t : State) (o old w : Nat) : State :=
  if o = Reg.FE_RING_CTRL then t.ringCtrlWrite old
  else if o = Reg.FE_EXPERT_UNLOCK then t.unlockWrite (w % 65536)
  else if (o = Reg.FE_SAMPLE ∨ o = Reg.FE_HANG_WINDOW) ∧ t.unlocked = true then t.stillZero
  else if (o = Reg.FE_POLL_MIN ∨ o = Reg.FE_POLL_MAX) ∧ t.ring.started = true then t.pollPeriod
  else t

/-- What a write of `w` to the PWR_ dword at `o`, which held `old`, sets off. -/
def State.pwrWrite (t : State) (o old w : Nat) : State :=
  if o = Reg.PWR_CAP ∨ o = Reg.PWR_BRAKE then t.capCheck o old
  else if o = Reg.PWR_PMB_STATUS then
    if bitOf old 16 && bitOf w 16 then t.setFld o 17 17 0 else t
  else if o = Reg.PWR_WM_STATE ∨ o = Reg.PWR_WM_STATE + 32 then
    if bitOf w 1 then t.setFld o 15 8 0 else t
  else t

/-- R832, R823: what a write to an ALM_ command register sets off. -/
def State.almWrite (t : State) (o old w : Nat) : State :=
  if bitOf w 0 = false then t
  else if o = Reg.ALM_SVN_COMMIT then
    if t.svnBusy then t.rearmSc 2 else { t with svnBusy := true }
  else if o = Reg.ALM_RECOVERY then if bitOf old 0 then t.rearmSc 1 else t.startRecovery
  else t

/-- What a write of `w` to the dword at `o`, which held `old`, sets off. -/
def State.writeEffect (t : State) (o old w : Nat) : State :=
  if o < 0x4000 then (if o = Reg.HI_NOTICE_EN then t.noticeRise old else t)
  else if o < 0x8000 then t.feWrite o old w
  else if o < 0x20000 then t
  else if o < 0x30000 then
    if o = Reg.EPH_TEST_CTRL ∧ bitOf w 0 = true then
      (if t.ephRun.isSome then t.rearmSc 0 else t.ephBegin)
    else t
  else if o < 0x40000 then
    if 0x31000 ≤ o ∧ o < 0x31600 ∧ o % 256 = 0 then t.linkCtrl ((o - 0x31000) / 256) (bitOf old 0)
    else t
  else if o < 0x50000 then t.almWrite o old w
  else if o < 0x60000 then t.pwrWrite o old w
  else if Reg.PIN_MUX ≤ o ∧ o < Reg.PIN_MUX + 48 then
    if t.unlocked then (t.setReg o old).muxWrite ((o - Reg.PIN_MUX) / 4) (w % 16) else t
  else t

/-! ### Writes -/

/-- R922: registers written byte by byte. -/
def byteWritable (o : Nat) : Bool :=
  o == Reg.HI_NOTICE_MAP0 || o == Reg.HI_NOTICE_MAP1 || o == Reg.PIN_GPIO_OUT

/-- The enabled bytes of `w` over those of `old`. -/
def mergeBe (be old w : Nat) : Nat :=
  (upto 4).foldl (fun v i =>
    if bitOf be i then putBits v (8 * i + 7) (8 * i) (bits w (8 * i + 7) (8 * i)) else v) old

/-- R504: registers that keep their values while the ring is enabled. -/
def ringLocked (base : Nat) : Bool :=
  base == Reg.FE_RING_BASE || base == Reg.FE_DB_ADDR || base == Reg.FE_STATUS_ADDR ||
    base == Reg.FE_RING_START

/-- R927: a write to a pair ends the snapshots of it. -/
def State.dropSnaps (s : State) (base : Nat) : State :=
  let f := fun (x : PathState) =>
    match x.snap with
    | some (b, _) => if b = base then { x with snap := none } else x
    | none => x
  { s with bar0 := f s.bar0, smbPath := f s.smbPath, fePath := f s.fePath }

/-- R932, R944: store the written dwords `(offset, high half, value)` of the register at `base`,
reached through the dword `o`. -/
def State.storeReg (s : State) (p : Path) (o be base : Nat) (r : RegRow)
    (l : List (Nat × Bool × Nat)) : State :=
  if ringLocked base = true ∧ bitOf (s.reg Reg.FE_RING_CTRL) 0 = true then s.ringFlag 2
  else
    let locked := !s.unlocked
    let bad := locked && l.any fun x =>
      expertChange (dwordFields r x.2.1) (s.reg x.1) x.2.2
    let t := l.foldl (fun (t : State) x =>
      t.setReg x.1 (writeFields (dwordFields r x.2.1) locked (t.reg x.1) x.2.2)) s
    let t := if bad then t.accErr p 3 o be else t
    let t := match l with
      | [x] => s.alertEdge (t.writeEffect x.1 (s.reg x.1) x.2.2)
      | _ => t
    t.dropSnaps base

/-- R928: a write of a high half commits the pair. -/
def State.commitPair (s : State) (p : Path) (base w : Nat) (r : RegRow) : State :=
  let low := match (s.path p).stage with
    | some (b, v) => if b = base then [(base, false, v.toNat)] else []
    | none => []
  (s.setPath p { s.path p with stage := none }).storeReg p (base + 4) 15 base r
    (low ++ [(base + 4, true, w)])

/-- R667: pending messages of vectors that are unmasked are sent. -/
def State.msixUnmask (s : State) : State :=
  (upto 32).foldl (fun s v =>
    if bitOf s.pba v = true ∧ s.msixMasked v = false then
      { s with
        pba := putBits s.pba v v 0,
        msixReq := if s.msixReq.contains v then s.msixReq else s.msixReq ++ [v] }
    else s) s

/-- R951: a write to the MSI-X table, by bytes. -/
def State.msixWrite (s : State) (d be w : Nat) : State :=
  let m := if d % 4 = 0 then 0xFFFFFFFC else if d % 4 = 3 then 1 else 0xFFFFFFFF
  let v := mergeBe be (SMap.get msixReset s.msixTab d).toNat w &&& m
  ({ s with msixTab := SMap.set msixReset s.msixTab d (BitVec.ofNat 32 v) }).msixUnmask

/-- R922, R924, R928: a dword write that reaches the registers. -/
def State.writeDword (s : State) (p : Path) (o be w : Nat) : State :=
  if 0x2000 ≤ o ∧ o < 0x2200 then s.msixWrite ((o - 0x2000) / 4) be w
  else if o = 0x3000 ∨ o = 0x3004 then s
  else
    match regAt o with
    | none => s.accErr p 2 o be
    | some (r, _, _, high) =>
      if be ≠ 15 ∧ byteWritable o = false then s.accErr p 1 o be
      else if r.pair = false then s.storeReg p o be o r [(o, false, mergeBe be (s.reg o) w)]
      else if high then s.commitPair p (o - 4) w r
      else s.setPath p { s.path p with stage := some (o, BitVec.ofNat 32 w) }

/-- R921, R922: a dword write on a path. -/
def State.dwordWrite (s : State) (p : Path) (ofs be w : Nat) : State :=
  let o := ofs - ofs % 4
  match s.reach p o with
  | .nobody | .blank | .readOnly => s
  | .unsupported => s.unsupported true
  | .full => s.writeDword p o be w

/-! ### The register commands -/

/-- R922: REGISTER_WRITE. -/
def execRegisterWrite (path : Path) (ofs : BitVec 20) (be : BitVec 4) (value : Word32) (s : State) :
    RegOut :=
  .next (s.dwordWrite path ofs.toNat be.toNat value.toNat)

/-- R923, R927: PAIR_LOW_READ; a read of any other dword is performed in the same way. -/
def execPairLowRead (path : Path) (ofs : BitVec 20) (be : BitVec 4) (s : State) : RegOut :=
  .next (s.dwordRead path ofs.toNat be.toNat)

/-- R928: PAIR_LOW_WRITE: the low half is staged. -/
def execPairLowWrite (path : Path) (ofs : BitVec 20) (be : BitVec 4) (value : Word32) (s : State) :
    RegOut :=
  .next (s.dwordWrite path ofs.toNat be.toNat value.toNat)

/-- R928: PAIR_HIGH_WRITE: the pair is committed. -/
def execPairHighWrite (path : Path) (ofs : BitVec 20) (be : BitVec 4) (value : Word32) (s : State) :
    RegOut :=
  .next (s.dwordWrite path ofs.toNat be.toNat value.toNat)

/-- A write by the host to a register of its own row of the table. -/
def State.hostWriteReg (s : State) (o : Nat) (be : BitVec 4) (value : Word32) : State :=
  s.dwordWrite .bar0 o be.toNat value.toNat

/-- R503: RING_ENABLE: a write to FE_RING_CTRL with EN 1. -/
def execRingEnable (value : Word32) (s : State) : RegOut :=
  .next (s.hostWriteReg Reg.FE_RING_CTRL 15 (value ||| 1))

/-- R504: RING_DISABLE: a write to FE_RING_CTRL with EN 0. -/
def execRingDisable (value : Word32) (s : State) : RegOut :=
  .next (s.hostWriteReg Reg.FE_RING_CTRL 15 (value &&& 0xFFFFFFFE))

/-- R942: EXPERT_UNLOCK_WRITE. -/
def execExpertUnlockWrite (be : BitVec 4) (value : Word32) (s : State) : RegOut :=
  .next (s.hostWriteReg Reg.FE_EXPERT_UNLOCK be value)

/-- R666: NOTICE_ENABLE_WRITE. -/
def execNoticeEnableWrite (be : BitVec 4) (value : Word32) (s : State) : RegOut :=
  .next (s.hostWriteReg Reg.HI_NOTICE_EN be value)

/-- R152: EPH_SELFTEST_START. -/
def execEphSelftestStart (be : BitVec 4) (value : Word32) (s : State) : RegOut :=
  .next (s.hostWriteReg Reg.EPH_TEST_CTRL be value)

/-- R150, R152: EPH_SELFTEST_DONE: the result, or ERR for a reserved FUNC; a re-armed evaluation
begins. -/
def execEphSelftestDone (s : State) : RegOut :=
  .next <|
    match s.ephRun with
    | none => s
    | some (f, k, x) =>
      if s.alive = false then s
      else
        let s := match ephSelfTest f k x with
          | some v => (s.setFld Reg.EPH_TEST_CTRL 4 4 0).setReg64 Reg.EPH_TEST_OUT v.toNat
          | none => s.setFld Reg.EPH_TEST_CTRL 4 4 1
        match s.rearmed 0 with
        | (s, true) => s.ephBegin
        | (s, false) => ({ s with ephRun := none }).setFld Reg.EPH_TEST_CTRL 0 0 0

/-- R832: SVN_COMMIT. -/
def execSvnCommit (be : BitVec 4) (value : Word32) (s : State) : RegOut :=
  .next (s.hostWriteReg Reg.ALM_SVN_COMMIT be value)

/-- R823: RECOVERY_START. -/
def execRecoveryStart (be : BitVec 4) (value : Word32) (s : State) : RegOut :=
  .next (s.hostWriteReg Reg.ALM_RECOVERY be value)

/-- R721: LINK_RETRAIN_WRITE. -/
def execLinkRetrainWrite (port : Fin 6) (be : BitVec 4) (value : Word32) (s : State) : RegOut :=
  .next (s.hostWriteReg (lk port Reg.FAB_LINK_CTRL) be value)

/-- R710: LINK_ENABLE_WRITE. -/
def execLinkEnableWrite (port : Fin 6) (be : BitVec 4) (value : Word32) (s : State) : RegOut :=
  .next (s.hostWriteReg (lk port Reg.FAB_LINK_CTRL) be value)

/-- R735: LINK_DISABLE_WRITE. -/
def execLinkDisableWrite (port : Fin 6) (be : BitVec 4) (value : Word32) (s : State) : RegOut :=
  .next (s.hostWriteReg (lk port Reg.FAB_LINK_CTRL) be value)

/-- R904, R906, R907: PIN_MUX_WRITE. -/
def execPinMuxWrite (pin : Fin 12) (be : BitVec 4) (value : Word32) (s : State) : RegOut :=
  .next (s.hostWriteReg (Reg.PIN_MUX + 4 * pin) be value)

end Sys2Proof.Machine
end

