-- ==== Sys2Proof/Machine/TopLists.lean ====
section
/-! DEFINITION. Top-k lists (R273 to R278): their entries and headers, ranking candidates into row
records, and merging rows (R290, R291). -/

namespace Sys2Proof.Machine

/-- The lowest key, `-(2^47 - 1)` (R277). -/
def keyMin : Int := -a48Max

/-- R276: an entry of a row record. -/
structure LEnt where
  pos : Nat
  valid : Bool
  exact : Bool
  unproven : Bool
  inexact : Bool
  lo : Int
  hi : Int
  deriving DecidableEq, Repr

/-- R277: an entry without a candidate. -/
def LEnt.none : LEnt := ⟨0, false, false, false, false, keyMin, keyMin⟩

/-- R276: the 16 bytes of an entry. -/
def LEnt.bytes (e : LEnt) : List Byte :=
  leBytes 3 e.pos ++
  leBytes 1 (b2n e.valid + 2 * b2n e.exact + 4 * b2n e.unproven + 8 * b2n e.inexact) ++
  leBytes 6 (unsignedOf 48 e.lo) ++ leBytes 6 (unsignedOf 48 e.hi)

/-- R276: an entry from its bytes. -/
def lentOf (l : List Byte) : LEnt :=
  let f := leAt l 3 1
  ⟨leAt l 0 3, bitOf f 0, bitOf f 1, bitOf f 2, bitOf f 3, signedOf 48 (leAt l 4 6),
    signedOf 48 (leAt l 10 6)⟩

/-- R275: the header of a list. L and T_STOP as lengths, 32,768 included. -/
structure LHdr where
  k : Nat
  key : Nat
  rows : Nat
  ep : Int
  originI : Nat
  len : Nat
  stop : Nat
  deriving DecidableEq, Repr

/-- R275: the 64 bytes of a header. -/
def LHdr.bytes (h : LHdr) : List Byte :=
  leBytes 2 0x7A2C ++ leBytes 1 h.k ++ leBytes 1 h.key ++ leBytes 2 h.rows ++
  leBytes 2 (unsignedOf 16 h.ep) ++ leBytes 4 h.originI ++ leBytes 2 (h.len % 32768) ++
  leBytes 2 (h.stop % 32768) ++ leBytes 48 0

/-- A length of a header, where 0 means 32,768. -/
def lenOf (x : Nat) : Nat := if x = 0 then 32768 else x

/-- R275: a header from its bytes, with its MAGIC. -/
def lhdrOf (l : List Byte) : Nat × LHdr :=
  (leAt l 0 2, ⟨leAt l 2 1, leAt l 3 1, leAt l 4 2, signedOf 16 (leAt l 6 2), leAt l 8 4,
    lenOf (leAt l 12 2), lenOf (leAt l 14 2)⟩)

/-- R273: `a` ranks above `b`: the larger key, then the lower position. -/
def LEnt.above (a b : LEnt) : Bool :=
  decide (b.lo < a.lo) || (a.lo == b.lo && decide (a.pos < b.pos))

/-- The largest of some integers, at least `keyMin`. -/
def maxKey : List Int → Int
  | [] => keyMin
  | x :: t => max x (maxKey t)

/-- R277: the REST entry of unlisted candidates and of REST entries before it. Exact when every
contributor to its bound is, with the position of the best of them. The spec leaves open two points of
an EXACT REST entry (DESIGN CHOICE, log entry 89): its LO is the lowest key, as R277 has it, where R276
and R278 say LO = HI; and a row with no unlisted candidate has an EXACT one, whatever T_STOP (R300). -/
def restOf (left rests : List LEnt) : LEnt :=
  let hi := maxKey ((left ++ rests).map (·.hi))
  let src := (left ++ rests).filter fun e => e.hi == hi && (e.valid || e.exact || hi != keyMin)
  let ex := src.all fun e => e.exact
  ⟨if ex then ((listMin (src.map (·.pos))).getD 0) else 0, false, ex, false,
    src.any fun e => e.inexact, keyMin, hi⟩

/-- R273, R277: a row record from its candidates and the REST entries merged in. -/
def rowRecord (k : Nat) (cands rests : List LEnt) : List LEnt :=
  let l := sortBy LEnt.above cands
  let top := l.take k
  top ++ List.replicate (k - top.length) LEnt.none ++ [restOf (l.drop k) rests]

/-- The bytes of a row record. -/
def recordBytesOf (l : List LEnt) : List Byte := l.flatMap LEnt.bytes

/-- R275: the row records of a list's bytes: per row its k entries and its REST. -/
def rowsOfList (h : LHdr) (l : List Byte) : List (List LEnt × LEnt) :=
  (chunks (16 * (h.k + 1)) h.rows (l.drop 64)).map fun r =>
    let es := (chunks 16 (h.k + 1) r).map lentOf
    (es.take h.k, (es.drop h.k).headD LEnt.none)

/-! ### Merging -/

/-- The outcome of merging one row (R290). -/
structure Merged where
  record : List LEnt
  proven : Bool
  positions : List Nat
  lists : Nat
  deriving Repr

/-- R290: merge one row of several inputs, each its entries and its REST. -/
def mergeRow (k : Nat) (ins : List (List LEnt × LEnt)) : Merged :=
  let c := sortBy LEnt.above (ins.flatMap fun x => x.1.filter fun e => e.valid)
  let w := c.take k
  let out := c.drop k
  let rests := ins.map fun x => x.2
  let b := maxKey ((out ++ rests).map (·.hi))
  let loMin : Option Int := match w.getLast? with
    | none => none
    | some e => some (w.foldl (fun m x => min m x.lo) e.lo)
  let above := fun (x : Int) => match loMin with
    | none => true
    | some m => decide (x < m)
  let wAt := w.filter fun e => loMin == some e.lo
  let rAt := (out ++ rests).filter fun e => e.hi == b
  let proven0 := above b || b == keyMin
  let proven := if loMin = some b ∧ (wAt ++ rAt).all (fun e => e.exact) = true then
      wAt.all fun x => rAt.all fun y => decide (x.pos < y.pos)
    else proven0
  let atLeast := fun (x : Int) => match loMin with
    | none => false
    | some m => decide (m ≤ x)
  let rest : LEnt :=
    let ex := rAt.all fun e => e.exact
    ⟨if ex then ((listMin (rAt.map (·.pos))).getD 0) else 0, false, ex, false,
      rAt.any fun e => e.inexact, keyMin, b⟩
  let record := (w ++ List.replicate (k - w.length) LEnt.none ++ [rest]).map fun (e : LEnt) =>
    { e with unproven := !proven }
  { record := record
    proven := proven
    positions := if proven then [] else
      (w.filter fun e => decide (e.lo ≤ b)).map (·.pos) ++
        (out.filter fun e => atLeast e.hi).map (·.pos)
    lists := if proven then 0 else
      (ins.zipIdx).foldl (fun m x => m + b2n (atLeast x.1.2.hi) * 2 ^ x.2) 0 }

/-- R291: a request record of stride `n`. -/
def Merged.request (m : Merged) (n : Nat) : List Byte :=
  let l := leBytes 8 (m.positions.length % 2 ^ 16) ++ leBytes 8 m.lists ++
    m.positions.flatMap fun p => leBytes 4 p
  l ++ List.replicate (n - l.length) 0

end Sys2Proof.Machine
end

