-- ==== Sys2Proof/Machine/Units.lean ====
section
/-! DEFINITION. What the units of a cluster share: the generator state and the stream length an
operation runs with (R844 to R846), rows of tensors with their exponents (R55, R399), and TILE_READ,
TILE_WRITE, the movers and MASK_GEN. -/

namespace Sys2Proof.Machine

/-! ### The buffer an operation belongs to -/

/-- The entry of the slot that an operation runs in. -/
def State.entryOf (s : State) (o : OpRec) : Option Entry :=
  (s.slot? o.slot).bind fun x => s.entry? x.entry

/-- The generator state captured for the buffer (R132). -/
def State.genFor (s : State) (o : OpRec) : Gen := ((s.entryOf o).map (·.gen)).getD Gen.zero

/-- The stream's protection domain. -/
def State.domainOf (s : State) (o : OpRec) : Nat :=
  ((s.entryOf o).map fun e => (s.stream e.stream).domain).getD 0

/-- R844: an operation with this elastic tag opts in to elastic precision. -/
def State.optsIn (s : State) (o : OpRec) (tag : Nat) : Bool :=
  s.elasticOn && bitOf (s.fld Reg.PWR_ELASTIC_CTRL 15 0) (s.domainOf o) && bitOf tag 15

/-- R845: the stream length in force for an operation whose word gives `len`. -/
def State.lenFor (s : State) (o : OpRec) (tag len : Nat) : Nat :=
  let e := ((s.entryOf o).bind fun e => e.buf.map (·.elastic)).getD 0
  if e ≠ 0 ∧ s.optsIn o tag = true then max 16 (16 * (len / (16 * 2 ^ e))) else len

/-! ### Rows of tensors -/

/-- `n` elements of a row of SP16 or A48 elements, as raw words, from column `c` on. -/
def Ctx.rowElems (x : Ctx) (d : DReg) (r c n : Nat) : Ctx × List Nat :=
  let w := if d.elem = 1 then 8 else 2
  let a := x.read false (d.elemUda r c) (w * n)
  (a.1, wordsOf w a.2)

/-- The exponents of `n` elements of a row (R54, R55). -/
def Ctx.rowExps (x : Ctx) (d : DReg) (r c n : Nat) : Ctx × List Int :=
  if d.block64 then
    let b0 := c / 64
    let a := x.read false (d.expUda + r * d.expStride + b0) ((c + n - 1) / 64 + 1 - b0)
    (a.1, (upto n).map fun i => signedOf 8 (leAt a.2 ((c + i) / 64 - b0) 1))
  else (x, List.replicate n d.eRef)

/-- `n` bits of a row of a BIT tensor (R122). -/
def Ctx.rowBits (x : Ctx) (d : DReg) (r c n : Nat) : Ctx × List Bool :=
  let b0 := c / 8
  let a := x.read false (d.elemUda r c) ((c + n - 1) / 8 + 1 - b0)
  (a.1, (upto n).map fun i => bitOf (leAt a.2 ((c + i) / 8 - b0) 1) ((c + i) % 8))

/-- The registers an operation names, with its first one. -/
def OpRec.reg (o : OpRec) (n : Nat) : Option DReg := drOf o.drsNow n

/-! ### TILE_READ and TILE_WRITE -/

/-- R193, R235, R487: a TILE_READ. -/
def tileReadBody (o : OpRec) (c : Ctx) : Ctx :=
  let t := bits o.word 67 64
  let x := c.s.tile o.node t
  let a16 := bitOf o.word 70
  let j := x.slot (bits o.word 69 68)
  if c.s.tileAllowed o.node t (c.s.domainOf o) = false then c.bad .tileDenied
  else if x.holds (bits o.word 69 68) a16 = false then c.bad .slotMismatch
  else if j.oneShift a16 = false then c.bad .shiftMixed
  else c.write false true o.uda (j.bytes a16)

/-- R193: TILE_READ. -/
def execTileRead (slot : Fin 8) (node : Fin 9) (ph : Phase) (v : View) (s : State) : SeqOut :=
  .next (s.unitOp slot node ph v (fun w => opCode w == 0x09) tileReadBody)

/-- R185, R194, R487: a TILE_WRITE. -/
def tileWriteBody (o : OpRec) (c : Ctx) : Ctx :=
  let t := bits o.word 67 64
  let fmt := if bitOf o.word 70 then 0 else 1
  if c.s.tileAllowed o.node t (c.s.domainOf o) = false then c.bad .tileDenied
  else
    let r := c.read false o.uda (tileBytes fmt)
    if r.1.err.isSome then r.1
    else if (tileHdr r.2).ok [0, 1] = false ∨ (tileHdr r.2).format ≠ fmt then r.1.bad .tileInvalid
    else
      let s := r.1.s.switchTile o.node t (bitOf o.word 70)
      { r.1 with
        s := s.setTile o.node t ((s.tile o.node t).setSlot (bits o.word 69 68) (slotOfBytes r.2)) }

/-- R194: TILE_WRITE. -/
def execTileWrite (slot : Fin 8) (node : Fin 9) (ph : Phase) (v : View) (s : State) : SeqOut :=
  .next (s.unitOp slot node ph v (fun w => opCode w == 0x0A) tileWriteBody)

/-! ### Movers -/

/-- MOVE rows by KIND. -/
def isMove (k : Nat) (w : Nat) : Bool := opCode w == 0x03 && (moveWord w).kind == k

/-- Source and destination registers of a MOVE in this repetition. -/
def OpRec.ends (o : OpRec) : Option (DReg × DReg) :=
  let f := moveWord o.word
  match o.reg f.src, o.reg f.dst with
  | some a, some b => some (a, b)
  | _, _ => none

/-- R323: COPY; onto itself it is defined (R326). -/
def moveCopyBody (o : OpRec) (c : Ctx) : Ctx :=
  match o.ends with
  | some (a, b) =>
    let r := c.read false a.uda (moveWord o.word).bytes
    (if a.uda = b.uda then r.1.unnoted c else r.1).write false true b.uda r.2
  | none => c.bad .descInvalid

/-- R323: MOVE COPY. The reserved kinds 6 and 7 fault at this row's issue. -/
def execMoveCopy (slot : Fin 8) (node : Fin 9) (ph : Phase) (v : View) (s : State) : SeqOut :=
  .next (s.unitOp slot node ph v (fun w => isMove 0 w || isMove 6 w || isMove 7 w) moveCopyBody)

/-- R323: STRIDED, row by row. -/
def moveStridedBody (o : OpRec) (c : Ctx) : Ctx :=
  match o.ends with
  | some (a, b) =>
    (upto a.rows).foldl (fun (c : Ctx) r =>
      let x := c.read false (a.uda + r * a.rowStride) a.rowBytes
      x.1.write false true (b.uda + r * b.rowStride) x.2) c
  | none => c.bad .descInvalid

/-- R323: MOVE STRIDED. -/
def execMoveStrided (slot : Fin 8) (node : Fin 9) (ph : Phase) (v : View) (s : State) : SeqOut :=
  .next (s.unitOp slot node ph v (isMove 1) moveStridedBody)

/-- R323: TRANSPOSE: the source is read row by row, then the destination is written row by row. -/
def moveTransposeBody (o : OpRec) (c : Ctx) : Ctx :=
  match o.ends with
  | some (a, b) =>
    let r := (upto a.rows).foldl (fun (q : Ctx × List (List Byte)) r =>
      let x := q.1.read false (a.uda + r * a.rowStride) a.rowBytes
      (x.1, q.2 ++ [x.2])) (c, [])
    (upto b.rows).foldl (fun (c : Ctx) j =>
      c.write false true (b.uda + j * b.rowStride) (r.2.flatMap fun l => (l.drop (2 * j)).take 2)) r.1
  | none => c.bad .descInvalid

/-- R323: MOVE TRANSPOSE. -/
def execMoveTranspose (slot : Fin 8) (node : Fin 9) (ph : Phase) (v : View) (s : State) : SeqOut :=
  .next (s.unitOp slot node ph v (isMove 2) moveTransposeBody)

/-- R323, R324: GATHER: the rows that a table of indices names, up to the first index out of
range. -/
def gatherRows (a b : DReg) : List Nat → Nat → Ctx → Ctx
  | [], _, c => c
  | i :: t, x, c =>
    if a.rows ≤ i then c.bad .gatherIndex
    else
      let r := c.read false (a.uda + i * a.rowStride) a.rowBytes
      gatherRows a b t (x + 1) (r.1.write false true (b.uda + x * b.rowStride) r.2)

/-- R324. The table's area does not advance (R426). A table that is still on its way from a remote
device is waited for. -/
def moveGatherBody (o : OpRec) (c : Ctx) : Ctx :=
  match o.ends, drOf o.drs (moveWord o.word).idx with
  | some (a, b), some i =>
    let r := c.readWords false i.uda 4 b.rows
    if r.1.err.isSome ∨ r.1.miss ≠ [] ∨ r.1.stall = true then r.1 else gatherRows a b r.2 0 r.1
  | _, _ => c.bad .descInvalid

/-- R324: MOVE GATHER. -/
def execMoveGather (slot : Fin 8) (node : Fin 9) (ph : Phase) (v : View) (s : State) : SeqOut :=
  .next (s.unitOp slot node ph v (isMove 3) moveGatherBody)

/-- R323, R467: FILL. -/
def moveFillBody (o : OpRec) (c : Ctx) : Ctx :=
  let f := moveWord o.word
  match o.reg f.dst with
  | some b =>
    c.write false true b.uda
      ((List.replicate (f.bytes / 8) (leBytes 8 f.pattern)).flatten)
  | none => c.bad .descInvalid

/-- R323: MOVE FILL. -/
def execMoveFill (slot : Fin 8) (node : Fin 9) (ph : Phase) (v : View) (s : State) : SeqOut :=
  .next (s.unitOp slot node ph v (isMove 4) moveFillBody)

/-- R323, R236: A48_ADD. -/
def moveA48AddBody (o : OpRec) (c : Ctx) : Ctx :=
  match o.ends with
  | some (a, b) =>
    let r := c.readWords false a.uda 8 ((moveWord o.word).bytes / 8)
    r.1.a48 o.node b.uda r.2
  | none => c.bad .descInvalid

/-- R323: MOVE A48_ADD. -/
def execMoveA48Add (slot : Fin 8) (node : Fin 9) (ph : Phase) (v : View) (s : State) : SeqOut :=
  .next (s.unitOp slot node ph v (isMove 5) moveA48AddBody)

/-! ### MASK_GEN -/

/-- R482: a MASK: the packed bits of every row, the bits beyond COLS 0. -/
def maskBody (o : OpRec) (c : Ctx) : Ctx :=
  match o.reg (bits o.word 76 72) with
  | some d =>
    let seed := (c.s.genFor o).mask
    let tag := bits o.word 111 96
    let keep := bits o.word 144 128
    (upto d.rows).foldl (fun (c : Ctx) r =>
      c.write false true (d.uda + r * d.rowStride) ((upto d.rowBytes).map fun b =>
        BitVec.ofNat 8 ((upto 8).foldl (fun m i =>
          m + b2n (decide (8 * b + i < d.cols) &&
            maskBit seed tag (d.originR + r) (d.originC + 8 * b + i) keep) * 2 ^ i) 0))) c
  | none => c.bad .descInvalid

/-- R482: MASK_GEN MASK. -/
def execMaskGenMask (slot : Fin 8) (node : Fin 9) (ph : Phase) (v : View) (s : State) : SeqOut :=
  .next (s.unitOp slot node ph v (fun w => opCode w == 0x07 && !bitOf w 64) maskBody)

/-- R279: a noise value, before saturation. -/
def noiseVal (seed : Word64) (tag n j scale : Nat) : Int := gumbel seed tag n j * scale / (2 ^ 28 : Nat)

/-- Saturate to the range of v (R279). -/
def satV (a16 : Bool) (x : Int) : Int × Bool :=
  let m := vmaxOf a16
  if m < x then (m, true) else if x < -m - 1 then (-m - 1, true) else (x, false)

/-- R279, R482: the tiles of a NOISE_TILE; saturated values count in CL_EG_SAT. Cells outside the
region hold 0 (R177). -/
def noiseBody (o : OpRec) (c : Ctx) : Ctx :=
  let w := o.word
  match o.reg (bits w 76 72), o.reg (bits w 84 80) with
  | some d, some g =>
    let a16 := bitOf w 65
    let fold := bits w 68 66
    let mb := foldRows fold
    let nb := foldCols fold
    let nbc := cdiv g.cols nb
    let gen := c.s.genFor o
    let size := tileBytes (if a16 then 0 else 1)
    (upto (cdiv g.rows mb * nbc)).foldl (fun (c : Ctx) b =>
      let r0 := b / nbc * mb
      let c0 := b % nbc * nb
      let val := fun (e : Nat) =>
        let r := r0 + e / nb
        let x := c0 + e % nb
        if r < g.rows ∧ x < g.cols then
          satV a16 (noiseVal gen.noise (bits w 111 96)
            ((gen.ctr.toNat + bits w 223 192 + r) % 2 ^ 64) (g.originC + x) (bits w 191 160))
        else (0, false)
      let vals := (upto 4096).map val
      let h : TileHdr :=
        { magic := 0x7A1E, format := if a16 then 0 else 1, shift := 0, fold := fold, flags := 0,
          originI := g.originR + r0, originJ := g.originC + c0, rows := min mb (g.rows - r0),
          cols := min nb (g.cols - c0), tag := g.tag }
      let x := if a16 then 2 else 4
      let c := c.write false true (d.uda + b * size)
        (h.bytes ++ (vals.flatMap fun v => leBytes x (unsignedOf (8 * x) v.1)) ++
          List.replicate 512 0)
      { c with s := c.s.bump (clReg o.node Reg.CL_EG_SAT) (vals.filter fun v => v.2).length }) c
  | _, _ => c.bad .descInvalid

/-- R279: MASK_GEN NOISE_TILE. -/
def execMaskGenNoiseTile (slot : Fin 8) (node : Fin 9) (ph : Phase) (v : View) (s : State) :
    SeqOut :=
  .next (s.unitOp slot node ph v (fun w => opCode w == 0x07 && bitOf w 64) noiseBody)

end Sys2Proof.Machine
end

