-- ==== Sys2Proof/Machine/Egress.lean ====
section
/-! DEFINITION. The egress unit (chapter 06): EGRESS (R259 to R278, R469 to R474), TOPK (R475 to
R477) and TOPK_MERGE (R290, R291, R478 to R480). -/

namespace Sys2Proof.Machine

/-! ### Sources -/

/-- A source block of an EGRESS: its place and extent, and each cell's count, inexact mark and RANGE
(R261 to R263). -/
structure Source where
  fold : Nat
  i0 : Nat
  j0 : Nat
  rows : Nat
  cols : Nat
  count : List (Int × Bool × Bool)
  deriving Repr

/-- R261: slot `j` of a tile as a source. -/
def slotSource (x : TileSlot) (a16 : Bool) : Source :=
  { fold := x.fold, i0 := x.originI, j0 := x.originJ, rows := x.rows, cols := x.cols,
    count := (upto 4096).map fun e =>
      let c := x.cell a16 e
      (c.v * (2 ^ c.s : Nat), c.i, false) }

/-- R262, R97: the bytes of a tile as a source. -/
def tileSource (fmt : Nat) (l : List Byte) : Source :=
  let h := tileHdr l
  { fold := h.fold, i0 := h.originI, j0 := h.originJ, rows := h.rows, cols := h.cols,
    count :=
      if fmt = 2 then (wordsOf 8 (l.drop 64)).map fun w => ((a48Val w).1, bitOf w 63, (a48Val w).2)
      else (tileCells fmt h.shift l).map fun c => (c.v * (2 ^ c.s : Nat), c.i, false) }

/-- R262: a tile's header is good for the operation. -/
def egTileOk (fmt : Nat) (h : TileHdr) : Bool :=
  h.ok [0, 1, 2] && h.format == fmt && (fmt != 2 || h.shift == 0)

/-- R190, R262, R474: the sources of an EGRESS, all checked before any output. -/
def Ctx.egSources (c : Ctx) (o : OpRec) (f : EgWord) : Ctx × List Source :=
  if f.tile then
    match o.reg f.drTile with
    | none => (c.bad .descInvalid, [])
    | some d =>
      (upto f.maskOrN).foldl (fun (q : Ctx × List Source) b =>
        let r := q.1.read false (d.uda + b * tileBytes f.slotOrFmt) (tileBytes f.slotOrFmt)
        if r.1.err.isNone && r.1.miss == [] && !egTileOk f.slotOrFmt (tileHdr r.2) then
          (r.1.bad .tileInvalid, q.2)
        else (r.1, q.2 ++ [tileSource f.slotOrFmt r.2])) (c, [])
  else
    let ts := maskTiles f.maskOrN
    if ts.any (fun t => !c.s.tileAllowed o.node t (c.s.domainOf o)) then (c.bad .tileDenied, [])
    else if ts.any (fun t => decide ((c.s.tile o.node t).count ≤ f.slotOrFmt)) then
      (c.bad .slotMismatch, [])
    else (c, ts.map fun t =>
      slotSource ((c.s.tile o.node t).slot f.slotOrFmt) (c.s.tile o.node t).a16)

/-- R270: the shaper table; false where its X do not rise. -/
def shaperTable (l : List Byte) : List ShapeEntry × Bool :=
  let t := (chunks 16 32 l).map fun e =>
    (signedOf 48 (leAt e 0 6), signedOf 48 (leAt e 6 6), signedOf 32 (leAt e 12 4))
  let xs := (t.drop 1).map (·.1)
  (t, (List.zip xs (xs.drop 1)).all fun p => decide (p.1 < p.2))

/-! ### The pipeline over one row of a block -/

/-- What every element of an EGRESS shares. -/
structure EgEnv where
  f : EgWord
  cl : Nat
  d : DReg
  fd : Option DReg
  md : Option DReg
  len : Nat
  gen : Gen
  er : List Byte
  ec : List Byte
  shaper : List ShapeEntry
  deriving Repr

/-- What an EGRESS has gathered: saturated elements, RANGE_ANY, INEXACT_ANY, elements written, and the
candidates of each row. -/
structure EgAcc where
  sat : Nat
  range : Bool
  inexact : Bool
  elems : Nat
  cands : List (Nat × LEnt)
  deriving Repr

/-- The part of a register that a block needs, and whether it is covered (R470, R474). -/
def covers (d : DReg) (i0 j0 rows cols : Nat) : Bool :=
  decide (d.originR ≤ i0) && decide (i0 + rows ≤ d.originR + d.rows) &&
  decide (d.originC ≤ j0) && decide (j0 + cols ≤ d.originC + d.cols)

/-- R474: a block lies within the output and the operands that must cover it. -/
def EgEnv.inside (g : EgEnv) (x : Source) : Bool :=
  covers g.d x.i0 x.j0 x.rows x.cols &&
  (match g.fd with
   | none => true
   | some d =>
     match g.f.fbcast with
     | 1 => decide (d.originC ≤ x.j0) && decide (x.j0 + x.cols ≤ d.originC + d.cols)
     | 2 => decide (d.originR ≤ x.i0) && decide (x.i0 + x.rows ≤ d.originR + d.rows)
     | _ => covers d x.i0 x.j0 x.rows x.cols) &&
  (match g.md with
   | none => true
   | some d => covers d x.i0 x.j0 x.rows x.cols)

/-- R267: the fused elements of row `i` from column `j0` on, with their exponents. Those read through
a descriptor identical to the output's are no overlap of it (R295). -/
def EgEnv.fused (g : EgEnv) (c : Ctx) (i j0 n : Nat) : Ctx × List (Int × Int) :=
  match g.fd with
  | none => (c, [])
  | some d =>
    let row := if g.f.fbcast = 1 then 0 else i - d.originR
    let col := if g.f.fbcast = 2 then 0 else j0 - d.originC
    let k := if g.f.fbcast = 2 then 1 else n
    let a := c.rowElems d row col k
    let a := if d = g.d ∧ g.f.fbcast = 0 then (a.1.unnoted c, a.2) else a
    let b := a.1.rowExps d row col k
    let l := (List.zip a.2 b.2).map fun x => (sp16Val x.1, x.2)
    (b.1, if g.f.fbcast = 2 then List.replicate n (l.headD (0, 0)) else l)

/-- R122, R267: the mask bits of row `i` from column `j0` on. -/
def EgEnv.masks (g : EgEnv) (c : Ctx) (i j0 n : Nat) : Ctx × List Bool :=
  if g.f.mask = false then (c, [])
  else
    match g.md with
    | some d => c.rowBits d (i - d.originR) (j0 - d.originC) n
    | none => (c, (upto n).map fun x => maskBit g.gen.mask g.f.maskTag i (j0 + x) g.f.keep)

/-- R267: the egress value of an element. -/
def EgEnv.value (g : EgEnv) (cnt ep eo : Int) (fu : Option (Int × Int)) (mk : Option Bool) :
    Int × Bool :=
  let a := egScale cnt ep eo g.len
  let b := match fu with
    | none => (a.1, false)
    | some (m, e) => egFuse (g.f.fuse == 1) a.1 m e eo
  let c := if g.f.shape then egShape g.shaper b.1 else (b.1, false)
  let d := egMask (mk.map fun k => (k, g.f.surv)) c.1
  (d.1, a.2 || b.2 || c.2 || d.2)

/-- R268, R245, R127: requantize an element for the output. SP16_ADD always draws its rounding word
(R143). -/
def EgEnv.quant (g : EgEnv) (i j : Nat) (z : Int) : Nat × Bool :=
  requant z (if g.f.nearest && g.f.outKind != 3 then none
    else some (roundWord g.gen.round g.d.tag (if g.f.outKind = 3 then 2 else 1) i j
      (if g.f.outKind = 3 then 0 else g.f.rqStep)))

/-- R83, R261: a count as an A48 word and whether it saturated. -/
def countWord (cnt : Int) (inexact range : Bool) : Nat × Bool :=
  let x := sat48 cnt
  (a48Word x.1 (range || x.2) inexact, x.2)

/-- One write of `n` elements, `sat` of them saturated: they count once it is made (R303). -/
def putOne (q : Ctx × Nat × Nat) (n sat : Nat) (put : Ctx → Ctx) : Ctx × Nat × Nat :=
  if q.1.err.isSome then q
  else
    let c := put q.1
    (c, if c.err.isSome then q.2 else (q.2.1 + n, q.2.2 + sat))

/-- R264: put elements at consecutive places, each given as its SP16 element, its A48 word and
whether it saturated; answers how many were put and how many of those saturated. -/
def EgEnv.put (g : EgEnv) (c : Ctx) (u : Nat) (l : List (Nat × Nat × Bool)) : Ctx × Nat × Nat :=
  let sats (l : List (Nat × Nat × Bool)) := (l.filter fun y => y.2.2).length
  match g.f.outKind with
  | 0 => putOne (c, 0, 0) l.length (sats l) fun c =>
      c.write false true u (l.flatMap fun y => leBytes 2 y.1)
  | 1 => putOne (c, 0, 0) l.length (sats l) fun c =>
      c.write false true u (l.flatMap fun y => leBytes 8 y.2.1)
  | 2 => ((chunks 32 l.length l).zipIdx).foldl (fun q y =>
      putOne q y.1.length (sats y.1) fun c => c.a48One g.cl (u + 256 * y.2) (y.1.map (·.2.1)))
      (c, 0, 0)
  | _ => l.zipIdx.foldl (fun q y =>
      putOne q 1 (sats [y.1]) fun c => c.sp16 g.cl (u + 2 * y.2) y.1.1)
      (c.noteWrite u (2 * l.length), 0, 0)

/-- R263, R264: drain row `r` of a block, unless an error has ended the operation. RANGE_ANY is set by
a count that carried RANGE, by a key that saturates (R261), and by a count that saturates as it is
converted to an A48 word, which R272's table does not say (DESIGN CHOICE, log entry 89). -/
def EgEnv.row (g : EgEnv) (x : Source) (q : Ctx × EgAcc) (r : Nat) : Ctx × EgAcc :=
  if q.1.err.isSome then q else
  let i := x.i0 + r
  let row := i - g.d.originR
  let col := x.j0 - g.d.originC
  let n := x.cols
  let cnts := (x.count.drop (r * foldCols x.fold)).take n
  let ex := q.1.rowExps g.d row col n
  let fu := g.fused ex.1 i x.j0 n
  let mk := g.masks fu.1 i x.j0 n
  let c := mk.1
  let er := if g.f.er then signedOf 8 (leAt g.er row 1) else 0
  let plain := g.f.outKind == 0 || g.f.outKind == 3
  let vals := (List.zip cnts ex.2).zipIdx.map fun y =>
    let ec := if g.f.ec then signedOf 8 (leAt g.ec (col + y.2) 1) else 0
    if plain then g.value y.1.1.1 (g.f.epBase + er + ec) y.1.2
      (if g.f.fuse = 0 then none else fu.2[y.2]?) (if g.f.mask then mk.2[y.2]? else none)
    else (0, false)
  let outs := vals.zipIdx.map fun y =>
    if plain && !g.f.noWrite then g.quant i (x.j0 + y.2) y.1.1 else (0, false)
  let words := cnts.map fun y => countWord y.1 y.2.1 y.2.2
  let put := (List.zip outs (List.zip words vals)).map fun y =>
    (y.1.1, y.2.1.1, y.1.2 || y.2.2.2)
  let keys := (List.zip cnts vals).map fun y =>
    if g.f.keyValue then (y.2.1, false) else sat48 y.1.1
  let convSat := (!plain && words.any fun y => y.2) || (g.f.k != 0 && keys.any fun y => y.2)
  let w := if g.f.noWrite then (c, 0, (put.filter fun y => y.2.2).length)
    else g.put c (g.d.elemUda row col) put
  let a := q.2
  (w.1,
      { sat := a.sat + w.2.2
        range := a.range || convSat || cnts.any fun y => y.2.2
        inexact := a.inexact || cnts.any fun y => y.2.1
        elems := a.elems + w.2.1
        cands := if g.f.k = 0 then a.cands else
          a.cands ++ (List.zip cnts keys).zipIdx.map fun y =>
            (row, LEnt.mk (x.j0 + y.2) true true false y.1.1.2.1 y.1.2.1 y.1.2.1) })

/-- R294, R474: drain the blocks in order. One that leaves the registers faults before any of its
elements is written. -/
def EgEnv.blocks (g : EgEnv) : List Source → Ctx × EgAcc → Ctx × EgAcc
  | [], q => q
  | x :: t, q =>
    if g.inside x then g.blocks t ((upto x.rows).foldl (g.row x) q)
    else (q.1.bad .descInvalid, q.2)

/-! ### EGRESS -/

/-- R274, R472: the list merged in, if any: its rows by number; none where its header does not
match. The list written has T_STOP := L whatever the input's (R472). Entries of a margin-stopped list
compete by their LO, as R290 ranks intervals: R274 does not say (DESIGN CHOICE, log entry 89). That the
list is read where it is then written is no overlap of areas. -/
def Ctx.listIn (c : Ctx) (u : Nat) (h : LHdr) : Ctx × Option (LHdr × List (List LEnt × LEnt)) :=
  let r := c.read false u (64 + h.rows * (h.k + 1) * 16)
  let x := lhdrOf r.2
  let d := r.1.unnoted c
  if d.miss ≠ [] ∨ d.stall = true ∨ d.err.isSome = true then (d, some (h, []))
  else if x.1 = 0x7A2C ∧ { x.2 with stop := h.stop } = h then (d, some (h, rowsOfList h r.2))
  else (d.bad .topkInvalid, none)

/-- R275, R278: write a list from candidates by row and the list merged in. -/
def Ctx.listOut (c : Ctx) (cl u : Nat) (h : LHdr) (old : List (List LEnt × LEnt))
    (cands : List (Nat × LEnt)) : Ctx :=
  let rows := (upto h.rows).map fun r =>
    let prev := old[r]?
    rowRecord h.k
      (((prev.map fun p => p.1.filter fun e => e.valid).getD []) ++
        (cands.filter fun y => y.1 == r).map (·.2))
      ((prev.map fun p => [p.2]).getD [])
  let c := c.write false true u (h.bytes ++ rows.flatMap recordBytesOf)
  if c.err.isSome then c else { c with s := c.s.bump (clReg cl Reg.CL_TOPK_ROWS) h.rows }

/-- Read an optional vector of a register. -/
def Ctx.vector (c : Ctx) (on : Bool) (d : Option DReg) (n : Nat) : Ctx × List Byte :=
  match on, d with
  | true, some d => c.read false d.uda n
  | _, _ => (c, [])

/-- R259 to R278: one EGRESS. -/
def egressBody (o : OpRec) (c : Ctx) : Ctx :=
  let f := egWord o.word
  match o.reg f.drOut, precLen (bitOf o.word 124) (bits o.word 123 112) with
  | some d, some len =>
    let len := c.s.lenFor o d.tag len
    let src := c.egSources o f
    let sh := src.1.vector f.shape (o.reg f.drShaper) 512
    let tab := shaperTable sh.2
    let c := if f.shape && !tab.2 && sh.1.err.isNone && sh.1.miss == [] then sh.1.bad .shaperInvalid
      else sh.1
    let h : LHdr := ⟨f.k, b2n f.keyValue, d.rows, f.epBase, d.originR, len, len⟩
    let lu := ((o.reg f.drTopk).map (·.uda)).getD 0
    let old := if f.mergeIn then c.listIn lu h else (c, some (h, []))
    let er := old.1.vector f.er (o.reg f.drEr) d.rows
    let ec := er.1.vector f.ec (o.reg f.drEc) d.cols
    if ec.1.err.isSome ∨ ec.1.miss ≠ [] ∨ ec.1.stall = true then ec.1
    else
      let g : EgEnv :=
        { f := f, cl := o.node, d := d, fd := if f.fuse = 0 then none else o.reg f.drF,
          md := if f.mask && f.maskTensor then o.reg f.drMask else none, len := len,
          gen := c.s.genFor o, er := er.2, ec := ec.2, shaper := tab.1 }
      let r := g.blocks src.2 (ec.1, ⟨0, false, false, 0, []⟩)
      let c := match old.2 with
        | some (h, l) => if f.k = 0 then r.1 else r.1.listOut o.node lu h l r.2.cands
        | none => r.1
      let t := (c.s.bump64 (clReg o.node Reg.CL_EG_ELEMS) r.2.elems).bump
        (clReg o.node Reg.CL_EG_SAT) r.2.sat
      let c : Ctx := { c with s := t }
      if f.status then
        match o.reg f.drStatus with
        | some t => c.writeLast t.uda (leBytes 8 (egStatus r.2.sat r.2.range r.2.inexact))
        | none => c.bad .descInvalid
      else c
  | _, _ => c.bad .descInvalid

/-- R267: EGRESS. -/
def execEgress (slot : Fin 8) (node : Fin 9) (ph : Phase) (v : View) (s : State) : SeqOut :=
  .next (s.unitOp slot node ph v (fun w => opCode w == 0x04) egressBody)

/-! ### TOPK -/

/-- R476, R477: the candidates of a row of a tensor, EXACT unless the count carried INEXACT. -/
def Ctx.topkRow (c : Ctx) (d : DReg) (r : Nat) : Ctx × List LEnt :=
  let a := c.rowElems d r 0 d.cols
  let b := a.1.rowExps d r 0 d.cols
  (b.1, (List.zip a.2 b.2).zipIdx.map fun y =>
    if d.elem = 1 then
      let k := (a48Val y.1.1).1
      let i := bitOf y.1.1 63
      ⟨d.originC + y.2, true, !i, false, i, k, k⟩
    else
      let k := (sat48 (scaleFloor (sp16Val y.1.1) (16 + y.1.2 - d.eRef) 1)).1
      ⟨d.originC + y.2, true, true, false, false, k, k⟩)

/-- R475 to R477: one TOPK. -/
def topkBody (o : OpRec) (c : Ctx) : Ctx :=
  let w := o.word
  match o.reg (bits w 68 64), o.reg (bits w 76 72), precLen (bitOf w 108) (bits w 107 96) with
  | some d, some t, some len =>
    let len := c.s.lenFor o d.tag len
    let h : LHdr := ⟨bits w 93 88, if d.elem = 1 then 0 else 1, d.rows, signedOf 10 (bits w 121 112),
      d.originR, len, len⟩
    let old := if bitOf w 69 then c.listIn t.uda h else (c, some (h, []))
    let rows := (upto d.rows).foldl (fun (q : Ctx × List (Nat × LEnt) × Bool) r =>
      let x := q.1.topkRow d r
      (x.1, q.2.1 ++ x.2.map fun e => (r, e), q.2.2)) (old.1, [], false)
    let rng := if d.elem = 1 then
        (upto d.rows).any fun r => ((rows.1.rowElems d r 0 d.cols).2).any fun x => (a48Val x).2
      else false
    let c := match old.2 with
      | some (h, l) => rows.1.listOut o.node t.uda h l rows.2.1
      | none => rows.1
    if bitOf w 70 then
      match o.reg (bits w 84 80) with
      | some st => c.writeLast st.uda
          (leBytes 8 (egStatus 0 rng (rows.2.1.any fun y => y.2.inexact)))
      | none => c.bad .descInvalid
    else c
  | _, _, _ => c.bad .descInvalid

/-- R476: TOPK. -/
def execTopk (slot : Fin 8) (node : Fin 9) (ph : Phase) (v : View) (s : State) : SeqOut :=
  .next (s.unitOp slot node ph v (fun w => opCode w == 0x05) topkBody)

/-! ### TOPK_MERGE -/

/-- R480: relocate the references of an input table in order; each list lies in local DRAM or in a
plate store. -/
def Ctx.relocateTable (c : Ctx) (e : OpEnv) (ext : Nat) : List Nat → Ctx × List Nat
  | [] => (c, [])
  | r :: t =>
    let x := c.relocate e ⟨r, ext, true, false, false⟩
    let y := if x.1.err.isNone && !(regionOf x.2 == .dram || regionOf x.2 == .plate) then
        x.1.bad .opInvalid
      else x.1
    let z := y.relocateTable e ext t
    (z.1, x.2 :: z.2)

/-- The environment an operation's references are relocated in. -/
def State.envFor (s : State) (o : OpRec) : Option OpEnv :=
  match s.entryOf o with
  | some e => e.buf.map fun b => s.opEnv e b o.node
  | none => none

/-- R290: the headers of the inputs agree with each other and with the operation. -/
def headersOk (k rows : Nat) : List (Nat × LHdr) → Bool
  | [] => false
  | x :: t => (x :: t).all fun y =>
      y.1 == 0x7A2C && y.2.k == k && y.2.rows == rows && { y.2 with stop := 0 } == { x.2 with stop := 0 }

/-- R290, R291: one TOPK_MERGE. -/
def mergeBody (o : OpRec) (c : Ctx) : Ctx :=
  let w := o.word
  let k := bits w 109 104
  let rows := bits w 120 112
  let size := 64 + rows * (k + 1) * 16
  match o.reg (bits w 68 64), o.reg (bits w 76 72), o.reg (bits w 84 80), c.s.envFor o with
  | some t, some out, some req, some env =>
    let tab := c.readWords false t.uda 8 (bits w 101 96 + 1)
    if tab.1.err.isSome ∨ tab.1.miss ≠ [] ∨ tab.1.stall = true then tab.1
    else
      let rel := tab.1.relocateTable env size tab.2
      let ins := rel.2.foldl (fun (q : Ctx × List (List Byte)) u =>
        let r := q.1.read false u size
        (r.1, q.2 ++ [r.2])) (rel.1, [])
      if ins.1.err.isSome then ins.1
      else if headersOk k rows (ins.2.map lhdrOf) = false then ins.1.bad .topkInvalid
      else
        let hs := ins.2.map fun l => (lhdrOf l).2
        let h0 : LHdr := (hs.headD ⟨k, 0, rows, 0, 0, 0, 0⟩)
        let h := { h0 with stop := ((listMin (hs.map (·.stop))).getD 0) }
        let recs := ins.2.map fun l => rowsOfList h l
        let ms := (upto rows).map fun r =>
          mergeRow k (recs.map fun x => (x[r]?).getD ([], LEnt.none))
        let c := ins.1.write false true out.uda
          (h.bytes ++ ms.flatMap fun m => recordBytesOf m.record)
        let c := c.write false true req.uda (ms.flatMap fun m => m.request (reqStride k))
        let c := if c.err.isSome then c
          else { c with s := c.s.bump (clReg o.node Reg.CL_TOPK_ROWS) rows }
        if bitOf w 69 then
          match o.reg (bits w 92 88) with
          | some st =>
            let p := (ms.filter fun m => m.proven).length
            c.writeLast st.uda (leBytes 8 (p + (rows - p) * 2 ^ 16))
          | none => c.bad .descInvalid
        else c
  | _, _, _, _ => c.bad .descInvalid

/-- R290: TOPK_MERGE. -/
def execTopkMerge (slot : Fin 8) (node : Fin 9) (ph : Phase) (v : View) (s : State) : SeqOut :=
  .next (s.unitOp slot node ph v (fun w => opCode w == 0x06) mergeBody)

end Sys2Proof.Machine
end

