-- ==== Sys2Proof/Machine/Matmul.lean ====
section
/-! DEFINITION. Matmul-type operations (chapters 02, 04, 05): their blocks, passes and steps, the
group sums of an array step, spills, overflow rewinds and margin stop. -/

namespace Sys2Proof.Machine

/-! ### Settings in force -/

/-- R845: the P in force at a shorter length: at most L′, and rather than a P that would not divide
L′ the greatest power of two below it that does (log entry 40). -/
def pFor (p len : Nat) : Nat :=
  let q := min p len
  if q = 0 then len
  else if len % q = 0 then q
  else (upto 16).foldl (fun b i => if 2 ^ i ≤ q ∧ len % 2 ^ i = 0 then 2 ^ i else b) 1

/-- The operation as it runs: the settings of its word at the length in force. -/
def State.matNow (s : State) (o : OpRec) : Option MatCfg :=
  (matOf o.word o.drsNow).map fun c =>
    let l := match o.mat with
      | some m => m.len
      | none => s.lenFor o c.w.outTag c.len
    { c with len := l, p := pFor c.p l }

/-- Positions per step (R158). -/
def MatCfg.wide (c : MatCfg) : Nat := 16 / c.g

/-- Terms of a pass (R178). -/
def MatCfg.passLen (c : MatCfg) (p : Nat) : Nat := min c.k ((p + 1) * c.kPass) - p * c.kPass

/-- Groups, and steps of one block, in a pass (R197). -/
def MatCfg.groups (c : MatCfg) (p : Nat) : Nat := cdiv (c.passLen p) c.g
def MatCfg.passSteps (c : MatCfg) (p : Nat) : Nat := c.groups p * (c.len / c.wide)

/-- Steps of one block in the whole operation. -/
def MatCfg.blockSteps (c : MatCfg) : Nat :=
  (c.npass - 1) * c.passSteps 0 + c.passSteps (c.npass - 1)

/-- Rounds of steps that a tile makes. -/
def MatCfg.rounds (c : MatCfg) (t : Nat) : Nat :=
  if c.streamed then c.locals t * c.blockSteps else c.blockSteps

/-- R161: the place of a round: pass, local block (STREAMED), chunk, group, and position within the
chunk, with whether it ends its group within the chunk, its chunk and its pass. -/
structure Step where
  pass : Nat
  loc : Nat
  chunk : Nat
  group : Nat
  w : Nat
  first : Bool
  endGroup : Bool
  endChunk : Bool
  endPass : Bool
  deriving Repr

/-- R161: decode a round number. -/
def MatCfg.stepAt (c : MatCfg) (t n : Nat) : Step :=
  let nl := if c.streamed then max 1 (c.locals t) else 1
  let p := n / (nl * c.passSteps 0)
  let m := n % (nl * c.passSteps 0)
  let l := m / c.passSteps p
  let m := m % c.passSteps p
  let wpc := c.p / c.wide
  let chunk := m / (c.groups p * wpc)
  let r := m % (c.groups p * wpc)
  { pass := p, loc := l, chunk := chunk, group := p * c.kPass / c.g + r / wpc, w := r % wpc,
    first := m == 0, endGroup := r % wpc + 1 == wpc, endChunk := r + 1 == c.groups p * wpc,
    endPass := m + 1 == c.passSteps p }

/-- First position of a step. -/
def MatCfg.tFirst (c : MatCfg) (x : Step) : Nat := x.chunk * c.p + x.w * c.wide

/-- A block: its number, the local row and column of its origin, and its rows and columns inside the
output region (R175). -/
structure BlockAt where
  b : Nat
  i : Nat
  j : Nat
  rows : Nat
  cols : Nat
  deriving Repr

/-- R175, R176: local block `l` of a tile. -/
def MatCfg.blockOf (c : MatCfg) (t l : Nat) : BlockAt :=
  let b := l * c.tiles.length + c.member t
  let br := if c.w.bcast = 2 then b % c.nbr else b / c.nbc
  let bc := if c.w.bcast = 2 then b / c.nbr else b % c.nbc
  { b := b, i := br * c.mb, j := bc * c.nb, rows := min c.mb (c.m - br * c.mb),
    cols := min c.nb (c.n - bc * c.nb) }

/-- The slot a local block occupies (R179, R180). -/
def MatCfg.slotOf (c : MatCfg) (l : Nat) : Nat := if c.streamed then 0 else c.w.slotBase + l

/-- Local blocks in flight. -/
def MatCfg.inFlight (c : MatCfg) (t n : Nat) : List Nat :=
  if c.streamed then [(c.stepAt t n).loc] else upto (c.locals t)

/-! ### Operands -/

/-- Whether an operand is aligned along the contraction (R58). -/
def alongK (d : DReg) (trans isB : Bool) : Bool := d.block64 && (trans == isB)

/-- Row and column of an operand's element with free index `f` and contraction index `k` (R462). -/
def operandAt (trans isB : Bool) (f k : Nat) : Nat × Nat := if trans == isB then (f, k) else (k, f)

/-- Sign and magnitude after alignment of an operand's element (R50, R58, R91). -/
def State.operandElem (s : State) (d : DReg) (trans isB : Bool) (f k : Nat) : Bool × Nat :=
  let (r, c) := operandAt trans isB f k
  let x := ofLeBytes (s.rawRead (d.elemUda r c) 2)
  let m := x % 32768
  let m := if alongK d trans isB then
      let e := signedOf 8 (ofLeBytes (s.rawRead (d.expUda + r * d.expStride + c / 64) 1))
      m / 2 ^ (d.eRef - e).toNat
    else m
  (bitOf x 15, m)

/-- The generator settings of one operand (R106, R108, R113). -/
structure StreamCfg where
  seed : Word64
  role : Nat
  tag : Nat
  decorr : Bool
  positional : Bool
  mode : DShiftMode
  dexp : Nat
  f0 : Nat
  k0 : Nat
  deriving Repr

/-- R108: DSM of an operand. -/
def dsMode (x : Nat) : DShiftMode := match x with
  | 0 => .keyed
  | 1 => .zero
  | _ => .explicit

/-- The settings of operands A and B. -/
def MatCfg.streamA (c : MatCfg) (g : Gen) : StreamCfg :=
  ⟨g.operand, 0, c.a.tag, c.w.decorrA, c.w.positional, dsMode c.w.dsmA, c.w.dshA, c.io, c.ko⟩
def MatCfg.streamB (c : MatCfg) (g : Gen) : StreamCfg :=
  ⟨g.operand, 1, c.b.tag, c.w.decorrB, c.w.positional, dsMode c.w.dsmB, c.w.dshB, c.jo, c.ko⟩

/-- R60: the stream bits of magnitude `m` at positions `t, …, t+n-1`. -/
def StreamCfg.bits (x : StreamCfg) (f k m t n : Nat) : List Bool :=
  if m = 0 then List.replicate n false
  else
    let kk := operandKey x.seed x.role x.tag (x.f0 + f) x.decorr
    (upto n).map fun i =>
      streamBit m (threshold kk x.role x.positional (x.k0 + k) (t + i) x.mode x.dexp)

/-- The terms of a group for one free index of an operand, as a feeder holds them: padded with
magnitude 0 at the end of the contraction (R160). -/
def State.groupElems (s : State) (c : MatCfg) (d : DReg) (trans isB : Bool) (f k0 : Nat) :
    List (Bool × Nat) :=
  (upto c.g).map fun j => if c.k ≤ k0 + j then (false, 0) else s.operandElem d trans isB f (k0 + j)

/-- Their signs and stream bits at the positions of a step (R157). -/
def StreamCfg.line (x : StreamCfg) (c : MatCfg) (f k0 t : Nat) (l : List (Bool × Nat)) :
    List (Bool × List Bool) :=
  l.zipIdx.map fun e => (e.1.1, x.bits f (k0 + e.2) e.1.2 t c.wide)

/-- R157: a group sum. -/
def groupSum : List (Bool × List Bool) → List (Bool × List Bool) → Int
  | a :: ta, b :: tb =>
    let n : Int := ((List.zip a.2 b.2).filter fun x => x.1 && x.2).length
    (if a.1 != b.1 then -n else n) + groupSum ta tb
  | _, _ => 0

/-! ### Loading operands -/

/-- R166, R168: read the elements of one group of a block from the plate store. Rows and columns of an
edge block that lie outside the output region are neither read nor counted (DESIGN CHOICE, log entry
89: R168 counts whole blocks and does not say). -/
def Ctx.feedOperand (x : Ctx) (c : MatCfg) (d : DReg) (trans isB : Bool) (f0 n k0 : Nat) : Ctx :=
  let len := min c.g (c.k - k0)
  if trans == isB then
    (upto n).foldl (fun (x : Ctx) r =>
      let y := (x.read false (d.elemUda (f0 + r) k0) (2 * len)).1
      if d.block64 then
        (y.read false (d.expUda + (f0 + r) * d.expStride + k0 / 64)
          ((k0 + len - 1) / 64 + 1 - k0 / 64)).1
      else y) x
  else (upto len).foldl (fun (x : Ctx) r => (x.read false (d.elemUda (k0 + r) f0) (2 * n)).1) x

/-- R168: the feeder window of an operand in a pass, in elements. -/
def MatCfg.window (c : MatCfg) (t : Nat) (x : Step) (isB : Bool) : Nat :=
  (if c.streamed then 1 else c.locals t) * (if isB then c.nb else c.mb) * c.passLen x.pass

/-- Where a feeder holds a group of terms: by local block, free index and group. -/
def feedKey (l f g : Nat) : Nat := (l * 2 ^ 32 + f) * 2 ^ 32 + g

/-- What a feeder holds of a group it has not loaded. -/
def feedD : Nat → List (Bool × Nat) := fun _ => []

/-- R168: a step loads a group of an operand: one that the feeder does not hold, and every group of a
window above 32768 elements at each chunk. -/
def MatCfg.loads (c : MatCfg) (t l : Nat) (x : Step) (isB : Bool) (m : SMap (List (Bool × Nat))) :
    Bool :=
  let k := c.blockOf t l
  (x.w == 0 && decide (32768 < c.window t x isB)) ||
    !(m.any fun y => y.1 == feedKey l (if isB then k.j else k.i) x.group)

/-- R169: the tile itself reads the operand from the plate store: of a broadcast one, the first. -/
def MatCfg.readsIt (c : MatCfg) (t : Nat) (isB : Bool) : Bool :=
  c.w.bcast != (if isB then 2 else 1) || c.member t == 0

/-- R166, R168: a feeder with the group of a step loaded: beside the rest of the pass where its window
holds at most 32768 elements, else beside the same group of other blocks alone. -/
def State.loadFeeder (s : State) (c : MatCfg) (t l : Nat) (x : Step) (isB : Bool)
    (m : SMap (List (Bool × Nat))) : SMap (List (Bool × Nat)) :=
  let k := c.blockOf t l
  let at' := if isB then (k.j, k.cols) else (k.i, k.rows)
  let m := if 32768 < c.window t x isB then m.filter fun y => y.1 % 2 ^ 32 == x.group else m
  (upto at'.2).foldl (fun m r =>
    SMap.set feedD m (feedKey l (at'.1 + r) x.group)
      (s.groupElems c (if isB then c.b else c.a) (if isB then c.w.transB else c.w.transA) isB
        (at'.1 + r) (x.group * c.g))) m

/-- An operand lies in the cluster's own plate store (R29, R166). -/
def State.feedable (s : State) (cl : Nat) (d : DReg) : Bool :=
  s.inPlate cl d.uda d.extent && (!d.block64 || s.inPlate cl d.expUda d.expExtent)

/-! ### Slots -/

/-- R183, R184: the metadata a slot records for a block. -/
def MatCfg.record (c : MatCfg) (x : TileSlot) (k : BlockAt) : TileSlot :=
  { x with
    fmt := some c.w.a16
    fold := c.w.fold
    originI := c.io + k.i
    originJ := c.jo + k.j
    rows := k.rows
    cols := k.cols
    tag := c.w.outTag }

/-- Change a slot of a tile. -/
def State.modSlot (s : State) (cl t j : Nat) (f : TileSlot → TileSlot) : State :=
  let x := s.tile cl t
  s.setTile cl t (x.setSlot j (f (x.slot j)))

/-- R225, R226: one group sum into a cell: the new cell and whether it overflowed. -/
def cellStep (gs : Int) (w : Nat → Nat) (a16 : Bool) (x : CellVal) : CellVal × Bool :=
  let r := groupAdd x.v x.s gs (if x.s = 0 then 0 else w 0) (vmaxOf a16)
  if r.2.2 then (x, true) else ({ x with v := r.1, i := x.i || r.2.1 }, false)

/-- R143: a step of a block draws a rounding word for an output whose row or column is 2^24 or
above: a cell of the block's region there has a shift. -/
def State.drawsOut (s : State) (o : OpRec) (c : MatCfg) (t l : Nat) : Bool :=
  let k := c.blockOf t l
  let x := (s.tile o.node t).slot (c.slotOf l)
  (decide (2 ^ 24 < x.originI + k.rows) || decide (2 ^ 24 < x.originJ + k.cols)) &&
    (upto k.rows).any fun r => (upto k.cols).any fun y =>
      (decide (2 ^ 24 ≤ x.originI + r) || decide (2 ^ 24 ≤ x.originJ + y)) &&
        (x.cell c.w.a16 (r * c.nb + y)).s != 0

/-- R156, R157, R162, R225: one step of one block, with what the feeders hold of A and B. Answers the
cells that overflow. -/
def State.blockStep (s : State) (o : OpRec) (c : MatCfg) (t l : Nat) (x : Step)
    (fa fb : SMap (List (Bool × Nat))) : State × List (Nat × Nat) :=
  let g := s.genFor o
  let k := c.blockOf t l
  let j := c.slotOf l
  let a16 := c.w.a16
  let k0 := x.group * c.g
  let tf := c.tFirst x
  let slot := (s.tile o.node t).slot j
  let as := (upto k.rows).map fun r =>
    (c.streamA g).line c (k.i + r) k0 tf (SMap.get feedD fa (feedKey l (k.i + r) x.group))
  let bs := (upto k.cols).map fun r =>
    (c.streamB g).line c (k.j + r) k0 tf (SMap.get feedD fb (feedKey l (k.j + r) x.group))
  let q := (c.ko + k0) * 2 ^ 15 + tf
  let cell := fun (e : Nat) =>
    let r := e / c.nb
    let y := e % c.nb
    if r < k.rows ∧ y < k.cols then
      cellStep (groupSum (nth [] as r) (nth [] bs y))
        (fun _ => roundWord g.round slot.tag 0 (slot.originI + r) (slot.originJ + y) q) a16
        (slot.cell a16 e)
    else (slot.cell a16 e, false)
  let out := (upto 4096).map cell
  (s.modSlot o.node t j fun _ => { slot with junk := none, cells := cellsFrom (out.map (·.1)) },
    (out.zipIdx.filter fun y => y.1.2).map fun y => (j, y.2))

/-! ### Runs -/

/-- The run of a tile. -/
def MatRun.tile? (m : MatRun) (t : Nat) : Option TileRun := m.tiles.find? fun r => r.tile == t

/-- Replace the run of a tile in an operation. -/
def State.setRun (s : State) (o : OpRec) (r : TileRun) : State :=
  match s.opAt o.slot o.node o.ofs with
  | none => s
  | some o =>
    match o.mat with
    | none => s
    | some m =>
      s.setOp { o with mat := some { m with
        tiles := m.tiles.map fun x => if x.tile = r.tile then r else x } }

/-- The run of a tile as it stands. -/
def State.run? (s : State) (o : OpRec) (t : Nat) : Option TileRun :=
  ((s.opAt o.slot o.node o.ofs).bind (·.mat)).bind fun m => m.tile? t

/-- R184, R220, R93: what must hold before the first step of a tile; the first failure. Under STREAMED
the partial tiles of all its blocks are looked at. -/
def State.beginFault (s : State) (o : OpRec) (c : MatCfg) (t : Nat) : Ctx :=
  let x := Ctx.start s View.none []
  let ls := upto (c.locals t)
  let x := if c.w.add && !c.streamed && ls.any (fun l =>
      !(s.tile o.node t).holds (c.slotOf l) c.w.a16 ||
        ((s.tile o.node t).slot (c.slotOf l)).fold != c.w.fold)
    then x.bad .slotMismatch else x
  let x := if c.w.add && c.streamed then
      match drOf o.drs c.w.drPart with
      | none => x.bad .descInvalid
      | some d => ls.foldl (fun (x : Ctx) l =>
          let r := x.read false (d.uda + (c.blockOf t l).b * 16960) 64
          let h := tileHdr r.2
          if r.1.err.isNone && !(h.magic == 0x7A1E && h.format == 1 && h.fold == c.w.fold) then
            r.1.bad .slotMismatch
          else r.1) x
    else x
  let high := fun (d : DReg) (trans isB : Bool) (f0 n : Nat) =>
    alongK d trans isB && (upto n).any fun r => (upto (cdiv c.k 64)).any fun b =>
      decide (d.eRef < signedOf 8 (ofLeBytes (s.rawRead (d.expUda + (f0 + r) * d.expStride + b) 1)))
  let x := if ls.any (fun l =>
      let k := c.blockOf t l
      high c.a c.w.transA false k.i k.rows || high c.b c.w.transB true k.j k.cols)
    then x.bad .descInvalid else x
  if c.w.spillEn && c.w.spillAdd then
    match drOf o.drs c.w.drSpill with
    | none => x.bad .descInvalid
    | some d => ls.foldl (fun (x : Ctx) l =>
        let r := x.read false (d.uda + (c.blockOf t l).b * 32832) 64
        let h := tileHdr r.2
        if r.1.err.isNone && !(h.magic == 0x7A1E && h.format == 2 && h.fold == c.w.fold) then
          r.1.bad .tileInvalid
        else r.1) x
  else x

/-- R183: what the first step of an OVERWRITE block finds in its slot. -/
def State.clearBlock (s : State) (o : OpRec) (c : MatCfg) (t l : Nat) : State :=
  s.modSlot o.node t (c.slotOf l) fun x =>
    c.record (x.fill fun _ => ⟨0, c.w.startShift, false⟩) (c.blockOf t l)

/-- R180, R183, R184: slot 0 as a block pass begins: cleared, or the block's partial tile, whose format
and fold were checked before the tile's first step. -/
def Ctx.loadPartial (x : Ctx) (o : OpRec) (c : MatCfg) (t : Nat) (y : Step) : Ctx :=
  if y.pass = 0 ∧ c.w.add = false then { x with s := x.s.clearBlock o c t y.loc }
  else
    match drOf o.drs c.w.drPart with
    | none => x.bad .descInvalid
    | some d =>
      let k := c.blockOf t y.loc
      let r := x.read false (d.uda + k.b * 16960) 16960
      if r.1.err.isSome then r.1
      else { r.1 with s := r.1.s.modSlot o.node t 0 fun _ => c.record (partialOfBytes r.2) k }

/-- R218: the spill that is due as a block pass begins: the initial spill of an ADD. -/
def MatCfg.initialDue (c : MatCfg) (t n : Nat) : List Nat :=
  let x := c.stepAt t n
  if c.w.add && c.w.spillEn && x.pass == 0 && x.first then c.inFlight t n else []

/-- Begin on a tile (R183 to R185): answers the state with the tile's run begun, or with a fault. An
operation that runs on a file in the other mode switches it, a STREAMED ADD too: R185 names OVERWRITE
and TILE_WRITE, and R184 checks the partial tiles alone (DESIGN CHOICE, log entry 89). -/
def State.beginTile (s : State) (o : OpRec) (c : MatCfg) (r : TileRun) : Ctx × TileRun :=
  let t := r.tile
  let x := s.beginFault o c t
  if x.err.isSome then (x, r)
  else
    let sw := (s.tile o.node t).a16 != c.w.a16
    let s := x.s.switchTile o.node t c.w.a16
    let s := if c.streamed then s else
        (upto (c.locals t)).foldl (fun (s : State) l =>
          if c.w.add then s.modSlot o.node t (c.slotOf l) fun y => c.record y (c.blockOf t l)
          else s.clearBlock o c t l) s
    let x := { x with s := s }
    let x := if c.streamed then x.loadPartial o c t (c.stepAt t 0) else x
    (x, { r with begun := true, switched := sw, due := c.initialDue t 0 })

/-! ### Who may step -/

/-- The matmul-type operation that a tile runs: begun, not done there, and open to it. -/
def State.matOn (s : State) (cl t : Nat) : Option (OpRec × MatCfg) :=
  match s.ops.find? fun o =>
      o.node == cl && opCode o.word == 0x02 && bitOf o.tileMask t && !o.tileDone t with
  | none => none
  | some o =>
    match s.slot? o.slot, s.matNow o, o.mat with
    | some x, some c, some _ =>
      if s.running && !s.laneHalted x cl && s.tileOpen o t then some (o, c) else none
    | _, _, _ => none

/-- An operation of a slot with margin stop and this MARGIN_ID. -/
def OpRec.inMargin (o : OpRec) (slot id : Nat) : Bool :=
  o.slot == slot && opCode o.word == 0x02 && (matWord o.word).margin && (matWord o.word).marginId == id

/-- Its decision is still to come (R287). -/
def OpRec.undecided (o : OpRec) : Bool :=
  match o.mat with
  | some m => m.stopAt.isNone
  | none => true

/-- R284: which of its lane's operations of one MARGIN_ID an operation is, among those undecided: a
lane may hold several, and those of the clusters pair up in their order (log entry 51). -/
def State.marginTurn (s : State) (o : OpRec) (id : Nat) : Nat :=
  ((s.before o).filter fun x => x.node == o.node && x.inMargin o.slot id && x.undecided).length

/-- R284: the undecided members of a margin group that have begun. -/
def State.members (s : State) (slot id turn : Nat) : List OpRec :=
  s.ops.filter fun o =>
    o.inMargin slot id && o.mat.isSome && o.undecided && s.marginTurn o id == turn

/-- R284, R286: every member of an operation's margin group has begun. -/
def State.groupReady (s : State) (o : OpRec) (c : MatCfg) : Bool :=
  !c.w.margin ||
    (let ms := s.members o.slot c.w.marginId (s.marginTurn o c.w.marginId)
     (upto 8).all fun n => !bitOf c.w.marginCl n || ms.any fun x => x.node == n)

/-- The tiles that step together (R170). -/
def MatCfg.together (c : MatCfg) (t : Nat) : List Nat := if c.w.bcast = 0 then [t] else c.tiles

/-- Begin the tiles that step together, those not begun yet. A fault stops it. -/
def State.beginAll (s : State) (o : OpRec) (c : MatCfg) : List Nat → State × Option AccErr
  | [] => (s, none)
  | t :: ts =>
    match s.run? o t with
    | none => (s, none)
    | some r =>
      if r.begun then s.beginAll o c ts
      else
        let b := s.beginTile o c r
        match b.1.err with
        | some x => (b.1.s, some x)
        | none => ((b.1.s.countBytes o.slot b.1.moved).setRun o b.2).beginAll o c ts

/-- The run of a tile stands at the end of a segment with cells that overflowed, for the tiles that
step together (R228, R251). -/
def State.mustRewind (s : State) (o : OpRec) (c : MatCfg) (ts : List Nat) : Bool :=
  (ts.any fun t => ((s.run? o t).map fun r => !r.ovf.isEmpty).getD false) &&
  ts.all fun t =>
    match s.run? o t with
    | some r => r.turn == 0 && decide (0 < r.pos) && (c.stepAt t (r.pos - 1)).endGroup
    | none => true

/-- R842: the governor's gate holds back array steps in this cycle. -/
def State.gated (s : State) : Bool :=
  decide (16 ≤ s.cycle % 16 + s.fld Reg.PWR_GOV 3 0)

/-- R117: the length of an array step of a cluster. A tile is active in a step from its first step of
an operation to its last, also while it pauses for a spill or is held back: the spec does not say
(DESIGN CHOICE, log entry 89). -/
def State.stepCycles (s : State) (cl : Nat) : Nat :=
  stretch (s.ops.flatMap fun o =>
    if o.node = cl then
      match s.matNow o, o.mat with
      | some c, some m => (m.tiles.filter fun r => r.begun && !r.done).map fun _ =>
          laneDemand c.w.positional (c.w.dsmA == 0) (c.w.dsmB == 0) c.p
            (if c.w.decorrA then c.mb else 1) (if c.w.decorrB then c.nb else 1)
      | _, _ => []
    else [])

/-- R202, R256, R495: an area of a matmul-type operation overlaps an operand of it or another area, as
its registers tell. -/
def OpRec.matMeets (o : OpRec) : Bool :=
  match matOf o.word o.drsNow with
  | none => false
  | some c =>
    let outs := opDests o.word o.rep o.uda o.drsNow
    let ins := [c.a, c.b].flatMap fun d =>
      d.rowRanges ++ (if d.block64 then [(d.expUda, d.expExtent)] else [])
    selfMeet outs || outs.any fun a => ins.any (rangesMeet a)

/-- The operation has issued everything once all its tiles are done and its margin group has
stopped (R355, R289). Where its memory overlaps, its results are then undefined: areas and slots
(R202, R256, R495). -/
def State.checkIssued (s : State) (o : OpRec) : State :=
  match s.opAt o.slot o.node o.ofs with
  | none => s
  | some o =>
    match o.mat with
    | none => s
    | some m =>
      if m.tiles.all (fun r => r.done) && (!(matWord o.word).margin || m.stopAt.isSome) then
        let s := if o.matMeets then s.forget o.node o.word o.rep o.uda o.drsNow o.mat else s
        s.setOp { o with issued := true }
      else s

/-! ### Steps -/

/-- R218: the local blocks that spill after a round, given that nothing has overflowed. -/
def MatCfg.dueAfter (c : MatCfg) (t : Nat) (r : TileRun) : List Nat :=
  let x := c.stepAt t r.pos
  let i := spillInterval c.w.a16 c.w.spillSteps c.w.startShift
  if c.w.spillEn && (r.pos + 1 == c.rounds t || (c.streamed && x.endPass) ||
      (c.w.margin && x.endChunk) || decide (i ≤ r.pos + 1 - r.ckpt)) then
    c.inFlight t r.pos
  else []

/-- One step of the block whose turn it is on one tile: the loads, the step, and the run after it,
but for what a spill or an overflow changes. -/
def State.tileStep (s : State) (o : OpRec) (c : MatCfg) (t cyc : Nat) : State × Option AccErr :=
  match s.run? o t with
  | none => (s, none)
  | some r =>
    let x := c.stepAt t r.pos
    let l := nth 0 (c.inFlight t r.pos) r.turn
    let k := c.blockOf t l
    let f := Ctx.start s View.none []
    let fa := if x.first && r.turn == 0 then [] else r.feedA
    let fb := if x.first && r.turn == 0 then [] else r.feedB
    let la := c.loads t l x false fa
    let lb := c.loads t l x true fb
    let f := if la && c.readsIt t false then
        f.feedOperand c c.a c.w.transA false k.i k.rows (x.group * c.g) else f
    let f := if lb && c.readsIt t true then
        f.feedOperand c c.b c.w.transB true k.j k.cols (x.group * c.g) else f
    let fa := if la then s.loadFeeder c t l x false fa else fa
    let fb := if lb then s.loadFeeder c t l x true fb else fb
    let f := if s.drawsOut o c t l then f.bad .descInvalid else f
    match f.err with
    | some e => (f.s, some e)
    | none =>
      let q := (f.s.countBytes o.slot f.moved).blockStep o c t l x fa fb
      let s := q.1.bump64 (clReg o.node Reg.CL_STEPS) 1
      let last := r.turn + 1 == (c.inFlight t r.pos).length
      (s.setRun o { r with
        feedA := fa
        feedB := fb
        ovf := r.ovf ++ q.2.filter fun y => !r.ovf.contains y
        turn := if last then 0 else r.turn + 1
        pos := if last then r.pos + 1 else r.pos
        formed := r.nextForm
        nextForm := r.nextForm + cyc }, none)

/-- Step several tiles. -/
def State.stepAll (s : State) (o : OpRec) (c : MatCfg) (cyc : Nat) : List Nat → State × Option AccErr
  | [] => (s, none)
  | t :: ts =>
    match s.tileStep o c t cyc with
    | (s, some e) => (s, some e)
    | (s, none) => s.stepAll o c cyc ts

/-- R218, R222, R224: after a round: mark the spills that are due, unless a cell has overflowed; end
a tile that makes no spills. -/
def State.afterRound (s : State) (o : OpRec) (c : MatCfg) (ts : List Nat) : State :=
  if ts.any fun t => ((s.run? o t).map fun r => !r.ovf.isEmpty).getD false then s
  else
    ts.foldl (fun (s : State) t =>
      match s.run? o t with
      | none => s
      | some r =>
        if r.turn ≠ 0 then s
        else
          let due := c.dueAfter t { r with pos := r.pos - 1 }
          (s.setRun o { r with
            due := due
            done := due.isEmpty && r.pos == c.rounds t }).checkIssued o) s

/-- R117, R145: tiles of a cluster make an array step of `cyc` cycles. The tiles that step in one cycle,
each for the first time, make the same step of the cluster, which EPH_STRETCH_CLn counts once (log entry
47). -/
def State.clusterStep (s : State) (cl cyc : Nat) (ts : List Nat) : State :=
  let p := SMap.get State.natD s.stepped cl
  let joins := p / 65536 == s.cycle + 1 && ts.all fun t => !bitOf p t
  let mask := ts.foldl (fun n t => n ||| 2 ^ t) (if joins then p % 65536 else 0)
  let s := { s with stepped := SMap.set State.natD s.stepped cl ((s.cycle + 1) * 65536 + mask) }
  if joins then s else s.bump (Reg.EPH_STRETCH_CL + 4 * cl) (cyc - 1)

/-- R225: ARRAY_STEP: one array step of a tile, or of every tile of a lockstep operation (R170), with
the idle cycles that follow it (R171). -/
def execArrayStep (cl : Fin 8) (tile : Fin 16) (idle : Nat) (s : State) : SeqOut :=
  .next <|
    match s.matOn cl tile with
    | none => s
    | some (o, c) =>
      let ts := c.together tile
      if s.gated || !s.groupReady o c || !(ts.all fun t => s.tileOpen o t) then s
      else
        match s.beginAll o c ts with
        | (s, some e) => s.unitFault o e
        | (s, none) =>
          if (ts.all fun t => match s.run? o t with
              | some r => r.due.isEmpty && !r.done
              | none => false) && !s.mustRewind o c ts then
            let cyc := s.stepCycles cl
            match s.stepAll o c (cyc + idle) ts with
            | (s, some e) => s.unitFault o e
            | (s, none) =>
              let s := s.bump (clReg cl Reg.CL_FEED_STALL) (idle * ts.length)
              (s.clusterStep cl cyc ts).afterRound o c ts
          else s

/-! ### Spills -/

/-- R83: a slot's cells as A48 addends. -/
def slotWords (x : TileSlot) (a16 : Bool) : List Nat :=
  (upto 4096).map fun e =>
    let y := x.cell a16 e
    a48OfSlot y.v y.s y.i

/-- Flags of a tile header from its words (R192). -/
def wordFlags (l : List Nat) : Nat := b2n (l.any fun w => bitOf w 63) + 2 * b2n (l.any fun w => bitOf w 62)

/-- R219: write or add a block's addends into its spill tile. -/
def Ctx.spillTile (x : Ctx) (o : OpRec) (c : MatCfg) (t l : Nat) (write : Bool) : Ctx :=
  match drOf o.drs c.w.drSpill with
  | none => x.bad .descInvalid
  | some d =>
    let k := c.blockOf t l
    let u := d.uda + k.b * 32832
    let ws := slotWords ((x.s.tile o.node t).slot (c.slotOf l)) c.w.a16
    if write then
      let h : TileHdr :=
        { magic := 0x7A1E, format := 2, shift := 0, fold := c.w.fold, flags := wordFlags ws,
          originI := c.io + k.i, originJ := c.jo + k.j, rows := k.rows, cols := k.cols,
          tag := c.w.outTag }
      x.write false false u (h.bytes ++ ws.flatMap (leBytes 8))
    else
      let y := x.a48 o.node (u + 64) ws
      if y.err.isSome then y
      else
        let r := y.readWords false (u + 64) 8 4096
        let f := r.1.read false (u + 5) 1
        f.1.write false false (u + 5) [BitVec.ofNat 8 (ofLeBytes f.2 ||| wordFlags r.2)]

/-- R219: clear the slots of a block after its spill. -/
def State.clearSlot (s : State) (o : OpRec) (c : MatCfg) (t l : Nat) : State :=
  s.modSlot o.node t (c.slotOf l) fun x =>
    { x.fill (fun e => ⟨0, c.w.startShift, (x.cell c.w.a16 e).i⟩) with junk := none }

/-- R180: store slot 0 as a block's partial tile. -/
def Ctx.storePartial (x : Ctx) (o : OpRec) (c : MatCfg) (t l : Nat) : Ctx :=
  match drOf o.drs c.w.drPart with
  | none => x.bad .descInvalid
  | some d =>
    x.write false false (d.uda + (c.blockOf t l).b * 16960)
      (((x.s.tile o.node t).slot 0).bytes false)

/-- The spill of local block `l` is the initial one (R218). -/
def MatCfg.isInitial (c : MatCfg) (t : Nat) (r : TileRun) (l : Nat) : Bool :=
  decide (r.pos < c.rounds t) && !r.spilled.contains l && (c.initialDue t r.pos).contains l

/-- R218, R286: the spill after the steps that a tile has made is a chunk spill: it stands at the end of
a chunk of an operation with margin stop. -/
def MatCfg.chunkEnd (c : MatCfg) (r : TileRun) : Bool :=
  c.w.margin && decide (0 < r.pos) && (c.stepAt r.tile (r.pos - 1)).endChunk

/-- R288: a tile's next spill is a chunk spill that must wait: the boundary before it is not decided. -/
def MatCfg.heldBack (c : MatCfg) (r : TileRun) (decided : Nat) : Bool :=
  match r.due with
  | l :: _ => c.chunkEnd r && !c.isInitial r.tile r l && decide (decided < r.chunks)
  | [] => false

/-- What follows a spill of local block `l`, once no further spill of the pause is due: the next
interval, and under STREAMED the store of the partial tile and the next block pass (R180, R198). -/
def Ctx.afterSpill (x : Ctx) (o : OpRec) (c : MatCfg) (r : TileRun) (l : Nat) (initial : Bool) :
    Ctx × TileRun :=
  let t := r.tile
  let r := { r with ckpt := r.pos, formed := 0, nextForm := 0 }
  if initial then (x, r)
  else
    let r := { r with
      chunks := r.chunks + b2n (c.chunkEnd r)
      done := r.pos == c.rounds t }
    let y := c.stepAt t (r.pos - 1)
    if c.streamed && y.endPass then
      let n := c.passSteps y.pass
      let x := { x with s := x.s.bump (clReg o.node Reg.CL_XCHG_STALL) (134 - n) }
      let x := x.storePartial o c t l
      if r.done then ({ x with s := x.s.junkTile o.node t false (upto 2) }, r)
      else (x.loadPartial o c t (c.stepAt t r.pos), { r with due := c.initialDue t r.pos })
    else (x, r)

/-- R219: BLOCK_SPILL: the first spill that is due on a tile. A chunk spill waits for the decision of
the boundary before it (R288). -/
def execBlockSpill (cl : Fin 8) (tile : Fin 16) (s : State) : SeqOut :=
  .next <|
    match s.matOn cl tile with
    | none => s
    | some (o, c) =>
      let ts := c.together tile
      if !s.groupReady o c || !(ts.all fun t => s.tileOpen o t) then s
      else
        match s.beginAll o c ts with
        | (s, some e) => s.unitFault o e
        | (s, none) =>
          match s.run? o tile, o.mat with
          | some r, some m =>
            match r.due with
            | [] => s
            | l :: rest =>
              let initial := c.isInitial tile r l
              if c.heldBack r m.decided then s
              else
                let x := (Ctx.start s View.none []).spillTile o c tile l
                  (!c.w.spillAdd && !r.spilled.contains l)
                match x.err with
                | some e => x.s.unitFault o e
                | none =>
                  let s := x.s.clearSlot o c tile l
                  let s := (s.bump (clReg cl Reg.CL_ACC_SPILLS) 1).bump
                    (clReg cl Reg.CL_ACC_SPILL_CYC) 128
                  let r := { r with due := rest, spilled := l :: r.spilled.filter fun y => y != l }
                  let x : Ctx := { x with s := s }
                  let q := if rest = [] then x.afterSpill o c r l initial else (x, r)
                  match q.1.err with
                  | some e => q.1.s.unitFault o e
                  | none => ((q.1.s.countBytes o.slot q.1.moved).setRun o q.2).checkIssued o
          | _, _ => s

/-! ### Overflow and replay -/

/-- R228: clear and raise the cells of a tile for a rewind; answers also the first cell whose shift
would leave the format (R232). -/
def State.rewindTile (s : State) (o : OpRec) (c : MatCfg) (r : TileRun) : State × Option Nat :=
  let t := r.tile
  let max := if c.w.a16 then 15 else 31
  let js := ((c.inFlight t (r.pos - 1)).map c.slotOf).eraseDups
  let bad := r.ovf.find? fun y =>
    decide (max < (((s.tile o.node t).slot y.1).cell c.w.a16 y.2).s + c.w.replayStep)
  (js.foldl (fun (s : State) j =>
    s.modSlot o.node t j fun x =>
      x.fill fun e =>
        let y := x.cell c.w.a16 e
        ⟨0, y.s + (if r.ovf.contains (j, e) then c.w.replayStep else 0), y.i⟩) s,
    bad.map (·.2))

/-- R228 to R233, R251: OVERFLOW_REWIND: at the end of a segment in which cells overflowed, every tile
that steps together returns to its last checkpoint. One that ends in ACC_RANGE counts as the others do, with
the cell that cannot be raised: the spec does not say (DESIGN CHOICE, log entry 89). -/
def execOverflowRewind (cl : Fin 8) (tile : Fin 16) (s : State) : SeqOut :=
  .next <|
    match s.matOn cl tile with
    | none => s
    | some (o, c) =>
      let ts := c.together tile
      if s.mustRewind o c ts = false then s
      else
        let cells := ts.flatMap fun t => ((s.run? o t).map fun r => r.ovf.map (·.2)).getD []
        if c.w.spillEn = false ∧ c.w.add = true then
          s.unitFault o ⟨.accOverflow, 0, 0, cells.headD 0⟩
        else
          let q := ts.foldl (fun (q : State × Option Nat) t =>
            match q.1.run? o t with
            | none => q
            | some r =>
              let x := q.1.rewindTile o c r
              let cost := r.formed + 13
              let s := (x.1.bump (clReg cl Reg.CL_ACC_REPLAYS) 1).bump
                (clReg cl Reg.CL_ACC_REPLAY_CYC) cost
              let s := s.bump (clReg cl Reg.CL_ACC_RAISES) r.ovf.length
              (s.setRun o { r with pos := r.ckpt, turn := 0, ovf := [], formed := 0, nextForm := 0 },
                if q.2.isSome then q.2 else x.2)) (s, none)
          match q.2 with
          | some e => s.unitFault o ⟨.accRange, 0, 0, e⟩
          | none => q.1

/-! ### Issue and start -/

/-- R284: what the members of a margin group must share. -/
def State.marginSig (s : State) (o : OpRec) : Option (List Nat) :=
  (s.matNow o).map fun c =>
    [c.len, b2n c.w.positional, c.p, c.w.marginK, c.w.marginCl,
      ((drOf o.drs c.w.drTopk).map (·.uda)).getD 0, c.m, c.io, c.ko]

/-- Start a matmul-type operation whose wait is satisfied: the checks before its first step on any
tile (R190, R166, R284), and its tiles' runs. -/
def State.startMat (s : State) (o : OpRec) : State :=
  match s.matNow o with
  | none => s.unitFault o ⟨.descInvalid, 0, 0, 0⟩
  | some c =>
    if c.tiles.any fun t => !s.tileAllowed o.node t (s.domainOf o) then
      s.unitFault o ⟨.tileDenied, 0, 0, 0⟩
    else if s.feedable o.node c.a = false then s.unitFault o ⟨.addrInvalid, c.a.uda, c.a.ref, 0⟩
    else if s.feedable o.node c.b = false then s.unitFault o ⟨.addrInvalid, c.b.uda, c.b.ref, 0⟩
    else
      let run := fun t => TileRun.mk t false false 0 0 0 [] [] [] 0 0 0 [] [] (c.locals t == 0)
      let o : OpRec := { o with
        begun := true
        mat := some (MatRun.mk (c.tiles.map run) 0 none c.len) }
      let s := s.setOp o
      let ms := if c.w.margin then s.members o.slot c.w.marginId (s.marginTurn o c.w.marginId) else []
      if ms.all fun x => s.marginSig x == s.marginSig o then s
      else (sortBy (fun a b => decide (a.node < b.node)) ms).foldl (fun (s : State) x =>
        s.unitFault x ⟨.marginMismatch, 0, 0, 0⟩) s

/-- R460: MATMUL. -/
def execMatmul (slot : Fin 8) (node : Fin 9) (ph : Phase) (v : View) (s : State) : SeqOut :=
  .next <|
    match ph with
    | .relocate => s.relocate slot node v (fun w => opCode w == 0x02)
    | .issue => s.enqueue slot node v (fun w => opCode w == 0x02)
    | .idle _ _ => s
    | .perform ofs =>
      match s.claim slot node ofs (fun w => opCode w == 0x02) with
      | (s, none) => s
      | (s, some o) => if o.mat.isSome then s else s.startMat o

/-! ### Margin stop -/

/-- R286: the counts of one output row of a member, from its spill tiles: key, column and INEXACT. -/
def Ctx.rowCounts (x : Ctx) (c : MatCfg) (u i : Nat) : Ctx × List LEnt :=
  (upto c.nbc).foldl (fun (q : Ctx × List LEnt) bc =>
    let br := i / c.mb
    let b := if c.w.bcast = 2 then bc * c.nbr + br else br * c.nbc + bc
    let n := min c.nb (c.n - bc * c.nb)
    let r := q.1.readWords false (u + b * 32832 + 64 + 8 * (i % c.mb * c.nb)) 8 n
    (r.1, q.2 ++ r.2.zipIdx.map fun y =>
      ⟨c.jo + bc * c.nb + y.2, true, false, false, bitOf y.1 63, (a48Val y.1).1, (a48Val y.1).1⟩))
    (x, [])

/-- R285: the remaining-ones bound of a row at `t`. -/
def State.remaining (s : State) (c : MatCfg) (g : Gen) (i t : Nat) : Nat :=
  (upto c.k).foldl (fun n k =>
    let e := s.operandElem c.a c.w.transA false i k
    if e.2 = 0 then n
    else if c.w.positional then n + (c.len - t)
    else n + (((c.streamA g).bits i k e.2 t (c.len - t)).filter fun b => b).length) 0

/-- One row of a margin group at a boundary: its ranked candidates and bound. -/
structure MarginRow where
  ranked : List LEnt
  bound : Nat
  deriving Repr

/-- R286: the row is proven for `k`. -/
def MarginRow.proven (x : MarginRow) (k : Nat) : Bool :=
  match x.ranked[k - 1]?, x.ranked[k]? with
  | some a, some b => decide (2 * (x.bound : Int) < a.lo - b.lo)
  | _, _ => true

/-- R289: the record of a row: every bound saturated. -/
def MarginRow.record (x : MarginRow) (k : Nat) : List LEnt :=
  let ex := x.bound == 0
  let put := fun (e : LEnt) => { e with
    exact := ex, lo := (sat48 (e.lo - x.bound)).1, hi := (sat48 (e.hi + x.bound)).1 }
  let top := (x.ranked.take k).map put
  top ++ List.replicate (k - top.length) LEnt.none ++ [restOf ((x.ranked.drop k).map put) []]

/-- The rows of a margin group at `t`, over the members with their settings. -/
def Ctx.marginRows (x : Ctx) (ms : List (OpRec × MatCfg)) (m t : Nat) : Ctx × List MarginRow :=
  (upto m).foldl (fun (q : Ctx × List MarginRow) i =>
    let r := ms.foldl (fun (q : Ctx × List LEnt × Nat) y =>
      let u := ((drOf y.1.drs y.2.w.drSpill).map (·.uda)).getD 0
      let a := q.1.rowCounts y.2 u i
      (a.1, q.2.1 ++ a.2, max q.2.2 (q.1.s.remaining y.2 (q.1.s.genFor y.1) i t))) (q.1, [], 0)
    (r.1, q.2 ++ [⟨sortBy LEnt.above r.2.1, r.2.2⟩])) (x, [])

/-- R288: a member stops at `t`: its tiles are done, its slots cleared. -/
def State.stopMember (s : State) (o : OpRec) (c : MatCfg) (t : Nat) : State :=
  match s.opAt o.slot o.node o.ofs with
  | none => s
  | some o =>
    match o.mat with
    | none => s
    | some m =>
      let s := if t < c.len then
          let s := c.tiles.foldl (fun (s : State) tl =>
            (upto (c.locals tl)).foldl (fun (s : State) l => s.clearSlot o c tl l) s) s
          (s.bump (clReg o.node Reg.CL_MARGIN_STOPS) 1).bump (clReg o.node Reg.CL_MARGIN_SAVED)
            ((c.len - t) / c.p)
        else s
      (s.setOp { o with mat := some { m with
        stopAt := some t
        tiles := m.tiles.map fun r => { r with done := true, due := [], ovf := [] } } }).checkIssued o

/-- The members of a margin group, lowest cluster first. -/
def State.marginGroup (s : State) (slot id turn : Nat) : List OpRec :=
  sortBy (fun (a b : OpRec) => decide (a.node < b.node)) (s.members slot id turn)

/-- Boundaries of an operation that have been decided. -/
def OpRec.decided (o : OpRec) : Nat := ((o.mat).map (·.decided)).getD 0

/-- R286, R288: every member of a margin group has made its chunk spill at the next boundary. -/
def State.groupDue (s : State) (slot id turn : Nat) : Bool :=
  match s.marginGroup slot id turn with
  | [] => false
  | o :: t =>
    ((s.matNow o).map fun c => s.groupReady o c).getD false &&
      (o :: t).all fun y => match y.mat with
        | some m => m.decided == o.decided && m.tiles.all fun r => r.done || decide (o.decided < r.chunks)
        | none => false

/-- The group of a MARGIN_ID whose decision comes next: the first that is due. -/
def State.dueTurn (s : State) (slot id : Nat) : Option Nat :=
  (upto s.ops.length).find? fun n => s.groupDue slot id n

/-- R286 to R289: MARGIN_DECISION: the next boundary of a margin group, once every member has made its
chunk spill there. The list's EP is the sum of the operands' reference exponents: the operation has no
EP_BASE, and R289 does not say (DESIGN CHOICE, log entry 89). -/
def execMarginDecision (slot : Fin 8) (id : BitVec 8) (s : State) : SeqOut :=
  let s0 := s
  .next <|
    let os := match s.dueTurn slot id.toNat with
      | none => []
      | some n => s.marginGroup slot id.toNat n
    let ms := os.filterMap fun o => (s.matNow o).map fun c => (o, c)
    match ms, s.slot? slot with
    | (o, c) :: _, some x =>
      let d := o.decided
      if (s.running && !s.slotHalted x) = false then s
      else
        let t := min c.len ((d + 1) * c.p)
        let q := (Ctx.start s View.none []).marginRows ms c.m t
        match q.1.err with
        | some e => q.1.s.unitFault o e
        | none =>
          if decide (t < c.len) && !(q.2.all fun r => r.proven c.w.marginK) then
            os.foldl (fun (s : State) y =>
              match y.mat with
              | some m => s.setOp { y with mat := some { m with decided := d + 1 } }
              | none => s) q.1.s
          else
            let s := ms.foldl (fun (s : State) y => s.stopMember y.1 y.2 t) q.1.s
            let h : LHdr := ⟨c.w.marginK, 0, c.m, c.a.eRef + c.b.eRef, c.io, c.len, t⟩
            let u := ((drOf o.drs c.w.drTopk).map (·.uda)).getD 0
            let w := (Ctx.start s View.none []).write false true u
              (h.bytes ++ q.2.flatMap fun r => recordBytesOf (r.record c.w.marginK))
            match w.err with
            | some e => w.s.unitFault o e
            | none =>
              if w.stall then s0 else
              let s := ((w.flush (.op o.slot o.node o.ofs)).countBytes slot w.moved).bump
                (clReg o.node Reg.CL_TOPK_ROWS) c.m
              match s.opAt o.slot o.node o.ofs with
              | some o => s.setOp { o with hostWait := w.hostWait, owed := w.owed }
              | none => s
    | _, _ => s

end Sys2Proof.Machine
end

