-- ==== Sys2Proof/Machine/MemEvents.lean ====
section
/-! DEFINITION. Events of the memories: upsets and the patrol scrub (R332, R333, R336), correction
write-backs (R334), refresh and its rate (R317, R340), and oscillator tracking (R316). -/

namespace Sys2Proof.Machine

/-- What a memory event answers. -/
abbrev MemOut := Host.Outcome State Fault Refusal

/-- DRAM has been trained (R315, R341). -/
def State.dramOn (s : State) : Bool :=
  s.alive && bitOf (s.reg Reg.MEM_TRAIN_STATUS) 16 && s.fld Reg.MEM_ID 15 14 != 3

/-- Inline ECC is enabled (R319). -/
def State.iecc (s : State) : Bool := bitOf (s.reg Reg.MEM_ID) 13

/-- R312: which bits of a stored word are wrong once one more is flipped. -/
def EccErr.flip (e : EccErr) (bit : Nat) : EccErr :=
  let l := match e with
    | .none => []
    | .ce b => [b]
    | .ue l => l
  match (if l.contains bit then l.filter fun b => b != bit else l ++ [bit]) with
  | [] => .none
  | [b] => .ce b
  | l => .ue l

/-- An upset flips one bit of a stored 72-bit word. Without inline ECC a DRAM word has no check
bits, and the data changes (R321). -/
def State.upset (s : State) (w bit : Nat) : State :=
  let u := 8 * w
  if s.addrOk false u 8 = false ∨ 72 ≤ bit then s
  else if regionOf u = .dram ∧ s.iecc = false then
    if bit < 64 then s.rawWrite u (leBytes 8 (s.rawWord u ^^^ 2 ^ bit)) else s
  else if regionOf u = .dram ∨ regionOf u = .plate then
    s.setEcc w ((SMap.get State.eccD s.ecc w).flip bit)
  else s

/-- A scrub reads a line: corrected words are counted, logged and written back; an uncorrectable
word is counted and logged, and the line is then not rewritten (R332, R336). -/
def State.scrubLine (s : State) (u : Nat) : State :=
  let hits := s.eccHits u 64
  let dirty := hits.any fun x => x.2.isUe
  hits.foldl (fun s x =>
    match x.2 with
    | .none => s
    | .ce b =>
      let s := s.memErr (8 * x.1) false true b
      if dirty then s else s.setEcc x.1 .none
    | .ue _ => s.memErr (8 * x.1) true true 0) s

/-- R318: the physical line of a channel within a block of 16. -/
def channelLine (c q : Nat) : Nat := 16 * q + (c ^^^ (q / 16 % 16) ^^^ (q / 4096 % 16))

/-- R333: the next block of 16 physical lines in which the channel has a data line. -/
def nextData (c blocks : Nat) : Nat → Nat → Nat
  | 0, q => q
  | f + 1, q =>
    let q := if blocks ≤ q then 0 else q
    if channelLine c q % 8 = 7 then nextData c blocks f (q + 1) else q

/-- R332: a visit of a plate-store bank. -/
def State.scrubBank (s : State) (unit : Nat) : State :=
  let row := SMap.get State.natD s.scrubRow unit
  let line := row * 48 + unit % 48
  let s := s.scrubLine (2 ^ 44 + unit / 48 * 2 ^ 24 + line * 64)
  let s := { s with scrubRow := SMap.set State.natD s.scrubRow unit ((row + 1) % 4096) }
  if row = 4095 then
    let done := if s.scrubDone.contains unit then s.scrubDone else s.scrubDone ++ [unit]
    if done.length = 384 then ({ s with scrubDone := [] }).bump Reg.MEM_SCRUB_PASSES 1
    else { s with scrubDone := done }
  else s

/-- R333, R320: a visit of a DRAM channel, with inline ECC only. -/
def State.scrubChannel (s : State) (c : Nat) : State :=
  if s.dramOn = true ∧ s.iecc = true then
    let blocks := s.fld Reg.MEM_ID 7 0 * 2 ^ 20
    let q := nextData c blocks 32 (SMap.get State.natD s.scrubRow (384 + c))
    let p := channelLine c q
    let s := s.scrubLine (64 * (p / 8 * 7 + p % 8))
    { s with scrubRow := SMap.set State.natD s.scrubRow (384 + c) (q + 1) }
  else s

/-- R332, R333: a visit of the patrol scrub: units 0 to 383 are the banks, 384 to 399 the DRAM
channels. `flips` are the upsets that have struck by then, as (UDA / 8, bit). -/
def execPatrolScrubVisit (unit : Fin 400) (flips : List (Nat × BitVec 7)) (s : State) : MemOut :=
  .next <|
    if s.running then
      let s := flips.foldl (fun s x => s.upset x.1 x.2.toNat) s
      if (unit : Nat) < 384 then s.scrubBank unit else s.scrubChannel (unit - 384)
    else s

/-- R334: the line first queued is written back corrected. -/
def execCorrectionWriteback (s : State) : MemOut :=
  .next <|
    if s.running then
      match s.corrQ with
      | [] => s
      | line :: t =>
        { s with corrQ := t, ecc := s.ecc.filter fun x => !(x.1 / 8 == line && !x.2.isUe) }
    else s

/-- R317: a per-bank refresh of a channel, which no traffic postpones. -/
def execDramRefresh (channel : Fin 16) (s : State) : MemOut :=
  .next (if s.dramOn then s.emit (.dram "REFPB" channel) else s)

/-- R340: MR4 reports a refresh rate. -/
def execMr4Read (rate : Fin 3) (s : State) : MemOut :=
  .next (if s.dramOn then s.setFld Reg.MEM_REFRESH 1 0 rate else s)

/-- R316: a channel runs WCK2DQI oscillator tracking. -/
def execWck2dqiTracking (channel : Fin 16) (s : State) : MemOut :=
  .next (if s.dramOn then s.emit (.dram "WCK2DQI" channel) else s)

end Sys2Proof.Machine
end

