-- ==== Sys2Proof/Machine/Pcie.lean ====
section
/-! DEFINITION. The PCIe endpoint (chapter 14): the DRAM window of BAR2 (R652 to R655), configuration
requests (R645, R648, R649), MSI-X messages (R667), and the state of the link (R644, R647, R675). -/

namespace Sys2Proof.Machine

abbrev PcieOut := Host.Outcome State Fault Refusal

/-! ### BAR2 -/

/-- R652: the pieces of a read's completions: each ends at a 64-byte boundary, up to the programmed
payload. -/
def cplPieces (mps : Nat) : Nat → Nat → Nat → List (Nat × Nat)
  | 0, _, _ => []
  | f + 1, a, n =>
    if n = 0 then []
    else
      let k := min n (mps - a % 64)
      (a, k) :: cplPieces mps f (a + k) (n - k)

/-- R652: the DRAM offset of a BAR2 offset. -/
def State.winAddr (s : State) (o : Nat) : Nat := s.fld Reg.HI_WIN_BASE 16 0 * 2 ^ 20 + o

/-- R646, R670, R677, R854: BAR2 requests are not performed at all. -/
def State.winBlank (s : State) : Bool := !s.ready || s.tripped

/-- R655: read one completion's bytes; true when a word is uncorrectable. -/
def State.winPiece (s : State) (a n : Nat) : State × List Byte × Bool :=
  match s.readLocal a n with
  | (s, some l) => (s, l, false)
  | (s, none) => (s, s.rawRead a n, true)

/-- R652, R655: the completions of a read. -/
def State.winRead (s : State) (a len : Nat) : State :=
  let r := (cplPieces s.maxPayload (len / 64 + 2) a len).foldl
    (fun (x : State × List Byte × List Bool) k =>
      let y := x.1.winPiece k.1 k.2
      (y.1, x.2.1 ++ y.2.1, x.2.2 ++ [y.2.2])) (s, [], [])
  r.1.emit (.completion true r.2.2 r.2.1)

/-- R652: BAR2_READ. -/
def execBar2Read (ofs : BitVec 28) (len : Nat) (s : State) : PcieOut :=
  .next <|
    let a := s.winAddr ofs.toNat
    if s.perst ∨ 4096 < len ∨ 2 ^ 28 < ofs.toNat + len then s
    else if s.memOff then s.unsupported false
    else if s.winBlank then s.emit (.completion true [false] (List.replicate len 0))
    else if s.dramCap < a + len ∨ s.dramCap = 0 then
      (s.bump Reg.HI_WIN_ERR 1).emit (.completion true [false] (List.replicate len 0xFF))
    else s.winRead a len

/-- R653, R655, R336: the enabled bytes of one word of a BAR2 write. -/
def State.winWord (s : State) (w : Nat) (l : List (Nat × Byte)) : State :=
  let put := fun (s : State) => l.foldl (fun (s : State) x => s.rawWrite x.1 [x.2]) s
  if l = [] then s
  else if l.length = 8 then put (s.setEcc w .none)
  else
    match SMap.get State.eccD s.ecc w with
    | .none => put s
    | .ce b => put ((s.memErr (8 * w) false false b).setEcc w .none)
    | .ue _ => s.memErr (8 * w) true false 0

/-- R653: write the enabled bytes, word by word; the errors of a line's words arrive together, an
uncorrectable one last (R346). -/
def State.winWrite (s : State) (a : Nat) (l : List (Option Byte)) : State :=
  let en := (l.zipIdx).filterMap fun x => x.1.map fun b => (a + x.2, b)
  let ws := (upto (l.length / 8 + 2)).map fun i => (a / 8 + i, SMap.get State.eccD s.ecc (a / 8 + i))
  (sortBy errBefore ws).foldl (fun (s : State) w =>
    s.winWord w.1 (en.filter fun x => x.1 / 8 == w.1)) s

/-- R653, R654: BAR2_WRITE. -/
def execBar2Write (ofs : BitVec 28) (bytes : List (Option Byte)) (s : State) : PcieOut :=
  .next <|
    let a := s.winAddr ofs.toNat
    if s.perst ∨ 2 ^ 28 < ofs.toNat + bytes.length then s
    else if s.memOff then s.unsupported true
    else if s.winBlank then s
    else if s.dramCap < a + bytes.length ∨ s.dramCap = 0 then s.bump Reg.HI_WIN_ERR 1
    else s.winWrite a bytes

/-! ### Configuration requests -/

/-- The bits of a configuration dword that software writes, and those that a 1 clears (R648 to R650;
PCIe's layout, log entry 20). -/
def cfgMasks (o : Nat) : Nat × Nat :=
  match o with
  | 0x04 => (0x0546, 0xF9000000)
  | 0x0C => (0xFF, 0)
  | 0x10 => (0xFFF00000, 0)
  | 0x14 => (0xFFFFFFFF, 0)
  | 0x18 => (0xF0000000, 0)
  | 0x1C => (0xFFFFFFFF, 0)
  | 0x3C => (0xFF, 0)
  | 0x50 => (0xC0000000, 0)
  | 0x78 => (0x71FF, 0xF0000)
  | 0x80 => (0x00CB, 0)
  | 0x98 => (0x101F, 0)
  | 0xA0 => (0x001F, 0)
  | 0x104 => (0, 0x0FFFF030)
  | 0x108 => (0x0FFFF030, 0)
  | 0x10C => (0x0FFFF030, 0)
  | 0x110 => (0, 0xF1C1)
  | 0x114 => (0xF1C1, 0)
  | 0x208 | 0x20C | 0x210 | 0x214 | 0x218 | 0x21C | 0x220 | 0x224 => (0xFF7F, 0)
  | _ => (0, 0)

/-- A configuration dword after a write. -/
def State.cfgStore (s : State) (o be w : Nat) : State :=
  let old := s.cfgD o
  let m := cfgMasks o
  let x := mergeBe be old w
  let wr := mergeBe be 0 w
  let v := (old &&& (0xFFFFFFFF ^^^ m.1 ^^^ (wr &&& m.2))) ||| (x &&& m.1)
  { s with cfg := SMap.set cfgReset s.cfg o (BitVec.ofNat 32 v) }

/-- R670, R674, R667, R676: a configuration write and what it sets off. A function in D3hot returns
to D0 by a write of PowerState. -/
def State.cfgWrite (s : State) (o be w : Nat) : State :=
  if o = 0x44 then
    let now := s.cfgD 0x44 % 4
    if bitOf be 0 = false then s
    else if w % 4 = 3 ∧ now ≠ 3 then s.pcieResetBy .d3hot
    else if w % 4 = 0 then { s with cfg := SMap.set cfgReset s.cfg 0x44 0 }
    else s
  else
    let s := ((s.cfgStore o be w).flushHeld).msixUnmask
    if o = 0x78 ∧ bitOf be 1 = true ∧ bitOf w 15 = true then s.pcieResetBy .flr else s

/-- A configuration dword as it reads: Transactions Pending of the device status shows whether a read
request is outstanding, and stays 1 while a reset runs that has not retired the tags (R671). -/
def State.cfgRead (s : State) (o : Nat) : Nat :=
  if o = 0x78 then s.cfgD o ||| (b2n (decide (s.tagsInUse ≠ 0) || s.resetPend.isSome) * 2 ^ 21) else s.cfgD o

/-- R645, R648, R670: CONFIG_REQUEST. Until the identity block has been applied, and while a reset
of R670 runs, it is answered with Request Retry Status. -/
def execConfigRequest (write : Bool) (dword : BitVec 10) (be : BitVec 4) (value : Word32)
    (s : State) : PcieOut :=
  .next <|
    let o := 4 * dword.toNat
    if s.perst then s
    else if s.bootStep < 2 ∨ s.pcieReset = true then s.emit .retryStatus
    else if write then
      (s.cfgWrite o be.toNat value.toNat).emit (.completion true [false] [])
    else s.emit (.completion true [false] (leBytes 4 (s.cfgRead o)))

/-! ### MSI-X -/

/-- R667, R668: MSIX_MESSAGE_SEND: the vector requested first. A masked one becomes pending; a
message is the posted write of the table entry's data to its address (R657, R668), so it waits for Bus
Master Enable (R676), and a die that has tripped sends none (R854). -/
def execMsixMessageSend (s : State) : PcieOut :=
  .next <|
    match s.msixReq with
    | [] => s
    | v :: t =>
      if s.perst ∨ bitOf (s.cfgD 0x50) 31 = false then s
      else if s.msixMasked v then { s with msixReq := t, pba := putBits s.pba v v 1 }
      else if s.alive = false ∨ s.bme = false ∨ s.resetPend.isSome = true ∨ s.inD3 = true then s
      else
        let d := fun i => (SMap.get msixReset s.msixTab (4 * v + i)).toNat
        let a := d 0 + 2 ^ 32 * d 1
        ({ s with msixReq := t }).emit (.msix v (longAddr a) a (d 2))

/-! ### The link -/

/-- R644: the link has trained at the highest rate and width that both ends support and the identity
block permits. -/
def execPcieLinkUp (speed : Fin 6) (width : Fin 4) (s : State) : PcieOut :=
  .next <|
    if s.perst ∨ s.bootStep < 2 ∨ speed = 0 then s
    else
      let g := min speed.val (bits (s.cfgD 0x7C) 3 0)
      let w := min (2 ^ width.val) (bits (s.cfgD 0x7C) 9 4)
      let c := putBits (putBits (s.cfgD 0x80) 19 16 g) 25 20 w
      ({ s with cfg := SMap.set cfgReset s.cfg 0x80 (BitVec.ofNat 32 c) }).setReg Reg.HI_LINK
        (g + 16 * w)

/-- R684: the host link is up. -/
def State.hostLinkUp (s : State) : Bool := !s.perst && s.fld Reg.HI_LINK 3 0 != 0

/-- R675: with ASPM L1 enabled the link enters L1. -/
def execL1Entry (s : State) : PcieOut :=
  .next (if s.hostLinkUp && bitOf (s.cfgD 0x80) 1 then s.setFld Reg.HI_LINK 10 10 1 else s)

/-- R675: the link leaves L1. -/
def execL1Exit (s : State) : PcieOut :=
  .next (if s.hostLinkUp then s.setFld Reg.HI_LINK 10 10 0 else s)

/-- R647: an entry into Recovery is counted. -/
def execLinkRecovery (s : State) : PcieOut :=
  .next (if s.hostLinkUp then s.bump Reg.HI_LINK_RETRAINS 1 else s)

end Sys2Proof.Machine
end

