-- ==== Sys2Proof/Machine/Smbus.lean ====
section
/-! DEFINITION. The SMBus management target (R861 to R864): the window onto the set-up registers, its
status, the snapshot command and the alert response. -/

namespace Sys2Proof.Machine

abbrev SmbOut := Host.Outcome State Fault Refusal

/-- R861: the target answers from boot step 3. -/
def State.smbOn (s : State) : Bool := !s.perst && decide (3 ≤ s.bootStep)

/-- R861, R863: a command is taken: the target answers and is not BUSY. -/
def State.smbTakes (s : State) : Bool := s.smbOn && !s.smb.busy

/-- R861: a write with a wrong PEC is not acted on. -/
def State.pecBad (s : State) : State :=
  let n := s.fld Reg.PWR_SMB_STATUS 31 16
  ({ s with smb := { s.smb with pec := true } }).setFld Reg.PWR_SMB_STATUS 31 16 ((n + 1) % 65536)

/-- A write to the target: its PEC is checked, and then it acts. -/
def State.smbWrite (s : State) (pecOk : Bool) (f : State → State) : State :=
  if s.smbTakes = false then s
  else if pecOk = false then s.pecBad
  else f { s with smb := { s.smb with pec := false } }

/-- R862: ADDR is written: bits [19:2] of the window's offset. -/
def execSmbAddrWrite (value : BitVec 24) (pecOk : Bool) (s : State) : SmbOut :=
  .next <| s.smbWrite pecOk fun s =>
    { s with smb := { s.smb with addr := value.toNat % 2 ^ 20 - value.toNat % 4 } }

/-- R862: ADDR is read. -/
def execSmbAddrRead (s : State) : SmbOut :=
  .next (if s.smbTakes then s.emit (.smbus (leBytes 3 s.smb.addr)) else s)

/-- R862: DATA is written. -/
def execSmbDataWrite (value : Word32) (pecOk : Bool) (s : State) : SmbOut :=
  .next <| s.smbWrite pecOk fun s => { s with smb := { s.smb with data := value.toNat } }

/-- R862: DATA is read. -/
def execSmbDataRead (s : State) : SmbOut :=
  .next (if s.smbTakes then s.emit (.smbus (leBytes 4 s.smb.data)) else s)

/-- R863, R930: a SNAP is a read with all byte enables set; BUSY until its action ends. -/
def execSmbSnap (inc : Bool) (pecOk : Bool) (s : State) : SmbOut :=
  .next <| s.smbWrite pecOk fun s =>
    let r : State × Nat := match s.reach .smbus s.smb.addr with
      | .readOnly | .full => s.readDword .smbus s.smb.addr 15
      | _ => (s, 0)
    { r.1 with smb := { r.1.smb with data := r.2, busy := true, inc := inc } }

/-- R863, R930, R646: a COMMIT in the PWR_ block after READY is a write with all byte enables set; any
other sets REFUSED. -/
def execSmbCommit (inc : Bool) (pecOk : Bool) (s : State) : SmbOut :=
  .next <| s.smbWrite pecOk fun s =>
    let ok := inPwr s.smb.addr && s.ready
    let t := if ok then s.dwordWrite .smbus s.smb.addr 15 s.smb.data else s
    { t with smb := { t.smb with refused := !ok, busy := true, inc := inc } }

/-- R862, R863: the action of a CTRL write ends; INC advances ADDR. -/
def execSmbWindowDone (s : State) : SmbOut :=
  .next <|
    if s.smbOn && s.smb.busy then
      let a := if s.smb.inc then (s.smb.addr + 4) % 2 ^ 20 else s.smb.addr
      { s with smb := { s.smb with busy := false, inc := false, addr := a } }
    else s

/-- R862: STATUS is read; it answers while BUSY too. -/
def execSmbStatusRead (s : State) : SmbOut :=
  .next <|
    if s.smbOn then
      s.emit (.smbus [BitVec.ofNat 8 (b2n s.smb.busy + 2 * b2n s.smb.refused + 4 * b2n s.smb.pec)])
    else s

/-- R862, R857: SNAPSHOT: bytes 0x04 to 0x23 of a record sampled at the command. -/
def execSmbSnapshotRead (s : State) : SmbOut :=
  .next (if s.smbTakes then
      s.emit (.smbus (((s.snapshot s.pwr.telem).drop 4).take 32))
    else s)

/-- R864: the target answers the Alert Response Address with its own address. -/
def execSmbAlertResponse (s : State) : SmbOut :=
  .next <|
    if s.smbOn && s.smbAlert then
      s.emit (.smbus [BitVec.ofNat 8 (s.fld Reg.PWR_SMB_STATUS 6 0)])
    else s

end Sys2Proof.Machine
end

