-- ==== Sys2Proof/Machine/Dispatch.lean ====
section
/-! DEFINITION. One arm per command: its meaning. -/

namespace Sys2Proof.Machine

/-- What a command does to the state, but for the queue of waiting commands. -/
def exec (i : Instr) (s : State) : Host.Outcome State Fault Refusal :=
  match i with
  | .poll => Sys2Proof.Machine.execPoll s
  | .doorbellReadReturn tail fail => Sys2Proof.Machine.execDoorbellReadReturn tail fail s
  | .entryReadReturn bytes fail => Sys2Proof.Machine.execEntryReadReturn bytes fail s
  | .ringStatusWrite => Sys2Proof.Machine.execRingStatusWrite s
  | .ringEnable value => Sys2Proof.Machine.execRingEnable value s
  | .ringDisable value => Sys2Proof.Machine.execRingDisable value s
  | .reNop v => Sys2Proof.Machine.execReNop v s
  | .reSubmit v => Sys2Proof.Machine.execReSubmit v s
  | .sealSpaceFreed v => Sys2Proof.Machine.execSealSpaceFreed v s
  | .reLaunch v => Sys2Proof.Machine.execReLaunch v s
  | .reStreamCreate v => Sys2Proof.Machine.execReStreamCreate v s
  | .reStreamConfigure v => Sys2Proof.Machine.execReStreamConfigure v s
  | .reStreamDestroy v => Sys2Proof.Machine.execReStreamDestroy v s
  | .reStreamRelease v => Sys2Proof.Machine.execReStreamRelease v s
  | .reWaitOnly v => Sys2Proof.Machine.execReWaitOnly v s
  | .reSignalOnly v => Sys2Proof.Machine.execReSignalOnly v s
  | .reAbort v => Sys2Proof.Machine.execReAbort v s
  | .reSave v => Sys2Proof.Machine.execReSave v s
  | .reRestore v => Sys2Proof.Machine.execReRestore v s
  | .reChartLoad v => Sys2Proof.Machine.execReChartLoad v s
  | .reChartPatchVersioned v => Sys2Proof.Machine.execReChartPatchVersioned v s
  | .reChartPatchHot v => Sys2Proof.Machine.execReChartPatchHot v s
  | .reChartDrop v => Sys2Proof.Machine.execReChartDrop v s
  | .reHandleSync v => Sys2Proof.Machine.execReHandleSync v s
  | .handleCopyDone => Sys2Proof.Machine.execHandleCopyDone s
  | .reAlmanacUpdateAlmanac v => Sys2Proof.Machine.execReAlmanacUpdateAlmanac v s
  | .reAlmanacUpdateFirmware v => Sys2Proof.Machine.execReAlmanacUpdateFirmware v s
  | .reAlmanacUpdateRead v => Sys2Proof.Machine.execReAlmanacUpdateRead v s
  | .flashCommandDone res => Sys2Proof.Machine.execFlashCommandDone res s
  | .reFabricRediscover v => Sys2Proof.Machine.execReFabricRediscover v s
  | .reFabricRemap v => Sys2Proof.Machine.execReFabricRemap v s
  | .reFabricFence v => Sys2Proof.Machine.execReFabricFence v s
  | .slotMap v => Sys2Proof.Machine.execSlotMap v s
  | .prefetch stream v => Sys2Proof.Machine.execPrefetch stream s v
  | .notBeforeReached stream => Sys2Proof.Machine.execNotBeforeReached stream s
  | .watchReread uda => Sys2Proof.Machine.execWatchReread uda s
  | .hostPennantReadReturn uda word fail => Sys2Proof.Machine.execHostPennantReadReturn uda word fail s
  | .commit stream => Sys2Proof.Machine.execCommit stream s
  | .segmentBind stream v => Sys2Proof.Machine.execSegmentBind stream v s
  | .segmentAdvance slot => Sys2Proof.Machine.execSegmentAdvance slot s
  | .nop slot node st => Sys2Proof.Machine.execNop slot node st s
  | .tensorDesc slot node st => Sys2Proof.Machine.execTensorDesc slot node st s
  | .matmul slot node ph v => Sys2Proof.Machine.execMatmul slot node ph v s
  | .arrayStep cl tile idle => Sys2Proof.Machine.execArrayStep cl tile idle s
  | .blockSpill cl tile => Sys2Proof.Machine.execBlockSpill cl tile s
  | .marginDecision slot id => Sys2Proof.Machine.execMarginDecision slot id s
  | .overflowRewind cl tile => Sys2Proof.Machine.execOverflowRewind cl tile s
  | .moveCopy slot node ph v => Sys2Proof.Machine.execMoveCopy slot node ph v s
  | .moveStrided slot node ph v => Sys2Proof.Machine.execMoveStrided slot node ph v s
  | .moveTranspose slot node ph v => Sys2Proof.Machine.execMoveTranspose slot node ph v s
  | .moveGather slot node ph v => Sys2Proof.Machine.execMoveGather slot node ph v s
  | .moveFill slot node ph v => Sys2Proof.Machine.execMoveFill slot node ph v s
  | .moveA48Add slot node ph v => Sys2Proof.Machine.execMoveA48Add slot node ph v s
  | .egress slot node ph v => Sys2Proof.Machine.execEgress slot node ph v s
  | .topk slot node ph v => Sys2Proof.Machine.execTopk slot node ph v s
  | .topkMerge slot node ph v => Sys2Proof.Machine.execTopkMerge slot node ph v s
  | .maskGenMask slot node ph v => Sys2Proof.Machine.execMaskGenMask slot node ph v s
  | .maskGenNoiseTile slot node ph v => Sys2Proof.Machine.execMaskGenNoiseTile slot node ph v s
  | .tileRead slot node ph v => Sys2Proof.Machine.execTileRead slot node ph v s
  | .tileWrite slot node ph v => Sys2Proof.Machine.execTileWrite slot node ph v s
  | .tokenPost slot node st => Sys2Proof.Machine.execTokenPost slot node st s
  | .tokenWait slot node st => Sys2Proof.Machine.execTokenWait slot node st s
  | .pennantSignalWrite slot node st => Sys2Proof.Machine.execPennantSignalWrite slot node st s
  | .pennantSignalMax slot node st => Sys2Proof.Machine.execPennantSignalMax slot node st s
  | .pennantWait slot node st => Sys2Proof.Machine.execPennantWait slot node st s
  | .checkpoint slot node st => Sys2Proof.Machine.execCheckpoint slot node st s
  | .barrier slot node st => Sys2Proof.Machine.execBarrier slot node st s
  | .opComplete slot node ofs => Sys2Proof.Machine.execOpComplete slot node ofs s
  | .postApply slot node tok srcs => Sys2Proof.Machine.execPostApply slot node tok srcs s
  | .streamFault v => Sys2Proof.Machine.execStreamFault s v
  | .entryQuiesced stream => Sys2Proof.Machine.execEntryQuiesced stream s
  | .deviceInternalFault => Sys2Proof.Machine.execDeviceInternalFault s
  | .resetPurge => Sys2Proof.Machine.execResetPurge s
  | .progressSample => Sys2Proof.Machine.execProgressSample s
  | .cutTaken stream => Sys2Proof.Machine.execCutTaken stream s
  | .hostReadCompletion issuer status => Sys2Proof.Machine.execHostReadCompletion issuer status s
  | .completionTimeout issuer => Sys2Proof.Machine.execCompletionTimeout issuer s
  | .registerWrite path ofs be value => Sys2Proof.Machine.execRegisterWrite path ofs be value s
  | .pairLowRead path ofs be => Sys2Proof.Machine.execPairLowRead path ofs be s
  | .pairLowWrite path ofs be value => Sys2Proof.Machine.execPairLowWrite path ofs be value s
  | .pairHighWrite path ofs be value => Sys2Proof.Machine.execPairHighWrite path ofs be value s
  | .expertUnlockWrite be value => Sys2Proof.Machine.execExpertUnlockWrite be value s
  | .noticeEnableWrite be value => Sys2Proof.Machine.execNoticeEnableWrite be value s
  | .msixMessageSend => Sys2Proof.Machine.execMsixMessageSend s
  | .ephSelftestStart be value => Sys2Proof.Machine.execEphSelftestStart be value s
  | .ephSelftestDone => Sys2Proof.Machine.execEphSelftestDone s
  | .svnCommit be value => Sys2Proof.Machine.execSvnCommit be value s
  | .svnCommitDone => Sys2Proof.Machine.execSvnCommitDone s
  | .recoveryStart be value => Sys2Proof.Machine.execRecoveryStart be value s
  | .linkRetrainWrite port be value => Sys2Proof.Machine.execLinkRetrainWrite port be value s
  | .linkEnableWrite port be value => Sys2Proof.Machine.execLinkEnableWrite port be value s
  | .linkDisableWrite port be value => Sys2Proof.Machine.execLinkDisableWrite port be value s
  | .pinMuxWrite pin be value => Sys2Proof.Machine.execPinMuxWrite pin be value s
  | .pinSwitchComplete pin => Sys2Proof.Machine.execPinSwitchComplete pin s
  | .bar2Read ofs len => Sys2Proof.Machine.execBar2Read ofs len s
  | .bar2Write ofs bytes => Sys2Proof.Machine.execBar2Write ofs bytes s
  | .configRequest write dword be value => Sys2Proof.Machine.execConfigRequest write dword be value s
  | .flr => Sys2Proof.Machine.execFlr s
  | .hotReset => Sys2Proof.Machine.execHotReset s
  | .linkDisable => Sys2Proof.Machine.execLinkDisable s
  | .dlDown => Sys2Proof.Machine.execDlDown s
  | .d3hotEntry => Sys2Proof.Machine.execD3hotEntry s
  | .l1Entry => Sys2Proof.Machine.execL1Entry s
  | .linkRecovery => Sys2Proof.Machine.execLinkRecovery s
  | .perstN us => Sys2Proof.Machine.execPerstN us s
  | .refclkLoss => Sys2Proof.Machine.execRefclkLoss s
  | .pwrGoodFall => Sys2Proof.Machine.execPwrGoodFall s
  | .bootStart flash => Sys2Proof.Machine.execBootStart flash s
  | .dramTrainingDone rate chOk big => Sys2Proof.Machine.execDramTrainingDone rate chOk big s
  | .firmwareCheckDone => Sys2Proof.Machine.execFirmwareCheckDone s
  | .bootReady => Sys2Proof.Machine.execBootReady s
  | .patrolScrubVisit unit flips => Sys2Proof.Machine.execPatrolScrubVisit unit flips s
  | .correctionWriteback => Sys2Proof.Machine.execCorrectionWriteback s
  | .dramRefresh channel => Sys2Proof.Machine.execDramRefresh channel s
  | .mr4Read rate => Sys2Proof.Machine.execMr4Read rate s
  | .wck2dqiTracking channel => Sys2Proof.Machine.execWck2dqiTracking channel s
  | .telemetrySnapshot => Sys2Proof.Machine.execTelemetrySnapshot s
  | .telemetryDrop => Sys2Proof.Machine.execTelemetryDrop s
  | .governorPeriod ev => Sys2Proof.Machine.execGovernorPeriod ev s
  | .pllLocked => Sys2Proof.Machine.execPllLocked s
  | .voutSettleExpiry => Sys2Proof.Machine.execVoutSettleExpiry s
  | .pmbusTransactionDone good word => Sys2Proof.Machine.execPmbusTransactionDone good word s
  | .opSwitch => Sys2Proof.Machine.execOpSwitch s
  | .thermalSample temps => Sys2Proof.Machine.execThermalSample temps s
  | .thermalCeilingStep => Sys2Proof.Machine.execThermalCeilingStep s
  | .thermalTrip => Sys2Proof.Machine.execThermalTrip s
  | .brakeApply => Sys2Proof.Machine.execBrakeApply s
  | .brakeRelease => Sys2Proof.Machine.execBrakeRelease s
  | .smbAddrWrite value pecOk => Sys2Proof.Machine.execSmbAddrWrite value pecOk s
  | .smbAddrRead => Sys2Proof.Machine.execSmbAddrRead s
  | .smbDataWrite value pecOk => Sys2Proof.Machine.execSmbDataWrite value pecOk s
  | .smbDataRead => Sys2Proof.Machine.execSmbDataRead s
  | .smbSnap inc pecOk => Sys2Proof.Machine.execSmbSnap inc pecOk s
  | .smbCommit inc pecOk => Sys2Proof.Machine.execSmbCommit inc pecOk s
  | .smbWindowDone => Sys2Proof.Machine.execSmbWindowDone s
  | .smbStatusRead => Sys2Proof.Machine.execSmbStatusRead s
  | .smbSnapshotRead => Sys2Proof.Machine.execSmbSnapshotRead s
  | .smbAlertResponse => Sys2Proof.Machine.execSmbAlertResponse s
  | .tsBurst port => Sys2Proof.Machine.execTsBurst port s
  | .tsReceived port lanes => Sys2Proof.Machine.execTsReceived port lanes s
  | .trainLanesFixed port lanes => Sys2Proof.Machine.execTrainLanesFixed port lanes s
  | .trainDeadline port => Sys2Proof.Machine.execTrainDeadline port s
  | .speedDeadline port => Sys2Proof.Machine.execSpeedDeadline port s
  | .initSend port => Sys2Proof.Machine.execInitSend port s
  | .initReceived port frame coding => Sys2Proof.Machine.execInitReceived port frame coding s
  | .dataFrameReceived port frame coding => Sys2Proof.Machine.execDataFrameReceived port frame coding s
  | .ctrlFrameReceived port frame coding => Sys2Proof.Machine.execCtrlFrameReceived port frame coding s
  | .nackReceived port frame coding => Sys2Proof.Machine.execNackReceived port frame coding s
  | .goodbyeReceived port frame coding => Sys2Proof.Machine.execGoodbyeReceived port frame coding s
  | .heartbeat port => Sys2Proof.Machine.execHeartbeat port s
  | .checkInterval port => Sys2Proof.Machine.execCheckInterval port s
  | .laneLockLoss port => Sys2Proof.Machine.execLaneLockLoss port s
  | .electricalIdleDetected port => Sys2Proof.Machine.execElectricalIdleDetected port s
  | .downIdleExpiry port => Sys2Proof.Machine.execDownIdleExpiry port s
  | .fastTrainLocked port => Sys2Proof.Machine.execFastTrainLocked port s
  | .fastTrainDeadline port => Sys2Proof.Machine.execFastTrainDeadline port s
  | .helloSend port => Sys2Proof.Machine.execHelloSend port s
  | .helloReceived port => Sys2Proof.Machine.execHelloReceived port s
  | .parentTimeout => Sys2Proof.Machine.execParentTimeout s
  | .advertReceived port => Sys2Proof.Machine.execAdvertReceived port s
  | .fabricSettle => Sys2Proof.Machine.execFabricSettle s
  | .packetForward => Sys2Proof.Machine.execPacketForward s
  | .remoteRead => Sys2Proof.Machine.execRemoteRead s
  | .remoteWrite => Sys2Proof.Machine.execRemoteWrite s
  | .remoteA48Add => Sys2Proof.Machine.execRemoteA48Add s
  | .halyard => Sys2Proof.Machine.execHalyard s
  | .probe => Sys2Proof.Machine.execProbe s
  | .remoteResponse => Sys2Proof.Machine.execRemoteResponse s
  | .probeRspReceived => Sys2Proof.Machine.execProbeRspReceived s
  | .remoteNackReceived => Sys2Proof.Machine.execRemoteNackReceived s
  | .fsbSyncPulse => Sys2Proof.Machine.execFsbSyncPulse s
  | .tapReset => Sys2Proof.Machine.execTapReset s
  | .tapIdcode => Sys2Proof.Machine.execTapIdcode s
  | .tapSamplePreload captured preload => Sys2Proof.Machine.execTapSamplePreload captured preload s
  | .tapExtest => Sys2Proof.Machine.execTapExtest s
  | .tapClamp => Sys2Proof.Machine.execTapClamp s
  | .tapHighz => Sys2Proof.Machine.execTapHighz s
  | .tapDbgSelect => Sys2Proof.Machine.execTapDbgSelect s
  | .tapBypass => Sys2Proof.Machine.execTapBypass s
  | .flashDeadline => Sys2Proof.Machine.execFlashDeadline s
  | .pcieLinkUp speed width => Sys2Proof.Machine.execPcieLinkUp speed width s
  | .l1Exit => Sys2Proof.Machine.execL1Exit s
  | .contextImageWritten stream => Sys2Proof.Machine.execContextImageWritten stream s

end Sys2Proof.Machine
end

