-- ==== Sys2Proof/Machine/Tick.lean ====
section
/-! DEFINITION. What one Meridian cycle does by itself: the step of an empty queue. Time advances, the
counters of cycles count, and a waiting telemetry write is granted (log entry 5). -/

namespace Sys2Proof.Machine

/-! ### Time -/

/-- R833: the length of a Meridian cycle at the point in force, in units of 1/36000 ns. -/
def State.cycleUnits (s : State) : Nat := 360000 / freqOf s.op

/-- R775, R777: device time and fabric time advance by a cycle, with the part of the slew. -/
def State.advanceTime (s : State) : State :=
  let dt := s.cycleUnits
  let d : Int := (dt : Int) + slewPart s.fab.slew s.fab.slewAt dt
  { (s.shiftTime d) with
    cycle := s.cycle + 1
    now := s.now + dt
    fab := { s.fab with slewAt := s.fab.slewAt + dt } }

/-- R853: whole µs of throttling. -/
def State.countThrottle (s was : State) : State :=
  if bitOf (was.reg Reg.PWR_GOV) 7 then
    s.bump Reg.PWR_THROTTLE_US (s.now / 36000000 - was.now / 36000000)
  else s

/-! ### Counters of cycles -/

/-- R359, R362: every counter tests its eligible wait. -/
def State.testTokens (s : State) : State :=
  (s.toks.filter fun t => t.2.alloc).foldl (fun (s : State) t =>
    s.testWaits t.2.slot (t.1 / 64) t.2.token) s

/-- R360, R387: a unit of the cluster is blocked on a token wait: an operation at the head of its queue,
or a sequencer. -/
def State.tokWaiting (s : State) (cl : Nat) : Bool :=
  (s.ops.any fun o => o.node == cl && waitEn o.word && !o.waited && !o.issued && s.atHead o) ||
  (upto 8).any fun n =>
    match (s.slot? n).bind fun x => x.lane? cl with
    | some l =>
      match l.block with
      | some (.token _ _) => true
      | _ => false
    | none => false

/-- R370: a sequencer of the cluster waits for queue room: its next operation has none. -/
def State.roomWaiting (s : State) (cl : Nat) : Bool :=
  (upto 8).any fun n =>
    match (s.slot? n).bind fun x => x.lane? cl with
    | some l =>
      l.block == some .room &&
        (match l.ahead with
         | r :: _ =>
           match opUnit r.word with
           | some q => !s.hasRoom (newOp n cl r.ofs r.word q r.drs r.uda)
           | none => false
         | [] => false)
    | none => false

/-- R288: a chunk spill of the cluster waits for a decision. -/
def State.marginWaiting (s : State) (cl : Nat) : Bool :=
  s.ops.any fun o =>
    o.node == cl &&
      (match o.mat, s.matNow o with
       | some m, some c => m.tiles.any fun r => c.heldBack r m.decided
       | _, _ => false)

/-- R297, R380: an operation with margin stop waits on the exchange: for a member of its group that has
not arrived, or on every tile for a decision. -/
def State.exchangeWait (s : State) (o : OpRec) : Bool :=
  (matWord o.word).margin &&
    (match o.mat, s.matNow o with
     | some m, some c =>
       m.stopAt.isNone && (!s.groupReady o c ||
         m.tiles.all fun r => r.done || c.heldBack r m.decided)
     | _, _ => false)

/-- R842: a tile of the device has a step ready. -/
def State.stepReady (s : State) : Bool :=
  s.ops.any fun o =>
    match o.mat with
    | some m => m.tiles.any fun r => r.begun && !r.done && r.due.isEmpty
    | none => false

/-- The lanes that run in slots, with their slot, entry and buffer. -/
def State.liveLanes (s : State) : List (Nat × ExecSlot × Entry × BufInfo × Nat × Lane) :=
  (upto 8).flatMap fun n =>
    match s.slot? n with
    | none => []
    | some x =>
      match (s.entry? x.entry).bind fun e => e.buf.map fun b => (e, b) with
      | some (e, b) => (x.lanes.filter fun l => !s.laneHalted x l.1).map fun l => (n, x, e, b, l)
      | none => []

/-- R416: a sequencer waits for a relocated operation. -/
def relocWaits (b : BufInfo) (node : Nat) (l : Lane) : Bool :=
  b.sealAt.isNone && (l.block.isNone || l.block == some .room) && l.ahead.isEmpty &&
    decide (l.pc < b.laneEnd node)

/-- R416: the lanes whose sequencers wait for a relocated operation. -/
def State.relocWaiting (s : State) : Nat :=
  (s.liveLanes.filter fun y => y.2.1.cutting.isNone && relocWaits y.2.2.2.1 y.2.2.2.2.1 y.2.2.2.2.2).length

/-- Add one to a counter when a condition holds. -/
def State.bumpIf (s : State) (b : Bool) (o : Nat) : State := if b then s.bump o 1 else s

/-- The CL_ counters of a cluster. -/
def State.tickCluster (s : State) (cl : Nat) : State :=
  ((s.bumpIf (s.tokWaiting cl) (clReg cl Reg.CL_TOK_WAIT_CYC)).bumpIf (s.roomWaiting cl)
    (clReg cl Reg.CL_SEQ_STALL)).bumpIf (s.marginWaiting cl) (clReg cl Reg.CL_MARGIN_WAIT)

/-- R610: CYCLES of a slot: a unit has an operation of it in progress. One that waits on a margin
exchange (R380), or for Bus Master Enable (R676), makes none. -/
def State.tickSlot (s : State) (n : Nat) : State :=
  if s.ops.any fun o =>
      o.slot == n && o.begun && !s.exchangeWait o && !(o.hostWait && !s.bme) then
    let p := s.progOf n
    s.setProg n { p with cyc := (p.cyc + 1) % 2 ^ 48 }
  else s

/-- R696: a link with a full retry buffer. -/
def State.tickLink (s : State) (p : Nat) : State :=
  s.bumpIf (decide (1024 ≤ (s.port p).retry.length)) (lk p Reg.FAB_LINK_RETRY_FULL)

/-- What happens and counts while the engines run. -/
def State.tickEngines (s : State) : State :=
  if s.running then
    let s := (s.ringEdge s.clearFront).testTokens
    let s := s.bump Reg.FE_RELOC_WAIT s.relocWaiting
    let s := (upto 8).foldl (fun (s : State) n => (s.tickCluster n).tickSlot n) s
    let s := s.bumpIf (s.gated && s.stepReady) Reg.PWR_GATE_CYC
    s.bumpIf s.ring.sealing.isSome Reg.FE_SEAL_WAIT
  else s

/-- A lane's next access is of host memory: a piece of its buffer, or a signal. -/
def State.laneHost (s : State) (n : Nat) (b : BufInfo) (node : Nat) (l : Lane) : Bool :=
  (regionOf b.uda == .host && b.sealAt.isNone && decide (l.ahead.length < 8) &&
    decide (l.rel.1 < b.laneEnd node) && !l.holds l.rel.1) ||
  (match l.ahead with
   | r :: _ => opCode r.word == 0x0D && regionOf r.uda == .host && l.block.isNone && s.laneIdle n node
   | [] => false)

/-- The admission of the entry at the front reads host memory. -/
def State.frontHost (s : State) : Bool :=
  s.admits &&
    (match s.ring.arrived with
     | (_, raw) :: _ =>
       let a := if rowKind raw = some .submit then leAt raw 8 8 % 2 ^ 48 else blockAddr raw
       (regionOf a == .host && a != 0 &&
         (match rowKind raw with
          | some .submit | some .launch | some .restore | some .patchVersioned | some .patchHot
          | some .almanac | some .firmware => true
          | some .create | some .configure => bitOf (leAt raw 0x0B 1) 0
          | _ => false)) ||
        (bitOf (leAt raw 1 1) 2 && regionOf (leAt raw 32 8 % 2 ^ 48) == .host)
     | [] => false)

/-- R676: a host request waits for Bus Master Enable. -/
def State.bmeWaiting (s : State) : Bool :=
  !s.bme && (!s.held.isEmpty || !s.msixReq.isEmpty || (s.ops.any fun o => o.hostWait) || s.frontHost ||
    s.liveLanes.any fun y => s.laneHost y.1 y.2.2.2.1 y.2.2.2.2.1 y.2.2.2.2.2)

/-- One Meridian cycle. Nothing counts while PERST_N is low. -/
def State.tick (s : State) : State :=
  if s.perst then s
  else
    let t := s.tickEngines
    let t := (upto 6).foldl (fun (t : State) p => t.tickLink p) t
    let t := t.bumpIf t.bmeWaiting Reg.HI_BME_WAIT
    let t := if t.alive then t.telemGrant else t
    t.advanceTime.countThrottle s

end Sys2Proof.Machine
end

