-- ==== Sys2Proof/Safety.lean ====
section
/-! DEFINITION. The terms that statements about the machine are made in: a command that completes, the
canonical form of the state, and a device held in reset. -/

namespace Sys2Proof.Machine

/-- The command completes, in a state of which `P` holds. -/
def Does (i : Instr) (s : State) (P : State → Prop) : Prop :=
  ∃ t, exec i s = .next t ∧ P t

/-- Both memories and every family by number are in their canonical form: numbers strictly rising,
nothing listed at its default. -/
def State.Canonical (s : State) : Prop :=
  s.dram.wf = true ∧ s.plate.wf = true ∧
  SMap.wf regReset s.regs = true ∧ SMap.wf regReset s.postAlm = true ∧
  SMap.wf State.eccD s.ecc = true ∧ SMap.wf State.natD s.scrubRow = true ∧
  SMap.wf State.tileD s.tiles = true ∧ SMap.wf State.tokD s.toks = true ∧
  SMap.wf State.streamD s.streams = true ∧ SMap.wf State.slotD s.slots = true ∧
  SMap.wf State.progD s.prog = true ∧ SMap.wf State.chartD s.charts = true ∧
  SMap.wf State.pairD s.pairs = true ∧ SMap.wf State.pairD s.tgts = true ∧
  SMap.wf cfgReset s.cfg = true ∧ SMap.wf msixReset s.msixTab = true ∧
  SMap.wf State.portD s.ports = true ∧ SMap.wf State.parkD s.parks = true ∧
  SMap.wf State.pastD s.past = true ∧ SMap.wf State.natD s.stepped = true

/-- PERST_N is low (R673): everything stands as it does after reset, but for what a reset does not
reach: the commands that wait and the model's own counts, what has been sent, the flash and the fuses, the
TAP with its debug TAP closed (R912), and the levels that the board puts on the balls. No BOOT_START
waits. -/
def State.HeldInReset (s : State) : Prop :=
  s = { State.reset with
    pending := s.pending
    cycle := s.cycle
    fresh := s.fresh
    out := s.out
    flash := s.flash
    svnFloor := s.svnFloor
    tap := s.tap
    balls := s.balls } ∧
  s.tap.debug = false ∧ ∀ f, Instr.bootStart f ∉ s.pending

/-- Every register outside a list holds in `t` what it holds in `s`. -/
def State.SameRegs (s t : State) (but : List Nat) : Prop :=
  ∀ o, o ∉ but → t.reg o = s.reg o

/-- Every byte of local DRAM and of the plate store reads in `t` as it does in `s`. -/
def State.SameBytes (s t : State) : Prop :=
  ∀ a, t.dram.read a = s.dram.read a ∧ t.plate.read a = s.plate.read a

/-- No stored word of `[u, u+len)` has wrong bits. -/
def State.EccFree (s : State) (u len : Nat) : Prop :=
  ∀ e ∈ s.ecc, ¬ (u / 8 ≤ e.1 ∧ e.1 * 8 < u + len)

/-- The bytes `l` are stored from UDA `u` on, in the plate store or in DRAM, and every other byte of both
is as before. -/
def State.StoresOnly (s t : State) (u : Nat) (l : List Byte) : Prop :=
  match regionOf u with
  | .plate =>
    t.dram = s.dram ∧ (∀ (i : Nat) (b : Byte), l[i]? = some b → t.plate.read (offOf u + i) = b) ∧
    ∀ a, a < offOf u ∨ offOf u + l.length ≤ a → t.plate.read a = s.plate.read a
  | _ =>
    t.plate = s.plate ∧ (∀ (i : Nat) (b : Byte), l[i]? = some b → t.dram.read (offOf u + i) = b) ∧
    ∀ a, a < offOf u ∨ offOf u + l.length ≤ a → t.dram.read a = s.dram.read a

/-- The entry at the front of the ring is of row `k` and keeps the rules of R517: it is admitted as `r`, in
the state `u` after its checks, where a seal area that no image holds is the registers' (R441). -/
def State.Admits (s : State) (v : View) (k : RowKind) (u : State) (r : Req) : Prop :=
  ∃ a raw, s.front k = some (a, raw) ∧ s.sealRefresh.checkEntry v k a raw = .ok u r

/-- The command completes the admission of the entry at the front, whose action leaves `w`: HEAD passes
it, and RING is raised if FE_RING_STATUS.STATE has left 1 (R510, R527, R665). -/
def Passes (i : Instr) (s w : State) : Prop := exec i s = .next (s.ringEdge w.passHead)

/-- The command rejects the entry at the front, whose checks leave `w` (R518). -/
def Rejects (i : Instr) (s w : State) : Prop :=
  exec i s = .next (s.ringEdge w.rejectFront.clearFront)

/-- The rows that take an entry in: what the host answers, and the kind of entry. -/
def rowOf : Instr → Option (View × RowKind)
  | .reNop v => some (v, .nop)
  | .reSubmit v => some (v, .submit)
  | .reLaunch v => some (v, .launch)
  | .reStreamCreate v => some (v, .create)
  | .reStreamConfigure v => some (v, .configure)
  | .reStreamDestroy v => some (v, .destroy)
  | .reStreamRelease v => some (v, .release)
  | .reWaitOnly v => some (v, .waitOnly)
  | .reSignalOnly v => some (v, .signalOnly)
  | .reAbort v => some (v, .abort)
  | .reSave v => some (v, .save)
  | .reRestore v => some (v, .restore)
  | .reChartLoad v => some (v, .chartLoad)
  | .reChartPatchVersioned v => some (v, .patchVersioned)
  | .reChartPatchHot v => some (v, .patchHot)
  | .reChartDrop v => some (v, .chartDrop)
  | .reHandleSync v => some (v, .handleSync)
  | .reAlmanacUpdateAlmanac v => some (v, .almanac)
  | .reAlmanacUpdateFirmware v => some (v, .firmware)
  | .reAlmanacUpdateRead v => some (v, .almRead)
  | .reFabricRediscover v => some (v, .rediscover)
  | .reFabricRemap v => some (v, .remap)
  | .reFabricFence v => some (v, .fence)
  | _ => none

/-- The words of an operation's row that a unit queue takes (R323, R451). -/
def unitWords : Instr → Option (Nat → Bool)
  | .moveCopy _ _ _ _ => some fun w => isMove 0 w || isMove 6 w || isMove 7 w
  | .moveStrided _ _ _ _ => some (isMove 1)
  | .moveTranspose _ _ _ _ => some (isMove 2)
  | .moveGather _ _ _ _ => some (isMove 3)
  | .moveFill _ _ _ _ => some (isMove 4)
  | .moveA48Add _ _ _ _ => some (isMove 5)
  | .egress _ _ _ _ => some fun w => opCode w == 0x04
  | .topk _ _ _ _ => some fun w => opCode w == 0x05
  | .topkMerge _ _ _ _ => some fun w => opCode w == 0x06
  | .maskGenMask _ _ _ _ => some fun w => opCode w == 0x07 && !bitOf w 64
  | .maskGenNoiseTile _ _ _ _ => some fun w => opCode w == 0x07 && bitOf w 64
  | .tileRead _ _ _ _ => some fun w => opCode w == 0x09
  | .tileWrite _ _ _ _ => some fun w => opCode w == 0x0A
  | .matmul _ _ _ _ => some fun w => opCode w == 0x02
  | _ => none

/-- The slot, node, phase and host data of a command of a unit queue's row. -/
def unitAt : Instr → Option (Fin 8 × Fin 9 × Phase × View)
  | .moveCopy n c p v => some (n, c, p, v)
  | .moveStrided n c p v => some (n, c, p, v)
  | .moveTranspose n c p v => some (n, c, p, v)
  | .moveGather n c p v => some (n, c, p, v)
  | .moveFill n c p v => some (n, c, p, v)
  | .moveA48Add n c p v => some (n, c, p, v)
  | .egress n c p v => some (n, c, p, v)
  | .topk n c p v => some (n, c, p, v)
  | .topkMerge n c p v => some (n, c, p, v)
  | .maskGenMask n c p v => some (n, c, p, v)
  | .maskGenNoiseTile n c p v => some (n, c, p, v)
  | .tileRead n c p v => some (n, c, p, v)
  | .tileWrite n c p v => some (n, c, p, v)
  | .matmul n c p v => some (n, c, p, v)
  | _ => none

/-- What one repetition of an operation accesses, for the rows whose repetitions are one body. -/
def unitBody : Instr → Option (OpRec → Ctx → Ctx)
  | .moveCopy _ _ _ _ => some moveCopyBody
  | .moveStrided _ _ _ _ => some moveStridedBody
  | .moveTranspose _ _ _ _ => some moveTransposeBody
  | .moveGather _ _ _ _ => some moveGatherBody
  | .moveFill _ _ _ _ => some moveFillBody
  | .moveA48Add _ _ _ _ => some moveA48AddBody
  | .egress _ _ _ _ => some egressBody
  | .topk _ _ _ _ => some topkBody
  | .topkMerge _ _ _ _ => some mergeBody
  | .maskGenMask _ _ _ _ => some maskBody
  | .maskGenNoiseTile _ _ _ _ => some noiseBody
  | .tileRead _ _ _ _ => some tileReadBody
  | .tileWrite _ _ _ _ => some tileWriteBody
  | _ => none

/-- The rows that have a lane issue its next operation, with the words of each. -/
def laneRow : Instr → Option (Fin 8 × Fin 9 × View × (Nat → Bool))
  | .nop n c (.issue v) => some (n, c, v, fun w => opCode w == 0x00 || opCode w == 0x08 || decide (0x10 < opCode w))
  | .tensorDesc n c (.issue v) => some (n, c, v, fun w => opCode w == 0x01)
  | .tokenPost n c (.issue v) => some (n, c, v, fun w => opCode w == 0x0B)
  | .tokenWait n c (.issue v) => some (n, c, v, fun w => opCode w == 0x0C)
  | .pennantSignalWrite n c (.issue v) => some (n, c, v, fun w => opCode w == 0x0D && bitOf w 191 == false)
  | .pennantSignalMax n c (.issue v) => some (n, c, v, fun w => opCode w == 0x0D && bitOf w 191 == true)
  | .pennantWait n c (.issue v) => some (n, c, v, fun w => opCode w == 0x0E)
  | .checkpoint n c (.issue v) => some (n, c, v, fun w => opCode w == 0x0F)
  | .barrier n c (.issue v) => some (n, c, v, fun w => opCode w == 0x10)
  | i =>
    match unitAt i, unitWords i with
    | some (n, c, .issue, v), some row => some (n, c, v, row)
    | _, _ => none

/-- The rows that have G0 relocate the next operation of a lane, with the words of each. -/
def aheadRow : Instr → Option (Fin 8 × Fin 9 × View × (Nat → Bool))
  | .nop n c (.relocate v) => some (n, c, v, fun w => opCode w == 0x00 || opCode w == 0x08 || decide (0x10 < opCode w))
  | .tensorDesc n c (.relocate v) => some (n, c, v, fun w => opCode w == 0x01)
  | .tokenPost n c (.relocate v) => some (n, c, v, fun w => opCode w == 0x0B)
  | .tokenWait n c (.relocate v) => some (n, c, v, fun w => opCode w == 0x0C)
  | .pennantSignalWrite n c (.relocate v) => some (n, c, v, fun w => opCode w == 0x0D && bitOf w 191 == false)
  | .pennantSignalMax n c (.relocate v) => some (n, c, v, fun w => opCode w == 0x0D && bitOf w 191 == true)
  | .pennantWait n c (.relocate v) => some (n, c, v, fun w => opCode w == 0x0E)
  | .checkpoint n c (.relocate v) => some (n, c, v, fun w => opCode w == 0x0F)
  | .barrier n c (.relocate v) => some (n, c, v, fun w => opCode w == 0x10)
  | i =>
    match unitAt i, unitWords i with
    | some (n, c, .relocate, v), some row => some (n, c, v, row)
    | _, _ => none

/-- The next operation of a lane is the first of those relocated ahead (R395, R415): `f` has its lane and
word, and `drs` and `u` are the registers that it leaves and the address of its inline reference. -/
def State.Fetches (s : State) (slot node : Nat) (f : Fetch) (drs : SMap (Option DReg)) (u : Nat) :
    Prop :=
  ∃ (f₀ : Fetch) (r : Ready) (t : List Ready),
    s.laneReady slot node = some f₀ ∧ f₀.l.ahead = r :: t ∧ drs = r.drs ∧ u = r.uda ∧
    f = { f₀ with w := r.word, l := { f₀.l with ahead := t } }

/-- The lane of a fetched operation stands in `t` as `l`. -/
def State.LaneIs (t : State) (f : Fetch) (l : Lane) : Prop :=
  (t.slot? f.slot).bind (fun x => x.lane? f.node) = some l

/-- The operation completes at once: its lane goes on behind it with the registers it leaves, it counts
in the slot's progress, and makes its header post (R354, R452, R610). -/
def State.LaneGoesOn (u t : State) (f : Fetch) (drs : SMap (Option DReg)) : Prop :=
  t.LaneIs f { f.l with pc := f.l.pc + 32, drs := drs, word := f.w, block := none } ∧
  (t.progOf f.slot).ops = ((u.progOf f.slot).ops + 1) % 2 ^ 48 ∧ t.ops = u.ops ∧
  t.posts = u.posts ++ (if postEn f.w then
    [⟨f.slot, f.node, postNode f.w, postTok f.w, postN f.w, f.l.pc, f.w, 0⟩] else [])

end Sys2Proof.Machine
end

