-- ==== Sys2Proof/Certificates/Slice0/Obligations.lean ====
section
/-! DEFINITION. The statements for the provers: what each command does (R-numbers are the spec's rules),
what it leaves, and the invariants that every step keeps. -/

open Sys2Proof Sys2Proof.Machine

/-! ### The step -/

/-- A step performs the command at the front of the queue on the state with the queue's rest. -/
def Obligations.StepRunsTheFrontCommand : Prop :=
  ∀ (s : State) (i : Instr) (q : List Instr), s.pending = i :: q →
    step s = exec i { s with pending := q }

/-- On an empty queue one Meridian cycle passes (the model's choice, log entry 5): nothing while PERST_N
is low, else the count of cycles rises by one and no memory byte changes but by a telemetry write granted
in the cycle, or the dump of a reserved entry that admission comes to (R519, R609). -/
def Obligations.EmptyQueueStepIsOneCycle : Prop :=
  ∀ s : State, s.pending = [] →
    step s = .next s.tick ∧ (s.perst = true → s.tick = s) ∧
    (s.perst = false → s.tick.cycle = s.cycle + 1 ∧ s.tick.pending = [] ∧
      (s.pwr.telemQ = [] → (∀ x ∈ s.ring.arrived, (rowKind x.2).isSome = true) →
        s.tick.dram = s.dram ∧ s.tick.plate = s.plate))

/-- The state right after reset (R935): PERST_N is low and no command waits; every file is in A32 mode
with every slot cleared (R186); MAP_SEQ is 1 and every stream FREE with last_map 0 (R529, R531); every
chart ID FREE (R571), every counter unallocated (R348), no slot in use, no entry and no handle generation;
and registers hold their reset values, of which these: HI_ID, HI_BOOT, the notice registers (R684). -/
def Obligations.ResetStateHoldsResetValues : Prop :=
  let s := State.reset
  s.pending = [] ∧ s.perst = true ∧ s.mapSeq = 1 ∧ s.entries = [] ∧ s.gens = [] ∧ s.ops = [] ∧
  (∀ cl n, (s.tile cl n).a16 = false ∧ ∀ k, (s.tile cl n).slot k = TileSlot.init) ∧
  (∀ n, (s.stream n).created = false ∧ (s.stream n).lastMap = 0) ∧
  (∀ n, (s.chart n).used = false) ∧ (∀ n, s.slot? n = none) ∧
  (∀ n, (SMap.get State.tokD s.toks n).alloc = false) ∧
  s.tap.ir = 0x01 ∧ s.reg Reg.HI_ID = 0x5E1800B1 ∧ s.reg Reg.HI_BOOT = 0 ∧
  s.reg Reg.HI_NOTICE_STATUS = 0 ∧ s.reg Reg.HI_NOTICE_EN = 0 ∧
  s.reg Reg.HI_NOTICE_MAP0 = 0x03020100 ∧ s.reg Reg.HI_NOTICE_MAP1 = 0x07060504 ∧
  s.cfgD 0x00 = 0x5E181F6B

/-- The state after reset is in canonical form, and it is a device held in reset. -/
def Obligations.ResetStateIsCanonicalAndHeldInReset : Prop :=
  (State.reset.Canonical) ∧
  (State.reset.HeldInReset)

/-- Every step keeps every memory and every family by number in canonical form. -/
def Obligations.EveryStepKeepsCanonicalForm : Prop :=
  ∀ s t : State, s.Canonical → step s = .next t → t.Canonical

/-- No command changes the queue of waiting commands: a step takes its front and leaves the rest. -/
def Obligations.EveryStepTakesOneCommandFromTheQueue : Prop :=
  ∀ s t : State, step s = .next t → t.pending = s.pending.tail

/-- R673, R935: while PERST_N is low, whatever comes, the device stays held in reset: no event of a link, a
clock, a sensor or a request on any bus changes a register, a memory or an engine, until BOOT_START. -/
def Obligations.DeviceHeldInResetStaysInReset : Prop :=
  ∀ s t : State, s.HeldInReset → step s = .next t → t.HeldInReset

/-! ### The fundamental reset -/

/-- R673, R913, R914: PERST_N held low for at least 100 µs, a loss of REFCLK and a fall of PWR_GOOD put
every register, memory and engine back to its reset value. What they do not reach: the commands that wait,
the model's own counts, what has been sent, the flash, the fuses, the TAP (whose debug TAP closes) and the
balls; SMB_ALERT_N is released where it was asserted (R864). While PERST_N is low already there is nothing
more to reset. Held low for less than 100 µs it has no defined effect, and the model stops by name. -/
def Obligations.FundamentalResetRestoresEveryResetValue : Prop :=
  (∀ (s : State) (us : Nat), us < 100 → exec (.perstN us) s = .fault .shortPerst) ∧
  ∀ (s : State) (i : Instr),
    ((∃ us, 100 ≤ us ∧ i = .perstN us) ∨ i = .refclkLoss ∨ i = .pwrGoodFall) →
    (s.perst = true → exec i s = .next s) ∧
    (s.perst = false → exec i s = .next { State.reset with
      pending := s.pending
      cycle := s.cycle
      fresh := s.fresh
      out := s.out ++ (if s.smbAlert then [.pin "SMB_ALERT_N" true] else [])
      flash := s.flash
      svnFloor := s.svnFloor
      tap := { s.tap with debug := false }
      balls := s.balls })

/-- R186: after any device reset (PERST_N, a loss of REFCLK or of PWR_GOOD, and the purge of a reset of
R617 or R670) every file is in A32 mode, and every slot holds v = 0, s = 0 and I = 0, with fold 0, origin
(0, 0), ROWS 64, COLS 64 and tag 0. -/
def Obligations.AnyDeviceResetClearsTheTiles : Prop :=
  let clear := fun t : State => ∀ cl n, (t.tile cl n).a16 = false ∧
    ∀ k, let x := (t.tile cl n).slot k
      (∀ c, (x.cell (t.tile cl n).a16 c).v = 0 ∧ (x.cell (t.tile cl n).a16 c).s = 0 ∧
        (x.cell (t.tile cl n).a16 c).i = false) ∧
      x.fold = 0 ∧ x.originI = 0 ∧ x.originJ = 0 ∧ x.rows = 64 ∧ x.cols = 64 ∧ x.tag = 0
  (∀ (s : State) (us : Nat), s.perst = false → 100 ≤ us → Does (.perstN us) s clear) ∧
  (∀ s : State, s.perst = false → Does .refclkLoss s clear) ∧
  (∀ s : State, s.perst = false → Does .pwrGoodFall s clear) ∧
  ∀ (s : State) (c : ResetCause), s.resetPend = some c → s.alive = true → Does .resetPurge s clear

/-! ### The TAP (chapter 19) -/

/-- R909, R912: each TAP instruction puts its code into the instruction register, shifts out the register
that it selects, and drives the balls only for EXTEST, CLAMP and HIGHZ while PERST_N is low. The vendor
debug TAP opens at DBG_SELECT only when DEBUG_DISABLE is 0 and TAP_PERMIT is 1. -/
def Obligations.TapInstructionsSelectAndShift : Prop :=
  ∀ (s : State) (captured preload : Nat),
    Does .tapReset s (fun t => t.tap.ir = 0x01 ∧ t.tap.drive = 0 ∧ t.out = s.out) ∧
    Does .tapIdcode s (fun t => t.tap.ir = 0x01 ∧ t.tap.drive = 0 ∧
      t.out = s.out ++ [.tdo 32 0x15E1858F]) ∧
    Does (.tapSamplePreload captured preload) s (fun t => t.tap.ir = 0x02 ∧ t.tap.drive = 0 ∧
      t.tap.bscan = preload % 2 ^ 1192 ∧ t.out = s.out ++ [.tdo 1192 (captured % 2 ^ 1192)]) ∧
    Does .tapBypass s (fun t => t.tap.ir = 0xFF ∧ t.tap.drive = 0 ∧ t.out = s.out ++ [.tdo 1 0]) ∧
    (s.perst = true →
      Does .tapExtest s (fun t => t.tap.ir = 0x03 ∧ t.tap.drive = 1 ∧ t.out = s.out) ∧
      Does .tapClamp s (fun t => t.tap.ir = 0x04 ∧ t.tap.drive = 2 ∧ t.out = s.out ++ [.tdo 1 0]) ∧
      Does .tapHighz s (fun t => t.tap.ir = 0x05 ∧ t.tap.drive = 3 ∧ t.out = s.out ++ [.tdo 1 0])) ∧
    (s.perst = false → ∀ i, i = .tapExtest ∨ i = .tapClamp ∨ i = .tapHighz →
      Does i s fun t => t.tap.ir = 0xFF ∧ t.tap.drive = 0 ∧ t.out = s.out ++ [.tdo 1 0]) ∧
    (Config.debugDisable = false → bitOf (s.reg Reg.DBG_TAP) 1 = true →
      Does .tapDbgSelect s fun t => t.tap.ir = 0x20 ∧ t.tap.debug = true ∧ t.out = s.out) ∧
    (Config.debugDisable = true ∨ bitOf (s.reg Reg.DBG_TAP) 1 = false →
      Does .tapDbgSelect s fun t => t.tap.ir = 0xFF ∧ t.tap.debug = false ∧
        t.out = s.out ++ [.tdo 1 0])

/-- R911: no TAP instruction touches anything of the device but the TAP, its output and DBG_TAP. -/
def Obligations.TapInstructionsLeaveTheDevice : Prop :=
  ∀ (s t : State) (i : Instr), s.Canonical →
    (i = .tapReset ∨ i = .tapIdcode ∨ (∃ c p, i = .tapSamplePreload c p) ∨ i = .tapExtest ∨
      i = .tapClamp ∨ i = .tapHighz ∨ i = .tapDbgSelect ∨ i = .tapBypass) →
    exec i s = .next t →
    t = { s with tap := t.tap, out := t.out, regs := t.regs } ∧ s.SameRegs t [Reg.DBG_TAP] ∧
    s.SameBytes t

/-! ### The SMBus target (chapter 18) -/

/-- R861 to R863: a write that the target takes, with a right PEC: ADDR and DATA take their values, SNAP
reads the dword at ADDR into DATA, and a COMMIT of a PWR_ register after READY is written as a BAR0 write
with all byte enables; any other COMMIT is dropped and sets REFUSED. BUSY reads 1 from a CTRL write until
its action ends, and INC then advances ADDR by 4. -/
def Obligations.SmbusWritesAct : Prop :=
  ∀ s : State,
    (s.smbTakes = true →
      (∀ v, Does (.smbAddrWrite v true) s fun t =>
        t = { s with smb := { s.smb with addr := v.toNat % 2 ^ 20 / 4 * 4, pec := false } }) ∧
      (∀ v, Does (.smbDataWrite v true) s fun t =>
        t = { s with smb := { s.smb with data := v.toNat, pec := false } }) ∧
      (∀ inc, Does (.smbSnap inc true) s fun t =>
        t.smb = { s.smb with
          data := if s.reach .smbus s.smb.addr = .readOnly ∨ s.reach .smbus s.smb.addr = .full then
              (s.readDword .smbus s.smb.addr 15).2 else 0,
          busy := true, inc := inc, pec := false } ∧
        t.regs = s.regs ∧ t.dram = s.dram ∧ t.plate = s.plate) ∧
      (∀ inc, inPwr s.smb.addr = true → s.ready = true → Does (.smbCommit inc true) s fun t =>
        ∃ u, u = ({ s with smb := { s.smb with pec := false } } : State).dwordWrite .smbus
            s.smb.addr 15 s.smb.data ∧
          t = { u with smb := { u.smb with refused := false, busy := true, inc := inc } }) ∧
      (∀ inc, (inPwr s.smb.addr = false ∨ s.ready = false) → Does (.smbCommit inc true) s fun t =>
        t = { s with
          smb := { s.smb with refused := true, busy := true, inc := inc, pec := false } })) ∧
    (s.smbOn = true → s.smb.busy = true → Does .smbWindowDone s fun t =>
      t = { s with smb := { s.smb with
        busy := false, inc := false,
        addr := if s.smb.inc then (s.smb.addr + 4) % 2 ^ 20 else s.smb.addr } })

/-- R861, R863: a write with a wrong PEC is not acted on: PEC_ERR is set, the errors are counted, and
nothing else changes. While BUSY the target takes no command: nothing changes at all.
R862 to R864: what the target answers: ADDR, DATA and STATUS as they stand, a snapshot's bytes 0x04
to 0x23, and its own address to the Alert Response Address while SMB_ALERT_N is asserted. An answer
changes nothing: SMB_ALERT_N stays asserted. -/
def Obligations.SmbusReadsAnswerAndBadPecsAreRefused : Prop :=
  (∀ (s : State) (i : Instr) (pecOk : Bool), s.Canonical →
    ((∃ v, i = .smbAddrWrite v pecOk) ∨ (∃ v, i = .smbDataWrite v pecOk) ∨
      (∃ inc, i = .smbSnap inc pecOk) ∨ ∃ inc, i = .smbCommit inc pecOk) →
    (s.smbTakes = true → pecOk = false → Does i s fun t =>
      t.fld Reg.PWR_SMB_STATUS 31 16 = (s.fld Reg.PWR_SMB_STATUS 31 16 + 1) % 65536 ∧
      s.SameRegs t [Reg.PWR_SMB_STATUS] ∧
      t = { s with smb := { s.smb with pec := true }, regs := t.regs }) ∧
    (s.smbTakes = false → exec i s = .next s)) ∧
  (∀ s : State,
    (s.smbTakes = true →
      Does .smbAddrRead s (fun t => t = { s with out := s.out ++ [.smbus (leBytes 3 s.smb.addr)] }) ∧
      Does .smbDataRead s (fun t => t = { s with out := s.out ++ [.smbus (leBytes 4 s.smb.data)] }) ∧
      Does .smbSnapshotRead s (fun t => t = { s with
        out := s.out ++ [.smbus (((s.snapshot s.pwr.telem).drop 4).take 32)] })) ∧
    (s.smbOn = true → Does .smbStatusRead s fun t => t = { s with
      out := s.out ++ [.smbus [BitVec.ofNat 8
        (b2n s.smb.busy + 2 * b2n s.smb.refused + 4 * b2n s.smb.pec)]] }) ∧
    (s.smbOn = true → s.smbAlert = true → Does .smbAlertResponse s fun t =>
      t.smbAlert = true ∧
      t = { s with out := s.out ++ [.smbus [BitVec.ofNat 8 (s.fld Reg.PWR_SMB_STATUS 6 0)]] }))

/-! ### The PCIe endpoint (chapter 14) -/

/-- R652, R654: a BAR2 read. In usable DRAM whose words have no errors every completion succeeds with the
bytes of DRAM and nothing else changes; a read any of whose bytes lies beyond usable DRAM, or with no DRAM
trained, completes with every byte 0xFF and increments HI_WIN_ERR; with Memory Space Enable 0, or while a
reset of R670 runs, it is an unsupported request (R670, R677); before READY it reads 0. -/
def Obligations.Bar2ReadAnswers : Prop :=
  ∀ (s : State) (ofs : BitVec 28) (len : Nat), s.perst = false → len ≤ 4096 →
    ofs.toNat + len ≤ 2 ^ 28 →
    let a := s.fld Reg.HI_WIN_BASE 16 0 * 2 ^ 20 + ofs.toNat
    (s.memOff = true → Does (.bar2Read ofs len) s fun t =>
      t = (s.aer 20 true).emit .unsupported) ∧
    (s.memOff = false → s.ready = false → Does (.bar2Read ofs len) s fun t =>
      t = s.emit (.completion true [false] (List.replicate len 0))) ∧
    (s.memOff = false → s.ready = true → s.tripped = false →
      (s.dramCap < a + len ∨ s.dramCap = 0 → Does (.bar2Read ofs len) s fun t =>
        t = (s.bump Reg.HI_WIN_ERR 1).emit (.completion true [false] (List.replicate len 0xFF))) ∧
      (a + len ≤ s.dramCap → s.dramCap ≠ 0 →
        (∀ e ∈ s.ecc, ¬ (a / 8 ≤ e.1 ∧ e.1 * 8 < a + len)) → s.dram.wf = true →
        Does (.bar2Read ofs len) s fun t =>
          ∃ ps : List Bool, (∀ b ∈ ps, b = false) ∧
            t = s.emit (.completion true ps ((upto len).map fun i => s.dram.read (a + i)))))

/-- R653, R654: a BAR2 write stores its enabled bytes and no other byte, in usable DRAM whose words have no
errors; a write any of whose bytes lies beyond usable DRAM, or with no DRAM trained, is dropped whole and
increments HI_WIN_ERR. -/
def Obligations.Bar2WriteStoresEnabledBytes : Prop :=
  ∀ (s : State) (ofs : BitVec 28) (bytes : List (Option Byte)), s.Canonical → s.perst = false →
    s.memOff = false → s.ready = true → s.tripped = false → ofs.toNat + bytes.length ≤ 2 ^ 28 →
    let a := s.fld Reg.HI_WIN_BASE 16 0 * 2 ^ 20 + ofs.toNat
    (s.dramCap < a + bytes.length ∨ s.dramCap = 0 → Does (.bar2Write ofs bytes) s fun t =>
      t = s.bump Reg.HI_WIN_ERR 1) ∧
    (a + bytes.length ≤ s.dramCap → s.dramCap ≠ 0 →
      (∀ e ∈ s.ecc, ¬ (a / 8 ≤ e.1 ∧ e.1 * 8 < a + bytes.length)) →
      Does (.bar2Write ofs bytes) s fun t =>
        t = { s with dram := t.dram } ∧
        (∀ (i : Nat) (b : Byte), bytes[i]? = some (some b) → t.dram.read (a + i) = b) ∧
        (∀ k, (∀ (i : Nat) (b : Byte), bytes[i]? = some (some b) → k ≠ a + i) →
          t.dram.read k = s.dram.read k))

/-- R645, R648, R670: configuration requests. Until the identity block has been applied, and while a reset
of R670 runs, the answer is Request Retry Status and nothing changes; from then on a read returns the dword
(its Transactions Pending shows outstanding reads and a reset in progress, R671) and changes nothing, and a write of all bytes to a dword that starts nothing else stores the writable bits,
clears the bits that a 1 clears, and leaves every other dword and every set-up register. -/
def Obligations.ConfigRequestsAnswer : Prop :=
  ∀ (s : State) (w : Bool) (dw : BitVec 10) (be : BitVec 4) (v : Word32), s.perst = false →
    let o := 4 * dw.toNat
    (s.bootStep < 2 ∨ s.pcieReset = true → Does (.configRequest w dw be v) s fun t =>
      t = s.emit .retryStatus) ∧
    (2 ≤ s.bootStep → s.pcieReset = false →
      (Does (.configRequest false dw be v) s fun t =>
        t = s.emit (.completion true [false] (leBytes 4 (s.cfgRead o))) ∧
        (o ≠ 0x78 → s.cfgRead o = s.cfgD o) ∧
        (o = 0x78 → bitOf (s.cfgRead o) 21 = (bitOf (s.cfgD o) 21 || (decide (s.tagsInUse ≠ 0) || s.resetPend.isSome)))) ∧
      (SMap.wf cfgReset s.cfg = true → o ≠ 0x44 → o ≠ 0x78 →
        Does (.configRequest true dw 15 v) s fun t =>
          t.cfgD o = ((s.cfgD o &&& (0xFFFFFFFF ^^^ (cfgMasks o).1 ^^^ (v.toNat &&& (cfgMasks o).2))) |||
            (v.toNat &&& (cfgMasks o).1)) % 2 ^ 32 ∧
          (∀ k, k ≠ o → t.cfgD k = s.cfgD k) ∧ t.regs = s.regs ∧ t.dram = s.dram ∧ t.plate = s.plate ∧
          t.out.getLast? = some (.completion true [false] [])))

/-- R657, R667, R668, R676: the vector requested first. A masked vector sets its pending bit and sends nothing;
an unmasked one is sent, as a posted write of its table entry's data to its address after everything sent
before, once Bus Master Enable is 1; until then it waits.
R644, R647, R675: the link comes up at the highest rate and width that both ends support and the
identity block permits, and HI_LINK shows them; with ASPM L1 enabled it enters L1 and leaves it, and HI_LINK.IN_L1
shows that; the device counts every entry into Recovery in HI_LINK_RETRAINS. None of them changes
anything else: no other register, no memory, no engine. -/
def Obligations.MsixMessagesAndHostLinkEventsAct : Prop :=
  (∀ (s : State) (v : Nat) (rest : List Nat), s.msixReq = v :: rest → s.perst = false →
    bitOf (s.cfgD 0x50) 31 = true →
    (s.msixMasked v = true → Does .msixMessageSend s fun t =>
      t = { s with msixReq := rest, pba := putBits s.pba v v 1 }) ∧
    (s.msixMasked v = false → s.alive = true → s.bme = true → s.resetPend = none →
      s.cfgD 0x44 % 4 ≠ 3 → Does .msixMessageSend s fun t =>
        let d := fun i => (SMap.get msixReset s.msixTab (4 * v + i)).toNat
        let a := d 0 + 2 ^ 32 * d 1
        t = { s with msixReq := rest, out := s.out ++ [.msix v (decide (2 ^ 32 ≤ a)) a (d 2)] }) ∧
    (s.msixMasked v = false → s.bme = false → exec .msixMessageSend s = .next s)) ∧
  (∀ s : State, s.Canonical → s.perst = false →
    (∀ (g : Fin 6) (n : Fin 4), 2 ≤ s.bootStep → g ≠ 0 → Does (.pcieLinkUp g n) s fun t =>
      t.reg Reg.HI_LINK = (min g.val (bits (s.cfgD 0x7C) 3 0) +
        16 * min (2 ^ n.val) (bits (s.cfgD 0x7C) 9 4)) % 2 ^ 32 ∧
      s.SameRegs t [Reg.HI_LINK] ∧ (∀ k, k ≠ 0x80 → t.cfgD k = s.cfgD k) ∧
      t = { s with regs := t.regs, cfg := t.cfg }) ∧
    (s.hostLinkUp = true →
      (bitOf (s.cfgD 0x80) 1 = true → Does .l1Entry s fun t =>
        t.fld Reg.HI_LINK 10 10 = 1 ∧ t.fld Reg.HI_LINK 9 0 = s.fld Reg.HI_LINK 9 0 ∧
        s.SameRegs t [Reg.HI_LINK] ∧ t = { s with regs := t.regs }) ∧
      (Does .l1Exit s fun t =>
        t.fld Reg.HI_LINK 10 10 = 0 ∧ t.fld Reg.HI_LINK 9 0 = s.fld Reg.HI_LINK 9 0 ∧
        s.SameRegs t [Reg.HI_LINK] ∧ t = { s with regs := t.regs }) ∧
      (Does .linkRecovery s fun t =>
        t.reg Reg.HI_LINK_RETRAINS = (s.reg Reg.HI_LINK_RETRAINS + 1) % 2 ^ 32 ∧
        s.SameRegs t [Reg.HI_LINK_RETRAINS] ∧ t = { s with regs := t.regs })))

/-- R670, R674, R678: FLR, hot reset, link disable, DL_Down and the transition to D3hot each start the
reset sequence, with FE_RESET_COUNT rising by one unless one is in progress already, which they merge
into. What waited to be sent to the host is not sent any more. Configuration space returns to its reset
values but for what the kind of reset keeps, and shows D3hot after that transition. No byte of memory
changes but where an operation that has begun, or a cut that is being written, leaves its bytes undefined
(R253, R638). -/
def Obligations.PcieResetsStartTheSequence : Prop :=
  ∀ (s : State) (i : Instr) (c : ResetCause), s.Canonical → s.perst = false →
    ((i = .flr ∧ c = .flr) ∨ (i = .hotReset ∧ c = .hotReset) ∨ (i = .linkDisable ∧ c = .linkDisable) ∨
      (i = .dlDown ∧ c = .dlDown) ∨ (i = .d3hotEntry ∧ c = .d3hot)) →
    Does i s fun t =>
      t.resetPend.isSome = true ∧
      (s.resetPend = none → t.resetPend = some c ∧ t.held = [] ∧
        t.reg Reg.FE_RESET_COUNT = (s.reg Reg.FE_RESET_COUNT + 1) % 2 ^ 32) ∧
      (s.resetPend.isSome = true → t.reg Reg.FE_RESET_COUNT = s.reg Reg.FE_RESET_COUNT) ∧
      (∀ o, cfgKept (c == .flr || c == .d3hot) o = true → t.cfgD o = s.cfgD o) ∧
      (∀ o, cfgKept (c == .flr || c == .d3hot) o = false → o ≠ 0x44 → o ≠ 0x78 →
        t.cfgD o = (cfgReset o).toNat) ∧
      (c = .d3hot → t.cfgD 0x44 = 3) ∧
      (c ≠ .flr → c ≠ .d3hot → t.reg Reg.HI_LINK = 0) ∧
      ((∀ o ∈ s.ops, o.begun = false) →
        (∀ st k, s.cut? st = some k → k.x.cutting ≠ some k.save.idx) → s.SameBytes t)

/-- R617 steps 5 and 6, R344, R665, R936: the purge. Every word of the plate store reads 0 and DRAM is
kept; every stream is FREE, every chart ID is FREE and no handle generation is held; after READY the
registers of the HI_, FE_ and MEM_ blocks and of the clusters hold their post-almanac values, but for those
that are kept and those that show live state; the reset is over, and RESET_DONE is set if a fault caused
it. -/
def Obligations.ResetPurgeClearsTheEngines : Prop :=
  ∀ (s : State) (c : ResetCause), s.Canonical → s.resetPend = some c → s.alive = true →
    s.ready = true →
    Does .resetPurge s fun t =>
      t.resetPend = none ∧ (∀ a, t.plate.read a = 0) ∧ t.dram = s.dram ∧
      (∀ n, (t.stream n).created = false) ∧ (∀ n, (t.chart n).used = false) ∧ t.gens = [] ∧
      t.entries = [] ∧ t.ops = [] ∧ (∀ n, t.slot? n = none) ∧ t.mapSeq = 1 ∧
      (∀ o, o < 0x30000 → o ≠ Reg.HI_NOTICE_STATUS →
        (keptReg (c == .fault) o = true → t.reg o = s.reg o) ∧
        (keptReg (c == .fault) o = false → liveReg o = false →
          t.reg o = (SMap.get regReset s.postAlm o).toNat)) ∧
      (c = .fault → bitOf (t.reg Reg.HI_NOTICE_STATUS) 1 = true)

/-! ### The Cunery ports (chapter 15) -/

/-- R710, R713, R714, R718, R726: how training moves a port: a burst of TS blocks in DETECT; DETECT to
TRAIN when TS blocks come on all lanes of a lane group; TRAIN and SPEED to INIT with the width that the good
lanes give, or to DETECT with a TRAIN_FAIL event (from SPEED: back to TRAIN at 16 GT/s); the deadlines; and
DOWN to FAST_TRAIN or DISABLED, FAST_TRAIN to INIT or, too slow, to DETECT with a RETRAIN_SLOW event and the
retry buffer discarded.
R706, R708, R709, R721, R723: a heartbeat sends one CTRL frame. A check interval without a miss clears
the run of misses; a miss is counted, and the third in a run takes the link down with cause MISSES. Loss of
block lock, electrical idle and a good GOODBYE take a link that is up down, with their causes, and leave
one that is not up alone. -/
def Obligations.LinkTrainingAndMonitorsMoveThePort : Prop :=
  (∀ (s : State) (p : Fin 6), s.Canonical → s.alive = true →
    let x := s.port p
    (s.linkSt p = 1 →
      Does (.tsBurst p) s (fun t => t = { s with out := s.out ++ [.tsBurst p] }) ∧
      ∀ m : BitVec 8,
        (m.toNat % 16 = 15 ∨ m.toNat / 16 = 15 → Does (.tsReceived p m) s fun t =>
          t.linkSt p = 2 ∧ t.fld (lk p Reg.FAB_LINK_STATE) 5 4 = 1 ∧ t.port p = { x with began := s.now }) ∧
        (m.toNat % 16 ≠ 15 → m.toNat / 16 ≠ 15 → exec (.tsReceived p m) s = .next s)) ∧
    (s.linkSt p = 2 ∨ s.linkSt p = 4 → ∀ m : BitVec 8,
      (∀ w, laneWidth m.toNat = some w → Does (.trainLanesFixed p m) s fun t =>
        t.linkSt p = 3 ∧ t.port p = { x with
          tgen := (x.tgen + 1) % 65536, init := none, gotSeen := false,
          rate := (if s.linkSt p = 4 then 2 else 1), width := w }) ∧
      (laneWidth m.toNat = none → s.linkSt p = 2 → Does (.trainLanesFixed p m) s fun t =>
        t.linkSt p = 1 ∧ bitOf (t.reg (lk p Reg.FAB_LINK_EVENTS)) 2 = true) ∧
      (laneWidth m.toNat = none → s.linkSt p = 4 → Does (.trainLanesFixed p m) s fun t =>
        t.linkSt p = 2 ∧ t.fld (lk p Reg.FAB_LINK_STATE) 5 4 = 1)) ∧
    (s.linkSt p = 2 ∨ (s.linkSt p = 3 ∧ x.fast = false) → Does (.trainDeadline p) s fun t =>
      t.linkSt p = 1 ∧ bitOf (t.reg (lk p Reg.FAB_LINK_EVENTS)) 2 = true ∧ (t.port p).init = none) ∧
    (s.linkSt p = 4 → Does (.speedDeadline p) s fun t =>
      t.linkSt p = 2 ∧ t.fld (lk p Reg.FAB_LINK_STATE) 5 4 = 1 ∧ (t.port p).began = s.now) ∧
    (s.linkSt p = 7 →
      (bitOf (s.reg (lk p Reg.FAB_LINK_CTRL)) 0 = true → Does (.downIdleExpiry p) s fun t =>
        t.linkSt p = 8 ∧ t.port p = x) ∧
      (bitOf (s.reg (lk p Reg.FAB_LINK_CTRL)) 0 = false → Does (.downIdleExpiry p) s fun t =>
        t.linkSt p = 0 ∧ (t.port p).retry = [] ∧ (t.port p).fast = false)) ∧
    (s.linkSt p = 8 → Does (.fastTrainLocked p) s fun t =>
      t.linkSt p = 3 ∧ t.port p = { x with
        tgen := (x.tgen + 1) % 65536, init := none, gotSeen := false }) ∧
    (x.fast = true → s.linkSt p = 8 ∨ s.linkSt p = 3 → Does (.fastTrainDeadline p) s fun t =>
      t.linkSt p = 1 ∧ bitOf (t.reg (lk p Reg.FAB_LINK_EVENTS)) 3 = true ∧ (t.port p).retry = [] ∧
      (t.port p).fast = false)) ∧
  (∀ (s : State) (p : Fin 6), s.Canonical → s.alive = true →
    let x := s.port p
    let down := fun (cause : Nat) (t : State) => t.linkSt p = 7 ∧
      t.fld (lk p Reg.FAB_LINK_DOWN_CAUSE) 2 0 = cause ∧
      t.reg (lk p Reg.FAB_LINK_DOWNS) = (s.reg (lk p Reg.FAB_LINK_DOWNS) + 1) % 2 ^ 32 ∧
      (t.port p).hello = none ∧ (t.port p).mgtq = []
    (s.linkUp p = true →
      Does (.heartbeat p) s (fun t => t = { s with out := s.out ++ [.frame p 2
        (frameBytes 2 0 0 ((x.rxE + 4095) % 4096 + 32768) 0 x.rel x.tgen [])] }) ∧
      (x.good = true → x.old = 0 → Does (.checkInterval p) s fun t =>
        t = { s with ports := t.ports } ∧
        t.port p = { x with good := false, old := x.retry.length, misses := 0 }) ∧
      (x.good = false → x.old = 0 → x.misses < 2 → Does (.checkInterval p) s fun t =>
        t = { s with ports := t.ports, regs := t.regs } ∧
        t.port p = { x with good := false, old := x.retry.length, misses := x.misses + 1 } ∧
        t.reg (lk p Reg.FAB_LINK_MISSES) = (s.reg (lk p Reg.FAB_LINK_MISSES) + 1) % 2 ^ 32 ∧
        s.SameRegs t [lk p Reg.FAB_LINK_MISSES]) ∧
      (x.good = true → 0 < x.old → x.misses < 2 → Does (.checkInterval p) s fun t =>
        t.reg (lk p Reg.FAB_LINK_MISSES) = (s.reg (lk p Reg.FAB_LINK_MISSES) + 1) % 2 ^ 32 ∧
        t.reg (lk p Reg.FAB_LINK_REPLAYS) =
          (s.reg (lk p Reg.FAB_LINK_REPLAYS) + x.sentFrames.length) % 2 ^ 32 ∧
        t.out.length = s.out.length + x.sentFrames.length) ∧
      (x.good = false ∨ 0 < x.old → 2 ≤ x.misses → Does (.checkInterval p) s (down 1)) ∧
      Does (.laneLockLoss p) s (down 2) ∧ Does (.electricalIdleDetected p) s (down 2) ∧
      (∀ f coding, checkFrame x.peerTgen f coding = .good → fieldAt f 0 1 = 5 →
        Does (.goodbyeReceived p f coding) s (down 4))) ∧
    (s.linkUp p = false → ∀ i,
      (i = .heartbeat p ∨ i = .checkInterval p ∨ i = .laneLockLoss p ∨ i = .electricalIdleDetected p ∨
        ∃ f coding, i = .goodbyeReceived p f coding ∨ i = .ctrlFrameReceived p f coding ∨
          i = .nackReceived p f coding ∨ i = .dataFrameReceived p f coding) →
      exec i s = .next s))

/-- R694, R695, R697 to R700: frames received on a link that is up. A good CTRL frame frees the frames
that its ACK_SEQ covers and takes its credits; a good NACK makes every frame in the retry buffer after that be
resent; the DATA frame that is expected is accepted, advances E and is acknowledged at once; a duplicate is
only acknowledged; any other causes one NACK per E. A bad frame is counted, and a bad DATA frame causes a
NACK under the same rule.
R715, R719, R720: in INIT a port sends an INIT frame, whose sequence state says whether it holds the
receive sequence; a good INIT is recorded with its sender's training generation; and the exchange ends at
an INIT sent after one with PEER_SEEN has come: the sequence state is taken up and the port leaves INIT for
SPEED, ACTIVE or QUARANTINED by the compatibility words and rates. -/
def Obligations.LinkFramesAreTakenAndSent : Prop :=
  (∀ (s : State) (p : Fin 6) (f : List Byte) (coding : Bool), s.Canonical → s.alive = true →
    s.linkUp p = true →
    let x := s.port p
    let u := s.noteFrame p f
    let y := u.port p
    let seq := fieldAt f 2 2 % 4096
    (checkFrame x.peerTgen f coding = .good →
      (fieldAt f 0 1 = 2 → x.todo = 0 → x.mgtq = [] → Does (.ctrlFrameReceived p f coding) s fun t =>
        t = { s with ports := t.ports } ∧ (t.port p).good = true ∧
        (t.port p).retry = (if bitOf (fieldAt f 4 2) 15 then
          x.retry.filter fun r => !ackCovers (fieldAt f 4 2 % 4096) r.seq else x.retry) ∧
        (t.port p).crSeen = [fieldAt f 8 2, fieldAt f 10 2, fieldAt f 12 2]) ∧
      (fieldAt f 0 1 = 3 → Does (.nackReceived p f coding) s fun t =>
        t.ports = u.ports ∧
        t.out = u.out ++ y.sentFrames.map (fun r => .frame p 1 (frameBytes 1 r.vc r.seq
          ((y.rxE + 4095) % 4096 + 32768) r.payload.length y.rel y.tgen r.payload)) ∧
        t.reg (lk p Reg.FAB_LINK_REPLAYS) =
          (u.reg (lk p Reg.FAB_LINK_REPLAYS) + y.sentFrames.length) % 2 ^ 32) ∧
      (fieldAt f 0 1 = 1 → seq = y.rxE → u.linkSt p = 5 →
        let k := pktOfBytes p ((f.drop 16).take (fieldAt f 6 2))
        ptypeVc k.ptype = some (fieldAt f 1 1 % 4) → k.epoch = u.reg Reg.FAB_EPOCH →
        cdiv (fieldAt f 6 2) 64 ≤ u.vcFree p (fieldAt f 1 1 % 4) →
        Does (.dataFrameReceived p f coding) s fun t =>
          t.router = u.router ++ [k] ∧
          t.port p = { y with rxE := (y.rxE + 1) % 4096, nacked := false } ∧
          t.out = u.out ++ [.frame p 2 (frameBytes 2 0 0 (y.rxE % 4096 + 32768) 0 y.rel y.tgen [])]) ∧
      (fieldAt f 0 1 = 1 → 1 ≤ (y.rxE + 4096 - seq) % 4096 → (y.rxE + 4096 - seq) % 4096 ≤ 1024 →
        seq ≠ y.rxE → Does (.dataFrameReceived p f coding) s fun t =>
          t = { u with out := u.out ++ [.frame p 2
            (frameBytes 2 0 0 ((y.rxE + 4095) % 4096 + 32768) 0 y.rel y.tgen [])] }) ∧
      (fieldAt f 0 1 = 1 → 1024 < (y.rxE + 4096 - seq) % 4096 → y.nacked = false →
        Does (.dataFrameReceived p f coding) s fun t =>
          t.port p = { y with nacked := true } ∧ t.router = u.router ∧
          t.out = u.out ++ [.frame p 3
            (frameBytes 3 0 0 ((y.rxE + 4095) % 4096 + 32768) 0 y.rel y.tgen [])])) ∧
    (checkFrame x.peerTgen f coding = .bad → ∀ i,
      (i = .ctrlFrameReceived p f coding ∨ i = .nackReceived p f coding ∨
        i = .goodbyeReceived p f coding ∨ i = .dataFrameReceived p f coding) →
      Does i s fun t =>
        t.reg (lk p Reg.FAB_LINK_CRC_ERR) = (s.reg (lk p Reg.FAB_LINK_CRC_ERR) + 1) % 2 ^ 32 ∧
        t.router = s.router ∧ s.SameRegs t [lk p Reg.FAB_LINK_CRC_ERR] ∧
        (fieldAt f 0 1 = 1 → x.nacked = false → (t.port p).nacked = true ∧
          t.out.length = s.out.length + 1) ∧
        (fieldAt f 0 1 ≠ 1 → t.out = s.out ∧ t.ports = s.ports))) ∧
  (∀ (s : State) (p : Fin 6), s.Canonical → s.alive = true → s.linkSt p = 3 →
    let x := s.port p
    (x.init = none ∨ x.gotSeen = false → Does (.initSend p) s fun t =>
      t = { s with
        ports := t.ports
        out := s.out ++ [.frame p 4
          (frameBytes 4 0 0 0 (s.initPayload p).length x.rel x.tgen (s.initPayload p))] } ∧
      t.port p = { x with sentValid := x.rxValid }) ∧
    (∀ pl, x.init = some pl → x.gotSeen = true → Does (.initSend p) s fun t =>
      t.linkSt p = (if compatible (s.reg64 Reg.FAB_LINK_COMPAT) (fieldAt pl 0 8) then
        (if x.rate = 1 ∧ bits (s.reg64 Reg.FAB_LINK_COMPAT) 11 8 = 2 ∧ bits (fieldAt pl 0 8) 11 8 = 2 ∧
          s.fld (lk p Reg.FAB_LINK_STATE) 18 18 = 0 then 4 else 5) else 6) ∧
      (t.port p).rxValid = true ∧ t.reg (lk p Reg.FAB_LINK_PEER_INC) = fieldAt pl 20 4 % 2 ^ 32) ∧
    (∀ f coding, checkFrame x.peerTgen f coding = .good → fieldAt f 0 1 = 4 →
      Does (.initReceived p f coding) s fun t =>
        t = { s with ports := t.ports } ∧ (t.port p).peerTgen = fieldAt f 14 2 ∧
        (t.port p).init = some ((f.drop 16).take 64) ∧
        (x.init = none ∨ x.peerTgen ≠ fieldAt f 14 2 →
          (t.port p).gotSeen = bitOf (fieldAt f 50 1) 0)))

/-- No event of a link reaches beyond the fabric: every set-up register outside the FAB_ block, every
memory, every stream, entry and engine, the host side, and the power and pin state are as before. -/
def Obligations.LinkEventsLeaveTheRest : Prop :=
  ∀ (s t : State) (i : Instr) (p : Fin 6), s.Canonical →
    (i = .tsBurst p ∨ (∃ m, i = .tsReceived p m) ∨ (∃ m, i = .trainLanesFixed p m) ∨
      i = .trainDeadline p ∨ i = .speedDeadline p ∨ i = .initSend p ∨
      (∃ f c, i = .initReceived p f c) ∨ (∃ f c, i = .dataFrameReceived p f c) ∨
      (∃ f c, i = .ctrlFrameReceived p f c) ∨ (∃ f c, i = .nackReceived p f c) ∨
      (∃ f c, i = .goodbyeReceived p f c) ∨ i = .heartbeat p ∨ i = .checkInterval p ∨
      i = .laneLockLoss p ∨ i = .electricalIdleDetected p ∨ i = .downIdleExpiry p ∨
      i = .fastTrainLocked p ∨ i = .fastTrainDeadline p) →
    exec i s = .next t →
    t = { s with regs := t.regs, ports := t.ports, fab := t.fab, router := t.router, out := t.out } ∧
    (∀ o, o < 0x30000 ∨ 0x40000 ≤ o → t.reg o = s.reg o) ∧ s.SameBytes t

/-! ### The fabric network (chapter 16) -/

/-- R743, R749, R776: HELLOs. On an ACTIVE port with room for it a HELLO is sent as a DATA frame on VC 2 and
kept for replay; a port that is not ACTIVE sends none. A HELLO received leaves its buffer, is recorded with
its arrival time, and its sender's incarnation is noted; the time root then shows itself as such. -/
def Obligations.HellosAreSentAndTaken : Prop :=
  ∀ (s : State) (p : Fin 6), s.Canonical → s.alive = true →
    let x := s.port p
    let m := s.mgtPkt 0x40 (s.helloPayload p)
    (s.fabOn = true → s.linkSt p = 5 → x.mgtq = [] → x.maySend 2 (cdiv m.length 64) = true →
      Does (.helloSend p) s fun t =>
        t.out = s.out ++ [.frame p 1
          (frameBytes 1 2 x.txSeq ((x.rxE + 4095) % 4096 + 32768) m.length x.rel x.tgen m)] ∧
        (t.port p).retry = x.retry ++ [⟨x.txSeq, 2, m⟩] ∧ (t.port p).txSeq = (x.txSeq + 1) % 4096) ∧
    (s.linkSt p ≠ 5 → exec (.helloSend p) s = .next s) ∧
    (s.linkSt p = 5 → ∀ k rest,
      takeFirst (fun k => k.from? == some p.val && k.ptype == 0x40) s.router = some (k, rest) →
      Does (.helloReceived p) s fun t =>
        t.router = rest ∧
        (t.port p).hello = some ⟨fieldAt k.data 0 8, fieldAt k.data 8 4, fieldAt k.data 0x10 8, s.ns,
          fieldAt k.data 0x28 4, fieldAt k.data 0x2C 2, fieldAt k.data 0x30 8⟩ ∧
        t.reg (lk p Reg.FAB_LINK_PEER_INC) = fieldAt k.data 8 4 % 2 ^ 32 ∧
        (s.fab.root = 0 → t.reg Reg.FAB_TIME_PARENT = 16 ∧ t.reg Reg.FAB_TIME_BOUND = 0))

/-- R744 to R746, R778, R779: an advert received under the own epoch leaves its buffer; a new UID or a newer
advert is stored, and the device settles anew; one that is not newer is discarded. A device that is not the
root and hears no HELLO from its parent becomes TIME_UNSYNC. The FSB_SYNC pin pulses at a whole millisecond,
and not while TIME_UNSYNC is set. -/
def Obligations.AdvertsAndTimeAreKept : Prop :=
  ∀ (s : State), s.Canonical → s.alive = true →
    (∀ (p : Fin 6) k rest, s.fabOn = true →
      takeFirst (fun k => k.from? == some p.val && k.ptype == 0x41) s.router = some (k, rest) →
      let a := advertOf p k.data
      a.epoch = s.reg Reg.FAB_EPOCH →
      (dbFind s.fab.db a.uid = none → s.fab.db.length < 4096 → Does (.advertReceived p) s fun t =>
        t.router = rest ∧ dbFind t.fab.db a.uid = some a ∧ t.fld Reg.FAB_STATE 1 0 = 2) ∧
      (∀ b, dbFind s.fab.db a.uid = some b → a.uid ≠ s.uid → advertNewer a b = true →
        Does (.advertReceived p) s fun t => t.router = rest ∧ t.fld Reg.FAB_STATE 1 0 = 2 ∧
          ∃ d, dbFind t.fab.db a.uid = some { a with dup := d }) ∧
      (∀ b, dbFind s.fab.db a.uid = some b → (a.uid = s.uid ∨ advertNewer a b = false) →
        (a.inc = b.inc ∨ a.via = b.via) → Does (.advertReceived p) s fun t =>
          t.router = rest ∧ t.fab = s.fab ∧ t.out = s.out ∧ t.regs = s.regs)) ∧
    (s.isRoot = false → Does .parentTimeout s fun t =>
      bitOf (t.reg Reg.FAB_STATE) 3 = true ∧ t.fab.unsync = true ∧ t.fab.calm = 0 ∧ s.SameBytes t) ∧
    (s.fld (Reg.PIN_MUX + 4 * 5) 3 0 = 3 → SMap.get State.parkD s.parks 5 = none →
      (bitOf (s.reg Reg.FAB_STATE) 3 = false → Does .fsbSyncPulse s fun t =>
        t = { s with out := s.out ++ [.syncPulse [5]] }) ∧
      (bitOf (s.reg Reg.FAB_STATE) 3 = true → exec .fsbSyncPulse s = .next s))

/-- R747, R753 to R756: the settle. A device that the mapping gives a coordinate becomes MAPPED with that
address, the mapping's origin and epoch; one that it gives none becomes UNMAPPED, with the cause. The settle
is counted, and every remote request that was to be probed for before is considered anew. -/
def Obligations.SettleMapsTheDevice : Prop :=
  ∀ s : State, s.Canonical → s.running = true → s.fabOn = true →
    let m := s.mapping (component s.fab.db s.uid)
    Does .fabricSettle s fun t =>
      (∀ c, coordIn m.coords s.uid = some c →
        t.fld Reg.FAB_STATE 1 0 = 3 ∧ bitOf (t.reg Reg.FAB_STATE) 2 = true ∧
        t.reg Reg.FAB_ADDR = addrOf c % 2 ^ 32 ∧ t.reg Reg.FAB_MAP_EPOCH = m.epoch % 2 ^ 32) ∧
      (coordIn m.coords s.uid = none →
        t.fld Reg.FAB_STATE 1 0 = 1 ∧ t.fld Reg.FAB_STATE 5 4 = m.cause % 4) ∧
      t.reg Reg.FAB_SETTLES = (s.reg Reg.FAB_SETTLES + 1) % 2 ^ 32 ∧
      t.fab.excluded = m.excluded ∧ t.fab.remap = false

/-- R750, R757, R758, R765, R766: the router acts on its first packet that can go. A packet with a route
and room on the port is sent there with HOPS one more and its class; a stale one, one that has gone 63 hops
and one without a route are discarded, and a request among them is answered by a NACK with the status that
says why. -/
def Obligations.RouterForwardsOrDiscards : Prop :=
  ∀ (s : State) (k : Pkt) (h : Hop) (rest : List Pkt), s.Canonical → s.alive = true →
    s.fabOn = true → s.scan [] [] [] s.router = some (k, h, rest) →
    let nack := fun (st : Nat) => if k.isReq then
      [s.answerPkt k 0x8F st k.pseq []] else []
    (∀ p nf, h = .send p nf → Does .packetForward s fun t =>
      t.router = rest ∧
      let x := s.port p
      let l := pktBytes { k with nflags := nf, hops := k.hops + 1 }
      t.out = s.out ++ [.frame p 1 (frameBytes 1 k.vc x.txSeq
        ((x.rxE + 4095) % 4096 + 32768) l.length x.rel x.tgen l)]) ∧
    (h = .stale → Does .packetForward s fun t =>
      t.router = rest ++ nack 2 ∧ t.out = s.out ∧
      t.reg Reg.FAB_RMT_STALE = (s.reg Reg.FAB_RMT_STALE + 1) % 2 ^ 32) ∧
    (h = .far → Does .packetForward s fun t =>
      t.router = rest ++ nack 4 ∧ t.out = s.out ∧
      t.reg Reg.FAB_HOPS_DROP = (s.reg Reg.FAB_HOPS_DROP + 1) % 2 ^ 32) ∧
    (h = .lost → Does .packetForward s fun t =>
      t.router = rest ++ nack 4 ∧ t.out = s.out ∧ t.regs = s.regs)

/-- R307, R767, R768: the target applies a request whose PSEQ is NEXT, in usable memory whose words have no
errors: READ answers the bytes and stores nothing, WRITE stores its data, an add adds each word (of 8 bytes; of 2
for SP16, log entry 31) with saturation, and a HALYARD stores its value under its mode, with POISON in bit 63; each answers with STATUS
0, advances NEXT, and stores to no other byte.
R750, R766, R768, R769: what a target does not apply. A stale request is dropped, counted and answered
by a NACK STALE; one after NEXT is dropped and counted, without an answer; one before NEXT, or with REPLAY
1, is acknowledged again and, but for a READ, not applied; one that the target refuses is answered REFUSED.
No byte of memory changes. -/
def Obligations.RemoteRequestsAreAppliedOnce : Prop :=
  (∀ (s : State) (k : Pkt) (rest : List Pkt) (i : Instr) (ty : Nat), s.Canonical →
    s.running = true →
    ((i = .remoteRead ∧ ty = 1) ∨ (i = .remoteWrite ∧ ty = 2) ∨ (i = .remoteA48Add ∧ ty = 3) ∨
      (i = .halyard ∧ ty = 4)) →
    firstOfSrc [] s.isMine (fun k => k.ptype == ty && (s.stalePkt k || s.actsNow k)) s.router =
      some (k, rest) →
    s.stalePkt k = false → k.pseq = (s.pairOf k).next → bitOf k.nflags 3 = false →
    ∀ u, s.targetOk k.off (if ty = 1 then k.dlen else k.data.length) = some u →
    s.EccFree u (if ty = 1 then k.dlen else k.data.length) →
    let n := if k.sp16 then 2 else 8
    (ty = 3 → u % n = 0 ∧ k.data.length % n = 0) → (ty = 4 → k.data.length = 8) →
    let old := s.rawRead u (if ty = 1 then k.dlen else k.data.length)
    let sum := if k.sp16 then sp16Words (wordsOf 2 old) (wordsOf 2 k.data)
      else a48Words (wordsOf 8 old) (wordsOf 8 k.data)
    let v := ofLeBytes (k.data.take 8)
    let new := if ty = 1 then [] else if ty = 2 then k.data
      else if ty = 3 then sum.1.flatMap (leBytes n)
      else leBytes 8 (if bitOf k.nflags 4 then
          max (ofLeBytes old % 2 ^ 63) (v % 2 ^ 63) + 2 ^ 63 * b2n (bitOf (ofLeBytes old) 63 || bitOf v 63)
        else v % 2 ^ 63 + 2 ^ 63 * b2n (bitOf v 63))
    Does i s fun t =>
      t.router = rest ++ [{ s.answerPkt k (if ty = 1 then 0x81 else 0x82) 0 k.pseq
        (if ty = 1 then old else []) with sat := if ty = 3 then sum.2 else 0 }] ∧
      SMap.get State.pairD t.tgts k.src = ⟨(k.pseq + 1) % 2 ^ 32, k.inc⟩ ∧
      s.StoresOnly t u new ∧ t.regs = s.regs ∧ t.ecc = s.ecc) ∧
  (∀ (s : State) (k : Pkt) (rest : List Pkt) (i : Instr) (ty : Nat), s.Canonical →
    s.running = true →
    ((i = .remoteRead ∧ ty = 1) ∨ (i = .remoteWrite ∧ ty = 2) ∨ (i = .remoteA48Add ∧ ty = 3) ∨
      (i = .halyard ∧ ty = 4)) →
    firstOfSrc [] s.isMine (fun k => k.ptype == ty && (s.stalePkt k || s.actsNow k)) s.router =
      some (k, rest) →
    let next := (s.pairOf k).next
    let rsp := if ty = 1 then 0x81 else 0x82
    (s.stalePkt k = true → Does i s fun t =>
      t.router = rest ++ [s.answerPkt k 0x8F 2 k.pseq []] ∧ s.SameBytes t ∧
      t.reg Reg.FAB_RMT_STALE = (s.reg Reg.FAB_RMT_STALE + 1) % 2 ^ 32) ∧
    (s.stalePkt k = false → k.pseq ≠ next → pairBefore k.pseq next = false → Does i s fun t =>
      t.router = rest ∧ s.SameBytes t ∧
      t.reg Reg.FAB_GAP_DROP = (s.reg Reg.FAB_GAP_DROP + 1) % 2 ^ 32) ∧
    (s.stalePkt k = false → ty ≠ 1 → (pairBefore k.pseq next = true ∨
        (k.pseq = next ∧ bitOf k.nflags 3 = true)) → Does i s fun t =>
      t.router = rest ++ [s.answerPkt k rsp 0 k.pseq []] ∧ s.SameBytes t ∧ t.regs = s.regs) ∧
    (s.stalePkt k = false → k.pseq = next → bitOf k.nflags 3 = false →
      s.targetOk k.off (if ty = 1 then k.dlen else k.data.length) = none → Does i s fun t =>
        t.router = rest ++ [s.answerPkt k rsp 1 k.pseq []] ∧ s.SameBytes t ∧ t.regs = s.regs))

/-- R770 to R772: the source's side. A response with STATUS OK ends its request, and one with another
status fails it: the failure is counted and logged. A settled target answers a PROBE with NEXT. The NEXT
of a target makes the source resend every request issued to it under an earlier epoch, with REPLAY where
its PSEQ is before NEXT. A NACK STALE ends nothing; any other fails the request. -/
def Obligations.SourceTakesTheAnswers : Prop :=
  ∀ (s : State), s.Canonical → s.running = true →
    (∀ u k r, s.takeAnswer (fun t => t == 0x81 || t == 0x82) = some (u, some k) →
      u.reqOf k = some r → s.pendSigs = [] → r.use = .device →
      (k.status = 0 → Does .remoteResponse s fun t =>
        t = { u with rmt := u.rmt.filter fun x => x.tag != r.tag }) ∧
      (k.status ≠ 0 → Does .remoteResponse s fun t =>
        t = { u with rmt := u.rmt.filter fun x => x.tag != r.tag, regs := t.regs } ∧
        t.reg Reg.FAB_RMT_FAIL = (s.reg Reg.FAB_RMT_FAIL + 1) % 2 ^ 32 ∧
        t.reg Reg.FAB_RMT_STATUS = k.status % 2 ^ 32)) ∧
    (∀ k rest, s.fld Reg.FAB_STATE 1 0 = 3 →
      firstOfSrc [] s.isMine (fun k => k.ptype == 0x05 && (s.stalePkt k || s.actsNow k)) s.router =
        some (k, rest) →
      Does .probe s fun t =>
        t.router = rest ++ [s.answerPkt k 0x85 0 (s.pairOf k).next []] ∧ s.SameBytes t) ∧
    (∀ u k, s.takeAnswer (fun t => t == 0x85) = some (u, some k) →
      (u.fab.probing.contains k.src = true → Does .probeRspReceived s fun t =>
        k.src ∉ t.fab.probing ∧
        (∀ r ∈ t.rmt, r.dst = k.src → r.epoch = u.reg Reg.FAB_EPOCH) ∧
        t.router.length = u.router.length +
          (u.rmt.filter fun r => r.dst == k.src && r.epoch != u.reg Reg.FAB_EPOCH).length ∧
        t.reg Reg.FAB_RMT_REPLAY = (u.reg Reg.FAB_RMT_REPLAY +
          (u.rmt.filter fun r => r.dst == k.src && r.epoch != u.reg Reg.FAB_EPOCH).length) % 2 ^ 32) ∧
      (u.fab.probing.contains k.src = false → exec .probeRspReceived s = .next u)) ∧
    (∀ u k r, s.takeAnswer (fun t => t == 0x8F) = some (u, some k) → u.reqOf k = some r →
      (k.status = 2 → exec .remoteNackReceived s = .next u) ∧
      (k.status ≠ 2 → u.fab.probing.contains r.dst = false → s.pendSigs = [] → r.use = .device →
        Does .remoteNackReceived s fun t =>
          t = { u with rmt := u.rmt.filter fun x => x.tag != r.tag, regs := t.regs } ∧
          t.reg Reg.FAB_RMT_FAIL = (s.reg Reg.FAB_RMT_FAIL + 1) % 2 ^ 32 ∧
          t.reg Reg.FAB_RMT_STATUS = k.status % 2 ^ 32))

/-! ### The submission ring (chapter 11) -/

/-- R511, R512: while EN is 1 and no poll is open, a poll counts in FE_POLLS and reads the doorbell line
and, where every pennant waited on lies in host memory and none is being read, up to 64 of them, in
round-robin order. The period in force is 1500 cycles at basic level, within the limits of FE_POLL_MIN and
FE_POLL_MAX with ADAPT, and 1500 with CFG_ERR where those limits are bad. With a poll open nothing changes.
R507, R526, R559: the doorbell line comes back. A TAIL at most 2^LOG2 above the admission head is taken,
and the entries up to it are read, at most 16 and not beyond the ring's end; any other is ignored and sets
TAIL_ERR; a failed read counts in HI_HOST_ERR, is logged with the status of its failure (R663), sets READ_ERR
and stops admission; a timeout that Completion Timeout Disable rules out does nothing (R650). -/
def Obligations.PollAndDoorbellMoveTail : Prop :=
  (∀ s : State, s.Canonical → s.running = true → s.ring.started = true →
    (s.ring.pollOpen = true → exec .poll s = .next s) ∧
    (s.ring.pollOpen = false →
      (Does .poll s fun t => t.ring.pollOpen = true ∧
        t.reg Reg.FE_POLLS = (s.reg Reg.FE_POLLS + 1) % 2 ^ 32) ∧
      ((∀ u ∈ s.waitedOn, regionOf u = .host) → (∀ x ∈ s.ring.penReads, x.1 ∉ s.waitedOn) →
        s.bme = true → s.inD3 = false → s.tagsInUse + s.pollSet.length < s.tagCap →
        Does .poll s fun t =>
          t.out = s.out ++ s.tlps (.read (s.reg64 Reg.FE_DB_ADDR) 64) ++
            s.pollSet.flatMap (fun u => s.tlps (.read (s.iova u) 8)) ∧
          s.pollSet.length ≤ 64 ∧
          t.ring.penReads = s.ring.penReads ++ s.pollSet.map (fun u => (u, true)) ∧
          (bitOf (s.reg Reg.FE_RING_CTRL) 6 = false → t.reg Reg.FE_POLL_NOW = 1500) ∧
          (bitOf (s.reg Reg.FE_RING_CTRL) 6 = true → s.pollLimitsOk = true →
            s.reg Reg.FE_POLL_MIN ≤ t.reg Reg.FE_POLL_NOW ∧
            t.reg Reg.FE_POLL_NOW ≤ s.reg Reg.FE_POLL_MAX) ∧
          (bitOf (s.reg Reg.FE_RING_CTRL) 6 = true → s.pollLimitsOk = false →
            t.reg Reg.FE_POLL_NOW = 1500 ∧ bitOf (t.reg Reg.FE_RING_STATUS) 3 = true) ∧
          s.SameRegs t [Reg.FE_POLLS, Reg.FE_POLL_NOW, Reg.FE_RING_STATUS, Reg.HI_NOTICE_STATUS] ∧
          s.SameBytes t ∧ t.entries = s.entries ∧ t.streams = s.streams ∧ t.slots = s.slots))) ∧
  (∀ (s : State) (tail : Word32), s.Canonical → s.running = true → s.ring.started = true →
    s.ring.pollOut = true →
    ((tail.toNat + 2 ^ 32 - s.reg Reg.FE_RING_HEAD) % 2 ^ 32 ≤ s.ringSize →
      (Does (.doorbellReadReturn tail none) s fun t =>
        t.reg Reg.FE_RING_TAIL = tail.toNat ∧ t.ring.pollOut = false ∧ s.SameBytes t ∧
        s.SameRegs t [Reg.FE_RING_TAIL, Reg.FE_POLL_NOW, Reg.HI_NOTICE_STATUS]) ∧
      (s.ring.reading = 0 → s.ring.halted = false → s.bme = true → s.inD3 = false → s.held = [] →
        s.tagsInUse ≤ s.tagCap → (tail.toNat + 2 ^ 32 - s.ring.readHead) % 2 ^ 32 ≤ s.ringSize →
        let n := min 16 (min ((tail.toNat + 2 ^ 32 - s.ring.readHead) % 2 ^ 32)
          (s.ringSize - s.ring.readHead % s.ringSize))
        n ≠ 0 → Does (.doorbellReadReturn tail none) s fun t =>
          t.ring.reading = n ∧
          t.out = s.out ++ s.tlps
            (.read (s.reg64 Reg.FE_RING_BASE + 64 * (s.ring.readHead % s.ringSize)) (64 * n)))) ∧
    (s.ringSize < (tail.toNat + 2 ^ 32 - s.reg Reg.FE_RING_HEAD) % 2 ^ 32 →
      Does (.doorbellReadReturn tail none) s fun t =>
        t.reg Reg.FE_RING_TAIL = s.reg Reg.FE_RING_TAIL ∧
        bitOf (t.reg Reg.FE_RING_STATUS) 4 = true ∧ t.ring.pollOut = false ∧ s.SameBytes t) ∧
    ∀ x, s.noTimeout (some x) = false → Does (.doorbellReadReturn tail (some x)) s fun t =>
      t.ring.halted = true ∧ t.ring.pollOut = false ∧ bitOf (t.reg Reg.FE_RING_STATUS) 5 = true ∧
      t.reg Reg.HI_HOST_ERR = (s.reg Reg.HI_HOST_ERR + 1) % 2 ^ 32 ∧
      t.fld Reg.HI_HOST_LOG 2 0 = readStatus x ∧ t.reg64 Reg.HI_HOST_LOG_ADDR = s.reg64 Reg.FE_DB_ADDR ∧
      t.reg Reg.FE_RING_TAIL = s.reg Reg.FE_RING_TAIL ∧ s.SameBytes t)

/-- R526, R559: the entries of a read come back. Where the SEQ of each is its index mod 2^16 and the entry
at the front has no reserved kind, they all arrive, in ascending absolute index; an entry whose SEQ differs
stops admission and counts in FE_SEQ_RETRY; a failed read sets READ_ERR and halts admission. -/
def Obligations.EntryReturnTakesWrittenEntries : Prop :=
  ∀ (s : State) (bytes : List Byte), s.Canonical → s.running = true → s.ring.started = true →
    s.ring.reading ≠ 0 → s.ring.readHead < 2 ^ 32 →
    let entry := fun i => (bytes.drop (64 * i)).take 64
    let index := fun i => (s.ring.readHead + i) % 2 ^ 32
    let come := (upto s.ring.reading).map fun i => (index i, entry i)
    ((∀ i, i < s.ring.reading → leAt (entry i) 4 2 = index i % 65536) →
      (∀ x, (s.ring.arrived ++ come).head? = some x → (rowKind x.2).isSome = true) →
      Does (.entryReadReturn bytes none) s fun t =>
        t.ring.arrived = s.ring.arrived ++ come ∧ t.ring.readHead = index s.ring.reading ∧
        t.ring.stalled = false ∧ s.SameRegs t [Reg.HI_NOTICE_STATUS] ∧ s.SameBytes t) ∧
    (leAt (entry 0) 4 2 ≠ index 0 % 65536 →
      (∀ x, s.ring.arrived.head? = some x → (rowKind x.2).isSome = true) →
      Does (.entryReadReturn bytes none) s fun t =>
        t.ring.arrived = s.ring.arrived ∧ t.ring.readHead = s.ring.readHead ∧
        t.ring.stalled = true ∧ t.ring.reading = 0 ∧
        t.reg Reg.FE_SEQ_RETRY = (s.reg Reg.FE_SEQ_RETRY + 1) % 2 ^ 32 ∧
        s.SameRegs t [Reg.FE_SEQ_RETRY, Reg.HI_NOTICE_STATUS] ∧ s.SameBytes t) ∧
    ∀ x, s.noTimeout (some x) = false → Does (.entryReadReturn bytes (some x)) s fun t =>
      t.ring.halted = true ∧ t.ring.reading = 0 ∧ t.ring.arrived = s.ring.arrived ∧
      bitOf (t.reg Reg.FE_RING_STATUS) 5 = true ∧
      t.reg Reg.HI_HOST_ERR = (s.reg Reg.HI_HOST_ERR + 1) % 2 ^ 32 ∧ s.SameBytes t

/-- R508, R509: when a field of the status line other than FTIME has changed, or the last write after EN
was cleared is due, the line is written whole, as one posted write without Relaxed Ordering, with WSEQ one
higher; it then shows the fields as they stand. Nothing else changes; otherwise nothing is written. -/
def Obligations.StatusLineIsWrittenOnChange : Prop :=
  ∀ s : State, s.running = true →
    (s.ring.lineLive = true → s.ring.closing = true ∨ s.lineFields ≠ s.ring.shown →
      Does .ringStatusWrite s fun t =>
        t = { s with ring := t.ring, out := t.out, held := t.held } ∧
        t.ring.wseq = (s.ring.wseq + 1) % 2 ^ 32 ∧ t.ring.shown = s.lineFields ∧
        t.lineFields = s.lineFields ∧ t.ring.closing = false ∧
        (s.bme = true → s.inD3 = false → t.out = s.out ++
          s.tlps (.write s.ring.lineAt false (lineBytes t.ring.wseq s.ns s.lineFields))) ∧
        ∀ w f, (lineBytes w f s.lineFields).length = 64) ∧
    (s.ring.lineLive = false ∨ (s.ring.closing = false ∧ s.lineFields = s.ring.shown) →
      exec .ringStatusWrite s = .next s)

/-! ### The admission of entries (R517 to R528) -/

/-- R517, R518, R526, R527, for the row of every kind: an entry of another kind at the front, or none that may
be admitted, is left alone; an entry that breaks a rule of its class is not executed: HEAD passes it,
FE_ENTRY_ERRS, ERR_COUNT and LAST_ERR are updated, one record is written (to the host; lost without a record
area), and no stream and no entry changes, nor any byte of local memory but by the dump of a domain of
capture depth 2 (R609). An RE_ABORT that names the entry which waits for seal space in front of it does not
leave that one alone (R443). -/
def Obligations.BadEntriesAreRejectedAndCounted : Prop :=
  ∀ (s : State) (i : Instr) (v : View) (k : RowKind), rowOf i = some (v, k) →
    (k = .restore → s.restoreDue = none) → (k = .abort → s.abortsSealing = none) →
    (s.front k = none → exec i s = .next s) ∧
    ∀ (a : Nat) (raw : List Byte), s.Canonical → s.front k = some (a, raw) → s.shapeOk k raw = false →
      (∀ x, s.ring.arrived.tail.head? = some x → (rowKind x.2).isSome = true) →
      Does i s fun t =>
        t.ring.arrived = s.ring.arrived.tail ∧ t.ring.lastErr = a ∧
        t.ring.errCount = (s.ring.errCount + 1) % 2 ^ 32 ∧
        t.ring.faultSeq = (s.ring.faultSeq + 1) % 2 ^ 32 ∧
        t.reg Reg.FE_RING_HEAD = (a + 1) % 2 ^ 32 ∧
        t.reg Reg.FE_ENTRY_ERRS = (s.reg Reg.FE_ENTRY_ERRS + 1) % 2 ^ 32 ∧
        (s.reg64 Reg.FE_FAULT_BASE = 0 →
          t.reg Reg.FE_FAULT_LOST = (s.reg Reg.FE_FAULT_LOST + 1) % 2 ^ 32) ∧
        (s.reg64 Reg.FE_DUMP_BASE = 0 ∨ (∀ n, s.streamDepth n ≠ 2) →
          s.SameRegs t [Reg.FE_RING_HEAD, Reg.FE_ENTRY_ERRS, Reg.FE_FAULT_LOST, Reg.HI_NOTICE_STATUS] ∧
          s.SameBytes t) ∧ t.entries = s.entries ∧ t.streams = s.streams ∧ t.charts = s.charts ∧
        t.gens = s.gens ∧ t.pendSigs = s.pendSigs

/-- R510, R519, R527: RE_NOP does nothing but be admitted: HEAD passes it. Without an extension block the
checks change nothing.
R519, R621, R622, R628: the stream-ordered entries without a slot join their stream. A RE_SAVE keeps the
stream's generator state; as a cut it names the stream's last entry that takes a slot, and without the
permission of R12 it carries the fault EXPERT_LOCKED. A RE_RESTORE of a good image replaces the stream's
generator state; a bad image gives it the fault CONTEXT_INVALID. A restore whose turn as head has come loads
its target instead. Misplaced images reject the entry. -/
def Obligations.SlotlessEntriesAreAdmitted : Prop :=
  (∀ (s u : State) (v : View) (r : Req) (a : Nat) (raw : List Byte), s.Canonical →
    s.front .nop = some (a, raw) → s.sealRefresh.checkEntry v .nop a raw = .ok u r → s.reg Reg.FE_RING_HEAD = a →
    (∀ x, s.ring.arrived.tail.head? = some x → (rowKind x.2).isSome = true) →
    (bitOf (leAt raw 1 1) 2 = false → u = s.sealRefresh) ∧
    Does (.reNop v) s fun t =>
      t.ring.arrived = s.ring.arrived.tail ∧ t.reg Reg.FE_RING_HEAD = (a + 1) % 2 ^ 32 ∧
      u.SameRegs t [Reg.FE_RING_HEAD, Reg.HI_NOTICE_STATUS] ∧ u.SameBytes t ∧
      t.entries = s.entries ∧ t.streams = s.streams ∧ t.ring.errCount = s.ring.errCount) ∧
  (∀ (s u : State) (v : View) (r : Req),
    (s.Admits v .waitOnly u r → Passes (.reWaitOnly v) s (u.addEntry (newEntry r .waitOnly))) ∧
    (s.Admits v .signalOnly u r → Passes (.reSignalOnly v) s (u.addEntry (newEntry r .signalOnly))) ∧
    (s.Admits v .save u r →
      let image := leAt r.raw 8 8 % 2 ^ 48
      let area := leAt r.raw 16 8 % 2 ^ 48
      let cf := leAt r.raw 0x1C 1 % 8
      let g := (u.stream r.stream).gen
      (inHostOrDram image 4096 = false ∨ u.addrOk true image 4096 = false → Rejects (.reSave v) s u) ∧
      (inHostOrDram image 4096 = true → u.addrOk true image 4096 = true →
        (bitOf cf 0 = false →
          Passes (.reSave v) s (u.addEntry (newEntry r (.save image area cf none g false)))) ∧
        ∀ (j : Nat) (x : Entry), bitOf cf 0 = true → (u.stream r.stream).lastIdx = some j →
          (u.entries.find? fun e => e.idx == j && e.stream == r.stream && e.takesSlot) = some x →
          inHostOrDram area 64 = true → u.addrOk true area (u.areaSize x (bitOf cf 2)) = true →
          u.areaSize x (bitOf cf 2) ≤ leAt r.raw 0x18 4 * 1024 →
          (u.expert = true →
            Passes (.reSave v) s (u.addEntry (newEntry r (.save image area cf (some x.idx) g false)))) ∧
          (u.expert = false →
            Passes (.reSave v) s (u.addEntry { newEntry r (.save image area cf none g false) with
              fault := some (u.plainFault .expertLocked 0) })))) ∧
    (s.restoreDue = none → s.Admits v .restore u r →
      let image := leAt r.raw 8 8 % 2 ^ 48
      let e := fun l => newEntry r (.restore image (leAt r.raw 16 8 % 2 ^ 48) l)
      (inHostOrDram image 4096 = false → Rejects (.reRestore v) s u) ∧
      ∀ (c : Ctx) (l : List Byte), inHostOrDram image 4096 = true →
        (Ctx.start u v []).read true image 4096 = (c, l) → c.stall = false →
        (c.err.isSome = true ∨ imageOk l (c.s.stream r.stream).domain = false →
          Passes (.reRestore v) s (c.s.addEntry { e l with
            fault := some (c.s.plainFault .contextInvalid image) })) ∧
        (c.err = none → imageOk l (c.s.stream r.stream).domain = true →
          Passes (.reRestore v) s ((c.s.setStream r.stream { c.s.stream r.stream with
              gen := genOfBytes ((l.drop 0x18).take 40) }).addEntry
            { e l with hgen := if leAt l 3 1 = 1 then c.s.genInForce else 0 }))) ∧
    (∀ (e : Entry) (i b : Nat) (img : List Byte), s.restoreDue = some e → e.kind = .restore i b img →
      s.running = true → exec (.reRestore v) s = .next (s.restoreTarget v e b img)))

/-- R131, R132, R422, R527, R549, R580: RE_SUBMIT and RE_LAUNCH under a generation in force. The buffer's
SEED_SETs are applied and the stream's generator state captured, and its counter advanced; an indirect buffer
joins its stream at once, a direct one once it is sealed, and it holds the ring while it waits for seal space.
A launch of a chart that is not LOADED, or of a version that is not live, joins its stream with the fault
CHART_ABSENT; otherwise it captures its generator state and binds segment 0. What waits for seal space is
sealed and passed by SEAL_SPACE_FREED. Without a generation in force the first copy of the handle table starts
instead (R549), and the entry is rejected where the set-up is bad. -/
def Obligations.BuffersAndLaunchesAreAdmitted : Prop :=
  ∀ (s u : State) (v : View) (r : Req),
    (s.Admits v .submit u r → u.gens ≠ [] →
      let e := { newEntry r .submit with hgen := u.genInForce }
      let uda := leAt r.raw 8 8 % 2 ^ 48
      (∀ (w : State) (f : FaultInfo) (b : Option BufInfo), u.readBuf v e uda = .fault w f b →
        Passes (.reSubmit v) s (w.addEntry { e with buf := b, fault := some f })) ∧
      ∀ (w : State) (b : BufInfo) (seeds : List Nat), u.readBuf v e uda = .ok w b seeds →
        let g := seeds.foldl Gen.seedSet (w.stream r.stream).gen
        let e := { e with gen := g }
        let c := w.setStream r.stream { w.stream r.stream with
          gen := { g with ctr := g.ctr + BitVec.ofNat 64 b.sampleAdvance } }
        (b.direct = false → Passes (.reSubmit v) s (c.addEntry { e with buf := some b })) ∧
        (∀ (x : State) (b' : BufInfo), b.direct = true → c.sealBuf v e b = .done x b' →
          Passes (.reSubmit v) s (x.addEntry { e with buf := some b' })) ∧
        (∀ (x : State) (f : FaultInfo), b.direct = true → c.sealBuf v e b = .fault x f →
          Passes (.reSubmit v) s (x.addEntry { e with buf := some b, fault := some f })) ∧
        (b.direct = true → c.sealBuf v e b = .noRoom → exec (.reSubmit v) s = .next (s.ringEdge
          { c with ring := { c.ring with sealing := some { e with buf := some b } } }))) ∧
    (s.Admits v .launch u r → u.gens ≠ [] → launchBodyOk r.raw = true →
      let id := leAt r.raw 8 2
      let c := u.chart id
      let ver := if leAt r.raw 10 2 = 0 then c.current else leAt r.raw 10 2
      let a := leAt r.raw 0x18 8 % 2 ^ 48
      let l : Launch := ⟨id, ver, c.nseg, 0, [], [], [], [], c.lanes, c.nCl, c.nFe⟩
      (c.used = false ∨ c.dropping = true ∨ c.version? ver = none →
        ∃ e : Entry, e.idx = r.idx ∧ e.stream = r.stream ∧ e.sigs = r.sigs ∧
          e.fault = some (u.plainFault .chartAbsent 0) ∧ Passes (.reLaunch v) s (u.addEntry e)) ∧
      ∀ (q : Ctx) (b : ArgBlock) (x : State) (buf : BufInfo) (l' : Launch), c.used = true →
        c.dropping = false → (c.version? ver).isSome = true → u.readArgs v a c.narg = (q, some b) →
        q.stall = false →
        let g := b.seeds.getD (q.s.stream r.stream).gen
        let l := { l with args := b.args }
        let e := { newEntry r (.launch l) with
          hgen := u.genInForce, ext := r.ext + (if a = 0 then 0 else 1), gen := g }
        let c := if b.seeds.isSome then q.s else q.s.setStream r.stream { q.s.stream r.stream with
          gen := { g with ctr := g.ctr + BitVec.ofNat 64 b.adv } }
        c.bindSeg v e l 0 (fun _ => none) = .done x buf l' →
          Passes (.reLaunch v) s (x.addEntry { e with kind := .launch l', buf := some buf })) ∧
    (∀ (i : Instr) (k : RowKind), rowOf i = some (v, k) → k = .submit ∨ k = .launch → s.Admits v k u r →
      u.gens = [] → (k = .launch → launchBodyOk r.raw = true) →
      (u.handleSetupOk = false → Rejects i s u) ∧
      (u.handleSetupOk = true → ∀ c, u.freeCopy = some c → Does i s fun t =>
        ∃ h : HandleCopy, t = s.ringEdge { s with hcopy := some h } ∧ h.copy = c ∧ h.sync = false ∧
          h.sigs = [])) ∧
    (∀ (e : Entry) (b : BufInfo) (w : State), s.running = true → s.ring.sealing = some e →
      e.kind = .submit → e.buf = some b →
      ({ s with ring := { s.ring with sealing := none } } : State).finishSubmit v e b = .done w →
      Passes (.sealSpaceFreed v) s w) ∧
    (∀ (e : Entry) (l : Launch) (w : State), s.running = true → s.ring.sealing = some e →
      e.kind = .launch l →
      ({ s with ring := { s.ring with sealing := none } } : State).finishLaunch v e l = .done w →
      Passes (.sealSpaceFreed v) s w)

/-- R128, R523, R603: RE_STREAM. CREATE makes the stream IDLE with the priority, domain and generator state
given, or zero seeds without SEEDS; CONFIGURE replaces the priority and, with SEEDS, the generator state;
DESTROY frees a stream without entries at once and issues its signals, and otherwise waits for its entries;
RELEASE of an ISOLATED stream lets its next entry become head, and with DISCARD aborts every entry that it
has, poisoned unless SILENT; on any other stream it is rejected, as is a seed block that is misaligned or
cannot be read. A seed block at a remote address is asked for first, and the entry taken up anew with its
bytes.
R524, R615: RE_ABORT without SCOPE. A target that never was an admitted entry of the stream gives
INVALID, one that has committed ALREADY_COMPLETE; a target that waits, or is not yet head, is removed with
its signals poisoned, a running one is stopped, and the result is ABORTED. The result word is written before
the entry's own signals are issued, and those wait for what the abort has stopped. -/
def Obligations.StreamAndAbortEntriesAct : Prop :=
  (∀ (s u : State) (v : View) (r : Req),
    let n := r.stream
    let prio := leAt r.raw 9 1 % 4
    let fl := leAt r.raw 0x0B 1
    let uda := leAt r.raw 0x10 8 % 2 ^ 48
    (s.Admits v .create u r →
      let made := fun (w : State) (g : Gen) => (w.setStream n { StreamRec.free with
        created := true, prio := prio, domain := leAt r.raw 10 1 % 16, gen := g,
        lastMap := (w.stream n).lastMap }).reSignals r false
      (bitOf fl 0 = false → Passes (.reStreamCreate v) s (made u Gen.zero)) ∧
      (bitOf fl 0 = true → uda % 8 ≠ 0 ∨ u.ring.fetchBad = true → Rejects (.reStreamCreate v) s u) ∧
      ∀ (c : Ctx) (l : List Byte), bitOf fl 0 = true → uda % 8 = 0 → u.ring.fetchBad = false →
        (Ctx.start u v u.ring.fetched).read true uda 40 = (c, l) → c.stall = false →
        (c.miss ≠ [] → exec (.reStreamCreate v) s = .next (s.ringEdge (s.fetchMissing .front c.miss))) ∧
        (c.miss = [] →
          (c.err = none → Passes (.reStreamCreate v) s (made c.s (genOfBytes l))) ∧
          (c.err.isSome = true → Rejects (.reStreamCreate v) s c.s))) ∧
    (s.Admits v .configure u r →
      (bitOf fl 0 = false → Passes (.reStreamConfigure v) s
        ((u.setStream n { u.stream n with prio := prio }).reSignals r false)) ∧
      (bitOf fl 0 = true → uda % 8 ≠ 0 ∨ u.ring.fetchBad = true → Rejects (.reStreamConfigure v) s u) ∧
      ∀ (c : Ctx) (l : List Byte), bitOf fl 0 = true → uda % 8 = 0 → u.ring.fetchBad = false →
        (Ctx.start u v u.ring.fetched).read true uda 40 = (c, l) → c.stall = false →
        (c.miss ≠ [] → exec (.reStreamConfigure v) s = .next (s.ringEdge (s.fetchMissing .front c.miss))) ∧
        (c.miss = [] →
          (c.err = none → Passes (.reStreamConfigure v) s ((c.s.setStream n { c.s.stream n with
            prio := prio, gen := genOfBytes l }).reSignals r false)) ∧
          (c.err.isSome = true → Rejects (.reStreamConfigure v) s c.s))) ∧
    (s.Admits v .destroy u r → u.Canonical →
      let w := u.setStream n { u.stream n with destroy := some r.sigs }
      ((∃ e ∈ u.entries, e.stream = n) → Passes (.reStreamDestroy v) s w) ∧
      ((∀ e ∈ u.entries, e.stream ≠ n) → Passes (.reStreamDestroy v) s
        ((w.setStream n { StreamRec.free with lastMap := (u.stream n).lastMap }).signals (.signal n) false
          r.sigs))) ∧
    (s.Admits v .release u r →
      let w := u.setStream n { u.stream n with isolated := false }
      ((u.stream n).isolated = false → Rejects (.reStreamRelease v) s u) ∧
      ((u.stream n).isolated = true →
        (bitOf fl 1 = false →
          Passes (.reStreamRelease v) s ((w.checkPend.heads).reSignals r false)) ∧
        (bitOf fl 1 = true → Passes (.reStreamRelease v) s
          ((((u.entries.filter fun e => e.stream == n).foldl (fun w e => w.endAborted e (bitOf fl 2))
            w).checkPend.heads).reSignals r false))))) ∧
  (∀ (s u : State) (v : View) (r : Req), s.Admits v .abort u r → bitOf (leAt r.raw 12 1) 0 = false →
    let target := leAt r.raw 8 4
    let res := leAt r.raw 16 8 % 2 ^ 48
    let found := u.entries.find? fun e => e.idx == target && e.stream == r.stream
    let ended := fun (w : State) (code : Nat) (hit : List Nat) =>
      let q := w.resultWrite res (leBytes 8 code)
      ((q.1.holdSigs (.aborted hit q.2) false r.sigs).afterEntry r.stream)
    (found = none → SMap.get State.pastD u.past target = none →
      Passes (.reAbort v) s (ended u 2 [])) ∧
    (found = none → SMap.get State.pastD u.past target = some (r.stream, true) →
      Passes (.reAbort v) s (ended u 1 [])) ∧
    ∀ e : Entry, found = some e → u.faulted e.idx = false →
      (u.slotOf e.idx = none → Passes (.reAbort v) s
        (ended ((u.signals (.signal e.stream) true e.sigs).dropEntry e false) 0 [e.idx])) ∧
      ∀ (n : Nat) (x : ExecSlot), u.slotOf e.idx = some n → u.slot? n = some x → x.stop = none →
        Passes (.reAbort v) s (ended (u.stopSlot v n .abort) 0 [e.idx]))

/-- R549, R550: RE_HANDLE_SYNC is rejected where the set-up is bad, waits while both copies hold live
generations, and otherwise starts the copy, which holds the ring. At its end the table's bytes behind entry 0,
which is never read (R408), stand in the copy, which is the generation in force, and the generations that are not live are dropped; the entry passes
and its signals wait for every earlier generation. On an uncorrectable word the copy is abandoned and the
entry rejected.
R569 to R573, R584 to R590: the chart entries. LOAD of a good image puts the chart in force with its
first version, of an ID not FREE gives EXISTS, of a bad image gives what was found wrong; DROP leaves the
chart without a current version and frees what no launch pins; a VERSIONED patch writes its copies and makes
the new version current; a HOT patch, which needs the permission of R12, writes the current version's
parameters in place. What fails changes no chart, writes its result word and poisons the signals. -/
def Obligations.HandleAndChartEntriesAct : Prop :=
  (∀ (s u : State) (v : View) (r : Req),
    (s.Admits v .handleSync u r →
      (u.handleSetupOk = false → Rejects (.reHandleSync v) s u) ∧
      (u.handleSetupOk = true → u.freeCopy = none → exec (.reHandleSync v) s = .next s) ∧
      ∀ c, u.handleSetupOk = true → u.freeCopy = some c → exec (.reHandleSync v) s = .next (s.ringEdge
        { u with hcopy := some ⟨c,
                  u.reg64 Reg.FE_HSHADOW_BASE + c * 32 * u.reg Reg.FE_HSHADOW_ENTRIES,
                  u.reg Reg.FE_HTAB_COUNT, u.reg64 Reg.FE_HTAB_BASE, r.sigs, true⟩ })) ∧
    ∀ h : HandleCopy, s.hcopy = some h → s.running = true →
      (∀ w, s.readLocal (h.src + 32) (32 * (h.count - 1)) = (w, none) →
        (h.sync = true ∨ s.ring.halted = false →
          Rejects .handleCopyDone s { w with hcopy := none }) ∧
        (h.sync = false → s.ring.halted = true →
          exec .handleCopyDone s = .next (s.ringEdge { w with hcopy := none }))) ∧
      ∀ w l, s.readLocal (h.src + 32) (32 * (h.count - 1)) = (w, some l) →
        let x := (w.writeLocal (h.base + 32) l).1
        let y : State := { x with
          hcopy := none
          gens := (x.gens.filter fun g => x.genLive g.gen) ++
            [⟨x.genInForce + 1, h.copy, h.base, h.count⟩] }
        (h.sync = true → Passes .handleCopyDone s
          (y.holdSigs (.gensRetired (x.genInForce + 1)) false h.sigs).checkPend) ∧
        (h.sync = false → exec .handleCopyDone s = .next (s.ringEdge y))) ∧
  (∀ (s u : State) (v : View) (r : Req),
    let id := leAt r.raw 8 2
    let res := leAt r.raw 0x18 8 % 2 ^ 48
    let base := leAt r.raw 12 2
    let c := u.chart id
    let fails := fun (i : Instr) (w : State) (code ver detail : Nat) =>
      Passes i s ((w.chartResult res code ver detail).reSignals r true)
    (s.Admits v .chartLoad u r →
      (u.chartBodyOk .chartLoad r.raw = false → Rejects (.reChartLoad v) s u) ∧
      (u.chartBodyOk .chartLoad r.raw = true →
        let ver := if leAt r.raw 10 2 = 0 then 1 else leAt r.raw 10 2
        (c.used = true → fails (.reChartLoad v) u 1 c.current 0) ∧
        (∀ w code d, c.used = false → u.readImage (leAt r.raw 0x10 8 % 2 ^ 48) ver = .bad w code d →
          fails (.reChartLoad v) w code 0 d) ∧
        ∀ w c', c.used = false → u.readImage (leAt r.raw 0x10 8 % 2 ^ 48) ver = .good w c' →
          Passes (.reChartLoad v) s (((w.setChart id c').chartResult res 0 ver 0).reSignals r false))) ∧
    (s.Admits v .chartDrop u r → u.chartBodyOk .chartDrop r.raw = true →
      (c.used = false ∨ c.dropping = true → fails (.reChartDrop v) u 2 0 0) ∧
      (c.used = true → c.dropping = false → Passes (.reChartDrop v) s
        (((u.chartResult res 0 0 0).setChart id { c with
          dropping := true, current := 0, dropSigs := r.sigs }).freeVersions id))) ∧
    (s.Admits v .patchVersioned u r → u.chartBodyOk .patchVersioned r.raw = true →
      (c.used = false ∨ c.dropping = true → fails (.reChartPatchVersioned v) u 2 c.current 0) ∧
      (c.used = true → c.dropping = false → base ≠ 0 → base ≠ c.current →
        fails (.reChartPatchVersioned v) u 4 c.current 0) ∧
      ∀ (cur : ChartVer) (q k x : Ctx) (h : List Byte) (es : List PatchEnt) (sizes : List (Nat × Nat))
        (ls : List (List Byte)), c.used = true → c.dropping = false → base = 0 ∨ base = c.current →
        c.version? c.current = some cur →
        u.readPatch v (leAt r.raw 0x10 8 % 2 ^ 48) = (q, some (h, es)) → q.stall = false →
        q.patchEntsOk c cur [] es 0 = (k, none, sizes) →
        let area := leAt h 8 8 % 2 ^ 48
        let ps := patchPieces sizes c cur es
        let nv := if cur.ver = 65535 then 1 else cur.ver + 1
        area % 64 = 0 → k.s.inDram area 0 = true →
        (c.vers.filter fun y => y.ver != cur.ver || k.s.pinned id y.ver).length ≤ 3 →
        pieceOver (leAt h 16 8) ps 0 = none →
        k.s.inDram area (ps.foldl (fun n p => n + p.2.2.2) 0) = true →
        k.readPieces es ps = (x, .ok ls) →
        let w := x.s.writePieces (List.zip (ps.map (·.1)) ls) area
          ⟨nv, cur.paramUda, cur.segUda, leAt h 24 8 % 2 ^ 48⟩
        Passes (.reChartPatchVersioned v) s ((((w.1.setChart id { c with
          current := nv, vers := c.vers ++ [w.2] }).freeVersions id).chartResult res 0 nv 0).reSignals r
            false)) ∧
    (s.Admits v .patchHot u r → u.chartBodyOk .patchHot r.raw = true →
      (u.expert = false → fails (.reChartPatchHot v) u 8 c.current 0) ∧
      ∀ (cur : ChartVer) (q : Ctx) (h : List Byte) (es : List PatchEnt),
        u.expert = true → c.used = true → c.dropping = false → base = 0 ∨ base = c.current →
        c.version? c.current = some cur →
        u.readPatch v (leAt r.raw 0x10 8 % 2 ^ 48) = (q, some (h, es)) → q.stall = false →
        (∀ e ∈ es, e.etype = 0 ∧ c.narg ≤ e.param ∧ e.param < c.nparam ∧
          nth false c.patchable e.param = true) →
        ∃ w : State, Passes (.reChartPatchHot v) s w ∧
          ∃ y : State, w = ((y.bump Reg.FE_CHART_HOT 1).chartResult res 0 cur.ver 0).reSignals r false ∧
            ∃ z : State, z = es.foldl (fun w e =>
              (w.writeLocal (cur.paramUda + 16 * e.param) (leBytes 8 e.value)).1) q.s ∧
            y = { z with entries := y.entries }))

/-- R785, R817 to R822: the almanac and fabric entries. An update that another is in progress for gives BUSY;
otherwise ALMANAC and FIRMWARE begin theirs from the bytes at SRC, and READ writes the copy that this boot
applied, or gives SPACE where it is longer than LEN. REDISCOVER advances the epoch and holds its signals for
the next settle; REMAP does the same with AFLAGS.REMAP set and needs the permission of R12; FENCE holds its
signals until every remote request issued before it has ended. Bad bodies are rejected. -/
def Obligations.AlmanacAndFabricEntriesAct : Prop :=
  ∀ (s u : State) (v : View) (r : Req),
    let res := leAt r.raw 24 8 % 2 ^ 48
    let src := leAt r.raw 16 8 % 2 ^ 48
    let len := leAt r.raw 12 4
    (∀ (i : Instr) (k : RowKind), rowOf i = some (v, k) → k = .almanac ∨ k = .firmware ∨ k = .almRead →
      s.Admits v k u r →
      (updateBodyOk r.raw = false → Rejects i s u) ∧
      (updateBodyOk r.raw = true → u.update.isSome = true →
        Passes i s (u.flashResult 1 none none res r.sigs))) ∧
    (updateBodyOk r.raw = true → u.update = none → u.flash.isSome = true →
      (∀ (c : Ctx) (l : List Byte), s.Admits v .almanac u r →
        (Ctx.start u v []).read true src (min 65508 len) = (c, l) → c.stall = false → c.err = none →
        Passes (.reAlmanacUpdateAlmanac v) s (c.s.almanacUpdate l res r.sigs)) ∧
      (∀ (c : Ctx) (l : List Byte), s.Admits v .firmware u r →
        (Ctx.start u v []).read true src (min (2 ^ 32) len) = (c, l) → c.stall = false → c.err = none →
        Passes (.reAlmanacUpdateFirmware v) s (c.s.firmwareUpdate l res r.sigs)) ∧
      (s.Admits v .almRead u r → u.copy ≠ [] →
        (len < u.copy.length → Passes (.reAlmanacUpdateRead v) s
          ((u.setFld Reg.ALM_UPDATE 11 4 6).flashResult 6 none none res r.sigs)) ∧
        (u.copy.length ≤ len → ∀ w e, u.ownWrite src u.copy = (w, e) →
          (e = none → Passes (.reAlmanacUpdateRead v) s
            ((w.setFld Reg.ALM_UPDATE 11 4 0).flashResult 0 (some (leAt u.copy 4 4)) none res r.sigs)) ∧
          (e.isSome = true → Passes (.reAlmanacUpdateRead v) s
            ((w.setFld Reg.ALM_UPDATE 11 4 2).flashResult 2 none none res r.sigs))))) ∧
    (s.Admits v .rediscover u r →
      Passes (.reFabricRediscover v) s ((u.advanceEpoch none).holdSigs .settled false r.sigs)) ∧
    (s.Admits v .remap u r →
      (u.expert = false → Rejects (.reFabricRemap v) s u) ∧
      (u.expert = true → Passes (.reFabricRemap v) s
        ((({ u with fab := { u.fab with remap := true } } : State).advanceEpoch none).holdSigs .settled
          false r.sigs))) ∧
    (s.Admits v .fence u r → Passes (.reFabricFence v) s
      ((u.holdSigs (.fenced (u.rmt.map fun x => x.tag)) false r.sigs).checkPend))

/-! ### Set-up registers (chapter 20) -/

/-- R646, R920, R923, R926, R927: a dword read. Where the path is not answered nothing changes; an
unsupported request is answered as one; where the path is answered but not the offset, 0 is returned; else the
value of the dword. A read of a low half with all byte enables set captures the high half, and a read of the
high half on that path then returns it, whatever else has happened but a write of the pair. No read changes a
register. -/
def Obligations.RegisterReadsAnswer : Prop :=
  ∀ (s : State) (p : Path) (ofs : BitVec 20) (be : BitVec 4),
    let o := ofs.toNat - ofs.toNat % 4
    let read := Instr.pairLowRead p ofs be
    (s.reach p o = .nobody → exec read s = .next s) ∧
    (s.reach p o = .unsupported → Does read s fun t => t = (s.aer 20 true).emit .unsupported) ∧
    (s.reach p o = .blank → Does read s fun t => t = s.emit (.regRead p o 0)) ∧
    (s.reach p o = .readOnly ∨ s.reach p o = .full →
      (pairHalf o = none → Does read s fun t => t = s.emit (.regRead p o (s.live o))) ∧
      (pairHalf o = some false → Does read s fun t =>
        t.out = s.out ++ [.regRead p o (s.live o)] ∧ t.regs = s.regs ∧ s.SameBytes t ∧
        (be.toNat = 15 → (t.path p).snap = some (o, BitVec.ofNat 32 (s.live (o + 4)))) ∧
        (be.toNat ≠ 15 → t = s.emit (.regRead p o (s.live o))) ∧
        ∀ (u : State) (be' : BitVec 4), be.toNat = 15 → ofs.toNat % 8 = 0 →
          u.path p = t.path p → u.reach p (o + 4) = .full → pairHalf (o + 4) = some true →
          Does (.pairLowRead p (ofs + 4) be') u fun w =>
            w = u.emit (.regRead p (o + 4) (s.live (o + 4) % 2 ^ 32))) ∧
      (pairHalf o = some true → (∀ b w, (s.path p).snap = some (b, w) → b + 4 ≠ o) →
        Does read s fun t => t = s.emit (.regRead p o (s.live o))))

/-- R16, R922, R924, R925, R928, R944: a dword write of a register that sets nothing off (those of the HI_,
MEM_ and CL_ blocks but HI_NOTICE_EN). With all byte enables set it stores what its field types give, and
changes no other register; while the session is locked its Expert fields keep their values, and a write that
would change one is logged. A write with some enables clear is dropped and logged as PARTIAL, a write of an
offset without a register as UNMAPPED, both without any other effect. A low half is staged; the write of the
high half commits both. Where the path is not answered, or read only, nothing changes. -/
def Obligations.RegisterWritesStoreByFieldType : Prop :=
  ∀ (s : State) (p : Path) (ofs : BitVec 20) (be : BitVec 4) (value : Word32), s.Canonical →
    let o := ofs.toNat - ofs.toNat % 4
    let quiet := fun k => (k < 0x2000 ∧ k ≠ Reg.HI_NOTICE_EN) ∨ (0x8000 ≤ k ∧ k < 0x20000)
    let stored := fun (r : RegRow) (high : Bool) (k w : Nat) =>
      writeFields (dwordFields r high) (!s.unlocked) (s.reg k) w % 2 ^ 32
    let dbg := [Reg.DBG_ACCESS_COUNT, Reg.DBG_ACCESS_STATUS, Reg.DBG_ACCESS_ADDR]
    (∀ i, i = .registerWrite p ofs be value ∨ i = .pairLowWrite p ofs be value ∨
        i = .pairHighWrite p ofs be value →
      (s.reach p o = .nobody ∨ s.reach p o = .blank ∨ s.reach p o = .readOnly → exec i s = .next s) ∧
      (s.reach p o = .unsupported → Does i s fun t => t = s.aer 20 false) ∧
      (s.reach p o = .full → s.ready = true → quiet o → regAt o = none → Does i s fun t =>
        t.reg Reg.DBG_ACCESS_COUNT = (s.reg Reg.DBG_ACCESS_COUNT + 1) % 2 ^ 32 ∧
        (bitOf (s.reg Reg.DBG_ACCESS_STATUS) 0 = false → t.fld Reg.DBG_ACCESS_STATUS 4 2 = 2 ∧
          t.fld Reg.DBG_ACCESS_STATUS 0 0 = 1 ∧
          t.reg Reg.DBG_ACCESS_ADDR = (o + be.toNat * 2 ^ 20) % 2 ^ 32) ∧
        (bitOf (s.reg Reg.DBG_ACCESS_STATUS) 0 = true → t.fld Reg.DBG_ACCESS_STATUS 1 1 = 1) ∧
        s.SameRegs t dbg ∧ t = { s with regs := t.regs })) ∧
    (s.reach p o = .full → ∀ (r : RegRow) (a b : Nat) (high : Bool), regAt o = some (r, a, b, high) →
      quiet o →
      (r.pair = false →
        (be.toNat = 15 →
          Does (.registerWrite p ofs be value) s fun t =>
            t.reg o = stored r false o value.toNat ∧ s.SameRegs t (o :: dbg) ∧ s.SameBytes t ∧
            (s.unlocked = true ∨ expertChange (dwordFields r false) (s.reg o) value.toNat = false →
              s.SameRegs t [o]) ∧
            (s.unlocked = false → expertChange (dwordFields r false) (s.reg o) value.toNat = true →
              s.ready = true →
              t.reg Reg.DBG_ACCESS_COUNT = (s.reg Reg.DBG_ACCESS_COUNT + 1) % 2 ^ 32)) ∧
        (be.toNat ≠ 15 → byteWritable o = false → s.ready = true →
          Does (.registerWrite p ofs be value) s fun t =>
            t.reg Reg.DBG_ACCESS_COUNT = (s.reg Reg.DBG_ACCESS_COUNT + 1) % 2 ^ 32 ∧
            (bitOf (s.reg Reg.DBG_ACCESS_STATUS) 0 = false → t.fld Reg.DBG_ACCESS_STATUS 4 2 = 1) ∧
            s.SameRegs t dbg ∧ t = { s with regs := t.regs })) ∧
      (r.pair = true → be.toNat = 15 →
        (high = false → Does (.pairLowWrite p ofs be value) s fun t =>
          (t.path p).stage = some (o, value) ∧ (t.path p).snap = (s.path p).snap ∧ t.regs = s.regs ∧
          s.SameBytes t) ∧
        (high = true → ∀ w : Word32, (s.path p).stage = some (o - 4, w) →
          Does (.pairHighWrite p ofs be value) s fun t =>
            t.reg (o - 4) = stored r false (o - 4) w.toNat ∧ t.reg o = stored r true o value.toNat ∧
            (t.path p).stage = none ∧ s.SameRegs t ([o - 4, o] ++ dbg) ∧ s.SameBytes t ∧
            ∀ q b x, (t.path q).snap = some (b, x) → b ≠ o - 4)))

/-- R503, R504: FE_RING_CTRL.EN. Set with a good set-up, the head becomes FE_RING_START, the counts of the
ring start at 0 and the status line is written; with a bad one CFG_ERR is set and the ring stays stopped.
Cleared, polling stops, the outstanding poll read and the entries that have arrived are discarded, but for the
one whose admission is in progress, and one more write of the status line is due. Setting EN while it is 1
starts nothing; what it does to the polling period is ADAPT's (R512). An entry still in its admission when EN
is set again is not read a second time (log entry 70). -/
def Obligations.RingEnableStartsAndStopsTheRing : Prop :=
  ∀ (s : State) (value : Word32), s.Canonical → s.reach .bar0 Reg.FE_RING_CTRL = .full →
    let was := bitOf (s.reg Reg.FE_RING_CTRL) 0
    let u := s.setFld Reg.FE_RING_CTRL 5 1 (bits value.toNat 5 1)
    (was = false → u.ringSetupOk = true → Does (.ringEnable value) s fun t =>
      bitOf (t.reg Reg.FE_RING_CTRL) 0 = true ∧ t.fld Reg.FE_RING_CTRL 5 1 = bits value.toNat 5 1 ∧
      t.reg Reg.FE_RING_HEAD = s.reg Reg.FE_RING_START ∧ t.ring.started = true ∧ t.ring.halted = false ∧
      t.ring.commits = 0 ∧ t.ring.errCount = 0 ∧ t.ring.lastErr = 0 ∧
      t.ring.arrived = (if s.frontBusy then s.ring.arrived.take 1 else []) ∧
      ((∀ x ∈ t.ring.arrived, x.1 ≠ s.reg Reg.FE_RING_START) →
        t.ring.readHead = s.reg Reg.FE_RING_START) ∧ t.ring.wseq = (s.ring.wseq + 1) % 2 ^ 32 ∧
      t.ring.lineAt = s.reg64 Reg.FE_STATUS_ADDR ∧
      (s.bme = true → s.resetPend = none → s.inD3 = false → ∃ l, l.length = 64 ∧
        t.out = s.out ++ s.tlps (.write (s.reg64 Reg.FE_STATUS_ADDR) false l))) ∧
    (was = false → u.ringSetupOk = false → Does (.ringEnable value) s fun t =>
      bitOf (t.reg Reg.FE_RING_CTRL) 0 = true ∧ t.ring.started = false ∧
      bitOf (t.reg Reg.FE_RING_STATUS) 3 = true ∧ t.reg Reg.FE_RING_HEAD = s.reg Reg.FE_RING_HEAD) ∧
    (was = true → Does (.ringEnable value) s fun t =>
      t.ring = { s.ring with adapt := t.ring.adapt, quiet := t.ring.quiet } ∧
      t.fld Reg.FE_RING_CTRL 5 0 = s.fld Reg.FE_RING_CTRL 5 0 ∧
      (bits value.toNat 5 1 ≠ s.fld Reg.FE_RING_CTRL 5 1 → bitOf (t.reg Reg.FE_RING_STATUS) 2 = true)) ∧
    (was = true → Does (.ringDisable value) s fun t =>
      bitOf (t.reg Reg.FE_RING_CTRL) 0 = false ∧ t.ring.started = false ∧ t.ring.pollOpen = false ∧
      t.ring.pollOut = false ∧ t.ring.reading = 0 ∧ t.ring.closing = s.ring.lineLive ∧
      t.ring.arrived = (if s.frontBusy then s.ring.arrived.take 1 else []) ∧
      t.entries = s.entries ∧ s.SameBytes t) ∧
    (was = false → Does (.ringDisable value) s fun t =>
      t.ring = { s.ring with adapt := t.ring.adapt, quiet := t.ring.quiet } ∧
      bitOf (t.reg Reg.FE_RING_CTRL) 0 = false)

/-- R150, R152, R666, R823, R832, R942: the registers whose writes are commands, written whole. The expert
key unlocks the session where the almanac permits it and otherwise sets DENIED; any other value locks it.
EN bits that rise on set STATUS bits request their vectors. START takes the self-test's inputs, and its end
writes the result, or sets ERR and leaves EPH_TEST_OUT for a reserved function. COMMIT starts to blow the
fuses. A recovery of a good image begins to write it into slot A; one without flash ends with 7, one not
needed or without DRAM with 2. A bit written again while
its command runs arms it anew. -/
def Obligations.CommandRegistersAct : Prop :=
  ∀ (s : State) (value : Word32), s.Canonical →
    (s.reach .bar0 Reg.FE_EXPERT_UNLOCK = .full →
      (value.toNat % 65536 = 0x5EA7 → bitOf (s.reg Reg.FE_EXPERT_STATUS) 0 = true →
        Does (.expertUnlockWrite 15 value) s fun t => t.unlocked = true ∧
          s.SameRegs t [Reg.FE_EXPERT_STATUS] ∧ s.SameBytes t) ∧
      (value.toNat % 65536 = 0x5EA7 → bitOf (s.reg Reg.FE_EXPERT_STATUS) 0 = false →
        Does (.expertUnlockWrite 15 value) s fun t => t.unlocked = s.unlocked ∧
          bitOf (t.reg Reg.FE_EXPERT_STATUS) 2 = true ∧ s.SameRegs t [Reg.FE_EXPERT_STATUS] ∧
          s.SameBytes t) ∧
      (value.toNat % 65536 ≠ 0x5EA7 →
        Does (.expertUnlockWrite 15 value) s fun t => t.unlocked = false ∧ s.SameBytes t)) ∧
    (s.reach .bar0 Reg.HI_NOTICE_EN = .full → Does (.noticeEnableWrite 15 value) s fun t =>
      t.reg Reg.HI_NOTICE_EN % 256 = value.toNat % 256 ∧ s.SameRegs t [Reg.HI_NOTICE_EN] ∧
      s.SameBytes t ∧
      (bitOf (s.cfgD 0x50) 31 = true → ∀ n, n < 8 → bitOf (s.reg Reg.HI_NOTICE_EN) n = false →
        bitOf value.toNat n = true → bitOf (s.reg Reg.HI_NOTICE_STATUS) n = true →
        s.noticeVec n ∈ t.msixReq) ∧
      ∀ v ∈ t.msixReq, v ∈ s.msixReq ∨ ∃ n, n < 8 ∧ v = s.noticeVec n ∧
        bitOf (s.reg Reg.HI_NOTICE_EN) n = false ∧ bitOf value.toNat n = true) ∧
    (s.reach .bar0 Reg.EPH_TEST_CTRL = .full → bitOf value.toNat 0 = true →
      Does (.ephSelftestStart 15 value) s fun t =>
        bitOf (t.reg Reg.EPH_TEST_CTRL) 0 = true ∧ s.SameRegs t [Reg.EPH_TEST_CTRL] ∧
        (s.ephRun = none → t.ephRun = some (bits value.toNat 3 1,
          BitVec.ofNat 64 (s.reg64 Reg.EPH_TEST_KEY), BitVec.ofNat 64 (s.reg64 Reg.EPH_TEST_IN))) ∧
        (s.ephRun.isSome = true → t.ephRun = s.ephRun ∧ 0 ∈ t.rearm)) ∧
    (∀ f k x, s.ephRun = some (f, k, x) → s.alive = true → 0 ∉ s.rearm →
      Does .ephSelftestDone s fun t =>
        t.ephRun = none ∧ bitOf (t.reg Reg.EPH_TEST_CTRL) 0 = false ∧
        s.SameRegs t [Reg.EPH_TEST_CTRL, Reg.EPH_TEST_OUT, Reg.EPH_TEST_OUT + 4] ∧
        (∀ v, ephSelfTest f k x = some v → t.reg64 Reg.EPH_TEST_OUT = v.toNat ∧
          bitOf (t.reg Reg.EPH_TEST_CTRL) 4 = false) ∧
        (ephSelfTest f k x = none → t.reg64 Reg.EPH_TEST_OUT = s.reg64 Reg.EPH_TEST_OUT ∧
          bitOf (t.reg Reg.EPH_TEST_CTRL) 4 = true)) ∧
    (s.reach .bar0 Reg.ALM_SVN_COMMIT = .full → bitOf value.toNat 0 = true →
      Does (.svnCommit 15 value) s fun t =>
        t.svnBusy = true ∧ bitOf (t.reg Reg.ALM_SVN_COMMIT) 0 = true ∧
        t.svnFloor = s.svnFloor ∧ s.SameRegs t [Reg.ALM_SVN_COMMIT] ∧
        (s.svnBusy = true → 2 ∈ t.rearm)) ∧
    (s.reach .bar0 Reg.ALM_RECOVERY = .full → bitOf value.toNat 0 = true →
      bitOf (s.reg Reg.ALM_RECOVERY) 0 = false → (∀ u, s.update = some u → u.kind ≠ .recovery) →
      (s.flash = none → Does (.recoveryStart 15 value) s fun t =>
        t.fld Reg.ALM_RECOVERY 8 1 = 7 ∧ bitOf (t.reg Reg.ALM_RECOVERY) 0 = false ∧
        s.SameRegs t [Reg.ALM_RECOVERY] ∧ s.SameBytes t) ∧
      (s.flash.isSome = true → bitOf (s.reg Reg.ALM_BOOT_STATUS) 8 = false ∨ s.dramCap = 0 →
        Does (.recoveryStart 15 value) s fun t =>
          t.fld Reg.ALM_RECOVERY 8 1 = 2 ∧ bitOf (t.reg Reg.ALM_RECOVERY) 0 = false ∧
          s.SameRegs t [Reg.ALM_RECOVERY] ∧ s.SameBytes t ∧ t.flash = s.flash) ∧
      ∀ f l, s.flash = some f → bitOf (s.reg Reg.ALM_BOOT_STATUS) 8 = true → s.dramCap ≠ 0 →
        s.update = none → s.placedImage.2 = some l → fwOk l s.svnFloor = true →
        Does (.recoveryStart 15 value) s fun t =>
          t.update = some ⟨.recovery, newFwSeq f,
            updateCmds (fwBase 1) (withSeq l (newFwSeq f)), 0, []⟩ ∧
          bitOf (t.reg Reg.ALM_RECOVERY) 0 = true ∧ bitOf (t.reg Reg.ALM_UPDATE) 0 = true ∧
          t.flash = s.flash ∧ s.SameBytes t)

/-- R710, R721, R735, R904 to R907: FAB_LINK_CTRL and PIN_MUX. EN set on a DISABLED port that was not
enabled takes it to DETECT; EN cleared, or RETRAIN written 1, on a port that is up sends GOODBYE and takes
the link down with cause 5 or 6; EN cleared on another port disables it. The port's other registers, and
every other port, are not affected. With the session unlocked, a permitted function other than the one in
force starts a switch of its pin, which holds its level; the one in force starts none; a function not
permitted is dropped and sets INVALID; one that would take a pin from PMBus at another operating point than
OP0 is dropped and sets REFUSED, and at OP0 waits for a PMBus transaction in progress; a write during a park
waits for its end. -/
def Obligations.LinkControlAndPinMuxWritesAct : Prop :=
  (∀ (s : State) (p : Fin 6) (value : Word32), s.Canonical →
    s.reach .bar0 (lk p Reg.FAB_LINK_CTRL) = .full →
    let was := bitOf (s.reg (lk p Reg.FAB_LINK_CTRL)) 0
    let down := fun (cause : Nat) (t : State) => t.linkSt p = 7 ∧
      t.fld (lk p Reg.FAB_LINK_DOWN_CAUSE) 2 0 = cause ∧
      (∃ l, (.frame p 5 l) ∈ t.out) ∧ ∀ q : Fin 6, q ≠ p → t.linkSt q = s.linkSt q
    (bitOf value.toNat 0 = true → was = false → s.linkSt p = 0 →
      Does (.linkEnableWrite p 15 value) s fun t => t.linkSt p = 1 ∧
        bitOf (t.reg (lk p Reg.FAB_LINK_CTRL)) 0 = true ∧ s.SameBytes t ∧
        ∀ q : Fin 6, q ≠ p → t.linkSt q = s.linkSt q) ∧
    (bitOf value.toNat 0 = false → s.linkUp p = true →
      Does (.linkDisableWrite p 15 value) s (down 5)) ∧
    (bitOf value.toNat 0 = false → s.linkUp p = false → was = true → s.linkSt p ≠ 7 →
      Does (.linkDisableWrite p 15 value) s fun t => t.linkSt p = 0 ∧ (t.port p).retry = [] ∧
        bitOf (t.reg (lk p Reg.FAB_LINK_CTRL)) 0 = false ∧ s.SameBytes t) ∧
    (bitOf value.toNat 0 = true → bitOf value.toNat 1 = true → s.linkUp p = true →
      Does (.linkRetrainWrite p 15 value) s (down 6))) ∧
  ∀ (s : State) (pin : Fin 12) (value : Word32), s.Canonical →
    s.reach .bar0 (muxReg pin) = .full →
    let f := value.toNat % 16
    let write := Instr.pinMuxWrite pin 15 value
    (s.unlocked = false → Does write s fun t => t.mux pin = s.mux pin ∧ t.parks = s.parks ∧
      t.muxWait = s.muxWait) ∧
    (s.unlocked = true →
      (funcOk pin f = false → Does write s fun t =>
        bitOf (t.reg Reg.PIN_STATUS) 17 = true ∧ t.mux pin = s.mux pin ∧ t.parks = s.parks ∧
        s.SameRegs t [Reg.PIN_STATUS]) ∧
      (funcOk pin f = true → s.park pin = none →
        (f = s.mux pin → Does write s fun t => t.mux pin = f ∧ t.parks = s.parks ∧ s.SameRegs t []) ∧
        (f ≠ s.mux pin → pmbFunc pin ≠ some (s.mux pin) ∨
            (s.op = 0 ∧ s.fld Reg.PWR_OP 9 9 = 0 ∧ s.pwr.pmb = none) → Does write s fun t =>
          t.mux pin = f ∧ bitOf (t.reg Reg.PIN_STATUS) pin = true ∧
          t.park pin = some ⟨s.mux pin, s.pinLevel pin, none⟩ ∧ t.pinLevel pin = s.pinLevel pin ∧
          s.SameRegs t [Reg.PIN_STATUS, muxReg pin]) ∧
        (f ≠ s.mux pin → pmbFunc pin = some (s.mux pin) → s.op ≠ 0 ∨ s.fld Reg.PWR_OP 9 9 ≠ 0 →
          Does write s fun t => bitOf (t.reg Reg.PIN_STATUS) 16 = true ∧ t.mux pin = s.mux pin ∧
            t.parks = s.parks ∧ s.SameRegs t [Reg.PIN_STATUS]) ∧
        (f ≠ s.mux pin → pmbFunc pin = some (s.mux pin) → s.op = 0 → s.fld Reg.PWR_OP 9 9 = 0 →
          s.pwr.pmb.isSome = true → Does write s fun t => t.muxWait = some (pin.val, f) ∧
            t.mux pin = s.mux pin ∧ t.parks = s.parks ∧ s.SameRegs t [])) ∧
      (∀ k, funcOk pin f = true → s.park pin = some k → Does write s fun t =>
        t.park pin = some { k with next := some f } ∧ t.mux pin = s.mux pin ∧ s.SameRegs t []))

/-! ### Slots, waits, faults and context (chapters 11 and 13) -/

/-- R397, R529, R531, R581, R582, R616: slots and commits. SLOT_MAP considers every RUNNABLE stream; each one
with a free slot and the counters it needs takes the lowest-numbered free slot with MAP_SEQ as its last
mapping, its lanes as prefetch has staged them, and without either it is left as it is; a restored target
that has waited for its tiles goes on first (R639). A launch binds its next segment, at most two ahead, and goes
on with the next one in its slot when the lanes of the last have finished, every counter at 0. The head of a
stream commits when it has finished: its signals are issued, it leaves its stream, its slot is free and
COMMITS rises by one. -/
def Obligations.SlotsAreMappedAndEntriesCommit : Prop :=
  ∀ (s : State) (v : View) (st : Fin 512), s.Canonical → s.running = true →
    let u := (upto 8).foldl (fun w n => w.loadOne v n) s
    (exec (.slotMap v) s = .next (u.candidates.foldl (fun w n => w.mapOne v n) u) ∧
      (s.entries.all (fun e => e.restored.isNone) = true → u = s) ∧
      ∀ n, n ∈ s.candidates ↔ n ∈ s.runnable) ∧
    (∀ (m n : Nat) (e : Entry), s.head? m = some e →
      (s.freeSlot = none ∨ s.toksFree (entryToks e) = false → s.mapOne v m = s) ∧
      ∀ b, s.freeSlot = some n → s.toksFree (entryToks e) = true → e.restored = none →
        e.buf = some b →
        let t := s.mapOne v m
        t.slot? n = some ⟨e.stream, e.idx, b.present.map (fun k =>
          (e.staged.find? fun x => x.1 == k).getD (b.newLane k)), none, none⟩ ∧
        t.mapSeq = (s.mapSeq + 1) % 2 ^ 64 ∧ (t.stream e.stream).lastMap = s.mapSeq ∧
        ∀ k, k ≠ n → t.slot? k = s.slot? k) ∧
    (∀ (h e : Entry) (n : Nat) (x : ExecSlot) (l : Launch), s.head? st = some h →
      s.slotOf h.idx = some n → s.launchIn n = some (x, e, l) → s.slotHalted x = false →
      e.restored = none →
      let seg := l.seg + 1 + l.ahead.length
      seg < l.nseg → l.ahead.length < 2 →
      (∀ w b l', s.bindSeg v e l seg (fun _ => none) = .done w b l' →
        exec (.segmentBind st v) s = .next (w.setEntry { e with
          kind := .launch { l' with ahead := l'.ahead ++ [b] } })) ∧
      ∀ w f, s.bindSeg v e l seg (fun _ => none) = .fault w f →
        exec (.segmentBind st v) s = .next (w.raise e.idx f)) ∧
    (∀ (n : Fin 8) (x : ExecSlot) (e : Entry) (l : Launch) (b nb : BufInfo) (rest : List BufInfo),
      s.launchIn n = some (x, e, l) → e.buf = some b → l.ahead = nb :: rest → s.bufDone n x b = true →
      Does (.segmentAdvance n) s fun t =>
        t.entry? e.idx = some { e with
          kind := .launch { l with seg := l.seg + 1, ahead := rest }, buf := some nb } ∧
        t.slot? n = some { x with lanes := nb.present.map nb.newLane } ∧
        (∀ y ∈ t.toks, y.2.alloc = true → y.2.slot = n.val → y.2.value = 0) ∧ t.regs = s.regs ∧
        s.SameBytes t) ∧
    (∀ e : Entry, s.head? st = some e → s.faulted e.idx = false →
      (s.slotOf e.idx = none → e.ready = true →
        (e.kind = .waitOnly ∨ e.kind = .signalOnly ∨ (∃ i a c g, e.kind = .save i a c none g true) ∨
            (∃ i b l, e.kind = .restore i b l ∧ leAt l 3 1 ≠ 1) →
          exec (.commit st) s = .next (s.endCommitted e)) ∧
        ∀ i a c g, e.kind = .save i a c none g false →
          exec (.commit st) s = .next ((s.ownWrite i (s.boundaryImage e c g)).1.endCommitted e)) ∧
      (∀ n x b, s.slotOf e.idx = some n → s.slot? n = some x → e.buf = some b →
        (∀ l, e.kind = .launch l → l.seg + 1 = l.nseg) → s.bufDone n x b = true →
        exec (.commit st) s = .next (s.endCommitted e)) ∧
      let t := s.endCommitted e
      (∀ x ∈ t.entries, x.idx ≠ e.idx) ∧ t.ring.commits = (s.ring.commits + 1) % 2 ^ 64 ∧
      SMap.get State.pastD t.past e.idx = some (e.stream, true) ∧
      ∀ n, s.slotOf e.idx = some n → t.slot? n = none)

/-- R533, R537, R538, R547: the events that meet waits. NOT_BEFORE is met once fabric time has reached it; a
watch reads its local pennant again; a host pennant that comes back meets every active wait on it whose
target its low 63 bits have reached, and a poisoned one raises PENNANT_POISON in the entries that do not
tolerate it; one whose read fails is logged and counts as not read. A prefetch takes a buffer into staging
once, a failed read of it being a fault of its entry (R663), and changes no byte of memory, no slot, no
operation, no counter and no stream. -/
def Obligations.WaitsAreMetByWhatIsRead : Prop :=
  ∀ (s : State) (st : Fin 512) (uda : BitVec 48) (word : Word64), s.Canonical → s.running = true →
    let u := uda.toNat
    (∀ (e : Entry) (time : Nat), s.head? st = some e → e.notBefore = some time →
      (e.active = true → time ≤ s.ns → Does (.notBeforeReached st) s fun t =>
        t = s.setEntry { e with due := true }) ∧
      (s.ns < time → exec (.notBeforeReached st) s = .next s)) ∧
    (isLocal u = true → s.watched u = true →
      (s.addrOk true u 8 = true → s.EccFree u 8 → exec (.watchReread uda) s =
        .next (s.observe u (s.rawWord u) fun w => w)) ∧
      (s.addrOk true u 8 = false →
        exec (.watchReread uda) s = .next (s.waitFault u (fun w => w) .addrInvalid))) ∧
    ((∃ x ∈ s.ring.penReads, x.1 = u) →
      (∀ x, s.noTimeout (some x) = false → Does (.hostPennantReadReturn uda word (some x)) s fun t =>
        (∀ x ∈ t.ring.penReads, x.1 ≠ u) ∧ t.entries = s.entries ∧ t.slots = s.slots ∧
        t.reg Reg.HI_HOST_ERR = (s.reg Reg.HI_HOST_ERR + 1) % 2 ^ 32 ∧
        t.fld Reg.HI_HOST_LOG 2 0 = readStatus x ∧ s.SameBytes t) ∧
      (s.pennantLanes u = [] → s.entries.Pairwise (fun a b => a.idx ≠ b.idx) →
        Does (.hostPennantReadReturn uda word none) s fun t =>
          (∀ x ∈ t.ring.penReads, x.1 ≠ u) ∧
          t.entries = s.entries.map (fun e => if e.active && !s.faulted e.idx then
              { e with waits := e.waits.map fun w =>
                  if waitSees u word.toNat (fun _ => true) w then { w with met := true, watch := false }
                  else w }
            else e) ∧
          (∀ e ∈ s.entries, e.active = true → s.faulted e.idx = false → e.tolerate = false →
            bitOf word.toNat 63 = true → e.waits.any (waitSees u word.toNat fun _ => true) = true →
            ∃ f, (e.idx, f) ∈ t.faults ∧ f.code = .pennantPoison) ∧
          (bitOf word.toNat 63 = false → t.faults = s.faults) ∧ t.slots = s.slots ∧ s.SameBytes t)) ∧
    (∀ v : View,
      exec (.prefetch st v) s = .next ((s.prefetchOf st).foldl (fun w e => w.prefetchBuf v e) s)) ∧
    ∀ (v : View) (e : Entry) (b : BufInfo), s.entry? e.idx = some e → e.buf = some b →
      (e.prefetched = true ∨ e.fault.isSome = true ∨ s.faulted e.idx = true → s.prefetchBuf v e = s) ∧
      (e.prefetched = false → e.fault = none → s.faulted e.idx = false →
        let t := s.prefetchBuf v e
        (∃ f l, t.entry? e.idx = some { e with prefetched := true, staged := l, fault := f }) ∧
        s.SameBytes t ∧ t.slots = s.slots ∧ t.ops = s.ops ∧ t.toks = s.toks ∧ t.streams = s.streams)

/-- R600, R602, R604, R613, R615, R622 to R624: faults and cuts. The first fault raised whose response is
Contain stops its entry: nothing of it stays in the queues, and no lane goes on; once it is quiet, or at once
where it holds no slot, it is recorded and ends with its signals poisoned, its stream ISOLATED and the fault
notice raised. A response of Reset, and an internal fault, write the record and begin the reset, which
changes no byte of memory but where an operation that has begun, or a cut that is being written, leaves its
bytes undefined (R253, R638). A cut is
taken when every lane has stopped at the CHECKPOINT or finished and nothing of the slot is in progress: the
image and then the state area are written; CHECKPOINTs that differ raise CUT_MISMATCH. Once they are written
the target goes on, or vacates its slot. -/
def Obligations.FaultsStopAndCutsSave : Prop :=
  ∀ (s : State) (v : View) (st : Fin 512), s.Canonical → s.running = true →
    let tame := (∀ o ∈ s.ops, o.begun = false) ∧
      ∀ m k, s.cut? m = some k → k.x.cutting ≠ some k.save.idx
    (∀ (idx : Nat) (f : FaultInfo) (rest : List (Nat × FaultInfo)) (e : Entry),
      s.faults = (idx, f) :: rest → s.entry? idx = some e →
      (f.reset = true → Does (.streamFault v) s fun t =>
        t.resetPend = some .fault ∧ t.held = [] ∧ t.ring.faultSeq = (s.ring.faultSeq + 1) % 2 ^ 32 ∧
        t.reg Reg.FE_RESET_COUNT = (s.reg Reg.FE_RESET_COUNT + 1) % 2 ^ 32 ∧ (tame → s.SameBytes t)) ∧
      (f.reset = false → s.slotOf idx = none →
        exec (.streamFault v) s = .next ((s.dropFault idx).contain e f [] (s.entryWaitAge e)
          (s.dumpBytes e f.lane))) ∧
      ∀ (n : Nat) (x : ExecSlot), f.reset = false → s.slotOf idx = some n → s.slot? n = some x →
        x.stop = none → Does (.streamFault v) s fun t =>
          (∀ o ∈ t.ops, o.slot ≠ n) ∧ t.faults = s.faults.filter (fun y => y.1 != idx) ∧
          ∃ y why, t.slot? n = some y ∧ y.stop = some why ∧ y.entry = x.entry ∧
            ∀ l ∈ y.lanes, l.2.block = none) ∧
    (∀ (e : Entry) (f : FaultInfo) (eng : List Nat) (age : Nat) (dump : List Byte),
      (s.stream e.stream).destroy = none →
      let t := s.contain e f eng age dump
      (∀ x ∈ t.entries, x.idx ≠ e.idx) ∧ (t.stream e.stream).isolated = true ∧
      bitOf (t.reg Reg.HI_NOTICE_STATUS) 0 = true ∧
      SMap.get State.pastD t.past e.idx = some (e.stream, false)) ∧
    (∀ (n : Nat) (x : ExecSlot) (e : Entry), s.slotOfStream st = some (n, x) →
      s.entry? x.entry = some e → s.quiet n = true →
      (x.stop = some .abort →
        exec (.entryQuiesced st) s = .next ((s.endAborted e false).afterEntry e.stream)) ∧
      ∀ f eng age dump, x.stop = some (.fault f eng age dump) →
        exec (.entryQuiesced st) s = .next (s.contain e f eng age dump)) ∧
    (Does .deviceInternalFault s fun t =>
      t.resetPend = some .fault ∧ t.held = [] ∧
      t.reg Reg.FE_FAULT_COUNT = (s.reg Reg.FE_FAULT_COUNT + 1) % 2 ^ 32 ∧
      t.reg Reg.FE_RESET_COUNT = (s.reg Reg.FE_RESET_COUNT + 1) % 2 ^ 32 ∧
      t.ring.faultSeq = (s.ring.faultSeq + 1) % 2 ^ 32 ∧ (tame → s.SameBytes t)) ∧
    ∀ c : Cut, s.cut? st = some c → s.slotHalted c.x = false →
      (∀ (cp lanes : Nat) (more : List (Nat × Nat)), c.x.cutting = none →
        c.x.stopped = (cp, lanes) :: more →
        ((∃ y ∈ more, y ≠ (cp, lanes)) → Does (.cutTaken st) s fun t =>
          t = s.raise c.e.idx (s.plainFault .cutMismatch 0)) ∧
        ∀ w l, (∀ y ∈ more, y = (cp, lanes)) → s.cutReady c lanes = true →
          s.stateArea c.x c.e c.b (bitOf c.cflags 2) = (w, some l) →
          exec (.cutTaken st) s = .next (((w.ownWrite c.image
            (w.cutImage c.slot c.e c.b c.save.stream c.area c.cflags cp lanes c.gen l)).1.ownWrite c.area
              l).1.setSlot c.slot (some { c.x with cutting := some c.save.idx }))) ∧
      (c.x.cutting = some c.save.idx → s.held = [] ∨ s.bme = true →
        let w := s.setSlot c.slot (some { c.x with cutting := none })
        (bitOf c.cflags 1 = true → exec (.contextImageWritten st) s = .next
          (((w.dropEntry c.e false).setStream c.e.stream
            { (w.dropEntry c.e false).stream c.e.stream with isolated := true }).endCommitted c.save)) ∧
        (bitOf c.cflags 1 = false → Does (.contextImageWritten st) s fun t =>
          (∃ y ∈ t.entries, y.idx = c.save.idx ∧
            y.kind = .save c.image c.area c.cflags (some c.e.idx) c.gen true) ∧
          ∃ y, t.slot? c.slot = some y ∧ y.cutting = none ∧ y.entry = c.x.entry))

/-- R611, R650, R663: progress and the host reads that fail. A sample compares the four counters of every
slot with the last; a slot that is empty, exempt or changed starts its run of still samples at 0, another adds
one, and HANG is raised when the run reaches HANG_WINDOW. A host read that fails counts in HI_HOST_ERR and is
logged: for the ring it sets READ_ERR and halts admission, a pennant is read again at the next poll, and a
buffer's read faults its entry, at once or as it becomes head. A fault record whose writes end in error counts
in FE_FAULT_LOST (R634). A successful completion comes with the step that uses its data,
and Completion Timeout Disable keeps reads waiting. -/
def Obligations.SamplesAndFailedReadsActAsStated : Prop :=
  ∀ s : State, s.Canonical → s.running = true →
    (Does .progressSample s fun t => s.SameRegs t [Reg.FE_HANG_COUNT, Reg.FE_FAULT_COUNT] ∧
      s.SameBytes t ∧ ∀ n, n < 8 →
        let p := s.progOf n
        let cur := [p.ops, p.cyc, p.bytes, p.tokens]
        (s.slot? n = none → t.progOf n = { p with last := cur, still := 0 }) ∧
        ∀ x, s.slot? n = some x →
          (p.last ≠ cur ∨ x.exempt = true → t.progOf n = { p with last := cur, still := 0 }) ∧
          (p.last = cur → x.exempt = false →
            t.progOf n = { p with last := cur, still := p.still + 1 } ∧
            (p.still + 1 = s.hangWindow → s.slotHalted x = false →
              ∃ f, (x.entry, f) ∈ t.faults ∧ f.code = .hang))) ∧
    (∀ (i : HostIssuer), i ≠ .record → exec (.hostReadCompletion i .success) s = .next s) ∧
    (∀ c, (s.ring.records = 0 → exec (.hostReadCompletion .record c) s = .next s) ∧
      (s.ring.records ≠ 0 → Does (.hostReadCompletion .record c) s fun t =>
        t.ring = { s.ring with records := s.ring.records - 1 } ∧ t = { s with ring := t.ring, regs := t.regs } ∧
        s.SameRegs t [Reg.FE_FAULT_LOST] ∧ t.reg Reg.FE_FAULT_LOST =
          (s.reg Reg.FE_FAULT_LOST + (if cplFail c = none then 0 else 1)) % 2 ^ 32)) ∧
    (bitOf (s.cfgD 0x98) 4 = true → ∀ i, exec (.completionTimeout i) s = .next s) ∧
    ∀ (i : Instr) (who : HostIssuer) (x : ReadFail),
      (∃ c, cplFail c = some x ∧ i = .hostReadCompletion who c) ∨
        (x = .timeout ∧ i = .completionTimeout who ∧ bitOf (s.cfgD 0x98) 4 = false) →
      let logged := fun t : State => t.reg Reg.HI_HOST_ERR = (s.reg Reg.HI_HOST_ERR + 1) % 2 ^ 32 ∧
        t.fld Reg.HI_HOST_LOG 2 0 = readStatus x ∧ s.SameBytes t
      (who ≠ .record → exec i s = .next (s.ringEdge (s.readFails who x)).flushHeld) ∧
      (who = .doorbell → s.ring.pollOut = true → Does i s fun t => logged t ∧
        t.ring.pollOut = false ∧ t.ring.halted = true ∧ bitOf (t.reg Reg.FE_RING_STATUS) 5 = true) ∧
      (who = .entry → s.ring.reading ≠ 0 → Does i s fun t => logged t ∧
        t.ring.reading = 0 ∧ t.ring.halted = true ∧ bitOf (t.reg Reg.FE_RING_STATUS) 5 = true) ∧
      (∀ uda, who = .pennant uda → (∃ y ∈ s.ring.penReads, y.1 = uda.toNat) → Does i s fun t =>
        logged t ∧ (∀ y ∈ t.ring.penReads, y.1 ≠ uda.toNat) ∧ t.entries = s.entries) ∧
      ∀ st uda w e, who = .buffer st uda w → s.front .submit = none →
        s.bufferEntry st uda.toNat = some e → s.slotOf e.idx = none → s.entry? e.idx = some e →
        Does i s fun t => logged t ∧
          (e.active = true → ∃ f, (e.idx, f) ∈ t.faults ∧ f.code = readFault x ∧ f.addr = uda.toNat) ∧
          (e.active = false → ∃ f, t.entry? e.idx = some { e with fault := some f } ∧
            (e.fault = none → f.code = readFault x ∧ f.addr = uda.toNat))

/-! ### The sequencers (chapters 8 to 10) -/

/-- R370, R395, R406, R415, R417, R452, R453: how a lane's next operation is taken, for the row of every
operation. G0 relocates it ahead: it joins those relocated, behind the lane's others, or, where a read or a
check of it fails, faults its entry there. Issue takes the first of those; with none it has the next one
relocated first. A lane that is not ready issues nothing; a word of another row is left to that row. One of a
unit queue is put at the end of the queued operations with the registers as they stand, and the lane goes on
behind it; without room in its queue the lane waits. -/
def Obligations.OperationsAreFetchedAndIssued : Prop :=
  (∀ (s : State) (i : Instr) (slot : Fin 8) (node : Fin 9) (v : View) (row : Nat → Bool),
    aheadRow i = some (slot, node, v, row) →
    (s.laneAhead slot node = none → exec i s = .next s) ∧
    ∀ (x : ExecSlot) (e : Entry) (b : BufInfo) (l : Lane), s.laneAhead slot node = some (x, e, b, l) →
      s.Canonical →
      let q := (Ctx.start s v []).relocNext (s.opEnv e b node) l row
      (q = .none → exec i s = .next s) ∧
      (∀ c ofs er, q = .unread c ofs er → exec i s = .next
        (c.s.raise x.entry (c.s.opFault er node ofs 0 l.cp 0))) ∧
      (∀ c ofs w drs er, q = .fault c ofs w drs er → Does i s fun t => row w = true ∧
        (l.ahead = [] → ofs = l.pc → (t.slot? slot).bind (fun y => y.lane? node) = some { l with drs := drs }) ∧
        (l.ahead ≠ [] → t = c.s.raise x.entry (c.s.opFault er node ofs 0 l.cp w))) ∧
      ∀ c k, q = .ok c k → Does i s fun t => t = { c.s with slots := t.slots } ∧
        (t.slot? slot).bind (fun y => y.lane? node) = some k ∧
        ∃ r, k = { l with piece := k.piece, ahead := l.ahead ++ [r] } ∧ row r.word = true ∧ r.ofs = l.rel.1) ∧
  ∀ (s : State) (i : Instr) (slot : Fin 8) (node : Fin 9) (v : View) (row : Nat → Bool),
    laneRow i = some (slot, node, v, row) →
    (s.laneReady slot node = none → (∀ n c w, i ≠ .checkpoint n c (.issue w)) → exec i s = .next s) ∧
    (∀ f, s.laneReady slot node = some f → f.l.ahead = [] →
      let u := s.relocate slot node v row
      ((∀ g, u.laneReady slot node = some g → g.l.ahead = []) → exec i s = .next u) ∧
      (∀ g, u.laneReady slot node = some g → g.l.ahead ≠ [] → exec i s = exec i u)) ∧
    ∀ (f : Fetch) (drs : SMap (Option DReg)) (u : Nat), s.Fetches slot node f drs u →
      (row f.w = false → exec i s = .next s) ∧
      ∀ q, (unitWords i).isSome = true → row f.w = true → opUnit f.w = some q → s.Canonical →
        let o := newOp slot node f.l.pc f.w q drs u
        (s.hasRoom o = false → Does i s fun t => t = { s with slots := t.slots } ∧ ∀ x l,
          s.slot? slot = some x → x.lane? node = some l → t.LaneIs f { l with block := some .room }) ∧
        (s.hasRoom o = true → Does i s fun t => t.ops = s.ops ++ [o] ∧
          t.LaneIs f { f.l with pc := f.l.pc + 32, drs := drs, block := none } ∧
          t = { s with slots := t.slots, ops := t.ops })

/-- R354, R404, R405, R430, R452, R485, R488, R492: the operations that complete at their issue. NOP (and
SEED_SET), TENSOR_DESC, and CHECKPOINT while no save is pending, go on at once; TOKEN_POST and PENNANT_SIGNAL
once every earlier operation of the lane has completed. A signal stores its value, or under MAX the larger
of it and the pennant with poison kept; one to the host is a posted write; one to a remote device blocks the
lane until it is answered. A CHECKPOINT with a save pending stops its lane, which goes on once none is. -/
def Obligations.LaneOperationsComplete : Prop :=
  ∀ (s : State) (slot : Fin 8) (node : Fin 9) (v : View) (f : Fetch)
    (drs : SMap (Option DReg)) (u : Nat), s.Fetches slot node f drs u → s.Canonical →
    let goes := fun (i : Instr) => Does i s fun t => s.LaneGoesOn t f drs ∧ t.regs = s.regs ∧
      t.entries = s.entries ∧ t.toks = s.toks ∧ s.SameBytes t
    let ready := s.laneIdle slot node = true
    let value := bits f.w 190 128
    (opCode f.w = 0x00 ∨ opCode f.w = 0x08 → goes (.nop slot node (.issue v))) ∧
    (opCode f.w = 0x01 → goes (.tensorDesc slot node (.issue v))) ∧
    (opCode f.w = 0x0B → (ready → goes (.tokenPost slot node (.issue v))) ∧
      (s.laneIdle slot node = false → exec (.tokenPost slot node (.issue v)) s = .next s)) ∧
    (opCode f.w = 0x0F →
      (s.cutPending f.x.entry = false → Does (.checkpoint slot node (.issue v)) s fun t => s.LaneGoesOn t
        { f with l := { f.l with cp := bits f.w 79 64 } } drs) ∧
      (s.cutPending f.x.entry = true → Does (.checkpoint slot node (.issue v)) s fun t =>
        t.LaneIs f { f.l with
          cp := bits f.w 79 64, drs := drs, word := f.w,
          block := some (.checkpoint (bits f.w 79 64) (bits f.w 88 80)) } ∧
        t = { s with slots := t.slots })) ∧
    (opCode f.w = 0x0D → ready → isLocal u = true → s.addrOk true u 8 = true → s.EccFree u 8 →
      (bitOf f.w 191 = false → Does (.pennantSignalWrite slot node (.issue v)) s fun t =>
        s.LaneGoesOn t f drs ∧ s.StoresOnly t u (leBytes 8 value)) ∧
      (bitOf f.w 191 = true → Does (.pennantSignalMax slot node (.issue v)) s fun t =>
        s.LaneGoesOn t f drs ∧ s.StoresOnly t u (leBytes 8
          (max (s.rawWord u % 2 ^ 63) value + 2 ^ 63 * b2n (bitOf (s.rawWord u) 63))))) ∧
    (opCode f.w = 0x0D → ready → regionOf u = .host → s.bme = true → s.inD3 = false →
      s.addrOk true u 8 = true → bitOf f.w 191 = false →
      Does (.pennantSignalWrite slot node (.issue v)) s fun t => s.LaneGoesOn t f drs ∧
        t.out = s.out ++ s.tlps (.write (s.iova u) false (leBytes 8 value)) ∧ s.SameBytes t) ∧
    (opCode f.w = 0x0D → ready → regionOf u = .remote → s.remoteOk u = some true →
      ∀ i, (i = .pennantSignalWrite slot node (.issue v) ∧ bitOf f.w 191 = false) ∨
        (i = .pennantSignalMax slot node (.issue v) ∧ bitOf f.w 191 = true) →
        Does i s fun t =>
          t.LaneIs f { f.l with drs := drs, word := f.w, block := some (.signal u) } ∧
          ∃ r ∈ t.rmt, r.use = .laneSignal slot node ∧ r.uda = u ∧ r.data = leBytes 8 value) ∧
    ∀ (t : State) (x : ExecSlot) (l : Lane) (cp lanes : Nat), t.Canonical → t.running = true →
      t.slot? slot = some x → x.lane? node = some l → l.block = some (.checkpoint cp lanes) →
      t.laneHalted x node = false → x.cutting = none → t.cutPending x.entry = false →
      Does (.checkpoint slot node (.issue v)) t fun w =>
        (w.slot? slot).bind (fun y => y.lane? node) = some { l with pc := l.pc + 32, block := none }

/-- R354 to R363, R427, R431, R493, R537, R538: waits, completions and posts. TOKEN_WAIT, and BARRIER after
its posts, take their amount from the counter once no queued operation waits on it first, and block the lane
until the counter allows it, which satisfies one wait in a cycle; PENNANT_WAIT blocks until its pennant reaches
the target. A repetition whose accesses are all performed counts, makes its post, and gives way to the next
repetition, or leaves its queue. A post adds to its counter, or raises TOKEN_OVERFLOW where it would pass
65,535. -/
def Obligations.WaitsPostsAndCompletionsAct : Prop :=
  (∀ (s : State) (slot : Fin 8) (node : Fin 9) (v : View) (f : Fetch)
    (drs : SMap (Option DReg)) (u : Nat), s.Fetches slot node f drs u → s.Canonical →
    let blocked := fun (t : State) (b : Block) =>
      t.LaneIs f { f.l with drs := drs, word := f.w, block := some b }
    let passed := fun (t : State) =>
      t.LaneIs f { f.l with pc := f.l.pc + 32, drs := drs, word := f.w, block := none }
    let serves := fun (tok : Nat) => ∃ i, s.tokAt slot node tok = some i ∧
      (SMap.get State.tokD s.toks (64 * node + i)).served ≠ s.cycle + 1
    (opCode f.w = 0x0C →
      let tok := waitTok f.w
      let n := waitN f.w
      (∀ o ∈ s.ops, o.waits slot node tok = false) →
      (s.tokVal slot node tok < n → Does (.tokenWait slot node (.issue v)) s fun t =>
        blocked t (.token tok n) ∧ t = { s with slots := t.slots }) ∧
      (n ≤ s.tokVal slot node tok → serves tok → Does (.tokenWait slot node (.issue v)) s fun t =>
        passed t ∧ t.tokVal slot node tok = s.tokVal slot node tok - n)) ∧
    (opCode f.w = 0x0E → isLocal u = true → s.addrOk true u 8 = true → s.EccFree u 8 →
      bitOf (s.rawWord u) 63 = false → (f.x.lanes.map (·.1)).Nodup →
      (s.rawWord u % 2 ^ 63 < bits f.w 190 128 → Does (.pennantWait slot node (.issue v)) s fun t =>
        ∃ watch, blocked t (.pennant u (bits f.w 190 128) (bitOf f.w 191) s.ns watch)) ∧
      (bits f.w 190 128 ≤ s.rawWord u % 2 ^ 63 → Does (.pennantWait slot node (.issue v)) s passed)) ∧
    (opCode f.w = 0x0E → regionOf u = .host → s.bme = true → s.inD3 = false →
      s.tagFree (.read (s.iova u) 8) = true →
      (∀ x ∈ s.ring.penReads, x.1 ≠ u) → Does (.pennantWait slot node (.issue v)) s fun t =>
        blocked t (.pennant u (bits f.w 190 128) (bitOf f.w 191) s.ns false) ∧
        t.out = s.out ++ s.tlps (.read (s.iova u) 8) ∧ (u, false) ∈ t.ring.penReads) ∧
    (opCode f.w = 0x10 → s.laneIdle slot node = true →
      let tok := bits f.w 69 64
      let nodes := (upto 9).filter fun n => bitOf (bits f.w 88 80) n
      let made := s.posts ++ (nodes.filter fun n => n != node.val).map fun n =>
        ⟨slot, node, n, tok, 1, f.l.pc, f.w, 0⟩
      (s.tokVal slot node tok < nodes.length - 1 → Does (.barrier slot node (.issue v)) s fun t =>
        blocked t (.token tok (nodes.length - 1)) ∧ t.posts = made) ∧
      (nodes.length - 1 ≤ s.tokVal slot node tok → serves tok → postEn f.w = false →
        Does (.barrier slot node (.issue v)) s fun t => passed t ∧ t.posts = made ∧
          t.tokVal slot node tok = s.tokVal slot node tok - (nodes.length - 1)))) ∧
  (∀ (s : State) (slot : Fin 8) (node : Fin 9) (ofs : Nat) (o : OpRec) (x : ExecSlot), s.Canonical →
    s.opAt slot node ofs = some o → s.slot? slot = some x → s.running = true →
    s.laneHalted x node = false → o.issued = true → s.opQuiet o = true → o.after = [] →
    Does (.opComplete slot node ofs) s fun t =>
      (t.progOf slot).ops = ((s.progOf slot).ops + 1) % 2 ^ 48 ∧
      t.posts = s.posts ++ (if postEn o.word then
        [⟨slot, node, postNode o.word, postTok o.word, postN o.word, ofs, o.word, o.rep⟩] else []) ∧
      (o.rep < opRepeat o.word → t.opAt slot node ofs = some { o with
        rep := o.rep + 1, waited := false, begun := false, issued := false, hostWait := false, owed := 0,
        mat := none, fetched := [] }) ∧
      (opRepeat o.word ≤ o.rep → t.ops = s.ops.filter fun y => !y.same o) ∧
      t.regs = s.regs ∧ s.SameBytes t) ∧
  ∀ (s : State) (slot : Fin 8) (node : Fin 9) (tok : Fin 64) (srcs : List (Fin 9)) (p : Post)
    (rest : List Post) (x : ExecSlot), s.Canonical → s.running = true → s.slot? slot = some x →
    takePosts slot node tok ((upto 9).filter fun n => srcs.any fun y => y.val == n) s.posts
      = ([p], rest) →
    (x.stop.isSome = true → exec (.postApply slot node tok srcs) s = .next { s with posts := rest }) ∧
    (s.slotHalted x = false → (s.tokAt slot node tok).isSome = true →
      (∀ o ∈ s.ops, o.waits slot node tok = false) →
      (∀ l, x.lane? node = some l → ∀ n, l.block ≠ some (.token tok n)) →
      (s.tokVal slot node tok + p.n ≤ 65535 → Does (.postApply slot node tok srcs) s fun t =>
        t.tokVal slot node tok = s.tokVal slot node tok + p.n ∧ t.posts = rest ∧
        t.slots = s.slots ∧ t.faults = s.faults) ∧
      (65535 < s.tokVal slot node tok + p.n → Does (.postApply slot node tok srcs) s fun t =>
        t.posts = rest ∧ t.toks = s.toks ∧ ∃ f, (x.entry, f) ∈ t.faults ∧ f.code = .tokenOverflow))

/-! ### The units (chapters 5 to 9) -/

/-- R355, R360, R363, R424, R453: the repetition at the head of its queue, its wait satisfied and its tiles
open, is performed, for the row of every operation that is one body of accesses: where the body meets an error
it faults in its unit, with what it had accessed before counted; where it must wait, or lacks remote bytes, it
asks for those and is tried again; else its remote writes are sent and it stands as issued, with the results of
overlapping areas left open (log entry 55). An operation that is not at the head of its queue, has been
issued, or is not of the row, is left alone. -/
def Obligations.UnitOperationsArePerformed : Prop :=
  ∀ (s : State) (i : Instr) (slot : Fin 8) (node : Fin 9) (ofs : Nat) (v : View) (row : Nat → Bool)
    (body : OpRec → Ctx → Ctx), unitAt i = some (slot, node, .perform ofs, v) →
    unitWords i = some row → unitBody i = some body →
    (∀ o x, s.opAt slot node ofs = some o → s.slot? slot = some x →
      (s.atHead o = false ∨ o.issued = true ∨ row o.word = false ∨ s.laneHalted x node = true →
        exec i s = .next s) ∧
      (s.running = true → s.laneHalted x node = false → row o.word = true → o.issued = false →
        s.atHead o = true → waitEn o.word = false ∨ o.waited = true →
        s.claim slot node ofs row = (s, some o))) ∧
    ∀ (w : State) (o : OpRec), s.claim slot node ofs row = (w, some o) →
      (w.tilesOpen o = false → exec i s = .next w) ∧
      (w.tilesOpen o = true →
        let c := body o (Ctx.start w v o.fetched)
        let use : RmtUse := .op o.slot o.node o.ofs
        (∀ x, c.err = some x → exec i s = .next
          (((c.flush use).countBytes o.slot c.moved).unitFault { o with begun := true } x)) ∧
        (c.err = none → c.stall = true → exec i s = .next
          (w.setOp { o with begun := true, hostWait := c.hostWait })) ∧
        (c.err = none → c.stall = false → c.miss ≠ [] → exec i s = .next
          ((w.setOp { o with begun := true, hostWait := false }).fetchMissing use c.miss)) ∧
        (c.err = none → c.stall = false → c.miss = [] →
          let d := c.blur w.out.length w.held.length
          exec i s = .next (((d.flush use).countBytes o.slot d.moved).setOp { o with
            begun := true, issued := true, hostWait := d.hostWait, owed := d.owed, fetched := [],
            after := d.after })))

/-- R193, R194, R323, R326, R335: what bodies do in local memory whose words have no errors. COPY stores the bytes
at its source, as they stood, at its destination and no other byte, where the two are one or do not overlap;
FILL its pattern; TILE_READ the slot it
names, in its tile form; TILE_WRITE loads that slot, and no other slot of the file, from a good tile of its
format, in a file of its mode. A tile that is not allowed faults TILE_DENIED, a file of the other mode
SLOT_MISMATCH. -/
def Obligations.CopiesFillsAndTilesMoveBytes : Prop :=
  ∀ (s : State) (slot : Fin 8) (node : Fin 9) (ofs : Nat) (v : View) (o : OpRec), s.Canonical →
    s.opAt slot node ofs = some o → s.tilesOpen o = true →
    let issued := fun t : State => ∃ p, t.opAt slot node ofs = some p ∧ p.issued = true
    let usable := fun (u n : Nat) => isLocal u = true ∧ s.addrOk false u n = true ∧ s.EccFree u n
    (∀ a b, s.claim slot node ofs (fun w => isMove 0 w || isMove 6 w || isMove 7 w) = (s, some o) →
      o.ends = some (a, b) → 0 < (moveWord o.word).bytes → usable a.uda (moveWord o.word).bytes →
      usable b.uda (moveWord o.word).bytes →
      a.uda = b.uda ∨ a.uda + (moveWord o.word).bytes ≤ b.uda ∨ b.uda + (moveWord o.word).bytes ≤ a.uda →
      Does (.moveCopy slot node (.perform ofs) v) s fun t => issued t ∧
        s.StoresOnly t b.uda (s.rawRead a.uda (moveWord o.word).bytes)) ∧
    (∀ b, s.claim slot node ofs (isMove 4) = (s, some o) → o.reg (moveWord o.word).dst = some b →
      let l := (List.replicate ((moveWord o.word).bytes / 8) (leBytes 8 (moveWord o.word).pattern)).flatten
      l ≠ [] → usable b.uda l.length →
      Does (.moveFill slot node (.perform ofs) v) s fun t => issued t ∧ s.StoresOnly t b.uda l) ∧
    (let tile := bits o.word 67 64
      let j := bits o.word 69 68
      let a16 := bitOf o.word 70
      let size := tileBytes (if a16 then 0 else 1)
      (s.claim slot node ofs (fun w => opCode w == 0x09) = (s, some o) →
        (s.tileAllowed node tile (s.domainOf o) = true → (s.tile node tile).holds j a16 = true →
          ((s.tile node tile).slot j).oneShift a16 = true →
          let l := ((s.tile node tile).slot j).bytes a16
          l ≠ [] → usable o.uda l.length → Does (.tileRead slot node (.perform ofs) v) s fun t =>
            issued t ∧ s.StoresOnly t o.uda l ∧ t.tiles = s.tiles) ∧
        (s.tileAllowed node tile (s.domainOf o) = true → (s.tile node tile).holds j a16 = false →
          ∀ x, s.slot? slot = some x → s.slotHalted x = false →
          Does (.tileRead slot node (.perform ofs) v) s fun t =>
            s.SameBytes t ∧ ∃ f, (x.entry, f) ∈ t.faults ∧ f.code = .slotMismatch) ∧
        (s.tileAllowed node tile (s.domainOf o) = false → ∀ x, s.slot? slot = some x →
          s.slotHalted x = false → Does (.tileRead slot node (.perform ofs) v) s fun t =>
            s.SameBytes t ∧ ∃ f, (x.entry, f) ∈ t.faults ∧ f.code = .tileDenied)) ∧
      (s.claim slot node ofs (fun w => opCode w == 0x0A) = (s, some o) →
        s.tileAllowed node tile (s.domainOf o) = true → (s.tile node tile).a16 = a16 →
        usable o.uda size →
        let l := s.rawRead o.uda size
        (tileHdr l).ok [0, 1] = true → (tileHdr l).format = (if a16 then 0 else 1) →
        Does (.tileWrite slot node (.perform ofs) v) s fun t => issued t ∧ s.SameBytes t ∧
          t.tile node tile = (s.tile node tile).setSlot j (slotOfBytes l) ∧
          ∀ cl k, cl ≠ node.val ∨ k ≠ tile → cl < 8 → k < 16 → tile < 16 → t.tile cl k = s.tile cl k))

/-- R219, R225 to R233, R286 to R289, R460: a matmul-type operation. MATMUL at the head of its queues begins
its run; every array step forms a product on each tile that steps together, counts the idle and stretched
cycles, and ends a round where one is due; a spill that is due writes its blocks, counts, and clears what it
wrote; a boundary of a margin group is decided once every member has spilled there; overflowed segments return
to their last checkpoint, or raise ACC_OVERFLOW without SPILL_EN over old contents. While a test gates the
array, or a tile is not open, nothing steps. -/
def Obligations.MatmulAdvancesStepByStep : Prop :=
  (∀ (s w : State) (slot : Fin 8) (node : Fin 9) (ofs : Nat) (v : View) (o : OpRec),
    s.claim slot node ofs (fun x => opCode x == 0x02) = (w, some o) →
    (o.mat = none → exec (.matmul slot node (.perform ofs) v) s = .next (w.startMat o)) ∧
    (o.mat.isSome = true → exec (.matmul slot node (.perform ofs) v) s = .next w)) ∧
  (∀ (s : State) (cl : Fin 8) (tile : Fin 16) (o : OpRec) (c : MatCfg),
    s.matOn cl tile = some (o, c) →
    let ts := c.together tile
    (∀ idle, s.gated = true ∨ s.groupReady o c = false ∨ (∃ t ∈ ts, s.tileOpen o t = false) →
      exec (.arrayStep cl tile idle) s = .next s) ∧
    (s.groupReady o c = true → (∀ t ∈ ts, s.tileOpen o t = true) →
      (∀ w e, s.beginAll o c ts = (w, some e) →
        (∀ idle, s.gated = false → exec (.arrayStep cl tile idle) s = .next (w.unitFault o e)) ∧
        exec (.blockSpill cl tile) s = .next (w.unitFault o e)) ∧
      ∀ w, s.beginAll o c ts = (w, none) →
        (∀ (idle : Nat) (x : State), s.gated = false →
          (∀ t ∈ ts, ∃ r, w.run? o t = some r ∧ r.due = [] ∧ r.done = false) →
          w.mustRewind o c ts = false → w.stepAll o c (w.stepCycles cl + idle) ts = (x, none) →
          exec (.arrayStep cl tile idle) s = .next (((x.bump (clReg cl Reg.CL_FEED_STALL)
            (idle * ts.length)).clusterStep cl (w.stepCycles cl) ts).afterRound o c ts)) ∧
        ∀ (r : TileRun) (m : MatRun) (l : Nat) (rest : List Nat),
          w.run? o tile = some r → o.mat = some m → r.due = l :: rest →
          let initial := c.isInitial tile r l
          (c.heldBack r m.decided = true → exec (.blockSpill cl tile) s = .next w) ∧
          (c.heldBack r m.decided = false →
            let x := (Ctx.start w View.none []).spillTile o c tile l
              (!c.w.spillAdd && !r.spilled.contains l)
            let z := ((x.s.clearSlot o c tile l).bump (clReg cl Reg.CL_ACC_SPILLS) 1).bump
              (clReg cl Reg.CL_ACC_SPILL_CYC) 128
            let y : Ctx := { x with s := z }
            let p := { r with due := rest, spilled := l :: r.spilled.filter fun k => k != l }
            (∀ e, x.err = some e → exec (.blockSpill cl tile) s = .next (x.s.unitFault o e)) ∧
            (x.err = none → rest ≠ [] → exec (.blockSpill cl tile) s = .next
              (((y.s.countBytes o.slot y.moved).setRun o p).checkIssued o)) ∧
            (x.err = none → rest = [] → (y.afterSpill o c p l initial).1.err = none →
              let q := y.afterSpill o c p l initial
              exec (.blockSpill cl tile) s = .next
                (((q.1.s.countBytes o.slot q.1.moved).setRun o q.2).checkIssued o)))) ∧
    (s.mustRewind o c ts = false → exec (.overflowRewind cl tile) s = .next s) ∧
    (s.mustRewind o c ts = true →
      (c.w.spillEn = false → c.w.add = true → exec (.overflowRewind cl tile) s = .next
        (s.unitFault o ⟨.accOverflow, 0, 0,
          (ts.flatMap fun t => ((s.run? o t).map fun r => r.ovf.map (·.2)).getD []).headD 0⟩)) ∧
      ∀ r, (c.w.spillEn = true ∨ c.w.add = false) → ts = [tile.val] → s.run? o tile = some r →
        let x := s.rewindTile o c r
        (∀ e, x.2 = some e → Does (.overflowRewind cl tile) s fun t =>
          ∃ u : State, t = u.unitFault o ⟨.accRange, 0, 0, e⟩) ∧
        (x.2 = none → exec (.overflowRewind cl tile) s = .next
          ((((x.1.bump (clReg cl Reg.CL_ACC_REPLAYS) 1).bump (clReg cl Reg.CL_ACC_REPLAY_CYC)
            (r.formed + 13)).bump (clReg cl Reg.CL_ACC_RAISES) r.ovf.length).setRun o { r with
              pos := r.ckpt, turn := 0, ovf := [], formed := 0, nextForm := 0 })))) ∧
  ∀ (s : State) (slot : Fin 8) (id : BitVec 8) (n : Nat) (x : ExecSlot) (o : OpRec) (c : MatCfg)
    (more : List (OpRec × MatCfg)), s.dueTurn slot id.toNat = some n → s.slot? slot = some x →
    s.running = true → s.slotHalted x = false →
    let os := s.marginGroup slot id.toNat n
    let ms := os.filterMap fun o => (s.matNow o).map fun c => (o, c)
    ms = (o, c) :: more →
    let t := min c.len ((o.decided + 1) * c.p)
    let q := (Ctx.start s View.none []).marginRows ms c.m t
    (∀ e, q.1.err = some e → exec (.marginDecision slot id) s = .next (q.1.s.unitFault o e)) ∧
    (q.1.err = none → t < c.len → (∃ r ∈ q.2, r.proven c.w.marginK = false) →
      exec (.marginDecision slot id) s = .next (os.foldl (fun (w : State) y =>
        match y.mat with
        | some m => w.setOp { y with mat := some { m with decided := o.decided + 1 } }
        | none => w) q.1.s)) ∧
    (q.1.err = none → t = c.len ∨ (∀ r ∈ q.2, r.proven c.w.marginK = true) →
      let w := ms.foldl (fun (w : State) y => w.stopMember y.1 y.2 t) q.1.s
      let k := (Ctx.start w View.none []).write false true
        (((drOf o.drs c.w.drTopk).map (·.uda)).getD 0)
        ((⟨c.w.marginK, 0, c.m, c.a.eRef + c.b.eRef, c.io, c.len, t⟩ : LHdr).bytes ++
          q.2.flatMap fun r => recordBytesOf (r.record c.w.marginK))
      (∀ e, k.err = some e → exec (.marginDecision slot id) s = .next (k.s.unitFault o e)) ∧
      (k.err = none → k.stall = false →
        let y := ((k.flush (.op o.slot o.node o.ofs)).countBytes slot k.moved).bump
          (clReg o.node Reg.CL_TOPK_ROWS) c.m
        exec (.marginDecision slot id) s = .next (match y.opAt o.slot o.node o.ofs with
          | some p => y.setOp { p with hostWait := k.hostWait, owed := k.owed }
          | none => y)))

/-! ### Events of the memories -/

/-- R316, R317, R332 to R334, R336, R340: what the memory system does on its own, once READY or with DRAM
trained. A scrub visit of a bank's next row, or of a channel's next data line, corrects every word with one
wrong bit unless a word of the line is uncorrectable, counts every word it finds, and changes no data; an
upset of one bit of a sound word leaves it with one wrong bit. A correction write-back corrects the line
first queued. Refresh and tracking are commands on the channel; MR4 sets the rate of refresh. -/
def Obligations.MemoryEventsAct : Prop :=
  (∀ (s : State) (unit : Fin 400), s.running = true → s.Canonical →
    (383 < (unit : Nat) → s.dramOn = true ∧ s.iecc = true) →
    let row := SMap.get State.natD s.scrubRow unit
    let c := (unit : Nat) - 384
    let q := nextData c (s.fld Reg.MEM_ID 7 0 * 2 ^ 20) 32 row
    let p := channelLine c q
    let u := if (unit : Nat) < 384 then
      2 ^ 44 + (unit : Nat) / 48 * 2 ^ 24 + (row * 48 + (unit : Nat) % 48) * 64
      else 64 * (p / 8 * 7 + p % 8)
    let hits := s.ecc.filter fun e => decide (e.1 / 8 = u / 64)
    let ues := hits.countP fun e => e.2.isUe
    let ce := if (unit : Nat) < 384 then Reg.MEM_CE_PS else Reg.MEM_CE_DRAM
    let ue := if (unit : Nat) < 384 then Reg.MEM_UE_PS else Reg.MEM_UE_DRAM
    ((unit : Nat) < 384 → row < 4096) →
    (Does (.patrolScrubVisit unit []) s fun t =>
      t.dram = s.dram ∧ t.plate = s.plate ∧ t.corrQ = s.corrQ ∧
      SMap.get State.natD t.scrubRow unit =
        (if (unit : Nat) < 384 then (row + 1) % 4096 else q + 1) ∧
      (ues = 0 → t.EccFree u 64) ∧ (0 < ues → t.ecc = s.ecc) ∧
      (∀ w, w / 8 ≠ u / 64 → SMap.get State.eccD t.ecc w = SMap.get State.eccD s.ecc w) ∧
      t.reg ce = (s.reg ce + (hits.length - ues)) % 2 ^ 32 ∧
      t.reg ue = (s.reg ue + ues) % 2 ^ 32 ∧
      s.SameRegs t [ce, ue, Reg.MEM_ERR_STATUS, Reg.MEM_ERR_ADDR, Reg.MEM_ERR_ADDR + 4,
        Reg.MEM_ERR_INFO, Reg.HI_NOTICE_STATUS, Reg.MEM_SCRUB_PASSES]) ∧
    ∀ (w : Nat) (b : BitVec 7), b.toNat < 72 → regionOf (8 * w) = .plate →
      s.addrOk false (8 * w) 8 = true → SMap.get State.eccD s.ecc w = .none → w / 8 ≠ u / 64 →
      Does (.patrolScrubVisit unit [(w, b)]) s fun t =>
        SMap.get State.eccD t.ecc w = .ce b.toNat ∧ t.dram = s.dram ∧ t.plate = s.plate) ∧
  (∀ (s : State) (line : Nat) (q : List Nat), s.running = true → s.Canonical → s.corrQ = line :: q →
    Does .correctionWriteback s fun t =>
      t = { s with corrQ := q, ecc := t.ecc } ∧
      ∀ w, SMap.get State.eccD t.ecc w =
        if w / 8 = line ∧ (SMap.get State.eccD s.ecc w).isUe = false then .none
        else SMap.get State.eccD s.ecc w) ∧
  (∀ (s : State) (ch : Fin 16), s.dramOn = true →
    exec (.dramRefresh ch) s = .next { s with out := s.out ++ [.dram "REFPB" ch] } ∧
    exec (.wck2dqiTracking ch) s = .next { s with out := s.out ++ [.dram "WCK2DQI" ch] }) ∧
  ∀ (s : State) (rate : Fin 3), s.Canonical → s.dramOn = true →
    Does (.mr4Read rate) s fun t => t.fld Reg.MEM_REFRESH 1 0 = rate ∧
      t.fld Reg.MEM_REFRESH 31 2 = s.fld Reg.MEM_REFRESH 31 2 ∧ t = { s with regs := t.regs } ∧
      s.SameRegs t [Reg.MEM_REFRESH]

/-! ### Power, pins and temperature -/

/-- R834 to R836, R841, R849, R850: a change of operating point. A PLL locks; SETTLE_US after the word of a
faster point STATUS_WORD is read; the switch sets PWR_OP.CUR, counts, and puts g to 0 (8 while the thermal
hold keeps it there); a slower point's word is written after its switch, and STATUS_WORD is then read. A
PMBus transaction that goes wrong is issued again three times; then, or when STATUS_WORD shows a fault, ERR
and PINNED are set and the ceiling is held at the point in force. -/
def Obligations.OperatingPointChangesRun : Prop :=
  (∀ (s : State) (c : OpChange), s.alive = true → s.pwr.change = some c →
    exec .pllLocked s = .next
      { s with pwr := { s.pwr with change := some { c with locked := true } } } ∧
    (c.faster = true → c.settled = false → s.pwr.pmb = none →
      exec .voutSettleExpiry s = .next { s with
        pwr := { s.pwr with change := some { c with settled := true }, pmb := some ⟨false, 0, 0⟩ }
        out := s.out ++ [.pmbus false 0x79 0] })) ∧
  (∀ (s : State) (c : OpChange), s.Canonical → s.alive = true → s.pwr.change = some c → c.locked = true →
    (c.faster = true → c.ok = true) → s.op ≠ c.target → c.target < 4 → s.pwr.pmb = none →
    s.pwr.brakeDue = false →
    Does .opSwitch s fun t =>
      t.op = c.target ∧ t.reg Reg.PWR_OP_SWITCHES = (s.reg Reg.PWR_OP_SWITCHES + 1) % 2 ^ 32 ∧
      t.fld Reg.PWR_GOV 3 0 = (if s.pwr.thHold then 8 else 0) ∧
      t.fld Reg.PWR_GOV 31 4 = s.fld Reg.PWR_GOV 31 4 ∧
      s.SameRegs t [Reg.PWR_OP, Reg.PWR_OP_SWITCHES, Reg.PWR_GOV, Reg.ALM_FLASH_INFO] ∧
      (c.faster = true ∨ s.pmbEn = false →
        t.pwr = { s.pwr with change := none } ∧ t.fld Reg.PWR_OP 9 9 = 0 ∧ t.out = s.out) ∧
      (c.faster = false → s.pmbEn = true →
        t.pwr = { s.pwr with pmb := some ⟨true, s.voutWord c.target, 0⟩ } ∧
        t.out = s.out ++ [.pmbus true 0x21 (s.voutWord c.target)])) ∧
  ∀ (s : State) (p : PmbTrans) (good : Bool) (word : Word16), s.Canonical → s.alive = true →
    s.pwr.pmb = some p → s.muxWait = none → s.pwr.brakeDue = false →
    let w := word.toNat
    let fault := bitOf w 15 || bitOf w 6 || bitOf w 5 || bitOf w 1
    let run := exec (.pmbusTransactionDone good word) s
    (good = false → p.tries < 3 → run = .next { s with
      pwr := { s.pwr with pmb := some { p with tries := p.tries + 1 } }
      out := s.out ++ [.pmbus p.write (if p.write then 0x21 else 0x79) p.word] }) ∧
    ((good = false ∧ 3 ≤ p.tries) ∨ (good = true ∧ p.write = false ∧ fault = true) → ∃ t : State,
      run = .next t ∧ t.fld Reg.PWR_PMB_STATUS 17 16 = 3 ∧
      t.fld Reg.PWR_PMB_STATUS 15 0 = (if good then w else s.fld Reg.PWR_PMB_STATUS 15 0) ∧
      t.pwr = { s.pwr with pin := s.op, pmb := none, change := none } ∧ t.op = s.op ∧
      t.fld Reg.PWR_OP 9 9 = 0 ∧ t.out = s.out ∧ s.SameRegs t [Reg.PWR_PMB_STATUS, Reg.PWR_OP]) ∧
    (good = true → p.write = true →
      ((∀ c, s.pwr.change = some c → c.faster = false) → run = .next { s with
        pwr := { s.pwr with pmb := some ⟨false, 0, 0⟩ }
        out := s.out ++ [.pmbus false 0x79 0] }) ∧
      ∀ c, s.pwr.change = some c → c.faster = true →
        run = .next { s with pwr := { s.pwr with pmb := none } }) ∧
    (good = true → p.write = false → fault = false → ∃ t : State,
      run = .next t ∧ t.fld Reg.PWR_PMB_STATUS 15 0 = w ∧ t.out = s.out ∧
      s.SameRegs t [Reg.PWR_PMB_STATUS, Reg.PWR_OP] ∧ t.op = s.op ∧
      (∀ c, s.pwr.change = some c → c.faster = true →
        t.pwr = { s.pwr with pmb := none, change := some { c with ok := true } }) ∧
      ∀ c, s.pwr.change = some c → c.faster = false →
        t.pwr = { s.pwr with pmb := none, change := none } ∧ t.fld Reg.PWR_OP 9 9 = 0)

/-- R838, R840, R841: at the end of a period the governor has the largest whole p that the formula of R838
allows, and acts on it: a ceiling moved slower is followed; above the cap g rises, or the point moves
slower; well below the cap e, then g, falls, and then the point moves faster. Free of Expert forcing and of
the thermal hold. -/
def Obligations.GovernorHoldsTheCap : Prop :=
  ∀ (s : State) (ev : List GovEvents), s.Canonical → s.alive = true → s.ready = true → s.estWord 0 ≠ 0 →
    bitOf (s.reg Reg.PWR_OP) 6 = false → s.pwr.thHold = false →
    let v0 := s.estWord 0
    let d := v0 * v0 * 10000000
    let dyn := ev.foldl (fun n e => n + s.estWord e.op * s.estWord e.op * s.energy e) 0
    let hot := signedOf 16 (s.fld (Reg.PWR_TJ + 4 * s.fld Reg.PWR_THERM 20 17) 15 0)
    let stat := s.reg Reg.PWR_COEF_STATIC * s.estWord s.op * d
    let p := s.governed ev
    let c := s.capMw
    let op := s.op
    let ceil := s.ceilOp
    let g := s.fld Reg.PWR_GOV 3 0
    let e := s.fld Reg.PWR_GOV 5 4
    let dw := s.pwr.dwell - 1
    let w := g + cdiv (16 * (p - c)) p
    let idle := s.pwr.change = none
    let up := fun (t : State) (target : Nat) =>
      t.pwr.change.map OpChange.target = some target ∧ t.fld Reg.PWR_OP 9 9 = 1 ∧ t.pwr.dwell = 10
    let stays := fun (t : State) => t.pwr.change = s.pwr.change ∧ t.pwr.dwell = dw
    (∀ q, q < 2 ^ 128 → (q ≤ p ↔
      q * d ≤ dyn + s.reg Reg.PWR_BOARD_ALLOW * d ∨
      (q * d - (dyn + s.reg Reg.PWR_BOARD_ALLOW * d)) ^ 100 * v0 ^ 100 * 2 ^ (340 - hot).toNat ≤
        stat ^ 100 * 2 ^ (hot - 340).toNat)) ∧
    Does (.governorPeriod ev) s fun t =>
      t.reg Reg.PWR_P_MW = min p 0xFFFFFFFF ∧ t.op = op ∧ t.fld Reg.PWR_OP 3 2 = ceil % 4 ∧
      t.pwr.hist = (p :: s.pwr.hist).take 100 ∧
      (op < ceil → t.fld Reg.PWR_GOV 3 0 = g ∧ t.fld Reg.PWR_GOV 5 4 = e ∧ t.pwr.dwell = 10 ∧
        (idle → up t ceil)) ∧
      (ceil ≤ op → c < p → (w ≤ 4 ∨ op = 3 ∨ 0 < dw ∨ ¬ idle) → stays t ∧
        t.fld Reg.PWR_GOV 3 0 = min w 14 ∧
        t.fld Reg.PWR_GOV 5 4 = e + (if op = 3 ∧ 8 ≤ min w 14 ∧
          e < s.fld Reg.PWR_ELASTIC_CTRL 17 16 then 1 else 0)) ∧
      (ceil ≤ op → c < p → 4 < w → op ≠ 3 → dw = 0 → idle → up t (op + 1) ∧
        t.fld Reg.PWR_GOV 3 0 = g ∧ t.fld Reg.PWR_GOV 5 4 = e) ∧
      (ceil ≤ op → p ≤ c → 8 * p < 7 * c → 0 < e → stays t ∧
        t.fld Reg.PWR_GOV 3 0 = g ∧ t.fld Reg.PWR_GOV 5 4 = e - 1) ∧
      (ceil ≤ op → p ≤ c → 8 * p < 7 * c → e = 0 → 0 < g → stays t ∧
        t.fld Reg.PWR_GOV 3 0 = g - 1 ∧ t.fld Reg.PWR_GOV 5 4 = 0) ∧
      (p ≤ c → 8 * p < 7 * c → e = 0 → g = 0 → ceil < op → dw = 0 → idle →
        16 * p * freqOf (op - 1) * s.estWord (op - 1) ^ 2 ≤ 15 * c * freqOf op * s.estWord op ^ 2 →
        up t (op - 1) ∧ t.fld Reg.PWR_GOV 3 0 = 0 ∧ t.fld Reg.PWR_GOV 5 4 = 0) ∧
      (ceil ≤ op → p ≤ c → 7 * c ≤ 8 * p → stays t ∧
        t.fld Reg.PWR_GOV 3 0 = g ∧ t.fld Reg.PWR_GOV 5 4 = e)

/-- R852 to R854, R860, R938: the sensors, the thermal ceiling and the trip. A sample sets the twelve
readings, and HOT names the hottest, the lowest of equals; the millisecond's step moves the thermal ceiling
one point and holds g at 8 or above when it is at OP3 already; two hot samples trip the die, which then only
a reset by PERST_N brings back. -/
def Obligations.TemperatureThrottlesAndTrips : Prop :=
  (∀ (s : State) (temps : List Word16), s.Canonical → s.perst = false → temps.length = 12 →
    Does (.thermalSample temps) s fun t =>
      (∀ i w, temps[i]? = some w → t.reg (Reg.PWR_TJ + 4 * i) = w.toNat) ∧
      let h := t.fld Reg.PWR_THERM 20 17
      h < 12 ∧ (∀ i, i < 12 → tempOf temps i ≤ tempOf temps h) ∧
      (∀ i, i < h → tempOf temps i < tempOf temps h) ∧
      t.fld Reg.PWR_THERM 16 0 = s.fld Reg.PWR_THERM 16 0 ∧
      t.pwr.hot = decide (440 ≤ tempOf temps h) ∧ t.pwr.hot2 = (s.pwr.hot && t.pwr.hot) ∧
      t.fld (Reg.PWR_WM_STATE + 32) 0 0 =
        b2n (decide (s.reg (Reg.PWR_WM_THRESH + 32) ≤ (tempOf temps h + 32768).toNat)) ∧
      t.reg (Reg.PWR_WM_PEAK + 32) = max (s.reg (Reg.PWR_WM_PEAK + 32)) (tempOf temps h + 32768).toNat) ∧
  (∀ s : State, s.Canonical → s.alive = true → s.ready = true →
    let tj := signedOf 16 (s.fld (Reg.PWR_TJ + 4 * s.fld Reg.PWR_THERM 20 17) 15 0)
    let lim : Int := 4 * s.throttleC
    Does .thermalCeilingStep s fun t =>
      t.pwr = { s.pwr with
        thCeil := if lim ≤ tj then min 3 (s.pwr.thCeil + 1)
          else if tj < lim - 12 then s.pwr.thCeil - 1 else s.pwr.thCeil
        thHold := decide (lim ≤ tj ∧ 3 ≤ s.pwr.thCeil) } ∧
      t.fld Reg.PWR_OP 3 2 = t.ceilOp % 4 ∧
      t.fld Reg.PWR_GOV 3 0 = (if t.pwr.thHold then max 8 (s.fld Reg.PWR_GOV 3 0)
        else s.fld Reg.PWR_GOV 3 0) ∧
      bitOf (t.reg Reg.PWR_GOV) 7 = (decide (t.pwr.thCeil ≠ 0) || t.pwr.thHold) ∧
      (bitOf (t.reg Reg.PWR_GOV) 7 ≠ bitOf (s.reg Reg.PWR_GOV) 7 →
        bitOf (t.reg Reg.HI_NOTICE_STATUS) 6 = true) ∧
      s.SameRegs t [Reg.PWR_OP, Reg.PWR_GOV, Reg.HI_NOTICE_STATUS] ∧ s.SameBytes t) ∧
  ∀ s : State, s.Canonical → s.alive = true → s.pwr.hot2 = true →
    Does .thermalTrip s fun t => t.alive = false ∧ t.op = 3 ∧ t.fld Reg.PWR_THERM 16 16 = 1 ∧
      t.out = s.out ++ [.pin "THERM_N" false, .pin "SMB_ALERT_N" false] ∧
      t.pwr = { s.pwr with change := none, thermN := true, brakeDue := false } ∧
      s.SameRegs t [Reg.PWR_THERM, Reg.PWR_OP] ∧ s.SameBytes t

/-- R855 to R858, R330, R904 to R908: the brake, telemetry and the end of a pin's park. -/
def Obligations.BrakeTelemetryAndPinsAct : Prop :=
  (∀ s : State, s.Canonical → s.alive = true → s.ready = true → s.pinFn 4 = some 8 →
    bitOf (s.reg Reg.PWR_GOV) 6 = false →
    Does .brakeApply s fun t =>
      bitOf (t.reg Reg.PWR_GOV) 6 = true ∧ t.fld Reg.PWR_GOV 3 0 = 14 ∧
      t.fld Reg.PWR_GOV 5 4 = s.fld Reg.PWR_GOV 5 4 ∧
      t.fld Reg.PWR_BRAKE 31 16 = min 0xFFFF (s.fld Reg.PWR_BRAKE 31 16 + 1) ∧ t.op = s.op ∧
      (s.pwr.change = none → s.op ≠ 3 → t.pwr.change.map OpChange.target = some 3 ∧
        t.fld Reg.PWR_OP 9 9 = 1) ∧
      s.SameRegs t [Reg.PWR_GOV, Reg.PWR_BRAKE, Reg.PWR_OP] ∧ s.SameBytes t) ∧
  (∀ s : State, s.Canonical → s.alive = true → s.ready = true →
    Does .brakeRelease s fun t => bitOf (t.reg Reg.PWR_GOV) 6 = false ∧
      t.fld Reg.PWR_GOV 5 0 = s.fld Reg.PWR_GOV 5 0 ∧ s.SameRegs t [Reg.PWR_GOV] ∧
      t.out = s.out ∧ s.SameBytes t) ∧
  (∀ s : State, s.Canonical → s.alive = true → s.ready = true →
    let u := s.reg64 Reg.PWR_TELEM_ADDR % 2 ^ 48
    u ≠ 0 → u % 128 = 0 → s.inDram u 256 = true →
    Does .telemetrySnapshot s fun t => ∃ x y : List Byte,
      x.length = 64 ∧ y.length = 64 ∧ x.take 4 = leBytes 4 (s.pwr.telem % 2 ^ 32) ∧
      (x.drop 4).take 2 = leBytes 2 0x7A7E ∧ (x.drop 8).take 4 = leBytes 4 (s.reg Reg.PWR_P_MW) ∧
      y.drop 60 = x.take 4 ∧
      let a := u + 128 * (s.pwr.telem % 2)
      t = { s with pwr := { s.pwr with
        telem := s.pwr.telem + 1, telemQ := s.pwr.telemQ ++ [(a, x), (a + 64, y)] } }) ∧
  (∀ (s : State) (x : Nat × List Byte) (q : List (Nat × List Byte)), s.Canonical → s.alive = true →
    s.pwr.telemQ = x :: q → Does .telemetryDrop s fun t =>
      t = { s with regs := t.regs, pwr := { s.pwr with telemQ := q } } ∧
      t.reg Reg.MEM_TELEM_DROP = (s.reg Reg.MEM_TELEM_DROP + 1) % 2 ^ 32 ∧
      s.SameRegs t [Reg.MEM_TELEM_DROP]) ∧
  ∀ (s : State) (pin : Fin 12) (k : Park), s.Canonical →
    s.alive = true → s.park pin = some k → k.next = none →
    Does (.pinSwitchComplete pin) s fun t =>
      t.pinFn pin = some (s.mux pin) ∧ (∀ n, n ≠ (pin : Nat) → t.park n = s.park n) ∧
      bitOf (t.reg Reg.PIN_STATUS) pin = false ∧
      t.reg Reg.PIN_SWITCHES = (s.reg Reg.PIN_SWITCHES + 1) % 2 ^ 32 ∧
      s.SameRegs t [Reg.PIN_STATUS, Reg.PIN_SWITCHES, Reg.PWR_PMB_CFG] ∧ s.SameBytes t ∧
      (1 < (pin : Nat) → t.reg Reg.PWR_PMB_CFG = s.reg Reg.PWR_PMB_CFG ∧ t.out = s.out) ∧
      ((pin : Nat) ≤ 1 → t.pinFn 0 = some 6 → t.pinFn 1 = some 7 → t.pmbEn = true ∧
        (s.pmbEn = false → t.out = s.out ++ [.pmbus true 0x21 (s.voutWord s.op)])) ∧
      ((pin : Nat) ≤ 1 → s.mux pin ≠ (pin : Nat) + 6 → t.pmbEn = false)

/-! ### Boot, the flash and the fuses -/

/-- R315, R341, R342, R811, R814, R815, R935: the power-up sequence. BOOT_START releases PERST_N and runs
steps 1 to 3: the fused UID and an incarnation that is not 0 are in place, and without a flash the boot is
bare (R810). Training, with a rate or with none, sets the rate, the capacity and the channels found, and
leaves DRAM undefined; the firmware check starts the first valid image tried or sets FW_NONE; and READY
comes last, with the registers as they then stand as the post-almanac state. -/
def Obligations.PowerUpSequenceRuns : Prop :=
  (∀ (s : State) (flash : Option FlashPart), s.HeldInReset →
    Does (.bootStart flash) s fun t => t.alive = true ∧ t.bootStep = 3 ∧ t.ready = false ∧
      t.flash = discover flash ∧ t.reg64 Reg.FAB_UID = Config.uid.toNat ∧
      t.reg Reg.FAB_INCARNATION ≠ 0 ∧ t.dram = s.dram ∧ t.plate = s.plate ∧ t.resetPend = none ∧
      (discover flash = none → bitOf (t.reg Reg.HI_BOOT) 1 = true ∧
        t.fld Reg.ALM_BOOT_STATUS 1 0 = 0 ∧ t.copy = [])) ∧
  (∀ (s : State) (rate : Option (Fin 3)) (chOk : BitVec 16) (big : Bool), s.Canonical →
    s.alive = true → 3 ≤ s.bootStep → s.ready = false → s.dramSetting.1 < 3 →
    bitOf (s.reg Reg.MEM_TRAIN_STATUS) 16 = false →
    Does (.dramTrainingDone rate chOk big) s fun t => t.bootStep = 4 ∧
      t.fld Reg.MEM_TRAIN_STATUS 16 0 = 2 ^ 16 + chOk.toNat ∧
      t.fld Reg.MEM_ID 7 0 = (if big then 0x40 else 0x20) ∧
      (∀ r, rate = some r → chOk.toNat = 0xFFFF → t.fld Reg.MEM_ID 15 14 = max (r : Nat) s.dramSetting.1 ∧
        bitOf (t.reg Reg.MEM_TRAIN_STATUS) 17 = decide (s.dramSetting.1 < (r : Nat))) ∧
      (rate = none ∨ chOk.toNat ≠ 0xFFFF → t.fld Reg.MEM_ID 15 14 = 3 ∧ t.dramOn = false) ∧
      t.dram = ⟨some s.fresh, []⟩ ∧ t.plate = s.plate ∧
      s.SameRegs t [Reg.MEM_TRAIN_STATUS, Reg.MEM_ID, Reg.ALM_BOOT_STATUS]) ∧
  (∀ s : State, s.Canonical → s.alive = true → 3 ≤ s.bootStep → s.ready = false → s.fwDone = false →
    Does .firmwareCheckDone s fun t => t.bootStep = 5 ∧ t.fwDone = true ∧ s.SameBytes t ∧
      s.SameRegs t [Reg.ALM_BOOT_STATUS, Reg.ALM_FW_INFO, Reg.ALM_FW_SVN, Reg.ALM_FW_SEQ] ∧
      (s.flash = none → bitOf (t.reg Reg.ALM_BOOT_STATUS) 8 = true) ∧
      ∀ f, s.flash = some f →
        ((∀ n ∈ fwTry f, fwOk (fwImage f n) s.svnFloor = false) →
          bitOf (t.reg Reg.ALM_BOOT_STATUS) 8 = true) ∧
        ∀ a b : Nat, fwTry f = [a, b] → 0 < a → a < 3 → 0 < b → b < 3 →
          (fwOk (fwImage f a) s.svnFloor = true → t.fld Reg.ALM_BOOT_STATUS 7 6 = a ∧
            t.reg Reg.ALM_FW_SEQ = leAt (fwImage f a) 4 4) ∧
          (fwOk (fwImage f a) s.svnFloor = false → fwOk (fwImage f b) s.svnFloor = true →
            t.fld Reg.ALM_BOOT_STATUS 7 6 = b ∧
            t.reg Reg.ALM_FW_SEQ = leAt (fwImage f b) 4 4)) ∧
  ∀ s : State, s.Canonical → s.alive = true → s.ready = false →
    bitOf (s.reg Reg.MEM_TRAIN_STATUS) 16 = true → s.fwDone = true →
    Does .bootReady s fun t => t.ready = true ∧ t.bootStep = 6 ∧ t.postAlm = t.regs ∧
      ((∀ p : Fin 6, s.linkSt p = 0) → s.SameBytes t) ∧ ∀ p : Fin 6,
        bitOf (t.reg (lk p Reg.FAB_LINK_CTRL)) 0 = (bitOf s.portEn p ||
          bitOf (s.reg (lk p Reg.FAB_LINK_CTRL)) 0)

/-- R818 to R823, R832: a command of an update ends. An erase or program that went well changes the flash
so and the next command is issued; an erase failure, a comparison that fails and a deadline end the update
with their codes; the last comparison that holds ends it with 0. SVN_COMMIT raises the floor to the running
image's SVN, at most 32, and never lowers it. -/
def Obligations.FlashAndFuseCommandsEnd : Prop :=
  (∀ (s : State) (u : Update) (f : FlashPart) (c : FlashCmd) (q : List FlashCmd), s.Canonical →
    s.update = some u → s.flash = some f → u.cmds = c :: q → u.kind ≠ .recovery →
    let ends := fun (i : Instr) (code : Nat) => Does i s fun t =>
      t.update = none ∧ t.reg Reg.ALM_UPDATE = 16 * code
    (∀ (a : Nat) (d : FlashCmd) (r : List FlashCmd), c = .erase a → q = d :: r →
      Does (.flashCommandDone .done) s fun t => t = { s with
        flash := some (flashErase f a)
        update := some { u with cmds := q }
        out := t.out } ∧ ∃ o, t.out = s.out ++ [o]) ∧
    (∀ (a : Nat) (l : List Byte) (d : FlashCmd) (r : List FlashCmd), c = .program a l → q = d :: r →
      Does (.flashCommandDone .done) s fun t => t = { s with
        flash := some (flashProgram f a l)
        update := some { u with cmds := q }
        out := t.out } ∧ ∃ o, t.out = s.out ++ [o]) ∧
    (∀ a, c = .erase a → ends (.flashCommandDone .eraseFailed) 3) ∧
    (∀ (a : Nat) (l : List Byte) (res : FlashResult), c = .readBack a l →
      (flashRead f a l.length ≠ l → ends (.flashCommandDone res) 4) ∧
      (flashRead f a l.length = l → q = [] → ends (.flashCommandDone res) 0)) ∧
    ((∀ a l, c ≠ .readBack a l) → ends .flashDeadline 5)) ∧
  (∀ s : State, s.Canonical → s.svnBusy = true → s.alive = true → s.svnFloor ≤ 32 →
    Does .svnCommitDone s fun t =>
      t.svnFloor = max s.svnFloor (min 32 (s.reg Reg.ALM_FW_SVN)) ∧
      t.fld Reg.ALM_FUSE 7 2 = t.svnFloor ∧
      (s.rearm.contains 2 = false → t.svnBusy = false ∧ t.fld Reg.ALM_SVN_COMMIT 0 0 = 0) ∧
      s.SameRegs t [Reg.ALM_FUSE, Reg.ALM_SVN_COMMIT] ∧ s.SameBytes t)

/-- R503, R504, R710, R721, R735, R811, R814, R815, R820, R832, R834, R835, R850, R904: where the commands of
ring, ports, pins, operating point, boot and flash complete with their own effect. A good set-up starts the
ring at FE_RING_START, and EN written 0 stops it while admitted entries go on. A port is enabled out of
DISABLED, disabled, and taken down to train again. A pin is parked under its new function. A change of
operating point has its PLL locked, its voltage settled, its PMBus transaction issued again after a bad one,
and its switch made. Boot starts with step 3 done; training, the firmware check and READY end their steps. A
programmed page and an erased sector are in the flash; a command that stays busy ends its update with CODE 5;
a commit raises the floor. -/
def Obligations.SetUpPowerAndBootCommandsComplete : Prop :=
  (∀ (s : State) (value : Word32), s.Canonical → s.reach .bar0 Reg.FE_RING_CTRL = .full →
    let en := bitOf (s.reg Reg.FE_RING_CTRL) 0
    (en = false → (s.setFld Reg.FE_RING_CTRL 5 1 (bits value.toNat 5 1)).ringSetupOk = true →
      Does (.ringEnable value) s fun t => bitOf (t.reg Reg.FE_RING_CTRL) 0 = true ∧
        t.ring.started = true ∧ t.reg Reg.FE_RING_HEAD = s.reg Reg.FE_RING_START) ∧
    (en = true → Does (.ringDisable value) s fun t => bitOf (t.reg Reg.FE_RING_CTRL) 0 = false ∧
      t.ring.started = false ∧ t.ring.pollOpen = false ∧ t.entries = s.entries)) ∧
  (∀ (s : State) (p : Fin 6) (value : Word32), s.Canonical →
    s.reach .bar0 (lk p Reg.FAB_LINK_CTRL) = .full →
    (bitOf (s.reg (lk p Reg.FAB_LINK_CTRL)) 0 = false → s.linkSt p = 0 → bitOf value.toNat 0 = true →
      Does (.linkEnableWrite p 15 value) s fun t => t.linkSt p = 1) ∧
    (bitOf (s.reg (lk p Reg.FAB_LINK_CTRL)) 0 = true → s.linkUp p = false → s.linkSt p ≠ 7 →
      bitOf value.toNat 0 = false → Does (.linkDisableWrite p 15 value) s fun t => t.linkSt p = 0) ∧
    (s.linkUp p = true → bitOf value.toNat 0 = true → bitOf value.toNat 1 = true →
      Does (.linkRetrainWrite p 15 value) s fun t => t.linkSt p = 7 ∧
        t.fld (lk p Reg.FAB_LINK_DOWN_CAUSE) 2 0 = 6)) ∧
  (∀ (s : State) (pin : Fin 12) (value : Word32), s.Canonical → s.reach .bar0 (muxReg pin) = .full →
    s.unlocked = true → s.park pin = none → funcOk pin (value.toNat % 16) = true →
    value.toNat % 16 ≠ s.mux pin → pmbFunc pin ≠ some (s.mux pin) →
    Does (.pinMuxWrite pin 15 value) s fun t => t.mux pin = value.toNat % 16 ∧
      t.park pin = some ⟨s.mux pin, s.pinLevel pin, none⟩) ∧
  (∀ (s : State) (c : OpChange), s.Canonical → s.alive = true → s.pwr.change = some c →
    exec .pllLocked s = .next
      { s with pwr := { s.pwr with change := some { c with locked := true } } } ∧
    (s.pwr.pmb = none → c.faster = true → c.settled = false →
      exec .voutSettleExpiry s = .next { s with
        pwr := { s.pwr with change := some { c with settled := true }, pmb := some ⟨false, 0, 0⟩ }
        out := s.out ++ [.pmbus false 0x79 0] }) ∧
    (s.pwr.pmb = none → c.locked = true → (c.faster = true → c.ok = true) → s.op ≠ c.target →
      c.target < 4 → s.pwr.brakeDue = false → Does .opSwitch s fun t => t.op = c.target ∧
        t.reg Reg.PWR_OP_SWITCHES = (s.reg Reg.PWR_OP_SWITCHES + 1) % 2 ^ 32)) ∧
  (∀ (s : State) (p : PmbTrans) (word : Word16), s.alive = true → s.muxWait = none →
    s.pwr.pmb = some p → p.tries < 3 → exec (.pmbusTransactionDone false word) s = .next { s with
      pwr := { s.pwr with pmb := some { p with tries := p.tries + 1 } }
      out := s.out ++ [.pmbus p.write (if p.write then 0x21 else 0x79) p.word] }) ∧
  (∀ (s : State) (flash : Option FlashPart), s.HeldInReset → Does (.bootStart flash) s fun t =>
    t.perst = false ∧ t.bootStep = 3 ∧ t.flash = discover flash) ∧
  (∀ s : State, s.Canonical → s.alive = true → s.ready = false → 3 ≤ s.bootStep →
    (bitOf (s.reg Reg.MEM_TRAIN_STATUS) 16 = false → ∀ rate chOk big,
      Does (.dramTrainingDone rate chOk big) s fun t => t.bootStep = 4 ∧
        t.fld Reg.MEM_TRAIN_STATUS 16 0 = 2 ^ 16 + chOk.toNat ∧ t.plate = s.plate) ∧
    (s.fwDone = false → Does .firmwareCheckDone s fun t => t.bootStep = 5 ∧ t.fwDone = true) ∧
    (bitOf (s.reg Reg.MEM_TRAIN_STATUS) 16 = true → s.fwDone = true →
      Does .bootReady s fun t => t.ready = true ∧ t.bootStep = 6)) ∧
  (∀ (s : State) (u : Update) (f : FlashPart), s.update = some u → s.flash = some f →
    (∀ (c d : FlashCmd) (q : List FlashCmd), u.cmds = c :: d :: q → (∀ a l, c ≠ .readBack a l) →
      Does (.flashCommandDone .done) s fun t => t.flash = some (applyCmd f c) ∧
        t.update = some { u with cmds := d :: q } ∧ t.regs = s.regs) ∧
    (∀ (c : FlashCmd) (q : List FlashCmd), s.Canonical → u.cmds = c :: q →
      (∀ a l, c ≠ .readBack a l) → (u.kind = .recovery → 1 ∉ s.rearm) →
      Does .flashDeadline s fun t => t.update = none ∧ t.fld Reg.ALM_UPDATE 11 4 = 5 ∧
        (u.kind = .recovery → t.fld Reg.ALM_RECOVERY 8 1 = 5))) ∧
  ∀ s : State, s.Canonical → s.alive = true → s.svnBusy = true → Does .svnCommitDone s fun t =>
    t.svnFloor = max s.svnFloor (min 32 (s.reg Reg.ALM_FW_SVN))
end

