-- ==== Sys2Proof/Laws/Memory.lean ====
section
/-! SUPPORT. Laws of the sparse maps and of memory: read after write, and the canonical form that
every operation keeps. -/

namespace Sys2Proof

variable {β : Type} [DecidableEq β]

/-- A lower bound on the numbers of a family may be weakened. -/
theorem SMap.wfFrom_weaken {d : Nat → β} {m : SMap β} {lo : Option Nat} {k : Nat}
    (h : SMap.wfFrom d (some k) m = true) (hk : ∀ l, lo = some l → l ≤ k) :
    SMap.wfFrom d lo m = true := by
  cases m with
  | nil => rfl
  | cons x t =>
    obtain ⟨a, v⟩ := x
    simp only [SMap.wfFrom, Bool.and_eq_true, decide_eq_true_eq] at h ⊢
    refine ⟨⟨?_, h.1.2⟩, h.2⟩
    cases lo with
    | none => rfl
    | some l => have := hk l rfl; simp; omega

/-- Setting a number keeps the canonical form above a bound. -/
theorem SMap.wfFrom_set {d : Nat → β} {m : SMap β} {lo : Option Nat} {k : Nat} {v : β}
    (h : SMap.wfFrom d lo m = true) (hk : ∀ l, lo = some l → l < k) :
    SMap.wfFrom d lo (m.set d k v) = true := by
  induction m generalizing lo with
  | nil =>
    unfold SMap.set
    split
    · rfl
    · rename_i hv
      cases lo with
      | none => simp [SMap.wfFrom, hv]
      | some l => simp [SMap.wfFrom, hv, hk l rfl]
  | cons x t ih =>
    obtain ⟨a, w⟩ := x
    have h' := h
    simp only [SMap.wfFrom, Bool.and_eq_true, decide_eq_true_eq] at h
    unfold SMap.set
    split
    · split
      · exact h'
      · rename_i hka hv
        simp only [SMap.wfFrom, Bool.and_eq_true, decide_eq_true_eq]
        refine ⟨⟨?_, hv⟩, ⟨hka, h.1.2⟩, h.2⟩
        cases lo with
        | none => rfl
        | some l => simp [hk l rfl]
    · split
      · rename_i _ hak
        subst hak
        split
        · exact SMap.wfFrom_weaken h.2 (fun l hl => by have := hk l hl; omega)
        · rename_i hv
          simp only [SMap.wfFrom, Bool.and_eq_true, decide_eq_true_eq]
          exact ⟨⟨h.1.1, hv⟩, h.2⟩
      · simp only [SMap.wfFrom, Bool.and_eq_true, decide_eq_true_eq]
        refine ⟨h.1, ih h.2 ?_⟩
        intro l hl
        cases hl
        omega

/-- Setting a number keeps the canonical form. -/
@[simp] theorem SMap.wf_set {d : Nat → β} {m : SMap β} {k : Nat} {v : β}
    (h : SMap.wf d m = true) : SMap.wf d (m.set d k v) = true :=
  SMap.wfFrom_set h (fun _ hl => by cases hl)

/-- Setting several numbers keeps the canonical form. -/
@[simp] theorem SMap.wf_setMany {d : Nat → β} (l : List (Nat × β)) {m : SMap β}
    (h : SMap.wf d m = true) : SMap.wf d (m.setMany d l) = true := by
  induction l generalizing m with
  | nil => exact h
  | cons x t ih => exact ih (SMap.wf_set h)

omit [DecidableEq β] in
/-- A family whose numbers all lie above `k` holds the default at `k`. -/
theorem SMap.get_below [DecidableEq β] {d : Nat → β} {m : SMap β} {k j : Nat}
    (h : SMap.wfFrom d (some k) m = true) (hj : j ≤ k) : m.get d j = d j := by
  cases m with
  | nil => rfl
  | cons x t =>
    obtain ⟨a, v⟩ := x
    simp only [SMap.wfFrom, Bool.and_eq_true, decide_eq_true_eq] at h
    unfold SMap.get
    rw [if_pos (by omega)]

/-- Read after write at the same number. -/
theorem SMap.get_set_same {d : Nat → β} {m : SMap β} {k : Nat} {v : β} {lo : Option Nat}
    (h : SMap.wfFrom d lo m = true) : (m.set d k v).get d k = v := by
  induction m generalizing lo with
  | nil =>
    unfold SMap.set
    split
    · rename_i hv; simp [SMap.get, hv]
    · simp [SMap.get]
  | cons x t ih =>
    obtain ⟨a, w⟩ := x
    simp only [SMap.wfFrom, Bool.and_eq_true, decide_eq_true_eq] at h
    unfold SMap.set
    split
    · rename_i hka
      split
      · rename_i hv; simp [SMap.get, hka, hv]
      · simp [SMap.get]
    · rename_i hka
      split
      · rename_i hak
        subst hak
        split
        · rename_i hv; rw [SMap.get_below h.2 (Nat.le_refl _), hv]
        · simp [SMap.get]
      · rename_i hak
        simp only [SMap.get]
        rw [if_neg hka, if_neg hak]
        exact ih h.2

/-- Read after write at another number. -/
theorem SMap.get_set_other {d : Nat → β} {m : SMap β} {k j : Nat} {v : β} {lo : Option Nat}
    (h : SMap.wfFrom d lo m = true) (hj : j ≠ k) : (m.set d k v).get d j = m.get d j := by
  induction m generalizing lo with
  | nil =>
    unfold SMap.set
    split
    · rfl
    · simp only [SMap.get]
      split
      · rfl
      · rw [if_neg (fun e => hj e.symm)]
  | cons x t ih =>
    obtain ⟨a, w⟩ := x
    simp only [SMap.wfFrom, Bool.and_eq_true, decide_eq_true_eq] at h
    unfold SMap.set
    split
    · rename_i hka
      split
      · rfl
      · simp only [SMap.get]
        by_cases h1 : j < k
        · rw [if_pos h1, if_pos (by omega)]
        · rw [if_neg h1, if_neg (fun e => hj e.symm)]
    · rename_i hka
      split
      · rename_i hak
        subst hak
        split
        · simp only [SMap.get]
          by_cases h1 : j < a
          · rw [if_pos h1, SMap.get_below h.2 (by omega)]
          · rw [if_neg h1, if_neg (fun e => hj e.symm)]
        · simp only [SMap.get]
          by_cases h1 : j < a
          · rw [if_pos h1, if_pos h1]
          · rw [if_neg h1, if_neg h1, if_neg (fun e => hj e.symm), if_neg (fun e => hj e.symm)]
      · simp only [SMap.get]
        by_cases h1 : j < a
        · rw [if_pos h1, if_pos h1]
        · rw [if_neg h1, if_neg h1]
          by_cases h2 : a = j
          · rw [if_pos h2, if_pos h2]
          · rw [if_neg h2, if_neg h2]; exact ih h.2

end Sys2Proof

namespace Sys2Proof

variable {β : Type} [DecidableEq β]

/-- The canonical form above a bound, said of the entries. -/
theorem SMap.wfFrom_iff {d : Nat → β} {m : SMap β} {lo : Option Nat} :
    SMap.wfFrom d lo m = true ↔
      (∀ l, lo = some l → ∀ x ∈ m, l < x.1) ∧ m.Pairwise (fun x y => x.1 < y.1) ∧
        ∀ x ∈ m, x.2 ≠ d x.1 := by
  induction m generalizing lo with
  | nil => simp [SMap.wfFrom]
  | cons x t ih =>
    obtain ⟨a, v⟩ := x
    simp only [SMap.wfFrom, Bool.and_eq_true, decide_eq_true_eq, ih, List.pairwise_cons,
      List.mem_cons, forall_eq_or_imp]
    cases lo with
    | none =>
      constructor
      · rintro ⟨⟨-, hv⟩, h1, h2, h3⟩
        exact ⟨by simp, ⟨h1 a rfl, h2⟩, hv, h3⟩
      · rintro ⟨-, ⟨h1, h2⟩, hv, h3⟩
        exact ⟨⟨rfl, hv⟩, fun l hl => by cases hl; exact h1, h2, h3⟩
    | some b =>
      constructor
      · rintro ⟨⟨hb, hv⟩, h1, h2, h3⟩
        simp only [decide_eq_true_eq] at hb
        refine ⟨fun l hl => ?_, ⟨h1 a rfl, h2⟩, hv, h3⟩
        cases hl
        exact ⟨hb, fun x hx => Nat.lt_trans hb (h1 a rfl x hx)⟩
      · rintro ⟨h0, ⟨h1, h2⟩, hv, h3⟩
        refine ⟨⟨by simpa using (h0 b rfl).1, hv⟩, fun l hl => by cases hl; exact h1, h2, h3⟩

/-- The canonical form, said of the entries. -/
theorem SMap.wf_iff {d : Nat → β} {m : SMap β} :
    SMap.wf d m = true ↔ m.Pairwise (fun x y => x.1 < y.1) ∧ ∀ x ∈ m, x.2 ≠ d x.1 := by
  simp [SMap.wf, SMap.wfFrom_iff]

omit [DecidableEq β] in
/-- A listed number holds its value. -/
theorem SMap.get_of_mem {d : Nat → β} {m : SMap β} {k : Nat} {v : β}
    (h : m.Pairwise (fun x y => x.1 < y.1)) (hm : (k, v) ∈ m) : m.get d k = v := by
  induction m with
  | nil => cases hm
  | cons x t ih =>
    obtain ⟨a, w⟩ := x
    rw [List.pairwise_cons] at h
    unfold SMap.get
    rcases List.mem_cons.1 hm with e | e
    · cases e; simp
    · have := h.1 _ e
      simp only at this
      rw [if_neg (by omega), if_neg (by omega)]
      exact ih h.2 e

omit [DecidableEq β] in
/-- A number that is not listed holds its default. -/
theorem SMap.get_of_not_mem {d : Nat → β} {m : SMap β} {k : Nat} (hm : ∀ x ∈ m, x.1 ≠ k) :
    m.get d k = d k := by
  induction m with
  | nil => rfl
  | cons x t ih =>
    obtain ⟨a, w⟩ := x
    unfold SMap.get
    split
    · rfl
    · rw [if_neg (hm _ List.mem_cons_self)]
      exact ih fun y hy => hm y (List.mem_cons_of_mem _ hy)

omit [DecidableEq β] in
/-- Two families with the same entries at a number hold the same there. -/
theorem SMap.get_congr {d : Nat → β} {m n : SMap β} {k : Nat}
    (hm : m.Pairwise (fun x y => x.1 < y.1)) (hn : n.Pairwise (fun x y => x.1 < y.1))
    (h : ∀ v, (k, v) ∈ m ↔ (k, v) ∈ n) : m.get d k = n.get d k := by
  by_cases hx : ∃ v, (k, v) ∈ m
  · obtain ⟨v, hv⟩ := hx
    rw [SMap.get_of_mem hm hv, SMap.get_of_mem hn ((h v).1 hv)]
  · rw [SMap.get_of_not_mem, SMap.get_of_not_mem]
    · rintro ⟨a, w⟩ hy rfl; exact hx ⟨w, (h w).2 hy⟩
    · rintro ⟨a, w⟩ hy rfl; exact hx ⟨w, hy⟩

end Sys2Proof

namespace Sys2Proof.Machine

/-- The cells written are those of the bytes that are not at their default. -/
theorem mem_cellsOf {d : Nat → Byte} {a : Nat} {l : List Byte} {k : Nat} {v : Byte} :
    (k, v) ∈ cellsOf d a l ↔ a ≤ k ∧ l[k - a]? = some v ∧ v ≠ d k := by
  induction l generalizing a v with
  | nil => simp [cellsOf]
  | cons b t ih =>
    unfold cellsOf
    by_cases hk : k = a
    · subst hk
      have hn : ∀ w, (k, w) ∉ cellsOf d (k + 1) t := fun w hw => by
        have := (ih.1 hw).1; omega
      split
      · rename_i hb
        simp only [hn, false_iff, Nat.sub_self, List.getElem?_cons_zero, Option.some.injEq]
        rintro ⟨-, rfl, h⟩; exact h hb
      · rename_i hb
        simp only [List.mem_cons, Prod.mk.injEq, hn, or_false, true_and, Nat.sub_self,
          List.getElem?_cons_zero, Option.some.injEq, Nat.le_refl]
        constructor
        · rintro rfl; exact ⟨rfl, hb⟩
        · rintro ⟨rfl, -⟩; rfl
    · have e : ∀ (_ : a < k), (b :: t)[k - a]? = t[k - (a + 1)]? := fun h => by
        have : k - a = (k - (a + 1)) + 1 := by omega
        rw [this, List.getElem?_cons_succ]
      split
      · rw [ih]
        constructor
        · rintro ⟨h1, h2, h3⟩; exact ⟨by omega, by rw [e (by omega)]; exact h2, h3⟩
        · rintro ⟨h1, h2, h3⟩; exact ⟨by omega, by rw [← e (by omega)]; exact h2, h3⟩
      · simp only [List.mem_cons, Prod.mk.injEq, hk, false_and, false_or]
        rw [ih]
        constructor
        · rintro ⟨h1, h2, h3⟩; exact ⟨by omega, by rw [e (by omega)]; exact h2, h3⟩
        · rintro ⟨h1, h2, h3⟩; exact ⟨by omega, by rw [← e (by omega)]; exact h2, h3⟩

/-- The cells written rise. -/
theorem pairwise_cellsOf (d : Nat → Byte) (a : Nat) (l : List Byte) :
    (cellsOf d a l).Pairwise (fun x y => x.1 < y.1) := by
  induction l generalizing a with
  | nil => exact List.Pairwise.nil
  | cons b t ih =>
    unfold cellsOf
    split
    · exact ih _
    · rw [List.pairwise_cons]
      refine ⟨?_, ih _⟩
      rintro ⟨k, v⟩ hk
      have := (mem_cellsOf.1 hk).1
      simp only; omega

/-- The cells of a memory after a write rise. -/
theorem pairwise_writeN {m : Mem} (h : m.wf = true) (a : Nat) (l : List Byte) :
    (m.writeN a l).cells.Pairwise (fun x y => x.1 < y.1) := by
  have hm := (SMap.wf_iff.1 h).1
  have hc : ∀ x ∈ cellsOf m.dflt a l, a ≤ x.1 ∧ x.1 < a + l.length := by
    rintro ⟨k, v⟩ hx
    obtain ⟨h1, h2, -⟩ := mem_cellsOf.1 hx
    have := (List.getElem?_eq_some_iff.1 h2).1
    exact ⟨h1, by simp only; omega⟩
  simp only [Mem.writeN]
  rw [List.pairwise_append, List.pairwise_append]
  refine ⟨⟨hm.filter _, pairwise_cellsOf _ _ _, ?_⟩, hm.filter _, ?_⟩
  · intro x hx y hy
    have h1 := (List.mem_filter.1 hx).2
    have h2 := (hc y hy).1
    simp only [decide_eq_true_eq] at h1; omega
  · intro x hx y hy
    have h2 := (List.mem_filter.1 hy).2
    simp only [decide_eq_true_eq] at h2
    rcases List.mem_append.1 hx with h1 | h1
    · have h1 := (List.mem_filter.1 h1).2
      simp only [decide_eq_true_eq] at h1; omega
    · have h1 := (hc x h1).2; omega

/-- What a memory lists after a write. -/
theorem mem_writeN {m : Mem} {a : Nat} {l : List Byte} {k : Nat} {v : Byte} :
    (k, v) ∈ (m.writeN a l).cells ↔
      (k, v) ∈ m.cells ∧ (k < a ∨ a + l.length ≤ k) ∨
        a ≤ k ∧ l[k - a]? = some v ∧ v ≠ m.dflt k := by
  simp only [Mem.writeN, List.mem_append, List.mem_filter, decide_eq_true_eq, mem_cellsOf]
  tauto

/-- Writing bytes keeps a memory's canonical form. -/
@[simp] theorem Mem.wf_writeN {m : Mem} (h : m.wf = true) (a : Nat) (l : List Byte) :
    (m.writeN a l).wf = true := by
  rw [Mem.wf, SMap.wf_iff]
  refine ⟨pairwise_writeN h a l, ?_⟩
  rintro ⟨k, v⟩ hx
  rcases mem_writeN.1 hx with h1 | h1
  · exact (SMap.wf_iff.1 h).2 _ h1.1
  · exact h1.2.2

/-- Writing one byte keeps a memory's canonical form. -/
@[simp] theorem Mem.wf_write {m : Mem} (h : m.wf = true) (a : Nat) (b : Byte) :
    (m.write a b).wf = true := SMap.wf_set (d := m.dflt) h

/-- A memory that lists nothing is in canonical form. -/
@[simp] theorem Mem.wf_nil (n : Option Nat) : (Mem.mk n []).wf = true := rfl

/-- The memory of zeros is in canonical form. -/
@[simp] theorem Mem.wf_zero : Mem.zero.wf = true := rfl

/-- A byte outside a write reads as before. -/
theorem Mem.read_writeN_other {m : Mem} (h : m.wf = true) {a k : Nat} {l : List Byte}
    (hk : k < a ∨ a + l.length ≤ k) : (m.writeN a l).read k = m.read k := by
  refine SMap.get_congr (pairwise_writeN h a l) (SMap.wf_iff.1 h).1 fun v => ?_
  rw [mem_writeN]
  constructor
  · rintro (h1 | ⟨h1, h2, -⟩)
    · exact h1.1
    · have := (List.getElem?_eq_some_iff.1 h2).1; omega
  · exact fun h1 => .inl ⟨h1, hk⟩

/-- A byte of a write reads as written. -/
theorem Mem.read_writeN_same {m : Mem} (h : m.wf = true) {a i : Nat} {l : List Byte} {v : Byte}
    (hi : l[i]? = some v) : (m.writeN a l).read (a + i) = v := by
  have hl := (List.getElem?_eq_some_iff.1 hi).1
  have e : a + i - a = i := by omega
  by_cases hv : v = m.dflt (a + i)
  · rw [Mem.read, SMap.get_of_not_mem]
    · exact hv.symm
    · rintro ⟨k, w⟩ hx rfl
      rcases mem_writeN.1 hx with h1 | ⟨-, h2, h3⟩
      · omega
      · rw [e, hi] at h2
        cases h2; exact h3 hv
  · refine SMap.get_of_mem (pairwise_writeN h a l) (mem_writeN.2 (.inr ⟨by omega, ?_, hv⟩))
    rw [e]; exact hi

/-- A byte written reads as written. -/
theorem Mem.read_write_same {m : Mem} (h : m.wf = true) (a : Nat) (b : Byte) :
    (m.write a b).read a = b := SMap.get_set_same (d := m.dflt) h

/-- Another byte reads as before. -/
theorem Mem.read_write_other {m : Mem} (h : m.wf = true) {a k : Nat} (b : Byte) (hk : k ≠ a) :
    (m.write a b).read k = m.read k := SMap.get_set_other (d := m.dflt) h hk

end Sys2Proof.Machine
end

