-- ==== Sys2Proof/Laws/Kept.lean ====
section
/-! SUPPORT. What every operation keeps: the queue of waiting commands, and the canonical form of the
memories and of the families by number. `State.kept_iff` says what that is in the terms of Safety.lean; the
other Laws/Kept files say it of each operation. -/

namespace Sys2Proof.Machine

/-- A part of `State.Kept`: the queue of the state is `pq`. The queue is named in every part, so that a
proof knows which state the part comes from. -/
def QueueOk (pq : List Instr) (l : List Instr) : Prop := l = pq
/-- A part of `State.Kept`: a memory in canonical form. -/
def MemOk (_pq : List Instr) (m : Mem) : Prop := m.wf = true
/-- A part of `State.Kept`: a family by number in canonical form. -/
def MapOk {β : Type} [DecidableEq β] (_pq : List Instr) (d : Nat → β) (m : SMap β) : Prop :=
  SMap.wf d m = true

/-- The queue is `pq`, and the memories and sparse families are in their canonical form. -/
def State.Kept (pq : List Instr) (s : State) : Prop :=
    QueueOk pq s.pending ∧
    MemOk pq s.dram ∧
    MemOk pq s.plate ∧
    MapOk pq regReset s.regs ∧
    MapOk pq regReset s.postAlm ∧
    MapOk pq State.eccD s.ecc ∧
    MapOk pq State.natD s.scrubRow ∧
    MapOk pq State.tileD s.tiles ∧
    MapOk pq State.tokD s.toks ∧
    MapOk pq State.streamD s.streams ∧
    MapOk pq State.slotD s.slots ∧
    MapOk pq State.progD s.prog ∧
    MapOk pq State.chartD s.charts ∧
    MapOk pq State.pairD s.pairs ∧
    MapOk pq State.pairD s.tgts ∧
    MapOk pq cfgReset s.cfg ∧
    MapOk pq msixReset s.msixTab ∧
    MapOk pq State.portD s.ports ∧
    MapOk pq State.parkD s.parks ∧
    MapOk pq State.pastD s.past ∧
    MapOk pq State.natD s.stepped

/-- An outcome that is a next state keeps. -/
def Kept.out (pq : List Instr) (o : Host.Outcome State Fault Refusal) : Prop :=
  match o with
  | .next t => t.Kept pq
  | _ => True

variable {pq : List Instr} {α : Type}

/-- To keep is to have the queue `pq` and be in canonical form. -/
theorem State.kept_iff {s : State} : s.Kept pq ↔ s.pending = pq ∧ s.Canonical := Iff.rfl

@[simp] theorem Kept.out_next {s : State} : Kept.out pq (.next s) ↔ s.Kept pq := Iff.rfl
@[simp] theorem Kept.out_fault {f : Fault} : Kept.out pq (.fault f) := trivial
@[simp] theorem Kept.out_refused {f : Refusal} : Kept.out pq (.refused f) := trivial

@[simp] theorem State.Kept.pending_ok {s : State} (h : s.Kept pq) : QueueOk pq s.pending :=
  h.1
@[simp] theorem State.Kept.dram_ok {s : State} (h : s.Kept pq) : MemOk pq s.dram :=
  h.2.1
@[simp] theorem State.Kept.plate_ok {s : State} (h : s.Kept pq) : MemOk pq s.plate :=
  h.2.2.1
@[simp] theorem State.Kept.regs_ok {s : State} (h : s.Kept pq) : MapOk pq regReset s.regs :=
  h.2.2.2.1
@[simp] theorem State.Kept.postAlm_ok {s : State} (h : s.Kept pq) : MapOk pq regReset s.postAlm :=
  h.2.2.2.2.1
@[simp] theorem State.Kept.ecc_ok {s : State} (h : s.Kept pq) : MapOk pq State.eccD s.ecc :=
  h.2.2.2.2.2.1
@[simp] theorem State.Kept.scrubRow_ok {s : State} (h : s.Kept pq) : MapOk pq State.natD s.scrubRow :=
  h.2.2.2.2.2.2.1
@[simp] theorem State.Kept.tiles_ok {s : State} (h : s.Kept pq) : MapOk pq State.tileD s.tiles :=
  h.2.2.2.2.2.2.2.1
@[simp] theorem State.Kept.toks_ok {s : State} (h : s.Kept pq) : MapOk pq State.tokD s.toks :=
  h.2.2.2.2.2.2.2.2.1
@[simp] theorem State.Kept.streams_ok {s : State} (h : s.Kept pq) : MapOk pq State.streamD s.streams :=
  h.2.2.2.2.2.2.2.2.2.1
@[simp] theorem State.Kept.slots_ok {s : State} (h : s.Kept pq) : MapOk pq State.slotD s.slots :=
  h.2.2.2.2.2.2.2.2.2.2.1
@[simp] theorem State.Kept.prog_ok {s : State} (h : s.Kept pq) : MapOk pq State.progD s.prog :=
  h.2.2.2.2.2.2.2.2.2.2.2.1
@[simp] theorem State.Kept.charts_ok {s : State} (h : s.Kept pq) : MapOk pq State.chartD s.charts :=
  h.2.2.2.2.2.2.2.2.2.2.2.2.1
@[simp] theorem State.Kept.pairs_ok {s : State} (h : s.Kept pq) : MapOk pq State.pairD s.pairs :=
  h.2.2.2.2.2.2.2.2.2.2.2.2.2.1
@[simp] theorem State.Kept.tgts_ok {s : State} (h : s.Kept pq) : MapOk pq State.pairD s.tgts :=
  h.2.2.2.2.2.2.2.2.2.2.2.2.2.2.1
@[simp] theorem State.Kept.cfg_ok {s : State} (h : s.Kept pq) : MapOk pq cfgReset s.cfg :=
  h.2.2.2.2.2.2.2.2.2.2.2.2.2.2.2.1
@[simp] theorem State.Kept.msixTab_ok {s : State} (h : s.Kept pq) : MapOk pq msixReset s.msixTab :=
  h.2.2.2.2.2.2.2.2.2.2.2.2.2.2.2.2.1
@[simp] theorem State.Kept.ports_ok {s : State} (h : s.Kept pq) : MapOk pq State.portD s.ports :=
  h.2.2.2.2.2.2.2.2.2.2.2.2.2.2.2.2.2.1
@[simp] theorem State.Kept.parks_ok {s : State} (h : s.Kept pq) : MapOk pq State.parkD s.parks :=
  h.2.2.2.2.2.2.2.2.2.2.2.2.2.2.2.2.2.2.1
@[simp] theorem State.Kept.past_ok {s : State} (h : s.Kept pq) : MapOk pq State.pastD s.past :=
  h.2.2.2.2.2.2.2.2.2.2.2.2.2.2.2.2.2.2.2.1
@[simp] theorem State.Kept.stepped_ok {s : State} (h : s.Kept pq) : MapOk pq State.natD s.stepped :=
  h.2.2.2.2.2.2.2.2.2.2.2.2.2.2.2.2.2.2.2.2

@[simp] theorem MemOk.writeN {m : Mem} (h : MemOk pq m) (a : Nat) (l : List Byte) :
    MemOk pq (m.writeN a l) := Mem.wf_writeN h a l
@[simp] theorem MemOk.write {m : Mem} (h : MemOk pq m) (a : Nat) (b : Byte) :
    MemOk pq (m.write a b) := Mem.wf_write h a b
@[simp] theorem MemOk.none (n : Option Nat) : MemOk pq ⟨n, []⟩ := rfl
@[simp] theorem MemOk.zero : MemOk pq Mem.zero := rfl
@[simp] theorem MapOk.set {β : Type} [DecidableEq β] {d : Nat → β} {m : SMap β} (h : MapOk pq d m)
    (o : Nat) (v : β) : MapOk pq d (SMap.set d m o v) := SMap.wf_set h
@[simp] theorem MapOk.setMany {β : Type} [DecidableEq β] {d : Nat → β} {m : SMap β} (h : MapOk pq d m)
    (l : List (Nat × β)) : MapOk pq d (SMap.setMany d m l) := SMap.wf_setMany l h
@[simp] theorem MapOk.filter {β : Type} [DecidableEq β] {d : Nat → β} {m : SMap β} (h : MapOk pq d m)
    (f : Nat × β → Bool) : MapOk pq d (m.filter f) := by
  unfold MapOk at h ⊢
  rw [SMap.wf_iff] at h ⊢
  exact ⟨h.1.filter _, fun x hx => h.2 x (List.mem_filter.1 hx).1⟩
@[simp] theorem MapOk.nil {β : Type} [DecidableEq β] {d : Nat → β} : MapOk pq d [] := rfl

@[simp] theorem State.kept_ite {c : Prop} [Decidable c] {a b : State} :
    State.Kept pq (if c then a else b) ↔ (c → a.Kept pq) ∧ (¬ c → b.Kept pq) := by
  split <;> simp_all

@[simp] theorem kept_foldl {f : State → α → State} (hf : ∀ s x, s.Kept pq → (f s x).Kept pq) (l : List α)
    {s : State} (h : s.Kept pq) : (l.foldl f s).Kept pq := by
  induction l generalizing s with
  | nil => exact h
  | cons x t ih => exact ih (hf _ _ h)

@[simp] theorem kept_foldl_ctx {f : Ctx → α → Ctx} (hf : ∀ c x, c.s.Kept pq → (f c x).s.Kept pq) (l : List α)
    {c : Ctx} (h : c.s.Kept pq) : (l.foldl f c).s.Kept pq := by
  induction l generalizing c with
  | nil => exact h
  | cons x t ih => exact ih (hf _ _ h)

@[simp] theorem kept_foldl_fst {β : Type} {f : State × β → α → State × β}
    (hf : ∀ c x, c.1.Kept pq → (f c x).1.Kept pq) (l : List α)
    {c : State × β} (h : c.1.Kept pq) : (l.foldl f c).1.Kept pq := by
  induction l generalizing c with
  | nil => exact h
  | cons x t ih => exact ih (hf _ _ h)

@[simp] theorem kept_foldl_cfst {β : Type} {f : Ctx × β → α → Ctx × β}
    (hf : ∀ c x, c.1.s.Kept pq → (f c x).1.s.Kept pq) (l : List α)
    {c : Ctx × β} (h : c.1.s.Kept pq) : (l.foldl f c).1.s.Kept pq := by
  induction l generalizing c with
  | nil => exact h
  | cons x t ih => exact ih (hf _ _ h)

@[simp] theorem State.kept_mk (pending' : List Instr)
    (cycle' : Nat)
    (fresh' : Nat)
    (regs' : SMap Word32)
    (postAlm' : SMap Word32)
    (bar0' : PathState)
    (smbPath' : PathState)
    (fePath' : PathState)
    (dram' : Mem)
    (plate' : Mem)
    (ecc' : SMap EccErr)
    (corrQ' : List Nat)
    (scrubRow' : SMap Nat)
    (scrubDone' : List Nat)
    (tiles' : SMap Tile)
    (ops' : List OpRec)
    (posts' : List Post)
    (toks' : SMap Tok)
    (ring' : Ring)
    (streams' : SMap StreamRec)
    (entries' : List Entry)
    (slots' : SMap (Option ExecSlot))
    (mapSeq' : Nat)
    (prog' : SMap Prog)
    (faults' : List (Nat × FaultInfo))
    (gens' : List HandleGen)
    (hcopy' : Option HandleCopy)
    (charts' : SMap ChartRec)
    (pendSigs' : List PendSig)
    (ftime' : Nat)
    (rmt' : List RmtReq)
    (nextTag' : Nat)
    (router' : List Pkt)
    (pairs' : SMap PairSeq)
    (tgts' : SMap PairSeq)
    (out' : List Outbound)
    (held' : List Outbound)
    (cfg' : SMap Word32)
    (msixTab' : SMap Word32)
    (pba' : Nat)
    (msixReq' : List Nat)
    (resetPend' : Option ResetCause)
    (now' : Nat)
    (ports' : SMap Port)
    (fab' : Fabric)
    (flash' : Option FlashPart)
    (copy' : List Byte)
    (update' : Option Update)
    (svnFloor' : Nat)
    (svnBusy' : Bool)
    (pwr' : Power)
    (smb' : Smb)
    (parks' : SMap (Option Park))
    (muxWait' : Option (Nat × Nat))
    (balls' : Nat)
    (tap' : Tap)
    (perst' : Bool)
    (rearm' : List Nat)
    (ephRun' : Option (Nat × Word64 × Word64))
    (sealBase' : Nat)
    (sealSize' : Nat)
    (past' : SMap (Option (Nat × Bool)))
    (stepped' : SMap Nat) :
    State.Kept pq
      ⟨pending', cycle', fresh', regs', postAlm', bar0', smbPath', fePath', dram', plate', ecc',
       corrQ', scrubRow', scrubDone', tiles', ops', posts', toks', ring', streams', entries',
       slots', mapSeq', prog', faults', gens', hcopy', charts', pendSigs', ftime', rmt', nextTag',
       router', pairs', tgts', out', held', cfg', msixTab', pba', msixReq', resetPend', now',
       ports', fab', flash', copy', update', svnFloor', svnBusy', pwr', smb', parks', muxWait',
       balls', tap', perst', rearm', ephRun', sealBase', sealSize', past', stepped'⟩ ↔
    QueueOk pq pending' ∧
    MemOk pq dram' ∧
    MemOk pq plate' ∧
    MapOk pq regReset regs' ∧
    MapOk pq regReset postAlm' ∧
    MapOk pq State.eccD ecc' ∧
    MapOk pq State.natD scrubRow' ∧
    MapOk pq State.tileD tiles' ∧
    MapOk pq State.tokD toks' ∧
    MapOk pq State.streamD streams' ∧
    MapOk pq State.slotD slots' ∧
    MapOk pq State.progD prog' ∧
    MapOk pq State.chartD charts' ∧
    MapOk pq State.pairD pairs' ∧
    MapOk pq State.pairD tgts' ∧
    MapOk pq cfgReset cfg' ∧
    MapOk pq msixReset msixTab' ∧
    MapOk pq State.portD ports' ∧
    MapOk pq State.parkD parks' ∧
    MapOk pq State.pastD past' ∧
    MapOk pq State.natD stepped' := Iff.rfl

end Sys2Proof.Machine

namespace Sys2Proof.Machine
variable {pq : List Instr}

@[simp] theorem State.kept_fst_ite {β : Type} {c : Prop} [Decidable c] {a b : State × β} :
    State.Kept pq (if c then a else b).1 ↔ (c → a.1.Kept pq) ∧ (¬ c → b.1.Kept pq) := by
  split <;> simp_all
@[simp] theorem State.kept_ctx_ite {c : Prop} [Decidable c] {a b : Ctx} :
    State.Kept pq (if c then a else b).s ↔ (c → a.s.Kept pq) ∧ (¬ c → b.s.Kept pq) := by
  split <;> simp_all
@[simp] theorem State.kept_cfst_ite {β : Type} {c : Prop} [Decidable c] {a b : Ctx × β} :
    State.Kept pq (if c then a else b).1.s ↔ (c → a.1.s.Kept pq) ∧ (¬ c → b.1.s.Kept pq) := by
  split <;> simp_all

end Sys2Proof.Machine
end

