-- ==== Sys2Proof/Laws/KeptOps.lean ====
section
/-! SUPPORT. What the operations of Machine/Ops.lean keep: the queue of waiting commands and the canonical
form of the memories and of the families by number. -/

namespace Sys2Proof.Machine
variable {pq : List Instr} {α : Type}

@[simp] theorem State.setReg_kept (s : State) (o : Nat) (v : Nat) (hs : State.Kept pq s) :
    State.Kept pq (State.setReg s o v) := by
  simp +contextual (maxDischargeDepth := 50) [State.setReg, *]

@[simp] theorem State.setFld_kept (s : State) (o : Nat) (hi : Nat) (lo : Nat) (v : Nat) (hs : State.Kept pq s) :
    State.Kept pq (State.setFld s o hi lo v) := by
  simp +contextual (maxDischargeDepth := 50) [State.setFld, *]

@[simp] theorem State.setReg64_kept (s : State) (o : Nat) (v : Nat) (hs : State.Kept pq s) :
    State.Kept pq (State.setReg64 s o v) := by
  simp +contextual (maxDischargeDepth := 50) [State.setReg64, *]

@[simp] theorem State.bump_kept (s : State) (o : Nat) (n : Nat) (hs : State.Kept pq s) :
    State.Kept pq (State.bump s o n) := by
  simp +contextual (maxDischargeDepth := 50) [State.bump, *]

@[simp] theorem State.bump64_kept (s : State) (o : Nat) (n : Nat) (hs : State.Kept pq s) :
    State.Kept pq (State.bump64 s o n) := by
  simp +contextual (maxDischargeDepth := 50) [State.bump64, *]

@[simp] theorem State.bumpFresh_kept (s : State) (hs : State.Kept pq s) :
    State.Kept pq (State.bumpFresh s) := by
  simp +contextual (maxDischargeDepth := 50) [State.bumpFresh, *]

@[simp] theorem State.emit_kept (s : State) (o : Outbound) (hs : State.Kept pq s) :
    State.Kept pq (State.emit s o) := by
  simp +contextual (maxDischargeDepth := 50) [State.emit, *]

@[simp] theorem State.orCfg_kept (s : State) (o : Nat) (v : Nat) (hs : State.Kept pq s) :
    State.Kept pq (State.orCfg s o v) := by
  simp +contextual (maxDischargeDepth := 50) [State.orCfg, *]

@[simp] theorem State.emitHost_kept (s : State) (o : Outbound) (hs : State.Kept pq s) :
    State.Kept pq (State.emitHost s o) := by
  simp +contextual (maxDischargeDepth := 50) [State.emitHost, *]

@[simp] theorem State.issueHeld_kept (s : State) (a0 : List Outbound) (hs : State.Kept pq s) :
    State.Kept pq (State.issueHeld s a0) := by
  fun_induction State.issueHeld s a0 <;> simp_all +contextual (maxDischargeDepth := 50)

@[simp] theorem State.flushHeld_kept (s : State) (hs : State.Kept pq s) :
    State.Kept pq (State.flushHeld s) := by
  simp +contextual (maxDischargeDepth := 50) [State.flushHeld, *]

@[simp] theorem State.requestMsix_kept (s : State) (vec : Nat) (hs : State.Kept pq s) :
    State.Kept pq (State.requestMsix s vec) := by
  simp +contextual (maxDischargeDepth := 50) [State.requestMsix, *]

@[simp] theorem State.aerLog_kept (s : State) (n : Nat) (hs : State.Kept pq s) :
    State.Kept pq (State.aerLog s n) := by
  simp +contextual (maxDischargeDepth := 50) [State.aerLog, *]

@[simp] theorem State.aer_kept (s : State) (n : Nat) (advisory : Bool) (hs : State.Kept pq s) :
    State.Kept pq (State.aer s n advisory) := by
  simp +contextual (maxDischargeDepth := 50) [State.aer, *]

@[simp] theorem State.notice_kept (s : State) (n : Nat) (hs : State.Kept pq s) :
    State.Kept pq (State.notice s n) := by
  simp +contextual (maxDischargeDepth := 50) [State.notice, *]

@[simp] theorem State.memErr_kept (s : State) (u : Nat) (ue : Bool) (byScrub : Bool) (bit : Nat) (hs : State.Kept pq s) :
    State.Kept pq (State.memErr s u ue byScrub bit) := by
  simp +contextual (maxDischargeDepth := 50) [State.memErr, *]

@[simp] theorem State.queueCorr_kept (s : State) (line : Nat) (hs : State.Kept pq s) :
    State.Kept pq (State.queueCorr s line) := by
  simp +contextual (maxDischargeDepth := 50) [State.queueCorr, *]

@[simp] theorem State.eccRead_kept (s : State) (a0 : List (Nat × EccErr)) (hs : State.Kept pq s) :
    State.Kept pq (State.eccRead s a0).1 := by
  fun_induction State.eccRead s a0 <;> grind [State.memErr_kept, State.queueCorr_kept, kept_foldl, kept_foldl_ctx, kept_foldl_fst, kept_foldl_cfst]

@[simp] theorem State.setEcc_kept (s : State) (w : Nat) (e : EccErr) (hs : State.Kept pq s) :
    State.Kept pq (State.setEcc s w e) := by
  simp +contextual (maxDischargeDepth := 50) [State.setEcc, *]

@[simp] theorem State.eccWrite_kept (s : State) (u : Nat) (len : Nat) (a0 : List (Nat × EccErr)) (hs : State.Kept pq s) :
    State.Kept pq (State.eccWrite s u len a0).1 := by
  fun_induction State.eccWrite s u len a0 <;> grind [State.memErr_kept, State.setEcc_kept, kept_foldl, kept_foldl_ctx, kept_foldl_fst, kept_foldl_cfst]

@[simp] theorem State.rawWrite_kept (s : State) (u : Nat) (l : List Byte) (hs : State.Kept pq s) :
    State.Kept pq (State.rawWrite s u l) := by
  unfold State.rawWrite; (repeat' split) <;> simp_all +contextual (maxDischargeDepth := 50)

@[simp] theorem State.readLocal_kept (s : State) (u : Nat) (len : Nat) (hs : State.Kept pq s) :
    State.Kept pq (State.readLocal s u len).1 := by
  simp +contextual (maxDischargeDepth := 50) [State.readLocal, *]

@[simp] theorem State.writeLocal_kept (s : State) (u : Nat) (l : List Byte) (hs : State.Kept pq s) :
    State.Kept pq (State.writeLocal s u l).1 := by
  simp +contextual (maxDischargeDepth := 50) [State.writeLocal, *]

@[simp] theorem State.storeBack_kept (s : State) (u : Nat) (l : List Byte) (hs : State.Kept pq s) :
    State.Kept pq (State.storeBack s u l) := by
  simp +contextual (maxDischargeDepth := 50) [State.storeBack, *]

@[simp] theorem State.havoc_kept (s : State) (u : Nat) (len : Nat) (hs : State.Kept pq s) :
    State.Kept pq (State.havoc s u len) := by
  unfold State.havoc; (repeat' split) <;> simp_all +contextual (maxDischargeDepth := 50)

@[simp] theorem State.rmtOne_kept (s : State) (use : RmtUse) (k : RmtKind) (uda : Nat) (off : Nat) (len : Nat) (data : List Byte) (poison : Bool) (hs : State.Kept pq s) :
    State.Kept pq (State.rmtOne s use k uda off len data poison) := by
  simp +contextual (maxDischargeDepth := 50) [State.rmtOne, *]

@[simp] theorem State.rmtSend_kept (s : State) (use : RmtUse) (k : RmtKind) (uda : Nat) (len : Nat) (data : List Byte) (poison : Bool) (hs : State.Kept pq s) :
    State.Kept pq (State.rmtSend s use k uda len data poison) := by
  simp +contextual (maxDischargeDepth := 50) [State.rmtSend, *]

@[simp] theorem State.rmtFail_kept (s : State) (u : Nat) (status : Nat) (hs : State.Kept pq s) :
    State.Kept pq (State.rmtFail s u status) := by
  simp +contextual (maxDischargeDepth := 50) [State.rmtFail, *]

@[simp] theorem State.setEntry_kept (s : State) (e : Entry) (hs : State.Kept pq s) :
    State.Kept pq (State.setEntry s e) := by
  simp +contextual (maxDischargeDepth := 50) [State.setEntry, *]

@[simp] theorem State.setSlot_kept (s : State) (n : Nat) (x : Option ExecSlot) (hs : State.Kept pq s) :
    State.Kept pq (State.setSlot s n x) := by
  simp +contextual (maxDischargeDepth := 50) [State.setSlot, *]

@[simp] theorem State.setStream_kept (s : State) (n : Nat) (x : StreamRec) (hs : State.Kept pq s) :
    State.Kept pq (State.setStream s n x) := by
  simp +contextual (maxDischargeDepth := 50) [State.setStream, *]

@[simp] theorem State.raise_kept (s : State) (idx : Nat) (f : FaultInfo) (hs : State.Kept pq s) :
    State.Kept pq (State.raise s idx f) := by
  simp +contextual (maxDischargeDepth := 50) [State.raise, *]

@[simp] theorem Ctx.start_kept (s : State) (v : View) (fetched : SMap (Option Byte)) (hs : State.Kept pq s) :
    State.Kept pq (Ctx.start s v fetched).s := by
  simp +contextual (maxDischargeDepth := 50) [Ctx.start, *]

@[simp] theorem Ctx.fail_kept (c : Ctx) (code : FaultCode) (u : Nat) (hc : State.Kept pq c.s) :
    State.Kept pq (Ctx.fail c code u).s := by
  simp +contextual (maxDischargeDepth := 50) [Ctx.fail, *]

@[simp] theorem State.hostErr_kept (s : State) (code : Nat) (iova : Nat) (hs : State.Kept pq s) :
    State.Kept pq (State.hostErr s code iova) := by
  unfold State.hostErr; dsimp only; (repeat' split) <;> apply_rules [State.aer_kept, State.bump_kept, State.orCfg_kept, State.setFld_kept, State.setReg64_kept]

@[simp] theorem Ctx.noteRead_kept (c : Ctx) (u : Nat) (len : Nat) (hc : State.Kept pq c.s) :
    State.Kept pq (Ctx.noteRead c u len).s := by
  simp +contextual (maxDischargeDepth := 50) [Ctx.noteRead, *]

@[simp] theorem Ctx.noteWrite_kept (c : Ctx) (u : Nat) (len : Nat) (hc : State.Kept pq c.s) :
    State.Kept pq (Ctx.noteWrite c u len).s := by
  simp +contextual (maxDischargeDepth := 50) [Ctx.noteWrite, *]

@[simp] theorem Ctx.unnoted_kept (c : Ctx) (d : Ctx) (hc : State.Kept pq c.s) (hd : State.Kept pq d.s) :
    State.Kept pq (Ctx.unnoted c d).s := by
  simp +contextual (maxDischargeDepth := 50) [Ctx.unnoted, *]

@[simp] theorem Ctx.read_kept (c : Ctx) (fe : Bool) (u : Nat) (len : Nat) (hc : State.Kept pq c.s) :
    State.Kept pq (Ctx.read c fe u len).1.s := by
  unfold Ctx.read; grind [Ctx.fail_kept, Ctx.noteRead_kept, State.emitHost_kept, State.hostErr_kept, State.readLocal_kept, State.rmtFail_kept, kept_foldl, kept_foldl_ctx, kept_foldl_fst, kept_foldl_cfst]

@[simp] theorem Ctx.remoteSend_kept (c : Ctx) (k : RmtKind) (u : Nat) (l : List Byte) (hc : State.Kept pq c.s) :
    State.Kept pq (Ctx.remoteSend c k u l).s := by
  unfold Ctx.remoteSend; (repeat' split) <;> simp_all +contextual (maxDischargeDepth := 50)

@[simp] theorem Ctx.write_kept (c : Ctx) (fe : Bool) (relaxed : Bool) (u : Nat) (l : List Byte) (hc : State.Kept pq c.s) :
    State.Kept pq (Ctx.write c fe relaxed u l).s := by
  unfold Ctx.write; (repeat' split) <;> simp_all +contextual (maxDischargeDepth := 50)

@[simp] theorem Ctx.writeLast_kept (c : Ctx) (u : Nat) (l : List Byte) (hc : State.Kept pq c.s) :
    State.Kept pq (Ctx.writeLast c u l).s := by
  simp +contextual (maxDischargeDepth := 50) [Ctx.writeLast, *]

@[simp] theorem Ctx.a48One_kept (c : Ctx) (cl : Nat) (u : Nat) (ys : List Nat) (hc : State.Kept pq c.s) :
    State.Kept pq (Ctx.a48One c cl u ys).s := by
  unfold Ctx.a48One; grind [Ctx.fail_kept, Ctx.noteWrite_kept, Ctx.remoteSend_kept, State.bump_kept, State.readLocal_kept, State.storeBack_kept, kept_foldl, kept_foldl_ctx, kept_foldl_fst, kept_foldl_cfst]

@[simp] theorem Ctx.a48_kept (c : Ctx) (cl : Nat) (u : Nat) (ys : List Nat) (hc : State.Kept pq c.s) :
    State.Kept pq (Ctx.a48 c cl u ys).s := by
  simp +contextual (maxDischargeDepth := 50) [Ctx.a48, *]

@[simp] theorem Ctx.sp16_kept (c : Ctx) (cl : Nat) (u : Nat) (y : Nat) (hc : State.Kept pq c.s) :
    State.Kept pq (Ctx.sp16 c cl u y).s := by
  unfold Ctx.sp16; grind [Ctx.fail_kept, Ctx.remoteSend_kept, State.bump_kept, State.readLocal_kept, State.storeBack_kept, kept_foldl, kept_foldl_ctx, kept_foldl_fst, kept_foldl_cfst]

@[simp] theorem Ctx.readWords_kept (c : Ctx) (fe : Bool) (u : Nat) (n : Nat) (k : Nat) (hc : State.Kept pq c.s) :
    State.Kept pq (Ctx.readWords c fe u n k).1.s := by
  simp +contextual (maxDischargeDepth := 50) [Ctx.readWords, *]

@[simp] theorem Ctx.blur_kept (c : Ctx) (outs : Nat) (held : Nat) (hc : State.Kept pq c.s) :
    State.Kept pq (Ctx.blur c outs held).s := by
  simp +contextual (maxDischargeDepth := 50) [Ctx.blur, *]

@[simp] theorem Ctx.flush_kept (c : Ctx) (use : RmtUse) (hc : State.Kept pq c.s) :
    State.Kept pq (Ctx.flush c use) := by
  simp +contextual (maxDischargeDepth := 50) [Ctx.flush, *]

@[simp] theorem State.fetchMissing_kept (s : State) (use : RmtUse) (miss : List (Nat × Nat)) (hs : State.Kept pq s) :
    State.Kept pq (State.fetchMissing s use miss) := by
  simp +contextual (maxDischargeDepth := 50) [State.fetchMissing, *]

@[simp] theorem State.ownWrite_kept (s : State) (u : Nat) (l : List Byte) (hs : State.Kept pq s) :
    State.Kept pq (State.ownWrite s u l).1 := by
  unfold State.ownWrite; (repeat' split) <;> simp_all +contextual (maxDischargeDepth := 50)

@[simp] theorem State.writeRecord_kept (s : State) (which : Nat) (f : FaultInfo) (c : RecordCtx) (hs : State.Kept pq s) :
    State.Kept pq (State.writeRecord s which f c) := by
  simp +contextual (maxDischargeDepth := 50) [State.writeRecord, *]

@[simp] theorem State.writeDump_kept (s : State) (st : Nat) (l : List Byte) (hs : State.Kept pq s) :
    State.Kept pq (State.writeDump s st l) := by
  simp +contextual (maxDischargeDepth := 50) [State.writeDump, *]

@[simp] theorem State.recordOnly_kept (s : State) (which : Nat) (stream : Nat) (entry : Nat) (f : FaultInfo) (hs : State.Kept pq s) :
    State.Kept pq (State.recordOnly s which stream entry f) := by
  unfold State.recordOnly; dsimp only; (repeat' split) <;> apply_rules [State.writeDump_kept, State.writeRecord_kept]

@[simp] theorem State.halyardRefused_kept (s : State) (stream : Nat) (addr : Nat) (hs : State.Kept pq s) :
    State.Kept pq (State.halyardRefused s stream addr) := by
  simp +contextual (maxDischargeDepth := 50) [State.halyardRefused, *]

@[simp] theorem State.signalFailed_kept (s : State) (use : RmtUse) (code : FaultCode) (addr : Nat) (hs : State.Kept pq s) :
    State.Kept pq (State.signalFailed s use code addr) := by
  unfold State.signalFailed; (repeat' split) <;> simp_all +contextual (maxDischargeDepth := 50)

@[simp] theorem State.signalLost_kept (s : State) (use : RmtUse) (addr : Nat) (hs : State.Kept pq s) :
    State.Kept pq (State.signalLost s use addr) := by
  unfold State.signalLost; (repeat' split) <;> simp_all +contextual (maxDischargeDepth := 50)

@[simp] theorem State.signal_kept (s : State) (use : RmtUse) (poison : Bool) (sg : SigRec) (hs : State.Kept pq s) :
    State.Kept pq (State.signal s use poison sg) := by
  unfold State.signal; grind [Ctx.write_kept, State.emitHost_kept, State.readLocal_kept, State.rmtSend_kept, State.signalFailed_kept, State.signalLost_kept, State.writeLocal_kept, kept_foldl, kept_foldl_ctx, kept_foldl_fst, kept_foldl_cfst]

@[simp] theorem State.signals_kept (s : State) (use : RmtUse) (poison : Bool) (l : List SigRec) (hs : State.Kept pq s) :
    State.Kept pq (State.signals s use poison l) := by
  simp +contextual (maxDischargeDepth := 50) [State.signals, *]

@[simp] theorem State.signalWrite_kept (s : State) (uda : Nat) (value : Nat) (hs : State.Kept pq s) :
    State.Kept pq (State.signalWrite s uda value) := by
  simp +contextual (maxDischargeDepth := 50) [State.signalWrite, *]

end Sys2Proof.Machine
end

