-- ==== Sys2Proof/Laws/KeptOperands.lean ====
section
/-! SUPPORT. What the operations of Machine/Operands.lean keep: the queue of waiting commands and the canonical
form of the memories and of the families by number. -/

namespace Sys2Proof.Machine
variable {pq : List Instr} {α : Type}

@[simp] theorem Ctx.bufRead_kept (c : Ctx) (b : BufInfo) (ofs : Nat) (len : Nat) (hc : State.Kept pq c.s) :
    State.Kept pq (Ctx.bufRead c b ofs len).1.s := by
  unfold Ctx.bufRead; (repeat' split) <;> simp_all +contextual (maxDischargeDepth := 50)

@[simp] theorem Ctx.handleEntry_kept (c : Ctx) (e : OpEnv) (h : Nat) (hc : State.Kept pq c.s) :
    State.Kept pq (Ctx.handleEntry c e h).1.s := by
  unfold Ctx.handleEntry; (repeat' split) <;> simp_all +contextual (maxDischargeDepth := 50)

@[simp] theorem Ctx.relocate_kept (c : Ctx) (e : OpEnv) (u : RefUse) (hc : State.Kept pq c.s) :
    State.Kept pq (Ctx.relocate c e u).1.s := by
  have h1 : ((if e.count then { c with s := c.s.bump Reg.FE_RELOC_REFS 1 } else c : Ctx)).s.Kept pq := by
    split <;> simp [*]
  unfold Ctx.relocate
  generalize (if e.count then { c with s := c.s.bump Reg.FE_RELOC_REFS 1 } else c : Ctx) = c1 at h1
  have h2 := Ctx.handleEntry_kept c1 e (refHandle u.ref) h1
  dsimp only
  generalize c1.handleEntry e (refHandle u.ref) = r at h2
  (repeat' split) <;> assumption

@[simp] theorem Ctx.relocateAll_kept (c : Ctx) (e : OpEnv) (l : List RefUse) (hc : State.Kept pq c.s) :
    State.Kept pq (Ctx.relocateAll c e l).1.s := by
  simp +contextual (maxDischargeDepth := 50) [Ctx.relocateAll, *]

@[simp] theorem Ctx.bad_kept (c : Ctx) (code : FaultCode) (hc : State.Kept pq c.s) :
    State.Kept pq (Ctx.bad c code).s := by
  simp +contextual (maxDischargeDepth := 50) [Ctx.bad, *]

@[simp] theorem Ctx.checkOp_kept (c : Ctx) (e : OpEnv) (w : Nat) (drs : SMap (Option DReg)) (hc : State.Kept pq c.s) :
    State.Kept pq (Ctx.checkOp c e w drs).1.s := by
  unfold Ctx.checkOp; dsimp only; (repeat' split) <;> simp_all +contextual (maxDischargeDepth := 50)

@[simp] theorem Ctx.loadDesc_kept (c : Ctx) (e : OpEnv) (w : Nat) (d : List Byte) (hc : State.Kept pq c.s) :
    State.Kept pq (Ctx.loadDesc c e w d).1.s := by
  unfold Ctx.loadDesc; dsimp only; (repeat' split) <;> first | assumption | apply_rules [Ctx.bad_kept, Ctx.relocate_kept]

end Sys2Proof.Machine
end

