-- ==== Sys2Proof/Laws/KeptTiles.lean ====
section
/-! SUPPORT. What the operations of Machine/Tiles.lean keep: the queue of waiting commands and the canonical
form of the memories and of the families by number. -/

namespace Sys2Proof.Machine
variable {pq : List Instr} {α : Type}

@[simp] theorem State.setTile_kept (s : State) (cl : Nat) (t : Nat) (x : Tile) (hs : State.Kept pq s) :
    State.Kept pq (State.setTile s cl t x) := by
  simp +contextual (maxDischargeDepth := 50) [State.setTile, *]

@[simp] theorem State.junkTile_kept (s : State) (cl : Nat) (t : Nat) (switched : Bool) (js : List Nat) (hs : State.Kept pq s) :
    State.Kept pq (State.junkTile s cl t switched js) := by
  simp +contextual (maxDischargeDepth := 50) [State.junkTile, *]

@[simp] theorem State.switchTile_kept (s : State) (cl : Nat) (t : Nat) (a16 : Bool) (hs : State.Kept pq s) :
    State.Kept pq (State.switchTile s cl t a16) := by
  simp +contextual (maxDischargeDepth := 50) [State.switchTile, *]

end Sys2Proof.Machine
end

