-- ==== Sys2Proof/Laws/KeptLink.lean ====
section
/-! SUPPORT. What the operations of Machine/Link.lean keep: the queue of waiting commands and the canonical
form of the memories and of the families by number. -/

namespace Sys2Proof.Machine
variable {pq : List Instr} {α : Type}

@[simp] theorem State.setPort_kept (s : State) (p : Nat) (x : Port) (hs : State.Kept pq s) :
    State.Kept pq (State.setPort s p x) := by
  simp +contextual (maxDischargeDepth := 50) [State.setPort, *]

@[simp] theorem State.setLink_kept (s : State) (p : Nat) (st : Nat) (rate : Nat) (width : Nat) (hs : State.Kept pq s) :
    State.Kept pq (State.setLink s p st rate width) := by
  simp +contextual (maxDischargeDepth := 50) [State.setLink, *]

@[simp] theorem State.linkEvent_kept (s : State) (p : Nat) (n : Nat) (hs : State.Kept pq s) :
    State.Kept pq (State.linkEvent s p n) := by
  simp +contextual (maxDischargeDepth := 50) [State.linkEvent, *]

@[simp] theorem State.releasePkt_kept (s : State) (k : Pkt) (hs : State.Kept pq s) :
    State.Kept pq (State.releasePkt s k) := by
  unfold State.releasePkt; (repeat' split) <;> simp_all +contextual (maxDischargeDepth := 50)

@[simp] theorem State.txFrame_kept (s : State) (p : Nat) (ftype : Nat) (vc : Nat) (seq : Nat) (payload : List Byte) (hs : State.Kept pq s) :
    State.Kept pq (State.txFrame s p ftype vc seq payload) := by
  simp +contextual (maxDischargeDepth := 50) [State.txFrame, *]

@[simp] theorem State.sendData_kept (s : State) (p : Nat) (vc : Nat) (payload : List Byte) (hs : State.Kept pq s) :
    State.Kept pq (State.sendData s p vc payload) := by
  simp +contextual (maxDischargeDepth := 50) [State.sendData, *]

@[simp] theorem State.resend_kept (s : State) (p : Nat) (l : List RetryRec) (hs : State.Kept pq s) :
    State.Kept pq (State.resend s p l) := by
  simp +contextual (maxDischargeDepth := 50) [State.resend, *]

@[simp] theorem State.pumpResend_kept (s : State) (p : Nat) (a0 : Nat) (hs : State.Kept pq s) :
    State.Kept pq (State.pumpResend s p a0) := by
  fun_induction State.pumpResend s p a0 <;> grind [State.resend_kept, State.setPort_kept, kept_foldl, kept_foldl_ctx, kept_foldl_fst, kept_foldl_cfst]

@[simp] theorem State.pumpMgt_kept (s : State) (p : Nat) (a0 : List (List Byte)) (hs : State.Kept pq s) :
    State.Kept pq (State.pumpMgt s p a0) := by
  fun_induction State.pumpMgt s p a0 <;> simp_all +contextual (maxDischargeDepth := 50)

@[simp] theorem State.pump_kept (s : State) (p : Nat) (hs : State.Kept pq s) :
    State.Kept pq (State.pump s p) := by
  simp +contextual (maxDischargeDepth := 50) [State.pump, *]

@[simp] theorem State.sendMgt_kept (s : State) (p : Nat) (payload : List Byte) (hs : State.Kept pq s) :
    State.Kept pq (State.sendMgt s p payload) := by
  simp +contextual (maxDischargeDepth := 50) [State.sendMgt, *]

@[simp] theorem State.noteFrame_kept (s : State) (p : Nat) (f : List Byte) (hs : State.Kept pq s) :
    State.Kept pq (State.noteFrame s p f) := by
  simp +contextual (maxDischargeDepth := 50) [State.noteFrame, *]

@[simp] theorem State.badFrame_kept (s : State) (p : Nat) (f : List Byte) (c : FrameCheck) (hs : State.Kept pq s) :
    State.Kept pq (State.badFrame s p f c) := by
  simp +contextual (maxDischargeDepth := 50) [State.badFrame, *]

@[simp] theorem State.settling_kept (s : State) (hs : State.Kept pq s) :
    State.Kept pq (State.settling s) := by
  simp +contextual (maxDischargeDepth := 50) [State.settling, *]

@[simp] theorem State.flood_kept (s : State) (skip : Option Nat) (a : Advert) (hs : State.Kept pq s) :
    State.Kept pq (State.flood s skip a) := by
  simp +contextual (maxDischargeDepth := 50) [State.flood, *]

@[simp] theorem State.originate_kept (s : State) (skip : Option Nat) (hs : State.Kept pq s) :
    State.Kept pq (State.originate s skip) := by
  simp +contextual (maxDischargeDepth := 50) [State.originate, *]

@[simp] theorem State.advanceEpoch_kept (s : State) (skip : Option Nat) (hs : State.Kept pq s) :
    State.Kept pq (State.advanceEpoch s skip) := by
  simp +contextual (maxDischargeDepth := 50) [State.advanceEpoch, *]

@[simp] theorem State.adoptEpoch_kept (s : State) (e : Nat) (hs : State.Kept pq s) :
    State.Kept pq (State.adoptEpoch s e) := by
  simp +contextual (maxDischargeDepth := 50) [State.adoptEpoch, *]

@[simp] theorem State.linkDiscard_kept (s : State) (p : Nat) (hs : State.Kept pq s) :
    State.Kept pq (State.linkDiscard s p) := by
  simp +contextual (maxDischargeDepth := 50) [State.linkDiscard, *]

@[simp] theorem State.linkDown_kept (s : State) (p : Nat) (cause : Option Nat) (hs : State.Kept pq s) :
    State.Kept pq (State.linkDown s p cause) := by
  unfold State.linkDown; (repeat' split) <;> simp_all +contextual (maxDischargeDepth := 50)

@[simp] theorem State.goodbye_kept (s : State) (p : Nat) (cause : Option Nat) (hs : State.Kept pq s) :
    State.Kept pq (State.goodbye s p cause) := by
  simp +contextual (maxDischargeDepth := 50) [State.goodbye, *]

@[simp] theorem State.enterInit_kept (s : State) (p : Nat) (rate : Nat) (width : Nat) (hs : State.Kept pq s) :
    State.Kept pq (State.enterInit s p rate width) := by
  simp +contextual (maxDischargeDepth := 50) [State.enterInit, *]

@[simp] theorem State.enterDetect_kept (s : State) (p : Nat) (hs : State.Kept pq s) :
    State.Kept pq (State.enterDetect s p) := by
  simp +contextual (maxDischargeDepth := 50) [State.enterDetect, *]

@[simp] theorem State.recordPeer_kept (s : State) (p : Nat) (pl : List Byte) (hs : State.Kept pq s) :
    State.Kept pq (State.recordPeer s p pl) := by
  simp +contextual (maxDischargeDepth := 50) [State.recordPeer, *]

@[simp] theorem State.initTake_kept (s : State) (p : Nat) (pl : List Byte) (hs : State.Kept pq s) :
    State.Kept pq (State.initTake s p pl) := by
  simp +contextual (maxDischargeDepth := 50) [State.initTake, *]

@[simp] theorem State.linkEnter_kept (s : State) (p : Nat) (st : Nat) (hs : State.Kept pq s) :
    State.Kept pq (State.linkEnter s p st) := by
  simp +contextual (maxDischargeDepth := 50) [State.linkEnter, *]

@[simp] theorem State.initEnd_kept (s : State) (p : Nat) (pl : List Byte) (hs : State.Kept pq s) :
    State.Kept pq (State.initEnd s p pl) := by
  simp +contextual (maxDischargeDepth := 50) [State.initEnd, *]

@[simp] theorem State.trainUs_kept (s : State) (p : Nat) (hs : State.Kept pq s) :
    State.Kept pq (State.trainUs s p) := by
  simp +contextual (maxDischargeDepth := 50) [State.trainUs, *]

end Sys2Proof.Machine
end

