-- ==== Sys2Proof/Laws/KeptLinks.lean ====
section
/-! SUPPORT. What the operations of Machine/Links.lean keep: the queue of waiting commands and the canonical
form of the memories and of the families by number. -/

namespace Sys2Proof.Machine
variable {pq : List Instr} {α : Type}

@[simp] theorem State.speedFallback_kept (s : State) (p : Nat) (hs : State.Kept pq s) :
    State.Kept pq (State.speedFallback s p) := by
  simp +contextual (maxDischargeDepth := 50) [State.speedFallback, *]

@[simp] theorem State.dataFrame_kept (s : State) (p : Nat) (f : List Byte) (hs : State.Kept pq s) :
    State.Kept pq (State.dataFrame s p f) := by
  simp +contextual (maxDischargeDepth := 50) [State.dataFrame, *]

@[simp] theorem State.linkCtrl_kept (s : State) (p : Nat) (was : Bool) (hs : State.Kept pq s) :
    State.Kept pq (State.linkCtrl s p was) := by
  simp +contextual (maxDischargeDepth := 50) [State.linkCtrl, *]

end Sys2Proof.Machine
end

