-- ==== Sys2Proof/Laws/KeptRecords.lean ====
section
/-! SUPPORT. What the operations of Machine/Records.lean keep: the queue of waiting commands and the canonical
form of the memories and of the families by number. -/

namespace Sys2Proof.Machine
variable {pq : List Instr} {α : Type}

@[simp] theorem State.faultOp_kept (s : State) (slot : Nat) (node : Nat) (ofs : Nat) (part : Nat × Nat) (code : FaultCode) (addr : Nat) (hs : State.Kept pq s) :
    State.Kept pq (State.faultOp s slot node ofs part code addr) := by
  unfold State.faultOp; (repeat' split) <;> simp_all +contextual (maxDischargeDepth := 50)

@[simp] theorem State.faultAt_kept (s : State) (slot : Nat) (node : Nat) (ofs : Nat) (code : FaultCode) (addr : Nat) (hs : State.Kept pq s) :
    State.Kept pq (State.faultAt s slot node ofs code addr) := by
  simp +contextual (maxDischargeDepth := 50) [State.faultAt, *]

@[simp] theorem State.rmtFailed_kept (s : State) (r : RmtReq) (status : Nat) (hs : State.Kept pq s) :
    State.Kept pq (State.rmtFailed s r status) := by
  unfold State.rmtFailed; dsimp only; (repeat' split) <;> simp_all +contextual (maxDischargeDepth := 50)

@[simp] theorem State.unsyncFaults_kept (s : State) (hs : State.Kept pq s) :
    State.Kept pq (State.unsyncFaults s) := by
  simp +contextual (maxDischargeDepth := 50) [State.unsyncFaults, *]

@[simp] theorem State.holdSigs_kept (s : State) (w : SigWhen) (poison : Bool) (sigs : List SigRec) (hs : State.Kept pq s) :
    State.Kept pq (State.holdSigs s w poison sigs) := by
  simp +contextual (maxDischargeDepth := 50) [State.holdSigs, *]

@[simp] theorem State.firePend_kept (s : State) (p : SigWhen → Bool) (hs : State.Kept pq s) :
    State.Kept pq (State.firePend s p) := by
  simp +contextual (maxDischargeDepth := 50) [State.firePend, *]

@[simp] theorem State.checkPend_kept (s : State) (hs : State.Kept pq s) :
    State.Kept pq (State.checkPend s) := by
  simp +contextual (maxDischargeDepth := 50) [State.checkPend, *]

@[simp] theorem State.endRmt_kept (s : State) (r : RmtReq) (hs : State.Kept pq s) :
    State.Kept pq (State.endRmt s r) := by
  simp +contextual (maxDischargeDepth := 50) [State.endRmt, *]

@[simp] theorem State.resultWrite_kept (s : State) (u : Nat) (l : List Byte) (hs : State.Kept pq s) :
    State.Kept pq (State.resultWrite s u l).1 := by
  unfold State.resultWrite; grind [State.ownWrite_kept, State.signalFailed_kept, State.signal_kept, kept_foldl, kept_foldl_ctx, kept_foldl_fst, kept_foldl_cfst]

@[simp] theorem State.resultSignals_kept (s : State) (u : Nat) (l : List Byte) (poison : Bool) (sigs : List SigRec) (hs : State.Kept pq s) :
    State.Kept pq (State.resultSignals s u l poison sigs) := by
  simp +contextual (maxDischargeDepth := 50) [State.resultSignals, *]

end Sys2Proof.Machine
end

