-- ==== Sys2Proof/Laws/KeptFabric.lean ====
section
/-! SUPPORT. What the operations of Machine/Fabric.lean keep: the queue of waiting commands and the canonical
form of the memories and of the families by number. -/

namespace Sys2Proof.Machine
variable {pq : List Instr} {α : Type}

@[simp] theorem State.setUnsync_kept (s : State) (unsync : Bool) (stepped : Bool) (hs : State.Kept pq s) :
    State.Kept pq (State.setUnsync s unsync stepped) := by
  simp +contextual (maxDischargeDepth := 50) [State.setUnsync, *]

@[simp] theorem State.shiftTime_kept (s : State) (d : Int) (hs : State.Kept pq s) :
    State.Kept pq (State.shiftTime s d) := by
  simp +contextual (maxDischargeDepth := 50) [State.shiftTime, *]

@[simp] theorem State.timeBound_kept (s : State) (bound : Nat) (stepped : Bool) (hs : State.Kept pq s) :
    State.Kept pq (State.timeBound s bound stepped) := by
  simp +contextual (maxDischargeDepth := 50) [State.timeBound, *]

@[simp] theorem State.exchange_kept (s : State) (h : HelloRec) (tw : Int) (hs : State.Kept pq s) :
    State.Kept pq (State.exchange s h tw) := by
  simp +contextual (maxDischargeDepth := 50) [State.exchange, *]

@[simp] theorem State.storeAdvert_kept (s : State) (a : Advert) (hs : State.Kept pq s) :
    State.Kept pq (State.storeAdvert s a).1 := by
  unfold State.storeAdvert; (repeat' split) <;> simp_all +contextual (maxDischargeDepth := 50)

@[simp] theorem State.writeMap_kept (s : State) (old : List MapEnt) (oldState : Nat) (hs : State.Kept pq s) :
    State.Kept pq (State.writeMap s old oldState) := by
  simp +contextual (maxDischargeDepth := 50) [State.writeMap, *]

@[simp] theorem State.settleReq_kept (s : State) (remapped : Bool) (r : RmtReq) (hs : State.Kept pq s) :
    State.Kept pq (State.settleReq s remapped r) := by
  unfold State.settleReq; dsimp only; (repeat' split) <;> simp_all +contextual (maxDischargeDepth := 50)

@[simp] theorem State.renewPairs_kept (s : State) (remapped : Bool) (hs : State.Kept pq s) :
    State.Kept pq (State.renewPairs s remapped) := by
  simp +contextual (maxDischargeDepth := 50) [State.renewPairs, *]

@[simp] theorem State.settle_kept (s : State) (hs : State.Kept pq s) :
    State.Kept pq (State.settle s) := by
  unfold State.settle
  extract_lets comp m oldMap oldState oldPorts oldAddr oldMapping own kept remapped sn s1 root newMap fb s2 s3 s4 sp s5 s6 ep s7 s8 s9 s10
  clear_value own m
  have h1 : s1.Kept pq := by simp only [s1, sn]; (repeat' split) <;> simp (maxDischargeDepth := 50) [hs]
  clear_value s1
  have h4 : s4.Kept pq := by simp (maxDischargeDepth := 50) [s4, s3, s2, h1]
  clear_value s4
  have h5 : s5.Kept pq := by simp only [s5, sp]; (repeat' split) <;> simp (maxDischargeDepth := 50) [h4]
  clear_value s5
  have h7 : s7.Kept pq := by simp (maxDischargeDepth := 50) [s7, s6, h5]
  clear_value s7
  have h8 : s8.Kept pq := kept_foldl (fun w r h => by simp (maxDischargeDepth := 50) [h]) _ h7
  clear_value s8
  have h9 : s9.Kept pq := by simp (maxDischargeDepth := 50) [s9, h8]
  clear_value s9
  have h10 : s10.Kept pq := by simp only [s10]; split <;> simp (maxDischargeDepth := 50) [h9]
  clear_value s10
  simp (maxDischargeDepth := 50) [h10]

end Sys2Proof.Machine
end

