-- ==== Sys2Proof/Laws/KeptRouter.lean ====
section
/-! SUPPORT. What the operations of Machine/Router.lean keep: the queue of waiting commands and the canonical
form of the memories and of the families by number. -/

namespace Sys2Proof.Machine
variable {pq : List Instr} {α : Type}

@[simp] theorem State.answer_kept (s : State) (k : Pkt) (ptype : Nat) (status : Nat) (pseq : Nat) (data : List Byte) (hs : State.Kept pq s) :
    State.Kept pq (State.answer s k ptype status pseq data) := by
  simp +contextual (maxDischargeDepth := 50) [State.answer, *]

@[simp] theorem State.dropPkt_kept (s : State) (k : Pkt) (status : Nat) (hs : State.Kept pq s) :
    State.Kept pq (State.dropPkt s k status) := by
  simp +contextual (maxDischargeDepth := 50) [State.dropPkt, *]

@[simp] theorem State.dropStale_kept (s : State) (k : Pkt) (hs : State.Kept pq s) :
    State.Kept pq (State.dropStale s k) := by
  simp +contextual (maxDischargeDepth := 50) [State.dropStale, *]

@[simp] theorem State.hop_kept (s : State) (k : Pkt) (a0 : Hop) (hs : State.Kept pq s) :
    State.Kept pq (State.hop s k a0) := by
  unfold State.hop; (repeat' split) <;> simp_all +contextual (maxDischargeDepth := 50)

@[simp] theorem State.applyAdd_kept (s : State) (u : Nat) (n : Nat) (data : List Byte) (f : List Nat → List Nat → List Nat × Nat) (hs : State.Kept pq s) :
    State.Kept pq (State.applyAdd s u n data f).s := by
  unfold State.applyAdd; grind [State.readLocal_kept, State.storeBack_kept, kept_foldl, kept_foldl_ctx, kept_foldl_fst, kept_foldl_cfst]

@[simp] theorem State.applyReq_kept (s : State) (k : Pkt) (hs : State.Kept pq s) :
    State.Kept pq (State.applyReq s k).s := by
  unfold State.applyReq; grind [Ctx.sp16_kept, State.applyAdd_kept, State.readLocal_kept, State.storeBack_kept, State.writeLocal_kept, kept_foldl, kept_foldl_ctx, kept_foldl_fst, kept_foldl_cfst]

@[simp] theorem Applied.answer_kept (a : Applied) (k : Pkt) (rsp : Nat) (ha : State.Kept pq a.s) :
    State.Kept pq (Applied.answer a k rsp) := by
  simp +contextual (maxDischargeDepth := 50) [Applied.answer, *]

@[simp] theorem State.setPair_kept (s : State) (src : Nat) (p : PairSeq) (hs : State.Kept pq s) :
    State.Kept pq (State.setPair s src p) := by
  simp +contextual (maxDischargeDepth := 50) [State.setPair, *]

@[simp] theorem State.serve_kept (s : State) (k : Pkt) (hs : State.Kept pq s) :
    State.Kept pq (State.serve s k) := by
  simp +contextual (maxDischargeDepth := 50) [State.serve, *]

@[simp] theorem State.serveType_kept (s : State) (t : Nat) (hs : State.Kept pq s) :
    State.Kept pq (State.serveType s t) := by
  unfold State.serveType; (repeat' split) <;> simp_all +contextual (maxDischargeDepth := 50)

theorem State.takeAnswer_kept (s : State) (p : Nat → Bool) (hs : State.Kept pq s) :
    ∀ y, (State.takeAnswer s p) = some y → State.Kept pq y.1 := by
  unfold State.takeAnswer; dsimp only; (repeat' split) <;> simp_all +contextual (maxDischargeDepth := 50)

@[simp] theorem State.resendPair_kept (s : State) (dst : Nat) (next : Nat) (hs : State.Kept pq s) :
    State.Kept pq (State.resendPair s dst next) := by
  simp +contextual (maxDischargeDepth := 50) [State.resendPair, *]

end Sys2Proof.Machine
end

