-- ==== Sys2Proof/Laws/KeptMemEvents.lean ====
section
/-! SUPPORT. What the operations of Machine/MemEvents.lean keep: the queue of waiting commands and the canonical
form of the memories and of the families by number. -/

namespace Sys2Proof.Machine
variable {pq : List Instr} {α : Type}

@[simp] theorem State.upset_kept (s : State) (w : Nat) (bit : Nat) (hs : State.Kept pq s) :
    State.Kept pq (State.upset s w bit) := by
  simp +contextual (maxDischargeDepth := 50) [State.upset, *]

@[simp] theorem State.scrubLine_kept (s : State) (u : Nat) (hs : State.Kept pq s) :
    State.Kept pq (State.scrubLine s u) := by
  unfold State.scrubLine; grind [State.memErr_kept, State.setEcc_kept, kept_foldl, kept_foldl_ctx, kept_foldl_fst, kept_foldl_cfst]

@[simp] theorem State.scrubBank_kept (s : State) (unit : Nat) (hs : State.Kept pq s) :
    State.Kept pq (State.scrubBank s unit) := by
  simp +contextual (maxDischargeDepth := 50) [State.scrubBank, *]

@[simp] theorem State.scrubChannel_kept (s : State) (c : Nat) (hs : State.Kept pq s) :
    State.Kept pq (State.scrubChannel s c) := by
  simp +contextual (maxDischargeDepth := 50) [State.scrubChannel, *]

end Sys2Proof.Machine
end

