-- ==== Sys2Proof/Laws/KeptPins.lean ====
section
/-! SUPPORT. What the operations of Machine/Pins.lean keep: the queue of waiting commands and the canonical
form of the memories and of the families by number. -/

namespace Sys2Proof.Machine
variable {pq : List Instr} {α : Type}

@[simp] theorem State.startSwitch_kept (s : State) (n : Nat) (f : Nat) (hs : State.Kept pq s) :
    State.Kept pq (State.startSwitch s n f) := by
  simp +contextual (maxDischargeDepth := 50) [State.startSwitch, *]

@[simp] theorem State.switchTo_kept (s : State) (n : Nat) (f : Nat) (hs : State.Kept pq s) :
    State.Kept pq (State.switchTo s n f) := by
  simp +contextual (maxDischargeDepth := 50) [State.switchTo, *]

@[simp] theorem State.tapSelect_kept (s : State) (ir : Nat) (drive : Nat) (debug : Bool) (hs : State.Kept pq s) :
    State.Kept pq (State.tapSelect s ir drive debug) := by
  simp +contextual (maxDischargeDepth := 50) [State.tapSelect, *]

@[simp] theorem State.tapBypassed_kept (s : State) (hs : State.Kept pq s) :
    State.Kept pq (State.tapBypassed s) := by
  simp +contextual (maxDischargeDepth := 50) [State.tapBypassed, *]

end Sys2Proof.Machine
end

