-- ==== Sys2Proof/Laws/KeptPower.lean ====
section
/-! SUPPORT. What the operations of Machine/Power.lean keep: the queue of waiting commands and the canonical
form of the memories and of the families by number. -/

namespace Sys2Proof.Machine
variable {pq : List Instr} {α : Type}

@[simp] theorem State.setPwr_kept (s : State) (f : Power → Power) (hs : State.Kept pq s) :
    State.Kept pq (State.setPwr s f) := by
  simp +contextual (maxDischargeDepth := 50) [State.setPwr, *]

@[simp] theorem State.wmTest_kept (s : State) (w : Nat) (x : Nat) (hs : State.Kept pq s) :
    State.Kept pq (State.wmTest s w x) := by
  unfold State.wmTest; dsimp only; (repeat' split) <;> simp_all +contextual (maxDischargeDepth := 50)

@[simp] theorem State.pmbStart_kept (s : State) (write : Bool) (word : Nat) (hs : State.Kept pq s) :
    State.Kept pq (State.pmbStart s write word) := by
  simp +contextual (maxDischargeDepth := 50) [State.pmbStart, *]

@[simp] theorem State.endChange_kept (s : State) (hs : State.Kept pq s) :
    State.Kept pq (State.endChange s) := by
  simp +contextual (maxDischargeDepth := 50) [State.endChange, *]

@[simp] theorem State.startChange_kept (s : State) (target : Nat) (hs : State.Kept pq s) :
    State.Kept pq (State.startChange s target) := by
  simp +contextual (maxDischargeDepth := 50) [State.startChange, *]

@[simp] theorem State.brakeNext_kept (s : State) (hs : State.Kept pq s) :
    State.Kept pq (State.brakeNext s) := by
  simp +contextual (maxDischargeDepth := 50) [State.brakeNext, *]

@[simp] theorem State.pmbFail_kept (s : State) (hs : State.Kept pq s) :
    State.Kept pq (State.pmbFail s) := by
  simp +contextual (maxDischargeDepth := 50) [State.pmbFail, *]

@[simp] theorem State.pmbNext_kept (s : State) (t : PmbTrans) (hs : State.Kept pq s) :
    State.Kept pq (State.pmbNext s t) := by
  unfold State.pmbNext; grind [Ctx.write_kept, State.brakeNext_kept, State.endChange_kept, State.pmbStart_kept, State.setPwr_kept, kept_foldl, kept_foldl_ctx, kept_foldl_fst, kept_foldl_cfst]

@[simp] theorem State.muxRelease_kept (s : State) (hs : State.Kept pq s) :
    State.Kept pq (State.muxRelease s) := by
  unfold State.muxRelease; dsimp only; (repeat' split) <;> simp_all +contextual (maxDischargeDepth := 50)

@[simp] theorem State.opSwitch_kept (s : State) (c : OpChange) (hs : State.Kept pq s) :
    State.Kept pq (State.opSwitch s c) := by
  simp +contextual (maxDischargeDepth := 50) [State.opSwitch, *]

@[simp] theorem State.govern_kept (s : State) (p : Nat) (hs : State.Kept pq s) :
    State.Kept pq (State.govern s p) := by
  unfold State.govern; grind [State.setFld_kept, State.setPwr_kept, State.startChange_kept, kept_foldl, kept_foldl_ctx, kept_foldl_fst, kept_foldl_cfst]

@[simp] theorem State.throttleEdge_kept (s : State) (hs : State.Kept pq s) :
    State.Kept pq (State.throttleEdge s) := by
  simp +contextual (maxDischargeDepth := 50) [State.throttleEdge, *]

@[simp] theorem State.telemGrant_kept (s : State) (hs : State.Kept pq s) :
    State.Kept pq (State.telemGrant s) := by
  unfold State.telemGrant; (repeat' split) <;> simp_all +contextual (maxDischargeDepth := 50)

@[simp] theorem State.muxWrite_kept (s : State) (n : Nat) (f : Nat) (hs : State.Kept pq s) :
    State.Kept pq (State.muxWrite s n f) := by
  unfold State.muxWrite; (repeat' split) <;> simp_all +contextual (maxDischargeDepth := 50)

@[simp] theorem State.pmbPins_kept (s : State) (n : Nat) (hs : State.Kept pq s) :
    State.Kept pq (State.pmbPins s n) := by
  simp +contextual (maxDischargeDepth := 50) [State.pmbPins, *]

end Sys2Proof.Machine
end

