-- ==== Sys2Proof/Laws/KeptBoot.lean ====
section
/-! SUPPORT. What the operations of Machine/Boot.lean keep: the queue of waiting commands and the canonical
form of the memories and of the families by number. -/

namespace Sys2Proof.Machine
variable {pq : List Instr} {α : Type}

@[simp] theorem State.setStep_kept (s : State) (n : Nat) (hs : State.Kept pq s) :
    State.Kept pq (State.setStep s n) := by
  simp +contextual (maxDischargeDepth := 50) [State.setStep, *]

@[simp] theorem State.flashHello_kept (s : State) (hs : State.Kept pq s) :
    State.Kept pq (State.flashHello s) := by
  simp +contextual (maxDischargeDepth := 50) [State.flashHello, *]

@[simp] theorem State.applyIdent_kept (s : State) (l : List Byte) (hs : State.Kept pq s) :
    State.Kept pq (State.applyIdent s l) := by
  simp +contextual (maxDischargeDepth := 50) [State.applyIdent, *]

@[simp] theorem State.flashInfo_kept (s : State) (f : FlashPart) (hs : State.Kept pq s) :
    State.Kept pq (State.flashInfo s f) := by
  simp +contextual (maxDischargeDepth := 50) [State.flashInfo, *]

@[simp] theorem State.applyPins_kept (s : State) (v : Option (List Byte)) (hs : State.Kept pq s) :
    State.Kept pq (State.applyPins s v) := by
  simp +contextual (maxDischargeDepth := 50) [State.applyPins, *]

@[simp] theorem State.applySettings_kept (s : State) (r : List (Nat × List Byte)) (hs : State.Kept pq s) :
    State.Kept pq (State.applySettings s r) := by
  unfold State.applySettings; dsimp only; (repeat' split) <;> simp_all +contextual (maxDischargeDepth := 50)

@[simp] theorem State.applyCopy_kept (s : State) (f : Option FlashPart) (hs : State.Kept pq s) :
    State.Kept pq (State.applyCopy s f) := by
  unfold State.applyCopy; (repeat' split) <;> simp_all +contextual (maxDischargeDepth := 50)

@[simp] theorem State.applyFuses_kept (s : State) (hs : State.Kept pq s) :
    State.Kept pq (State.applyFuses s) := by
  simp +contextual (maxDischargeDepth := 50) [State.applyFuses, *]

@[simp] theorem State.startFw_kept (s : State) (n : Nat) (l : List Byte) (hs : State.Kept pq s) :
    State.Kept pq (State.startFw s n l) := by
  simp +contextual (maxDischargeDepth := 50) [State.startFw, *]

@[simp] theorem State.startFabric_kept (s : State) (hs : State.Kept pq s) :
    State.Kept pq (State.startFabric s) := by
  simp +contextual (maxDischargeDepth := 50) [State.startFabric, *]

@[simp] theorem State.issueFlash_kept (s : State) (hs : State.Kept pq s) :
    State.Kept pq (State.issueFlash s) := by
  unfold State.issueFlash; (repeat' split) <;> simp_all +contextual (maxDischargeDepth := 50)

@[simp] theorem State.flashResult_kept (s : State) (code : Nat) (seq : Option Nat) (tag : Option Nat) (result : Nat) (sigs : List SigRec) (hs : State.Kept pq s) :
    State.Kept pq (State.flashResult s code seq tag result sigs) := by
  simp +contextual (maxDischargeDepth := 50) [State.flashResult, *]

@[simp] theorem State.beginUpdate_kept (s : State) (k : UpdKind) (seq : Nat) (base : Nat) (l : List Byte) (result : Nat) (sigs : List SigRec) (hs : State.Kept pq s) :
    State.Kept pq (State.beginUpdate s k seq base l result sigs) := by
  simp +contextual (maxDischargeDepth := 50) [State.beginUpdate, *]

@[simp] theorem State.rearmed_kept (s : State) (n : Nat) (hs : State.Kept pq s) :
    State.Kept pq (State.rearmed s n).1 := by
  simp +contextual (maxDischargeDepth := 50) [State.rearmed, *]

@[simp] theorem State.placedImage_kept (s : State) (hs : State.Kept pq s) :
    State.Kept pq s.placedImage.1 := by
  have h := fun o => State.readLocal_kept s o 0x200 hs
  unfold State.placedImage
  extract_lets o
  clear_value o
  specialize h o
  split
  · exact hs
  split
  · rename_i heq; rw [heq] at h; exact h
  · rename_i heq
    rw [heq] at h
    dsimp only
    split
    · exact h
    · exact State.readLocal_kept _ _ _ h

@[simp] theorem State.recover_kept (s : State) (hs : State.Kept pq s) : State.Kept pq s.recover := by
  have h := State.placedImage_kept s hs
  unfold State.recover
  generalize s.placedImage = r at h
  obtain ⟨t, l⟩ := r
  dsimp only at h ⊢
  (repeat' split) <;> simp_all

@[simp] theorem State.startRecovery_kept (s : State) (hs : State.Kept pq s) :
    State.Kept pq s.startRecovery := by
  have h := State.recover_kept _ (State.setFld_kept s Reg.ALM_RECOVERY 0 0 1 hs)
  unfold State.startRecovery
  extract_lets t
  have ht : State.Kept pq t := h
  clear_value t
  (repeat' split) <;> first | exact ht | exact State.setFld_kept _ _ _ _ _ ht

@[simp] theorem State.recoveryDone_kept (s : State) (hs : State.Kept pq s) :
    State.Kept pq s.recoveryDone := by
  have h := State.rearmed_kept s 1 hs
  unfold State.recoveryDone
  split <;> rename_i heq <;> rw [heq] at h
  · exact State.startRecovery_kept _ h
  · exact State.setFld_kept _ _ _ _ _ h

@[simp] theorem State.endUpdate_kept (s : State) (u : Update) (code : Nat) (hs : State.Kept pq s) :
    State.Kept pq (State.endUpdate s u code) := by
  unfold State.endUpdate; dsimp only; (repeat' split) <;> simp_all +contextual (maxDischargeDepth := 50)

@[simp] theorem State.almanacUpdate_kept (s : State) (tlv : List Byte) (result : Nat) (sigs : List SigRec) (hs : State.Kept pq s) :
    State.Kept pq (State.almanacUpdate s tlv result sigs) := by
  unfold State.almanacUpdate; (repeat' split) <;> simp_all +contextual (maxDischargeDepth := 50)

@[simp] theorem State.firmwareUpdate_kept (s : State) (l : List Byte) (result : Nat) (sigs : List SigRec) (hs : State.Kept pq s) :
    State.Kept pq (State.firmwareUpdate s l result sigs) := by
  unfold State.firmwareUpdate; (repeat' split) <;> simp_all +contextual (maxDischargeDepth := 50)

@[simp] theorem State.abandonUpdate_kept (s : State) (hs : State.Kept pq s) :
    State.Kept pq (State.abandonUpdate s) := by
  unfold State.abandonUpdate; (repeat' split) <;> simp_all +contextual (maxDischargeDepth := 50)

end Sys2Proof.Machine
end

