-- ==== Sys2Proof/Laws/KeptStreams.lean ====
section
/-! SUPPORT. What the operations of Machine/Streams.lean keep: the queue of waiting commands and the canonical
form of the memories and of the families by number. -/

namespace Sys2Proof.Machine
variable {pq : List Instr} {α : Type}

@[simp] theorem State.setProg_kept (s : State) (n : Nat) (p : Prog) (hs : State.Kept pq s) :
    State.Kept pq (State.setProg s n p) := by
  simp +contextual (maxDischargeDepth := 50) [State.setProg, *]

@[simp] theorem State.countOp_kept (s : State) (slot : Nat) (hs : State.Kept pq s) :
    State.Kept pq (State.countOp s slot) := by
  simp +contextual (maxDischargeDepth := 50) [State.countOp, *]

@[simp] theorem State.countBytes_kept (s : State) (slot : Nat) (n : Nat) (hs : State.Kept pq s) :
    State.Kept pq (State.countBytes s slot n) := by
  simp +contextual (maxDischargeDepth := 50) [State.countBytes, *]

@[simp] theorem State.makePost_kept (s : State) (p : Post) (hs : State.Kept pq s) :
    State.Kept pq (State.makePost s p) := by
  simp +contextual (maxDischargeDepth := 50) [State.makePost, *]

@[simp] theorem State.headerPost_kept (s : State) (slot : Nat) (node : Nat) (ofs : Nat) (w : Nat) (rep : Nat) (hs : State.Kept pq s) :
    State.Kept pq (State.headerPost s slot node ofs w rep) := by
  simp +contextual (maxDischargeDepth := 50) [State.headerPost, *]

@[simp] theorem State.laneDone_kept (s : State) (slot : Nat) (node : Nat) (hs : State.Kept pq s) :
    State.Kept pq (State.laneDone s slot node) := by
  unfold State.laneDone; (repeat' split) <;> simp_all +contextual (maxDischargeDepth := 50)

@[simp] theorem State.laneBlock_kept (s : State) (slot : Nat) (node : Nat) (w : Nat) (b : Block) (hs : State.Kept pq s) :
    State.Kept pq (State.laneBlock s slot node w b) := by
  unfold State.laneBlock; (repeat' split) <;> simp_all +contextual (maxDischargeDepth := 50)

@[simp] theorem State.freeToks_kept (s : State) (slot : Nat) (hs : State.Kept pq s) :
    State.Kept pq (State.freeToks s slot) := by
  simp +contextual (maxDischargeDepth := 50) [State.freeToks, *]

@[simp] theorem State.allocToks_kept (s : State) (slot : Nat) (need : List (Nat × Nat)) (val : Nat → Nat → Nat) (hs : State.Kept pq s) :
    State.Kept pq (State.allocToks s slot need val) := by
  simp +contextual (maxDischargeDepth := 50) [State.allocToks, *]

@[simp] theorem State.observeEntry_kept (s : State) (u : Nat) (x : Nat) (p : Bool → Bool) (e : Entry) (hs : State.Kept pq s) :
    State.Kept pq (State.observeEntry s u x p e) := by
  simp +contextual (maxDischargeDepth := 50) [State.observeEntry, *]

@[simp] theorem State.observeLane_kept (s : State) (u : Nat) (x : Nat) (p : Bool → Bool) (slot : Nat) (node : Nat) (l : Lane) (hs : State.Kept pq s) :
    State.Kept pq (State.observeLane s u x p slot node l) := by
  unfold State.observeLane; (repeat' split) <;> simp_all +contextual (maxDischargeDepth := 50)

@[simp] theorem State.observe_kept (s : State) (u : Nat) (x : Nat) (p : Bool → Bool) (hs : State.Kept pq s) :
    State.Kept pq (State.observe s u x p) := by
  simp +contextual (maxDischargeDepth := 50) [State.observe, *]

@[simp] theorem State.waitFault_kept (s : State) (u : Nat) (p : Bool → Bool) (code : FaultCode) (hs : State.Kept pq s) :
    State.Kept pq (State.waitFault s u p code) := by
  simp +contextual (maxDischargeDepth := 50) [State.waitFault, *]

@[simp] theorem State.readPennant_kept (s : State) (u : Nat) (p : Bool → Bool) (hs : State.Kept pq s) :
    State.Kept pq (State.readPennant s u p) := by
  unfold State.readPennant; grind [State.observe_kept, State.readLocal_kept, State.waitFault_kept, kept_foldl, kept_foldl_ctx, kept_foldl_fst, kept_foldl_cfst]

@[simp] theorem State.takeWatch_kept (s : State) (u : Nat) (hs : State.Kept pq s) :
    State.Kept pq (State.takeWatch s u).1 := by
  simp +contextual (maxDischargeDepth := 50) [State.takeWatch, *]

@[simp] theorem State.askPennant_kept (s : State) (u : Nat) (poll : Bool) (hs : State.Kept pq s) :
    State.Kept pq (State.askPennant s u poll) := by
  unfold State.askPennant; (repeat' split) <;> simp_all +contextual (maxDischargeDepth := 50)

@[simp] theorem State.activate_kept (s : State) (e : Entry) (hs : State.Kept pq s) :
    State.Kept pq (State.activate s e) := by
  unfold State.activate; dsimp only; (repeat' split) <;> grind [State.askPennant_kept, State.raise_kept, State.setEntry_kept, State.takeWatch_kept, kept_foldl, kept_foldl_ctx, kept_foldl_fst, kept_foldl_cfst]

@[simp] theorem State.heads_kept (s : State) (hs : State.Kept pq s) :
    State.Kept pq (State.heads s) := by
  unfold State.heads; grind [State.activate_kept, kept_foldl, kept_foldl_ctx, kept_foldl_fst, kept_foldl_cfst]

@[simp] theorem State.setChart_kept (s : State) (id : Nat) (c : ChartRec) (hs : State.Kept pq s) :
    State.Kept pq (State.setChart s id c) := by
  simp +contextual (maxDischargeDepth := 50) [State.setChart, *]

@[simp] theorem State.freeVersions_kept (s : State) (id : Nat) (hs : State.Kept pq s) :
    State.Kept pq (State.freeVersions s id) := by
  simp +contextual (maxDischargeDepth := 50) [State.freeVersions, *]

@[simp] theorem State.checkDestroy_kept (s : State) (st : Nat) (hs : State.Kept pq s) :
    State.Kept pq (State.checkDestroy s st) := by
  unfold State.checkDestroy; grind [State.setStream_kept, State.signal_kept, State.signals_kept, kept_foldl, kept_foldl_ctx, kept_foldl_fst, kept_foldl_cfst]

@[simp] theorem State.uncut_kept (s : State) (idx : Nat) (hs : State.Kept pq s) :
    State.Kept pq (State.uncut s idx) := by
  unfold State.uncut; grind [State.setSlot_kept, kept_foldl, kept_foldl_ctx, kept_foldl_fst, kept_foldl_cfst]

@[simp] theorem State.dropEntry_kept (s : State) (e : Entry) (committed : Bool) (hs : State.Kept pq s) :
    State.Kept pq (State.dropEntry s e committed) := by
  unfold State.dropEntry; (repeat' split) <;> simp_all +contextual (maxDischargeDepth := 50)

@[simp] theorem State.afterEntry_kept (s : State) (st : Nat) (hs : State.Kept pq s) :
    State.Kept pq (State.afterEntry s st) := by
  simp +contextual (maxDischargeDepth := 50) [State.afterEntry, *]

@[simp] theorem State.endAborted_kept (s : State) (e : Entry) (silent : Bool) (hs : State.Kept pq s) :
    State.Kept pq (State.endAborted s e silent) := by
  simp +contextual (maxDischargeDepth := 50) [State.endAborted, *]

@[simp] theorem State.endCommitted_kept (s : State) (e : Entry) (hs : State.Kept pq s) :
    State.Kept pq (State.endCommitted s e) := by
  simp +contextual (maxDischargeDepth := 50) [State.endCommitted, *]

@[simp] theorem State.contain_kept (s : State) (e : Entry) (f : FaultInfo) (engines : List Nat) (age : Nat) (dump : List Byte) (hs : State.Kept pq s) :
    State.Kept pq (State.contain s e f engines age dump) := by
  simp +contextual (maxDischargeDepth := 50) [State.contain, *]

end Sys2Proof.Machine
end

