-- ==== Sys2Proof/Laws/KeptRing.lean ====
section
/-! SUPPORT. What the operations of Machine/Ring.lean keep: the queue of waiting commands and the canonical
form of the memories and of the families by number. -/

namespace Sys2Proof.Machine
variable {pq : List Instr} {α : Type}

@[simp] theorem State.writeLine_kept (s : State) (hs : State.Kept pq s) :
    State.Kept pq (State.writeLine s) := by
  simp +contextual (maxDischargeDepth := 50) [State.writeLine, *]

@[simp] theorem State.ringFlag_kept (s : State) (b : Nat) (hs : State.Kept pq s) :
    State.Kept pq (State.ringFlag s b) := by
  simp +contextual (maxDischargeDepth := 50) [State.ringFlag, *]

@[simp] theorem State.ringEdge_kept (s : State) (t : State) (hs : State.Kept pq s) (ht : State.Kept pq t) :
    State.Kept pq (State.ringEdge s t) := by
  simp +contextual (maxDischargeDepth := 50) [State.ringEdge, *]

@[simp] theorem State.pollPeriod_kept (s : State) (hs : State.Kept pq s) :
    State.Kept pq (State.pollPeriod s) := by
  simp +contextual (maxDischargeDepth := 50) [State.pollPeriod, *]

@[simp] theorem State.ringOn_kept (s : State) (hs : State.Kept pq s) :
    State.Kept pq (State.ringOn s) := by
  simp +contextual (maxDischargeDepth := 50) [State.ringOn, *]

@[simp] theorem State.ringOff_kept (s : State) (hs : State.Kept pq s) :
    State.Kept pq (State.ringOff s) := by
  simp +contextual (maxDischargeDepth := 50) [State.ringOff, *]

@[simp] theorem State.ringCtrl_kept (s : State) (was : Bool) (hs : State.Kept pq s) :
    State.Kept pq (State.ringCtrl s was) := by
  simp +contextual (maxDischargeDepth := 50) [State.ringCtrl, *]

@[simp] theorem State.pollEnd_kept (s : State) (hs : State.Kept pq s) :
    State.Kept pq (State.pollEnd s) := by
  simp +contextual (maxDischargeDepth := 50) [State.pollEnd, *]

@[simp] theorem State.readEntries_kept (s : State) (hs : State.Kept pq s) :
    State.Kept pq (State.readEntries s) := by
  simp +contextual (maxDischargeDepth := 50) [State.readEntries, *]

@[simp] theorem State.ringReadErr_kept (s : State) (hs : State.Kept pq s) :
    State.Kept pq (State.ringReadErr s) := by
  simp +contextual (maxDischargeDepth := 50) [State.ringReadErr, *]

@[simp] theorem State.rejectFront_kept (s : State) (hs : State.Kept pq s) :
    State.Kept pq (State.rejectFront s) := by
  unfold State.rejectFront; (repeat' split) <;> simp_all +contextual (maxDischargeDepth := 50)

@[simp] theorem State.skipReserved_kept (s : State) (a0 : Nat) (hs : State.Kept pq s) :
    State.Kept pq (State.skipReserved s a0) := by
  fun_induction State.skipReserved s a0 <;> simp_all +contextual (maxDischargeDepth := 50)

@[simp] theorem State.clearFront_kept (s : State) (hs : State.Kept pq s) :
    State.Kept pq (State.clearFront s) := by
  simp +contextual (maxDischargeDepth := 50) [State.clearFront, *]

@[simp] theorem State.passHead_kept (s : State) (hs : State.Kept pq s) :
    State.Kept pq (State.passHead s) := by
  unfold State.passHead; (repeat' split) <;> simp_all +contextual (maxDischargeDepth := 50)

@[simp] theorem State.takeEntries_kept (s : State) (a0 : List (List Byte)) (hs : State.Kept pq s) :
    State.Kept pq (State.takeEntries s a0) := by
  fun_induction State.takeEntries s a0 <;> simp_all +contextual (maxDischargeDepth := 50)

@[simp] theorem State.sealRefresh_kept (s : State) (hs : State.Kept pq s) :
    State.Kept pq (State.sealRefresh s) := by
  simp +contextual (maxDischargeDepth := 50) [State.sealRefresh, *]

@[simp] theorem State.reSignals_kept (s : State) (r : Req) (poison : Bool) (hs : State.Kept pq s) :
    State.Kept pq (State.reSignals s r poison) := by
  simp +contextual (maxDischargeDepth := 50) [State.reSignals, *]

end Sys2Proof.Machine
end

