-- ==== Sys2Proof/Laws/KeptSeal.lean ====
section
/-! SUPPORT. What the operations of Machine/Seal.lean keep: the queue of waiting commands and the canonical
form of the memories and of the families by number. -/

namespace Sys2Proof.Machine
variable {pq : List Instr} {α : Type}

@[simp] theorem Ctx.prepOp_kept (c : Ctx) (e : OpEnv) (w : Nat) (drs : SMap (Option DReg)) (hc : State.Kept pq c.s) :
    State.Kept pq (Ctx.prepOp c e w drs).1.s := by
  simp +contextual (maxDischargeDepth := 50) [Ctx.prepOp, *]

@[simp] theorem Ctx.fetchPiece_kept (c : Ctx) (b : BufInfo) (node : Nat) (ofs : Nat) (hc : State.Kept pq c.s) :
    State.Kept pq (Ctx.fetchPiece c b node ofs).1.s := by
  simp +contextual (maxDischargeDepth := 50) [Ctx.fetchPiece, *]

@[simp] theorem Ctx.fetchOp_kept (c : Ctx) (b : BufInfo) (node : Nat) (l : Lane) (ofs : Nat) (hc : State.Kept pq c.s) :
    State.Kept pq (Ctx.fetchOp c b node l ofs).1.s := by
  simp +contextual (maxDischargeDepth := 50) [Ctx.fetchOp, *]

@[simp] theorem Ctx.readHandles_kept (c : Ctx) (g : HandleGen) (a0 : List Nat) (hc : State.Kept pq c.s) :
    State.Kept pq (Ctx.readHandles c g a0).1.s := by
  fun_induction Ctx.readHandles c g a0 <;> grind [Ctx.read_kept, kept_foldl, kept_foldl_ctx, kept_foldl_fst, kept_foldl_cfst]

/-- What relocating a lane's next operation answers keeps. -/
theorem Ctx.relocNext_kept (c : Ctx) (e : OpEnv) (l : Lane) (row : Nat → Bool) (hc : State.Kept pq c.s) :
    match c.relocNext e l row with
    | .none => True
    | .unread d _ _ | .fault d _ _ _ _ | .ok d _ => State.Kept pq d.s := by
  have h1 : State.Kept pq (c.fetchOp e.buf e.node l l.rel.1).1.s := Ctx.fetchOp_kept _ _ _ _ _ hc
  unfold Ctx.relocNext
  dsimp only
  generalize c.fetchOp e.buf e.node l l.rel.1 = r at h1
  have h2 : State.Kept pq (r.1.prepOp e r.2.2 l.rel.2).1.s := Ctx.prepOp_kept _ _ _ _ h1
  generalize r.1.prepOp e r.2.2 l.rel.2 = q at h2
  by_cases a1 : (if e.buf.sealAt.isSome = true then 1 else 8) ≤ l.ahead.length ∨
      e.buf.laneEnd e.node ≤ l.rel.1
  · rw [if_pos a1]; trivial
  rw [if_neg a1]
  by_cases a2 : (r.1.stall || r.1.miss != []) = true
  · rw [if_pos a2]; trivial
  rw [if_neg a2]
  cases r.1.err with
  | some x => exact h1
  | none =>
    dsimp only
    by_cases a3 : row r.2.2 = false
    · rw [if_pos a3]; trivial
    rw [if_neg a3]
    by_cases a4 : (q.1.stall || q.1.miss != []) = true
    · rw [if_pos a4]; trivial
    rw [if_neg a4]
    cases q.1.err with
    | some x => exact h2
    | none => exact h2

end Sys2Proof.Machine
end

