-- ==== Sys2Proof/Laws/KeptCharts.lean ====
section
/-! SUPPORT. What the operations of Machine/Charts.lean keep: the queue of waiting commands and the canonical
form of the memories and of the families by number. -/

namespace Sys2Proof.Machine
variable {pq : List Instr} {α : Type}

@[simp] theorem State.chartResult_kept (s : State) (uda : Nat) (code : Nat) (ver : Nat) (detail : Nat) (hs : State.Kept pq s) :
    State.Kept pq (State.chartResult s uda code ver detail) := by
  simp +contextual (maxDischargeDepth := 50) [State.chartResult, *]

@[simp] theorem State.readPatch_kept (s : State) (v : View) (u : Nat) (hs : State.Kept pq s) :
    State.Kept pq (State.readPatch s v u).1.s := by
  simp +contextual (maxDischargeDepth := 50) [State.readPatch, *]

@[simp] theorem Ctx.segSize_kept (x : Ctx) (v : ChartVer) (known : List (Nat × Nat)) (i : Nat) (hx : State.Kept pq x.s) :
    State.Kept pq (Ctx.segSize x v known i).1.s := by
  unfold Ctx.segSize; (repeat' split) <;> simp_all +contextual (maxDischargeDepth := 50)

@[simp] theorem Ctx.patchEntsOk_kept (x : Ctx) (c : ChartRec) (v : ChartVer) (known : List (Nat × Nat)) (a0 : List PatchEnt) (a1 : Nat) (hx : State.Kept pq x.s) :
    State.Kept pq (Ctx.patchEntsOk x c v known a0 a1).1.s := by
  fun_induction Ctx.patchEntsOk x c v known a0 a1 <;> grind [Ctx.segSize_kept, kept_foldl, kept_foldl_ctx, kept_foldl_fst, kept_foldl_cfst]

@[simp] theorem Ctx.readPieces_kept (x : Ctx) (es : List PatchEnt) (a0 : List (Option Nat × Nat × Nat × Nat)) (hx : State.Kept pq x.s) :
    State.Kept pq (Ctx.readPieces x es a0).1.s := by
  fun_induction Ctx.readPieces x es a0 <;> grind [Ctx.read_kept, kept_foldl, kept_foldl_ctx, kept_foldl_fst, kept_foldl_cfst]

@[simp] theorem State.writePieces_kept (s : State) (a0 : List (Option Nat × List Byte)) (a1 : Nat) (a2 : ChartVer) (hs : State.Kept pq s) :
    State.Kept pq (State.writePieces s a0 a1 a2).1 := by
  fun_induction State.writePieces s a0 a1 a2 <;> simp_all +contextual (maxDischargeDepth := 50)

@[simp] theorem Ctx.relocs_kept (x : Ctx) (c : ChartRec) (hx : State.Kept pq x.s) :
    State.Kept pq (Ctx.relocs x c).1.s := by
  simp +contextual (maxDischargeDepth := 50) [Ctx.relocs, *]

@[simp] theorem State.captureElastic_kept (s : State) (st : Nat) (hs : State.Kept pq s) :
    State.Kept pq (State.captureElastic s st).1 := by
  simp +contextual (maxDischargeDepth := 50) [State.captureElastic, *]

@[simp] theorem Ctx.paramValue_kept (c : Ctx) (l : Launch) (narg : Nat) (v : ChartVer) (p : Nat) (hc : State.Kept pq c.s) :
    State.Kept pq (Ctx.paramValue c l narg v p).1.s := by
  simp +contextual (maxDischargeDepth := 50) [Ctx.paramValue, *]

@[simp] theorem Ctx.paramValues_kept (c : Ctx) (l : Launch) (narg : Nat) (v : ChartVer) (saved : Nat → Option Word64) (a0 : List Nat) (hc : State.Kept pq c.s) :
    State.Kept pq (Ctx.paramValues c l narg v saved a0).1.s := by
  fun_induction Ctx.paramValues c l narg v saved a0 <;> grind [Ctx.paramValue_kept, kept_foldl, kept_foldl_ctx, kept_foldl_fst, kept_foldl_cfst]

@[simp] theorem Ctx.segInfo_kept (x : Ctx) (c : ChartRec) (l : Launch) (ver : ChartVer) (seg : Nat) (saved : Nat → Option Word64) (hx : State.Kept pq x.s) :
    State.Kept pq (Ctx.segInfo x c l ver seg saved).1.s := by
  simp +contextual (maxDischargeDepth := 50) [Ctx.segInfo, *]

end Sys2Proof.Machine
end

