-- ==== Sys2Proof/Laws/KeptStop.lean ====
section
/-! SUPPORT. What the operations of Machine/Stop.lean keep: the queue of waiting commands and the canonical
form of the memories and of the families by number. -/

namespace Sys2Proof.Machine
variable {pq : List Instr} {α : Type}

@[simp] theorem State.forget_kept (s : State) (node : Nat) (w : Nat) (rep : Nat) (u : Nat) (drs : SMap (Option DReg)) (mat : Option MatRun) (hs : State.Kept pq s) :
    State.Kept pq (State.forget s node w rep u drs mat) := by
  simp +contextual (maxDischargeDepth := 50) [State.forget, *]

@[simp] theorem State.abandon_kept (s : State) (o : OpRec) (hs : State.Kept pq s) :
    State.Kept pq (State.abandon s o) := by
  simp +contextual (maxDischargeDepth := 50) [State.abandon, *]

@[simp] theorem State.forgetLane_kept (s : State) (e : OpEnv) (c : Ctx) (l : Lane) (a0 : Nat) (a1 : Nat) (a2 : SMap (Option DReg)) (hs : State.Kept pq s) (hc : State.Kept pq c.s) :
    State.Kept pq (State.forgetLane s e c l a0 a1 a2) := by
  fun_induction State.forgetLane s e c l a0 a1 a2 <;> grind [Ctx.fetchOp_kept, Ctx.prepOp_kept, State.forget_kept, kept_foldl, kept_foldl_ctx, kept_foldl_fst, kept_foldl_cfst]

@[simp] theorem State.ghost_kept (s : State) (v : View) (hs : State.Kept pq s) :
    State.Kept pq (State.ghost s v).s := by
  simp +contextual (maxDischargeDepth := 50) [State.ghost, *]

@[simp] theorem State.forgetFrom_kept (s : State) (v : View) (e : OpEnv) (l : Lane) (hs : State.Kept pq s) :
    State.Kept pq (State.forgetFrom s v e l) := by
  simp +contextual (maxDischargeDepth := 50) [State.forgetFrom, *]

@[simp] theorem State.forgetRest_kept (s : State) (v : View) (x : ExecSlot) (hs : State.Kept pq s) :
    State.Kept pq (State.forgetRest s v x) := by
  unfold State.forgetRest; (repeat' split) <;> simp_all +contextual (maxDischargeDepth := 50)

@[simp] theorem State.stopSlot_kept (s : State) (v : View) (n : Nat) (why : StopWhy) (hs : State.Kept pq s) :
    State.Kept pq (State.stopSlot s v n why) := by
  unfold State.stopSlot; (repeat' split) <;> simp_all +contextual (maxDischargeDepth := 50)

end Sys2Proof.Machine
end

