-- ==== Sys2Proof/Laws/KeptAdmission.lean ====
section
/-! SUPPORT. What the operations of Machine/Admission.lean keep: the queue of waiting commands and the canonical
form of the memories and of the families by number. -/

namespace Sys2Proof.Machine
variable {pq : List Instr} {α : Type}

@[simp] theorem State.addEntry_kept (s : State) (e : Entry) (hs : State.Kept pq s) :
    State.Kept pq (State.addEntry s e) := by
  simp +contextual (maxDischargeDepth := 50) [State.addEntry, *]

@[simp] theorem State.capture_kept (s : State) (st : Nat) (g : Gen) (adv : Nat) (hs : State.Kept pq s) :
    State.Kept pq (State.capture s st g adv) := by
  simp +contextual (maxDischargeDepth := 50) [State.capture, *]

@[simp] theorem Ctx.readLong_kept (c : Ctx) (a0 : Nat) (a1 : Nat) (a2 : Nat) (hc : State.Kept pq c.s) :
    State.Kept pq (Ctx.readLong c a0 a1 a2).1.s := by
  fun_induction Ctx.readLong c a0 a1 a2 <;> grind [Ctx.read_kept, kept_foldl, kept_foldl_ctx, kept_foldl_fst, kept_foldl_cfst]

@[simp] theorem Ctx.readFront_kept (c : Ctx) (b : BufInfo) (l : List Byte) (hc : State.Kept pq c.s) :
    State.Kept pq (Ctx.readFront c b l).1.s := by
  simp +contextual (maxDischargeDepth := 50) [Ctx.readFront, *]

@[simp] theorem State.readArgs_kept (s : State) (v : View) (u : Nat) (narg : Nat) (hs : State.Kept pq s) :
    State.Kept pq (State.readArgs s v u narg).1.s := by
  simp +contextual (maxDischargeDepth := 50) [State.readArgs, *]

@[simp] theorem State.seedBlock_kept (s : State) (v : View) (raw : List Byte) (g : Gen) (hs : State.Kept pq s) :
    State.Kept pq (State.seedBlock s v raw g).1.s := by
  simp +contextual (maxDischargeDepth := 50) [State.seedBlock, *]

@[simp] theorem State.abortEntry_kept (s : State) (v : View) (e : Entry) (hs : State.Kept pq s) :
    State.Kept pq (State.abortEntry s v e) := by
  unfold State.abortEntry; (repeat' split) <;> simp_all +contextual (maxDischargeDepth := 50)

@[simp] theorem State.dropSealing_kept (s : State) (e : Entry) (hs : State.Kept pq s) :
    State.Kept pq (State.dropSealing s e) := by
  simp +contextual (maxDischargeDepth := 50) [State.dropSealing, *]

@[simp] theorem State.restoreTarget_kept (s : State) (v : View) (e : Entry) (bufR : Nat) (img : List Byte) (hs : State.Kept pq s) :
    State.Kept pq (State.restoreTarget s v e bufR img) := by
  unfold State.restoreTarget; dsimp only; (repeat' split) <;> simp_all +contextual (maxDischargeDepth := 50)

end Sys2Proof.Machine
end

