-- ==== Sys2Proof/Laws/KeptSequencer.lean ====
section
/-! SUPPORT. What the operations of Machine/Sequencer.lean keep: the queue of waiting commands and the canonical
form of the memories and of the families by number. -/

namespace Sys2Proof.Machine
variable {pq : List Instr} {α : Type}

@[simp] theorem State.setOp_kept (s : State) (o : OpRec) (hs : State.Kept pq s) :
    State.Kept pq (State.setOp s o) := by
  simp +contextual (maxDischargeDepth := 50) [State.setOp, *]

@[simp] theorem State.setTokVal_kept (s : State) (slot : Nat) (node : Nat) (tok : Nat) (v : Nat) (hs : State.Kept pq s) :
    State.Kept pq (State.setTokVal s slot node tok v) := by
  unfold State.setTokVal; (repeat' split) <;> simp_all +contextual (maxDischargeDepth := 50)

@[simp] theorem State.issueFault_kept (s : State) (f : Fetch) (x : AccErr) (hs : State.Kept pq s) :
    State.Kept pq (State.issueFault s f x) := by
  simp +contextual (maxDischargeDepth := 50) [State.issueFault, *]

@[simp] theorem State.putLane_kept (s : State) (slot : Nat) (node : Nat) (l : Lane) (hs : State.Kept pq s) :
    State.Kept pq (State.putLane s slot node l) := by
  unfold State.putLane; (repeat' split) <;> simp_all +contextual (maxDischargeDepth := 50)

@[simp] theorem State.finishLane_kept (s : State) (f : Fetch) (drs : SMap (Option DReg)) (hs : State.Kept pq s) :
    State.Kept pq (State.finishLane s f drs) := by
  simp +contextual (maxDischargeDepth := 50) [State.finishLane, *]

@[simp] theorem State.blockAt_kept (s : State) (f : Fetch) (drs : SMap (Option DReg)) (b : Block) (hs : State.Kept pq s) :
    State.Kept pq (State.blockAt s f drs b) := by
  simp +contextual (maxDischargeDepth := 50) [State.blockAt, *]

@[simp] theorem State.unitFault_kept (s : State) (o : OpRec) (x : AccErr) (hs : State.Kept pq s) :
    State.Kept pq (State.unitFault s o x) := by
  unfold State.unitFault; (repeat' split) <;> simp_all +contextual (maxDischargeDepth := 50)

@[simp] theorem State.settleOp_kept (s : State) (o : OpRec) (c : Ctx) (hs : State.Kept pq s) (hc : State.Kept pq c.s) :
    State.Kept pq (State.settleOp s o c) := by
  unfold State.settleOp; (repeat' split) <;> simp_all +contextual (maxDischargeDepth := 50)

theorem State.takeTok_kept (s : State) (slot node tok n : Nat) (hs : State.Kept pq s) :
    ∀ y, s.takeTok slot node tok n = some y → State.Kept pq y := by
  intro y h
  unfold State.takeTok at h
  rw [Option.bind_eq_some_iff] at h
  obtain ⟨i, -, h⟩ := h
  dsimp only at h
  split at h
  · obtain rfl := Option.some.inj h
    simp [hs]
  · cases h

@[simp] theorem State.serveWaits_kept (s : State) (slot node tok : Nat) (hs : State.Kept pq s) :
    State.Kept pq (s.serveWaits slot node tok) := by
  have ht := fun n => State.takeTok_kept s slot node tok n hs
  unfold State.serveWaits
  (repeat' split) <;> first | exact hs | (simp; exact ht _ _ ‹_›) | (simp [ht _ _ ‹_›])

@[simp] theorem State.testWaits_kept (s : State) (slot node tok : Nat) (hs : State.Kept pq s) :
    State.Kept pq (s.testWaits slot node tok) := by
  unfold State.testWaits
  (repeat' split) <;> first | exact hs | exact State.serveWaits_kept _ _ _ _ hs

@[simp] theorem State.relocate_kept (s : State) (slot node : Nat) (v : View) (row : Nat → Bool)
    (hs : State.Kept pq s) : State.Kept pq (s.relocate slot node v row) := by
  unfold State.relocate
  split
  · exact hs
  · rename_i x e b l _
    have h := Ctx.relocNext_kept (pq := pq) (Ctx.start s v []) (s.opEnv e b node) l row
      (Ctx.start_kept _ _ _ hs)
    split
    · exact hs
    · rename_i hr; rw [hr] at h; simp [State.raise_kept, h]
    · rename_i hr; rw [hr] at h; dsimp only at h ⊢; split <;> simp [State.raise_kept, State.putLane_kept, h]
    · rename_i hr; rw [hr] at h; exact State.putLane_kept _ _ _ _ h

/-- Issuing an operation keeps where what is done with it does. -/
theorem State.issue_kept (s : State) (slot node : Nat) (v : View) (row : Nat → Bool)
    (k : Fetch → State → SMap (Option DReg) → Nat → State)
    (hk : ∀ f t d u, State.Kept pq t → State.Kept pq (k f t d u)) (hs : State.Kept pq s) :
    State.Kept pq (s.issue slot node v row k) := by
  have h1 : State.Kept pq (match s.laneReady slot node with
      | some f => if f.l.ahead = [] then s.relocate slot node v row else s
      | none => s) := by
    (repeat' split) <;> simp [hs]
  unfold State.issue
  extract_lets t
  have ht : State.Kept pq t := h1
  clear_value t
  (repeat' split) <;> first | exact ht | exact hk _ _ _ _ ht

/-- Either step of an operation without a unit queue keeps where what is done with it does. -/
theorem State.step2_kept (s : State) (slot : Fin 8) (node : Fin 9) (st : SeqStep)
    (row : Nat → Bool) (k : Fetch → State → SMap (Option DReg) → Nat → State)
    (hk : ∀ f t d u, State.Kept pq t → State.Kept pq (k f t d u)) (hs : State.Kept pq s) :
    State.Kept pq (s.step2 slot node st row k) := by
  cases st with
  | relocate v => exact State.relocate_kept _ _ _ _ _ hs
  | issue v => exact State.issue_kept _ _ _ _ _ _ hk hs

@[simp] theorem State.enqueue_kept (s : State) (slot node : Nat) (v : View) (row : Nat → Bool)
    (hs : State.Kept pq s) : State.Kept pq (s.enqueue slot node v row) := by
  refine State.issue_kept _ _ _ _ _ _ (fun f t d u h => ?_) hs
  dsimp only
  split
  · exact h
  split
  · simp [State.putLane_kept, h]
  · split <;> first | exact h | exact State.putLane_kept _ _ _ _ h


@[simp] theorem State.claim_kept (s : State) (slot node ofs : Nat) (row : Nat → Bool)
    (hs : State.Kept pq s) : State.Kept pq (s.claim slot node ofs row).1 := by
  have h := fun t => State.testWaits_kept s slot node t hs
  unfold State.claim
  split
  · rename_i o x _ _
    specialize h (waitTok o.word)
    split
    · split
      · extract_lets t
        have ht : State.Kept pq t := h
        clear_value t
        (repeat' split) <;> exact ht
      · exact hs
    · exact hs
  · exact hs

@[simp] theorem State.performOp_kept (s : State) (slot : Nat) (node : Nat) (ofs : Nat) (v : View) (row : Nat → Bool) (body : OpRec → Ctx → Ctx) (hs : State.Kept pq s) (hbody : ∀ (x0 : OpRec) (x1 : Ctx), State.Kept pq x1.s → State.Kept pq (body x0 x1).s) :
    State.Kept pq (State.performOp s slot node ofs v row body) := by
  unfold State.performOp; grind [Ctx.start_kept, State.claim_kept, State.settleOp_kept, kept_foldl, kept_foldl_ctx, kept_foldl_fst, kept_foldl_cfst]

@[simp] theorem State.idleOp_kept (s : State) (slot : Nat) (node : Nat) (ofs : Nat) (row : Nat → Bool) (n : Nat) (hs : State.Kept pq s) :
    State.Kept pq (State.idleOp s slot node ofs row n) := by
  unfold State.idleOp; (repeat' split) <;> simp_all +contextual (maxDischargeDepth := 50)

@[simp] theorem State.applyPosts_kept (s : State) (spill : Bool) (a0 : List Post) (hs : State.Kept pq s) :
    State.Kept pq (State.applyPosts s spill a0) := by
  fun_induction State.applyPosts s spill a0 <;> grind [State.bump_kept, State.faultOp_kept, State.setTokVal_kept, kept_foldl, kept_foldl_ctx, kept_foldl_fst, kept_foldl_cfst]

end Sys2Proof.Machine
end

