-- ==== Sys2Proof/Laws/KeptUnits.lean ====
section
/-! SUPPORT. What the operations of Machine/Units.lean keep: the queue of waiting commands and the canonical
form of the memories and of the families by number. -/

namespace Sys2Proof.Machine
variable {pq : List Instr} {α : Type}

@[simp] theorem Ctx.rowElems_kept (x : Ctx) (d : DReg) (r : Nat) (c : Nat) (n : Nat) (hx : State.Kept pq x.s) :
    State.Kept pq (Ctx.rowElems x d r c n).1.s := by
  simp +contextual (maxDischargeDepth := 50) [Ctx.rowElems, *]

@[simp] theorem Ctx.rowExps_kept (x : Ctx) (d : DReg) (r : Nat) (c : Nat) (n : Nat) (hx : State.Kept pq x.s) :
    State.Kept pq (Ctx.rowExps x d r c n).1.s := by
  simp +contextual (maxDischargeDepth := 50) [Ctx.rowExps, *]

@[simp] theorem Ctx.rowBits_kept (x : Ctx) (d : DReg) (r : Nat) (c : Nat) (n : Nat) (hx : State.Kept pq x.s) :
    State.Kept pq (Ctx.rowBits x d r c n).1.s := by
  simp +contextual (maxDischargeDepth := 50) [Ctx.rowBits, *]

@[simp] theorem tileReadBody_kept (o : OpRec) (c : Ctx) (hc : State.Kept pq c.s) :
    State.Kept pq (tileReadBody o c).s := by
  simp +contextual (maxDischargeDepth := 50) [tileReadBody, *]

@[simp] theorem tileWriteBody_kept (o : OpRec) (c : Ctx) (hc : State.Kept pq c.s) :
    State.Kept pq (tileWriteBody o c).s := by
  simp +contextual (maxDischargeDepth := 50) [tileWriteBody, *]

@[simp] theorem moveCopyBody_kept (o : OpRec) (c : Ctx) (hc : State.Kept pq c.s) :
    State.Kept pq (moveCopyBody o c).s := by
  unfold moveCopyBody; (repeat' split) <;> simp_all +contextual (maxDischargeDepth := 50)

@[simp] theorem moveStridedBody_kept (o : OpRec) (c : Ctx) (hc : State.Kept pq c.s) :
    State.Kept pq (moveStridedBody o c).s := by
  unfold moveStridedBody; (repeat' split) <;> simp_all +contextual (maxDischargeDepth := 50)

@[simp] theorem moveTransposeBody_kept (o : OpRec) (c : Ctx) (hc : State.Kept pq c.s) :
    State.Kept pq (moveTransposeBody o c).s := by
  unfold moveTransposeBody; (repeat' split) <;> simp_all +contextual (maxDischargeDepth := 50)

@[simp] theorem gatherRows_kept (a : DReg) (b : DReg) (a0 : List Nat) (a1 : Nat) (a2 : Ctx) (ha2 : State.Kept pq a2.s) :
    State.Kept pq (gatherRows a b a0 a1 a2).s := by
  fun_induction gatherRows a b a0 a1 a2 <;> grind [Ctx.bad_kept, Ctx.read_kept, Ctx.write_kept, kept_foldl, kept_foldl_ctx, kept_foldl_fst, kept_foldl_cfst]

@[simp] theorem moveGatherBody_kept (o : OpRec) (c : Ctx) (hc : State.Kept pq c.s) :
    State.Kept pq (moveGatherBody o c).s := by
  unfold moveGatherBody; (repeat' split) <;> simp_all +contextual (maxDischargeDepth := 50)

@[simp] theorem moveFillBody_kept (o : OpRec) (c : Ctx) (hc : State.Kept pq c.s) :
    State.Kept pq (moveFillBody o c).s := by
  unfold moveFillBody; grind [Ctx.bad_kept, Ctx.write_kept, kept_foldl, kept_foldl_ctx, kept_foldl_fst, kept_foldl_cfst]

@[simp] theorem moveA48AddBody_kept (o : OpRec) (c : Ctx) (hc : State.Kept pq c.s) :
    State.Kept pq (moveA48AddBody o c).s := by
  unfold moveA48AddBody; (repeat' split) <;> simp_all +contextual (maxDischargeDepth := 50)

@[simp] theorem maskBody_kept (o : OpRec) (c : Ctx) (hc : State.Kept pq c.s) :
    State.Kept pq (maskBody o c).s := by
  unfold maskBody; (repeat' split) <;> simp_all +contextual (maxDischargeDepth := 50)

end Sys2Proof.Machine
end

