-- ==== Sys2Proof/Laws/KeptEgress.lean ====
section
/-! SUPPORT. What the operations of Machine/Egress.lean keep: the queue of waiting commands and the canonical
form of the memories and of the families by number. -/

namespace Sys2Proof.Machine
variable {pq : List Instr} {α : Type}

@[simp] theorem Ctx.egSources_kept (c : Ctx) (o : OpRec) (f : EgWord) (hc : State.Kept pq c.s) :
    State.Kept pq (Ctx.egSources c o f).1.s := by
  unfold Ctx.egSources; (repeat' split) <;> simp_all +contextual (maxDischargeDepth := 50)

@[simp] theorem EgEnv.fused_kept (g : EgEnv) (c : Ctx) (i : Nat) (j0 : Nat) (n : Nat) (hc : State.Kept pq c.s) :
    State.Kept pq (EgEnv.fused g c i j0 n).1.s := by
  unfold EgEnv.fused; (repeat' split) <;> simp_all +contextual (maxDischargeDepth := 50)

@[simp] theorem EgEnv.masks_kept (g : EgEnv) (c : Ctx) (i : Nat) (j0 : Nat) (n : Nat) (hc : State.Kept pq c.s) :
    State.Kept pq (EgEnv.masks g c i j0 n).1.s := by
  unfold EgEnv.masks; (repeat' split) <;> simp_all +contextual (maxDischargeDepth := 50)

@[simp] theorem putOne_kept (q : Ctx × Nat × Nat) (n : Nat) (sat : Nat) (put : Ctx → Ctx) (hq : State.Kept pq q.1.s) (hput : ∀ (x0 : Ctx), State.Kept pq x0.s → State.Kept pq (put x0).s) :
    State.Kept pq (putOne q n sat put).1.s := by
  simp +contextual (maxDischargeDepth := 50) [putOne, *]

@[simp] theorem EgEnv.put_kept (g : EgEnv) (c : Ctx) (u : Nat) (l : List (Nat × Nat × Bool)) (hc : State.Kept pq c.s) :
    State.Kept pq (EgEnv.put g c u l).1.s := by
  unfold EgEnv.put; grind [Ctx.a48One_kept, Ctx.noteWrite_kept, Ctx.sp16_kept, Ctx.write_kept, putOne_kept, kept_foldl, kept_foldl_ctx, kept_foldl_fst, kept_foldl_cfst]

@[simp] theorem EgEnv.row_kept (g : EgEnv) (x : Source) (q : Ctx × EgAcc) (r : Nat) (hq : State.Kept pq q.1.s) :
    State.Kept pq (EgEnv.row g x q r).1.s := by
  simp +contextual (maxDischargeDepth := 50) [EgEnv.row, *]

@[simp] theorem EgEnv.blocks_kept (g : EgEnv) (a0 : List Source) (a1 : Ctx × EgAcc) (ha1 : State.Kept pq a1.1.s) :
    State.Kept pq (EgEnv.blocks g a0 a1).1.s := by
  fun_induction EgEnv.blocks g a0 a1 <;> simp_all +contextual (maxDischargeDepth := 50)

@[simp] theorem Ctx.listIn_kept (c : Ctx) (u : Nat) (h : LHdr) (hc : State.Kept pq c.s) :
    State.Kept pq (Ctx.listIn c u h).1.s := by
  simp +contextual (maxDischargeDepth := 50) [Ctx.listIn, *]

@[simp] theorem Ctx.listOut_kept (c : Ctx) (cl : Nat) (u : Nat) (h : LHdr) (old : List (List LEnt × LEnt)) (cands : List (Nat × LEnt)) (hc : State.Kept pq c.s) :
    State.Kept pq (Ctx.listOut c cl u h old cands).s := by
  simp +contextual (maxDischargeDepth := 50) [Ctx.listOut, *]

@[simp] theorem Ctx.vector_kept (c : Ctx) (on : Bool) (d : Option DReg) (n : Nat) (hc : State.Kept pq c.s) :
    State.Kept pq (Ctx.vector c on d n).1.s := by
  unfold Ctx.vector; (repeat' split) <;> simp_all +contextual (maxDischargeDepth := 50)

@[simp] theorem Ctx.topkRow_kept (c : Ctx) (d : DReg) (r : Nat) (hc : State.Kept pq c.s) :
    State.Kept pq (Ctx.topkRow c d r).1.s := by
  simp +contextual (maxDischargeDepth := 50) [Ctx.topkRow, *]

@[simp] theorem topkBody_kept (o : OpRec) (c : Ctx) (hc : State.Kept pq c.s) :
    State.Kept pq (topkBody o c).s := by
  unfold topkBody; dsimp only; (repeat' split) <;> simp_all +contextual (maxDischargeDepth := 50)

@[simp] theorem Ctx.relocateTable_kept (c : Ctx) (e : OpEnv) (ext : Nat) (a0 : List Nat) (hc : State.Kept pq c.s) :
    State.Kept pq (Ctx.relocateTable c e ext a0).1.s := by
  fun_induction Ctx.relocateTable c e ext a0 <;> grind [Ctx.bad_kept, Ctx.relocate_kept, kept_foldl, kept_foldl_ctx, kept_foldl_fst, kept_foldl_cfst]

@[simp] theorem mergeBody_kept (o : OpRec) (c : Ctx) (hc : State.Kept pq c.s) :
    State.Kept pq (mergeBody o c).s := by
  unfold mergeBody; dsimp only; (repeat' split) <;> simp_all +contextual (maxDischargeDepth := 50)

end Sys2Proof.Machine
end

