-- ==== Sys2Proof/Laws/KeptMatmul.lean ====
section
/-! SUPPORT. What the operations of Machine/Matmul.lean keep: the queue of waiting commands and the canonical
form of the memories and of the families by number. -/

namespace Sys2Proof.Machine
variable {pq : List Instr} {α : Type}

@[simp] theorem Ctx.feedOperand_kept (x : Ctx) (c : MatCfg) (d : DReg) (trans : Bool) (isB : Bool) (f0 : Nat) (n : Nat) (k0 : Nat) (hx : State.Kept pq x.s) :
    State.Kept pq (Ctx.feedOperand x c d trans isB f0 n k0).s := by
  simp +contextual (maxDischargeDepth := 50) [Ctx.feedOperand, *]

@[simp] theorem State.modSlot_kept (s : State) (cl : Nat) (t : Nat) (j : Nat) (f : TileSlot → TileSlot) (hs : State.Kept pq s) :
    State.Kept pq (State.modSlot s cl t j f) := by
  simp +contextual (maxDischargeDepth := 50) [State.modSlot, *]

@[simp] theorem State.blockStep_kept (s : State) (o : OpRec) (c : MatCfg) (t : Nat) (l : Nat) (x : Step) (fa : SMap (List (Bool × Nat))) (fb : SMap (List (Bool × Nat))) (hs : State.Kept pq s) :
    State.Kept pq (State.blockStep s o c t l x fa fb).1 := by
  simp +contextual (maxDischargeDepth := 50) [State.blockStep, *]

@[simp] theorem State.setRun_kept (s : State) (o : OpRec) (r : TileRun) (hs : State.Kept pq s) :
    State.Kept pq (State.setRun s o r) := by
  unfold State.setRun; (repeat' split) <;> simp_all +contextual (maxDischargeDepth := 50)

@[simp] theorem State.beginFault_kept (s : State) (o : OpRec) (c : MatCfg) (t : Nat) (hs : State.Kept pq s) :
    State.Kept pq (State.beginFault s o c t).s := by
  unfold State.beginFault; dsimp only; (repeat' split) <;> simp_all +contextual (maxDischargeDepth := 50)

@[simp] theorem State.clearBlock_kept (s : State) (o : OpRec) (c : MatCfg) (t : Nat) (l : Nat) (hs : State.Kept pq s) :
    State.Kept pq (State.clearBlock s o c t l) := by
  simp +contextual (maxDischargeDepth := 50) [State.clearBlock, *]

@[simp] theorem Ctx.loadPartial_kept (x : Ctx) (o : OpRec) (c : MatCfg) (t : Nat) (y : Step) (hx : State.Kept pq x.s) :
    State.Kept pq (Ctx.loadPartial x o c t y).s := by
  unfold Ctx.loadPartial; (repeat' split) <;> simp_all +contextual (maxDischargeDepth := 50)

@[simp] theorem State.beginTile_kept (s : State) (o : OpRec) (c : MatCfg) (r : TileRun) (hs : State.Kept pq s) :
    State.Kept pq (State.beginTile s o c r).1.s := by
  simp +contextual (maxDischargeDepth := 50) [State.beginTile, *]

@[simp] theorem State.beginAll_kept (s : State) (o : OpRec) (c : MatCfg) (a0 : List Nat) (hs : State.Kept pq s) :
    State.Kept pq (State.beginAll s o c a0).1 := by
  fun_induction State.beginAll s o c a0 <;> grind [State.beginTile_kept, State.countBytes_kept, State.setRun_kept, kept_foldl, kept_foldl_ctx, kept_foldl_fst, kept_foldl_cfst]

@[simp] theorem State.checkIssued_kept (s : State) (o : OpRec) (hs : State.Kept pq s) :
    State.Kept pq (State.checkIssued s o) := by
  unfold State.checkIssued; (repeat' split) <;> simp_all +contextual (maxDischargeDepth := 50)

@[simp] theorem State.tileStep_kept (s : State) (o : OpRec) (c : MatCfg) (t : Nat) (cyc : Nat) (hs : State.Kept pq s) :
    State.Kept pq (State.tileStep s o c t cyc).1 := by
  unfold State.tileStep; dsimp only; (repeat' split) <;> simp_all +contextual (maxDischargeDepth := 50)

@[simp] theorem State.stepAll_kept (s : State) (o : OpRec) (c : MatCfg) (cyc : Nat) (a0 : List Nat) (hs : State.Kept pq s) :
    State.Kept pq (State.stepAll s o c cyc a0).1 := by
  fun_induction State.stepAll s o c cyc a0 <;> grind [State.tileStep_kept, kept_foldl, kept_foldl_ctx, kept_foldl_fst, kept_foldl_cfst]

@[simp] theorem State.afterRound_kept (s : State) (o : OpRec) (c : MatCfg) (ts : List Nat) (hs : State.Kept pq s) :
    State.Kept pq (State.afterRound s o c ts) := by
  unfold State.afterRound; grind [State.checkIssued_kept, State.setRun_kept, kept_foldl, kept_foldl_ctx, kept_foldl_fst, kept_foldl_cfst]

@[simp] theorem State.clusterStep_kept (s : State) (cl : Nat) (cyc : Nat) (ts : List Nat) (hs : State.Kept pq s) :
    State.Kept pq (State.clusterStep s cl cyc ts) := by
  simp +contextual (maxDischargeDepth := 50) [State.clusterStep, *]

@[simp] theorem Ctx.spillTile_kept (x : Ctx) (o : OpRec) (c : MatCfg) (t : Nat) (l : Nat) (write : Bool) (hx : State.Kept pq x.s) :
    State.Kept pq (Ctx.spillTile x o c t l write).s := by
  unfold Ctx.spillTile; (repeat' split) <;> simp_all +contextual (maxDischargeDepth := 50)

@[simp] theorem State.clearSlot_kept (s : State) (o : OpRec) (c : MatCfg) (t : Nat) (l : Nat) (hs : State.Kept pq s) :
    State.Kept pq (State.clearSlot s o c t l) := by
  simp +contextual (maxDischargeDepth := 50) [State.clearSlot, *]

@[simp] theorem Ctx.storePartial_kept (x : Ctx) (o : OpRec) (c : MatCfg) (t : Nat) (l : Nat) (hx : State.Kept pq x.s) :
    State.Kept pq (Ctx.storePartial x o c t l).s := by
  unfold Ctx.storePartial; (repeat' split) <;> simp_all +contextual (maxDischargeDepth := 50)

@[simp] theorem Ctx.afterSpill_kept (x : Ctx) (o : OpRec) (c : MatCfg) (r : TileRun) (l : Nat) (initial : Bool) (hx : State.Kept pq x.s) :
    State.Kept pq (Ctx.afterSpill x o c r l initial).1.s := by
  simp +contextual (maxDischargeDepth := 50) [Ctx.afterSpill, *]

@[simp] theorem State.rewindTile_kept (s : State) (o : OpRec) (c : MatCfg) (r : TileRun) (hs : State.Kept pq s) :
    State.Kept pq (State.rewindTile s o c r).1 := by
  simp +contextual (maxDischargeDepth := 50) [State.rewindTile, *]

@[simp] theorem State.startMat_kept (s : State) (o : OpRec) (hs : State.Kept pq s) :
    State.Kept pq (State.startMat s o) := by
  unfold State.startMat; (repeat' split) <;> simp_all +contextual (maxDischargeDepth := 50)

@[simp] theorem Ctx.rowCounts_kept (x : Ctx) (c : MatCfg) (u : Nat) (i : Nat) (hx : State.Kept pq x.s) :
    State.Kept pq (Ctx.rowCounts x c u i).1.s := by
  simp +contextual (maxDischargeDepth := 50) [Ctx.rowCounts, *]

@[simp] theorem Ctx.marginRows_kept (x : Ctx) (ms : List (OpRec × MatCfg)) (m : Nat) (t : Nat) (hx : State.Kept pq x.s) :
    State.Kept pq (Ctx.marginRows x ms m t).1.s := by
  simp +contextual (maxDischargeDepth := 50) [Ctx.marginRows, *]

@[simp] theorem State.stopMember_kept (s : State) (o : OpRec) (c : MatCfg) (t : Nat) (hs : State.Kept pq s) :
    State.Kept pq (State.stopMember s o c t) := by
  unfold State.stopMember; (repeat' split) <;> simp_all +contextual (maxDischargeDepth := 50)

end Sys2Proof.Machine
end

