-- ==== Sys2Proof/Laws/KeptSlots.lean ====
section
/-! SUPPORT. What the operations of Machine/Slots.lean keep: the queue of waiting commands and the canonical
form of the memories and of the families by number. -/

namespace Sys2Proof.Machine
variable {pq : List Instr} {α : Type}

@[simp] theorem State.occupy_kept (s : State) (n : Nat) (e : Entry) (lanes : List (Nat × Lane)) (val : Nat → Nat → Nat) (hs : State.Kept pq s) :
    State.Kept pq (State.occupy s n e lanes val) := by
  simp +contextual (maxDischargeDepth := 50) [State.occupy, *]

@[simp] theorem State.mapPlain_kept (s : State) (n : Nat) (e : Entry) (b : BufInfo) (hs : State.Kept pq s) :
    State.Kept pq (State.mapPlain s n e b) := by
  unfold State.mapPlain; (repeat' split) <;> simp_all +contextual (maxDischargeDepth := 50)

@[simp] theorem State.loadCluster_kept (s : State) (area : List Byte) (secs : List (Nat × Nat × Nat)) (cl : Nat) (hs : State.Kept pq s) :
    State.Kept pq (State.loadCluster s area secs cl) := by
  unfold State.loadCluster; (repeat' split) <;> simp_all +contextual (maxDischargeDepth := 50)

@[simp] theorem State.mapRestored_kept (s : State) (n : Nat) (e : Entry) (r : Restored) (hs : State.Kept pq s) :
    State.Kept pq (State.mapRestored s n e r) := by
  simp +contextual (maxDischargeDepth := 50) [State.mapRestored, *]

@[simp] theorem Ctx.stageOps_kept (c : Ctx) (e : OpEnv) (l : Lane) (a0 : Nat) (hc : State.Kept pq c.s) :
    State.Kept pq (Ctx.stageOps c e l a0).1.s := by
  induction a0 generalizing c l with
  | zero => exact hc
  | succ n ih =>
    have h := Ctx.relocNext_kept (pq := pq) c e l (fun _ => true) hc
    unfold Ctx.stageOps
    split <;> rename_i heq
    · rw [heq] at h; exact ih _ _ h
    · rw [heq] at h; exact h
    · exact hc
    · exact hc

@[simp] theorem Ctx.stageLane_kept (c : Ctx) (e : OpEnv) (node : Nat) (hc : State.Kept pq c.s) :
    State.Kept pq (Ctx.stageLane c e node).1.s := by
  have h := Ctx.fetchPiece_kept c e.buf node (Lane.start (e.buf.laneStart node)).pc hc
  unfold Ctx.stageLane
  extract_lets l r l'
  have hr : State.Kept pq r.1.s := h
  clear_value r
  (repeat' split) <;> first | exact hc | exact hr | exact Ctx.stageOps_kept _ _ _ _ hr

@[simp] theorem State.entryFault_kept (s : State) (e : Entry) (f : FaultInfo) (hs : State.Kept pq s) :
    State.Kept pq (State.entryFault s e f) := by
  unfold State.entryFault; (repeat' split) <;> simp_all +contextual (maxDischargeDepth := 50)

@[simp] theorem State.prefetchBuf_kept (s : State) (v : View) (e : Entry) (hs : State.Kept pq s) :
    State.Kept pq (State.prefetchBuf s v e) := by
  unfold State.prefetchBuf
  split
  · split
    · exact hs
    · extract_lets q t
      have hq : State.Kept pq q.1.s := by
        refine kept_foldl_cfst (fun a node ha => ?_) _ (Ctx.start_kept _ _ _ hs)
        split
        · exact ha
        · exact Ctx.stageLane_kept _ _ _ ha
      have ht : State.Kept pq t := State.setEntry_kept _ _ hq
      clear_value t
      split
      · exact State.entryFault_kept _ _ _ ht
      · exact ht
  · exact hs

@[simp] theorem State.dropPenRead_kept (s : State) (u : Nat) (hs : State.Kept pq s) :
    State.Kept pq (State.dropPenRead s u) := by
  simp +contextual (maxDischargeDepth := 50) [State.dropPenRead, *]

end Sys2Proof.Machine
end

