-- ==== Sys2Proof/Laws/KeptContext.lean ====
section
/-! SUPPORT. What the operations of Machine/Context.lean keep: the queue of waiting commands and the canonical
form of the memories and of the families by number. -/

namespace Sys2Proof.Machine
variable {pq : List Instr} {α : Type}

@[simp] theorem State.stateArea_kept (s : State) (x : ExecSlot) (e : Entry) (b : BufInfo) (plate : Bool) (hs : State.Kept pq s) :
    State.Kept pq (State.stateArea s x e b plate).1 := by
  simp +contextual (maxDischargeDepth := 50) [State.stateArea, *]

end Sys2Proof.Machine
end

