-- ==== Sys2Proof/Laws/KeptReset.lean ====
section
/-! SUPPORT. What the operations of Machine/Reset.lean keep: the queue of waiting commands and the canonical
form of the memories and of the families by number. -/

namespace Sys2Proof.Machine
variable {pq : List Instr} {α : Type}

@[simp] theorem State.allGoodbye_kept (s : State) (hs : State.Kept pq s) :
    State.Kept pq (State.allGoodbye s) := by
  simp +contextual (maxDischargeDepth := 50) [State.allGoodbye, *]

@[simp] theorem State.spoilImage_kept (s : State) (u : Nat) (hs : State.Kept pq s) :
    State.Kept pq (State.spoilImage s u) := by
  unfold State.spoilImage
  split
  · extract_lets l k bad
    clear_value l k bad
    exact State.bumpFresh_kept _ (State.rawWrite_kept _ _ _ hs)
  · exact hs

@[simp] theorem State.spoilCuts_kept (s : State) (hs : State.Kept pq s) :
    State.Kept pq (State.spoilCuts s) := by
  simp +contextual (maxDischargeDepth := 50) [State.spoilCuts, *]

@[simp] theorem State.abandonOps_kept (s : State) (hs : State.Kept pq s) :
    State.Kept pq (State.abandonOps s) := by
  simp +contextual (maxDischargeDepth := 50) [State.abandonOps, *]

@[simp] theorem State.beginReset_kept (s : State) (c : ResetCause) (hs : State.Kept pq s) :
    State.Kept pq (State.beginReset s c) := by
  have h : State.Kept pq s.spoilCuts.abandonOps := by simp [hs]
  unfold State.beginReset
  generalize s.spoilCuts.abandonOps = t at h
  split
  · exact hs
  · exact hs
  · simp (maxDischargeDepth := 50) [h]

@[simp] theorem State.cfgAfter_kept (s : State) (flr : Bool) (hs : State.Kept pq s) :
    State.Kept pq (State.cfgAfter s flr) := by
  simp +contextual (maxDischargeDepth := 50) [State.cfgAfter, *]

@[simp] theorem State.pcieResetBy_kept (s : State) (c : ResetCause) (hs : State.Kept pq s) :
    State.Kept pq (State.pcieResetBy s c) := by
  unfold State.pcieResetBy; (repeat' split) <;> simp_all +contextual (maxDischargeDepth := 50)

@[simp] theorem State.purgeRegs_kept (s : State) (fault : Bool) (hs : State.Kept pq s) :
    State.Kept pq (State.purgeRegs s fault) := by
  simp +contextual (maxDischargeDepth := 50) [State.purgeRegs, *]

@[simp] theorem State.rejoin_kept (s : State) (was : State) (hs : State.Kept pq s) (hwas : State.Kept pq was) :
    State.Kept pq (State.rejoin s was) := by
  simp +contextual (maxDischargeDepth := 50) [State.rejoin, *]

@[simp] theorem State.purgeMsix_kept (s : State) (hs : State.Kept pq s) :
    State.Kept pq (State.purgeMsix s) := by
  simp +contextual (maxDischargeDepth := 50) [State.purgeMsix, *]

@[simp] theorem State.hostLinkDown_kept (s : State) (hs : State.Kept pq s) :
    State.Kept pq (State.hostLinkDown s) := by
  simp +contextual (maxDischargeDepth := 50) [State.hostLinkDown, *]

end Sys2Proof.Machine
end

