-- ==== Sys2Proof/Laws/KeptFaults.lean ====
section
/-! SUPPORT. What the operations of Machine/Faults.lean keep: the queue of waiting commands and the canonical
form of the memories and of the families by number. -/

namespace Sys2Proof.Machine
variable {pq : List Instr} {α : Type}

@[simp] theorem State.resetResponse_kept (s : State) (f : FaultInfo) (c : RecordCtx) (hs : State.Kept pq s) :
    State.Kept pq (State.resetResponse s f c) := by
  simp +contextual (maxDischargeDepth := 50) [State.resetResponse, *]

@[simp] theorem State.dropFault_kept (s : State) (idx : Nat) (hs : State.Kept pq s) :
    State.Kept pq (State.dropFault s idx) := by
  simp +contextual (maxDischargeDepth := 50) [State.dropFault, *]

@[simp] theorem State.sampleSlot_kept (s : State) (n : Nat) (hs : State.Kept pq s) :
    State.Kept pq (State.sampleSlot s n) := by
  unfold State.sampleSlot; dsimp only; (repeat' split) <;> apply_rules [State.bump_kept, State.raise_kept, State.setProg_kept]

@[simp] theorem State.recordDone_kept (s : State) (bad : Bool) (hs : State.Kept pq s) :
    State.Kept pq (State.recordDone s bad) := by
  simp +contextual (maxDischargeDepth := 50) [State.recordDone, *]

@[simp] theorem State.fillOp_kept (s : State) (slot : Nat) (node : Nat) (ofs : Nat) (u : Nat) (l : List Byte) (hs : State.Kept pq s) :
    State.Kept pq (State.fillOp s slot node ofs u l) := by
  unfold State.fillOp; (repeat' split) <;> simp_all +contextual (maxDischargeDepth := 50)

@[simp] theorem State.signalDone_kept (s : State) (slot : Nat) (node : Nat) (hs : State.Kept pq s) :
    State.Kept pq (State.signalDone s slot node) := by
  unfold State.signalDone; (repeat' split) <;> simp_all +contextual (maxDischargeDepth := 50)

@[simp] theorem State.satOf_kept (s : State) (r : RmtReq) (k : Pkt) (size : Nat) (hs : State.Kept pq s) :
    State.Kept pq (State.satOf s r k size).1 := by
  simp +contextual (maxDischargeDepth := 50) [State.satOf, *]

@[simp] theorem State.accessDone_kept (s : State) (slot : Nat) (node : Nat) (ofs : Nat) (r : RmtReq) (k : Pkt) (hs : State.Kept pq s) :
    State.Kept pq (State.accessDone s slot node ofs r k) := by
  unfold State.accessDone; (repeat' split) <;> simp_all +contextual (maxDischargeDepth := 50)

@[simp] theorem State.rmtDone_kept (s : State) (r : RmtReq) (k : Pkt) (hs : State.Kept pq s) :
    State.Kept pq (State.rmtDone s r k) := by
  unfold State.rmtDone; (repeat' split) <;> simp_all +contextual (maxDischargeDepth := 50)

end Sys2Proof.Machine
end

