-- ==== Sys2Proof/Laws/KeptAccess.lean ====
section
/-! SUPPORT. What the operations of Machine/Access.lean keep: the queue of waiting commands and the canonical
form of the memories and of the families by number. -/

namespace Sys2Proof.Machine
variable {pq : List Instr} {α : Type}

@[simp] theorem State.setPath_kept (s : State) (p : Path) (x : PathState) (hs : State.Kept pq s) :
    State.Kept pq (State.setPath s p x) := by
  unfold State.setPath; (repeat' split) <;> simp_all +contextual (maxDischargeDepth := 50)

@[simp] theorem State.unsupported_kept (s : State) (posted : Bool) (hs : State.Kept pq s) :
    State.Kept pq (State.unsupported s posted) := by
  simp +contextual (maxDischargeDepth := 50) [State.unsupported, *]

@[simp] theorem State.readDword_kept (s : State) (p : Path) (o : Nat) (be : Nat) (hs : State.Kept pq s) :
    State.Kept pq (State.readDword s p o be).1 := by
  unfold State.readDword; (repeat' split) <;> simp_all +contextual (maxDischargeDepth := 50)

@[simp] theorem State.dwordRead_kept (s : State) (p : Path) (ofs : Nat) (be : Nat) (hs : State.Kept pq s) :
    State.Kept pq (State.dwordRead s p ofs be) := by
  unfold State.dwordRead; grind [State.emit_kept, State.readDword_kept, State.unsupported_kept, kept_foldl, kept_foldl_ctx, kept_foldl_fst, kept_foldl_cfst]

@[simp] theorem State.accErr_kept (s : State) (p : Path) (kind : Nat) (o : Nat) (be : Nat) (hs : State.Kept pq s) :
    State.Kept pq (State.accErr s p kind o be) := by
  simp +contextual (maxDischargeDepth := 50) [State.accErr, *]

@[simp] theorem State.stillZero_kept (s : State) (hs : State.Kept pq s) :
    State.Kept pq (State.stillZero s) := by
  simp +contextual (maxDischargeDepth := 50) [State.stillZero, *]

@[simp] theorem State.lockDword_kept (s : State) (o : Nat) (hs : State.Kept pq s) :
    State.Kept pq (State.lockDword s o) := by
  unfold State.lockDword; (repeat' split) <;> simp_all +contextual (maxDischargeDepth := 50)

@[simp] theorem State.lockPins_kept (s : State) (hs : State.Kept pq s) :
    State.Kept pq (State.lockPins s) := by
  simp +contextual (maxDischargeDepth := 50) [State.lockPins, *]

@[simp] theorem State.lockSession_kept (s : State) (hs : State.Kept pq s) :
    State.Kept pq (State.lockSession s) := by
  simp +contextual (maxDischargeDepth := 50) [State.lockSession, *]

@[simp] theorem State.unlockWrite_kept (s : State) (key : Nat) (hs : State.Kept pq s) :
    State.Kept pq (State.unlockWrite s key) := by
  simp +contextual (maxDischargeDepth := 50) [State.unlockWrite, *]

@[simp] theorem State.rearmSc_kept (s : State) (n : Nat) (hs : State.Kept pq s) :
    State.Kept pq (State.rearmSc s n) := by
  simp +contextual (maxDischargeDepth := 50) [State.rearmSc, *]

@[simp] theorem State.ephBegin_kept (s : State) (hs : State.Kept pq s) :
    State.Kept pq (State.ephBegin s) := by
  simp +contextual (maxDischargeDepth := 50) [State.ephBegin, *]

@[simp] theorem State.noticeRise_kept (s : State) (was : Nat) (hs : State.Kept pq s) :
    State.Kept pq (State.noticeRise s was) := by
  simp +contextual (maxDischargeDepth := 50) [State.noticeRise, *]

@[simp] theorem State.capCheck_kept (s : State) (o : Nat) (old : Nat) (hs : State.Kept pq s) :
    State.Kept pq (State.capCheck s o old) := by
  simp +contextual (maxDischargeDepth := 50) [State.capCheck, *]

@[simp] theorem State.alertEdge_kept (s : State) (t : State) (hs : State.Kept pq s) (ht : State.Kept pq t) :
    State.Kept pq (State.alertEdge s t) := by
  simp +contextual (maxDischargeDepth := 50) [State.alertEdge, *]

@[simp] theorem State.ringCtrlWrite_kept (t : State) (old : Nat) (ht : State.Kept pq t) :
    State.Kept pq (State.ringCtrlWrite t old) := by
  simp +contextual (maxDischargeDepth := 50) [State.ringCtrlWrite, *]

@[simp] theorem State.feWrite_kept (t : State) (o : Nat) (old : Nat) (w : Nat) (ht : State.Kept pq t) :
    State.Kept pq (State.feWrite t o old w) := by
  simp +contextual (maxDischargeDepth := 50) [State.feWrite, *]

@[simp] theorem State.pwrWrite_kept (t : State) (o : Nat) (old : Nat) (w : Nat) (ht : State.Kept pq t) :
    State.Kept pq (State.pwrWrite t o old w) := by
  simp +contextual (maxDischargeDepth := 50) [State.pwrWrite, *]

@[simp] theorem State.almWrite_kept (t : State) (o : Nat) (old : Nat) (w : Nat) (ht : State.Kept pq t) :
    State.Kept pq (State.almWrite t o old w) := by
  simp +contextual (maxDischargeDepth := 50) [State.almWrite, *]

@[simp] theorem State.writeEffect_kept (t : State) (o : Nat) (old : Nat) (w : Nat) (ht : State.Kept pq t) :
    State.Kept pq (State.writeEffect t o old w) := by
  unfold State.writeEffect; grind [State.almWrite_kept, State.ephBegin_kept, State.feWrite_kept, State.linkCtrl_kept, State.muxWrite_kept, State.noticeRise_kept, State.pwrWrite_kept, State.rearmSc_kept, State.setReg_kept, kept_foldl, kept_foldl_ctx, kept_foldl_fst, kept_foldl_cfst]

@[simp] theorem State.dropSnaps_kept (s : State) (base : Nat) (hs : State.Kept pq s) :
    State.Kept pq (State.dropSnaps s base) := by
  simp +contextual (maxDischargeDepth := 50) [State.dropSnaps, *]

@[simp] theorem State.storeReg_kept (s : State) (p : Path) (o : Nat) (be : Nat) (base : Nat) (r : RegRow) (l : List (Nat × Bool × Nat)) (hs : State.Kept pq s) :
    State.Kept pq (State.storeReg s p o be base r l) := by
  unfold State.storeReg; (repeat' split) <;> simp_all +contextual (maxDischargeDepth := 50)

@[simp] theorem State.commitPair_kept (s : State) (p : Path) (base : Nat) (w : Nat) (r : RegRow) (hs : State.Kept pq s) :
    State.Kept pq (State.commitPair s p base w r) := by
  simp +contextual (maxDischargeDepth := 50) [State.commitPair, *]

@[simp] theorem State.msixUnmask_kept (s : State) (hs : State.Kept pq s) :
    State.Kept pq (State.msixUnmask s) := by
  simp +contextual (maxDischargeDepth := 50) [State.msixUnmask, *]

@[simp] theorem State.msixWrite_kept (s : State) (d : Nat) (be : Nat) (w : Nat) (hs : State.Kept pq s) :
    State.Kept pq (State.msixWrite s d be w) := by
  simp +contextual (maxDischargeDepth := 50) [State.msixWrite, *]

@[simp] theorem State.writeDword_kept (s : State) (p : Path) (o : Nat) (be : Nat) (w : Nat) (hs : State.Kept pq s) :
    State.Kept pq (State.writeDword s p o be w) := by
  unfold State.writeDword; (repeat' split) <;> simp_all +contextual (maxDischargeDepth := 50)

@[simp] theorem State.dwordWrite_kept (s : State) (p : Path) (ofs : Nat) (be : Nat) (w : Nat) (hs : State.Kept pq s) :
    State.Kept pq (State.dwordWrite s p ofs be w) := by
  unfold State.dwordWrite; grind [State.unsupported_kept, State.writeDword_kept, kept_foldl, kept_foldl_ctx, kept_foldl_fst, kept_foldl_cfst]

@[simp] theorem State.hostWriteReg_kept (s : State) (o : Nat) (be : BitVec 4) (value : Word32) (hs : State.Kept pq s) :
    State.Kept pq (State.hostWriteReg s o be value) := by
  simp +contextual (maxDischargeDepth := 50) [State.hostWriteReg, *]

end Sys2Proof.Machine
end

