-- ==== Sys2Proof/Laws/KeptPcie.lean ====
section
/-! SUPPORT. What the operations of Machine/Pcie.lean keep: the queue of waiting commands and the canonical
form of the memories and of the families by number. -/

namespace Sys2Proof.Machine
variable {pq : List Instr} {α : Type}

@[simp] theorem State.winPiece_kept (s : State) (a : Nat) (n : Nat) (hs : State.Kept pq s) :
    State.Kept pq (State.winPiece s a n).1 := by
  unfold State.winPiece; grind [State.readLocal_kept, kept_foldl, kept_foldl_ctx, kept_foldl_fst, kept_foldl_cfst]

@[simp] theorem State.winRead_kept (s : State) (a : Nat) (len : Nat) (hs : State.Kept pq s) :
    State.Kept pq (State.winRead s a len) := by
  simp +contextual (maxDischargeDepth := 50) [State.winRead, *]

@[simp] theorem State.winWord_kept (s : State) (w : Nat) (l : List (Nat × Byte)) (hs : State.Kept pq s) :
    State.Kept pq (State.winWord s w l) := by
  unfold State.winWord; (repeat' split) <;> simp_all +contextual (maxDischargeDepth := 50)

@[simp] theorem State.winWrite_kept (s : State) (a : Nat) (l : List (Option Byte)) (hs : State.Kept pq s) :
    State.Kept pq (State.winWrite s a l) := by
  simp +contextual (maxDischargeDepth := 50) [State.winWrite, *]

@[simp] theorem State.cfgStore_kept (s : State) (o : Nat) (be : Nat) (w : Nat) (hs : State.Kept pq s) :
    State.Kept pq (State.cfgStore s o be w) := by
  simp +contextual (maxDischargeDepth := 50) [State.cfgStore, *]

@[simp] theorem State.cfgWrite_kept (s : State) (o : Nat) (be : Nat) (w : Nat) (hs : State.Kept pq s) :
    State.Kept pq (State.cfgWrite s o be w) := by
  simp +contextual (maxDischargeDepth := 50) [State.cfgWrite, *]

end Sys2Proof.Machine
end

