-- ==== Sys2Proof/Laws/KeptSmbus.lean ====
section
/-! SUPPORT. What the operations of Machine/Smbus.lean keep: the queue of waiting commands and the canonical
form of the memories and of the families by number. -/

namespace Sys2Proof.Machine
variable {pq : List Instr} {α : Type}

@[simp] theorem State.pecBad_kept (s : State) (hs : State.Kept pq s) :
    State.Kept pq (State.pecBad s) := by
  simp +contextual (maxDischargeDepth := 50) [State.pecBad, *]

@[simp] theorem State.smbWrite_kept (s : State) (pecOk : Bool) (f : State → State) (hs : State.Kept pq s) (hf : ∀ (x0 : State), State.Kept pq x0 → State.Kept pq (f x0)) :
    State.Kept pq (State.smbWrite s pecOk f) := by
  simp +contextual (maxDischargeDepth := 50) [State.smbWrite, *]

end Sys2Proof.Machine
end

