-- ==== Sys2Proof/Laws/KeptTick.lean ====
section
/-! SUPPORT. What the operations of Machine/Tick.lean keep: the queue of waiting commands and the canonical
form of the memories and of the families by number. -/

namespace Sys2Proof.Machine
variable {pq : List Instr} {α : Type}

@[simp] theorem State.advanceTime_kept (s : State) (hs : State.Kept pq s) :
    State.Kept pq (State.advanceTime s) := by
  simp +contextual (maxDischargeDepth := 50) [State.advanceTime, *]

@[simp] theorem State.countThrottle_kept (s : State) (was : State) (hs : State.Kept pq s) (hwas : State.Kept pq was) :
    State.Kept pq (State.countThrottle s was) := by
  simp +contextual (maxDischargeDepth := 50) [State.countThrottle, *]

@[simp] theorem State.testTokens_kept (s : State) (hs : State.Kept pq s) :
    State.Kept pq (State.testTokens s) := by
  simp +contextual (maxDischargeDepth := 50) [State.testTokens, *]

@[simp] theorem State.bumpIf_kept (s : State) (b : Bool) (o : Nat) (hs : State.Kept pq s) :
    State.Kept pq (State.bumpIf s b o) := by
  simp +contextual (maxDischargeDepth := 50) [State.bumpIf, *]

@[simp] theorem State.tickCluster_kept (s : State) (cl : Nat) (hs : State.Kept pq s) :
    State.Kept pq (State.tickCluster s cl) := by
  simp +contextual (maxDischargeDepth := 50) [State.tickCluster, *]

@[simp] theorem State.tickSlot_kept (s : State) (n : Nat) (hs : State.Kept pq s) :
    State.Kept pq (State.tickSlot s n) := by
  simp +contextual (maxDischargeDepth := 50) [State.tickSlot, *]

@[simp] theorem State.tickLink_kept (s : State) (p : Nat) (hs : State.Kept pq s) :
    State.Kept pq (State.tickLink s p) := by
  simp +contextual (maxDischargeDepth := 50) [State.tickLink, *]

@[simp] theorem State.tickEngines_kept (s : State) (hs : State.Kept pq s) :
    State.Kept pq (State.tickEngines s) := by
  simp +contextual (maxDischargeDepth := 50) [State.tickEngines, *]

@[simp] theorem State.tick_kept (s : State) (hs : State.Kept pq s) :
    State.Kept pq (State.tick s) := by
  simp +contextual (maxDischargeDepth := 50) [State.tick, *]

end Sys2Proof.Machine
end

