-- ==== Sys2Proof/Laws/PerInstr.lean ====
section
/-! SUPPORT. Per command: no word of the table's bits spells it, since no row of the table gives bits
(Decode.lean). -/

namespace Sys2Proof.Laws.Spelling

/-- No word spells the command. -/
def Statement (i : Instr) : Prop := ∀ nbits w, decodeTableWord nbits w ≠ some i

theorem poll : Statement .poll := fun _ _ h => nomatch h
theorem doorbellReadReturn (tail) (fail) :
    Statement (.doorbellReadReturn tail fail) := fun _ _ h => nomatch h
theorem entryReadReturn (bytes) (fail) :
    Statement (.entryReadReturn bytes fail) := fun _ _ h => nomatch h
theorem ringStatusWrite : Statement .ringStatusWrite := fun _ _ h => nomatch h
theorem ringEnable (value) :
    Statement (.ringEnable value) := fun _ _ h => nomatch h
theorem ringDisable (value) :
    Statement (.ringDisable value) := fun _ _ h => nomatch h
theorem reNop (v) :
    Statement (.reNop v) := fun _ _ h => nomatch h
theorem reSubmit (v) :
    Statement (.reSubmit v) := fun _ _ h => nomatch h
theorem sealSpaceFreed (v) :
    Statement (.sealSpaceFreed v) := fun _ _ h => nomatch h
theorem reLaunch (v) :
    Statement (.reLaunch v) := fun _ _ h => nomatch h
theorem reStreamCreate (v) :
    Statement (.reStreamCreate v) := fun _ _ h => nomatch h
theorem reStreamConfigure (v) :
    Statement (.reStreamConfigure v) := fun _ _ h => nomatch h
theorem reStreamDestroy (v) :
    Statement (.reStreamDestroy v) := fun _ _ h => nomatch h
theorem reStreamRelease (v) :
    Statement (.reStreamRelease v) := fun _ _ h => nomatch h
theorem reWaitOnly (v) :
    Statement (.reWaitOnly v) := fun _ _ h => nomatch h
theorem reSignalOnly (v) :
    Statement (.reSignalOnly v) := fun _ _ h => nomatch h
theorem reAbort (v) :
    Statement (.reAbort v) := fun _ _ h => nomatch h
theorem reSave (v) :
    Statement (.reSave v) := fun _ _ h => nomatch h
theorem reRestore (v) :
    Statement (.reRestore v) := fun _ _ h => nomatch h
theorem reChartLoad (v) :
    Statement (.reChartLoad v) := fun _ _ h => nomatch h
theorem reChartPatchVersioned (v) :
    Statement (.reChartPatchVersioned v) := fun _ _ h => nomatch h
theorem reChartPatchHot (v) :
    Statement (.reChartPatchHot v) := fun _ _ h => nomatch h
theorem reChartDrop (v) :
    Statement (.reChartDrop v) := fun _ _ h => nomatch h
theorem reHandleSync (v) :
    Statement (.reHandleSync v) := fun _ _ h => nomatch h
theorem handleCopyDone : Statement .handleCopyDone := fun _ _ h => nomatch h
theorem reAlmanacUpdateAlmanac (v) :
    Statement (.reAlmanacUpdateAlmanac v) := fun _ _ h => nomatch h
theorem reAlmanacUpdateFirmware (v) :
    Statement (.reAlmanacUpdateFirmware v) := fun _ _ h => nomatch h
theorem reAlmanacUpdateRead (v) :
    Statement (.reAlmanacUpdateRead v) := fun _ _ h => nomatch h
theorem flashCommandDone (res) :
    Statement (.flashCommandDone res) := fun _ _ h => nomatch h
theorem reFabricRediscover (v) :
    Statement (.reFabricRediscover v) := fun _ _ h => nomatch h
theorem reFabricRemap (v) :
    Statement (.reFabricRemap v) := fun _ _ h => nomatch h
theorem reFabricFence (v) :
    Statement (.reFabricFence v) := fun _ _ h => nomatch h
theorem slotMap (v) :
    Statement (.slotMap v) := fun _ _ h => nomatch h
theorem prefetch (stream) (v) :
    Statement (.prefetch stream v) := fun _ _ h => nomatch h
theorem notBeforeReached (stream) :
    Statement (.notBeforeReached stream) := fun _ _ h => nomatch h
theorem watchReread (uda) :
    Statement (.watchReread uda) := fun _ _ h => nomatch h
theorem hostPennantReadReturn (uda) (word) (fail) :
    Statement (.hostPennantReadReturn uda word fail) := fun _ _ h => nomatch h
theorem commit (stream) :
    Statement (.commit stream) := fun _ _ h => nomatch h
theorem segmentBind (stream) (v) :
    Statement (.segmentBind stream v) := fun _ _ h => nomatch h
theorem segmentAdvance (slot) :
    Statement (.segmentAdvance slot) := fun _ _ h => nomatch h
theorem nop (slot) (node) (st) :
    Statement (.nop slot node st) := fun _ _ h => nomatch h
theorem tensorDesc (slot) (node) (st) :
    Statement (.tensorDesc slot node st) := fun _ _ h => nomatch h
theorem matmul (slot) (node) (ph) (v) :
    Statement (.matmul slot node ph v) := fun _ _ h => nomatch h
theorem arrayStep (cl) (tile) (idle) :
    Statement (.arrayStep cl tile idle) := fun _ _ h => nomatch h
theorem blockSpill (cl) (tile) :
    Statement (.blockSpill cl tile) := fun _ _ h => nomatch h
theorem marginDecision (slot) (id) :
    Statement (.marginDecision slot id) := fun _ _ h => nomatch h
theorem overflowRewind (cl) (tile) :
    Statement (.overflowRewind cl tile) := fun _ _ h => nomatch h
theorem moveCopy (slot) (node) (ph) (v) :
    Statement (.moveCopy slot node ph v) := fun _ _ h => nomatch h
theorem moveStrided (slot) (node) (ph) (v) :
    Statement (.moveStrided slot node ph v) := fun _ _ h => nomatch h
theorem moveTranspose (slot) (node) (ph) (v) :
    Statement (.moveTranspose slot node ph v) := fun _ _ h => nomatch h
theorem moveGather (slot) (node) (ph) (v) :
    Statement (.moveGather slot node ph v) := fun _ _ h => nomatch h
theorem moveFill (slot) (node) (ph) (v) :
    Statement (.moveFill slot node ph v) := fun _ _ h => nomatch h
theorem moveA48Add (slot) (node) (ph) (v) :
    Statement (.moveA48Add slot node ph v) := fun _ _ h => nomatch h
theorem egress (slot) (node) (ph) (v) :
    Statement (.egress slot node ph v) := fun _ _ h => nomatch h
theorem topk (slot) (node) (ph) (v) :
    Statement (.topk slot node ph v) := fun _ _ h => nomatch h
theorem topkMerge (slot) (node) (ph) (v) :
    Statement (.topkMerge slot node ph v) := fun _ _ h => nomatch h
theorem maskGenMask (slot) (node) (ph) (v) :
    Statement (.maskGenMask slot node ph v) := fun _ _ h => nomatch h
theorem maskGenNoiseTile (slot) (node) (ph) (v) :
    Statement (.maskGenNoiseTile slot node ph v) := fun _ _ h => nomatch h
theorem tileRead (slot) (node) (ph) (v) :
    Statement (.tileRead slot node ph v) := fun _ _ h => nomatch h
theorem tileWrite (slot) (node) (ph) (v) :
    Statement (.tileWrite slot node ph v) := fun _ _ h => nomatch h
theorem tokenPost (slot) (node) (st) :
    Statement (.tokenPost slot node st) := fun _ _ h => nomatch h
theorem tokenWait (slot) (node) (st) :
    Statement (.tokenWait slot node st) := fun _ _ h => nomatch h
theorem pennantSignalWrite (slot) (node) (st) :
    Statement (.pennantSignalWrite slot node st) := fun _ _ h => nomatch h
theorem pennantSignalMax (slot) (node) (st) :
    Statement (.pennantSignalMax slot node st) := fun _ _ h => nomatch h
theorem pennantWait (slot) (node) (st) :
    Statement (.pennantWait slot node st) := fun _ _ h => nomatch h
theorem checkpoint (slot) (node) (st) :
    Statement (.checkpoint slot node st) := fun _ _ h => nomatch h
theorem barrier (slot) (node) (st) :
    Statement (.barrier slot node st) := fun _ _ h => nomatch h
theorem opComplete (slot) (node) (ofs) :
    Statement (.opComplete slot node ofs) := fun _ _ h => nomatch h
theorem postApply (slot) (node) (tok) (srcs) :
    Statement (.postApply slot node tok srcs) := fun _ _ h => nomatch h
theorem streamFault (v) :
    Statement (.streamFault v) := fun _ _ h => nomatch h
theorem entryQuiesced (stream) :
    Statement (.entryQuiesced stream) := fun _ _ h => nomatch h
theorem deviceInternalFault : Statement .deviceInternalFault := fun _ _ h => nomatch h
theorem resetPurge : Statement .resetPurge := fun _ _ h => nomatch h
theorem progressSample : Statement .progressSample := fun _ _ h => nomatch h
theorem cutTaken (stream) :
    Statement (.cutTaken stream) := fun _ _ h => nomatch h
theorem hostReadCompletion (issuer) (status) :
    Statement (.hostReadCompletion issuer status) := fun _ _ h => nomatch h
theorem completionTimeout (issuer) :
    Statement (.completionTimeout issuer) := fun _ _ h => nomatch h
theorem registerWrite (path) (ofs) (be) (value) :
    Statement (.registerWrite path ofs be value) := fun _ _ h => nomatch h
theorem pairLowRead (path) (ofs) (be) :
    Statement (.pairLowRead path ofs be) := fun _ _ h => nomatch h
theorem pairLowWrite (path) (ofs) (be) (value) :
    Statement (.pairLowWrite path ofs be value) := fun _ _ h => nomatch h
theorem pairHighWrite (path) (ofs) (be) (value) :
    Statement (.pairHighWrite path ofs be value) := fun _ _ h => nomatch h
theorem expertUnlockWrite (be) (value) :
    Statement (.expertUnlockWrite be value) := fun _ _ h => nomatch h
theorem noticeEnableWrite (be) (value) :
    Statement (.noticeEnableWrite be value) := fun _ _ h => nomatch h
theorem msixMessageSend : Statement .msixMessageSend := fun _ _ h => nomatch h
theorem ephSelftestStart (be) (value) :
    Statement (.ephSelftestStart be value) := fun _ _ h => nomatch h
theorem ephSelftestDone : Statement .ephSelftestDone := fun _ _ h => nomatch h
theorem svnCommit (be) (value) :
    Statement (.svnCommit be value) := fun _ _ h => nomatch h
theorem svnCommitDone : Statement .svnCommitDone := fun _ _ h => nomatch h
theorem recoveryStart (be) (value) :
    Statement (.recoveryStart be value) := fun _ _ h => nomatch h
theorem linkRetrainWrite (port) (be) (value) :
    Statement (.linkRetrainWrite port be value) := fun _ _ h => nomatch h
theorem linkEnableWrite (port) (be) (value) :
    Statement (.linkEnableWrite port be value) := fun _ _ h => nomatch h
theorem linkDisableWrite (port) (be) (value) :
    Statement (.linkDisableWrite port be value) := fun _ _ h => nomatch h
theorem pinMuxWrite (pin) (be) (value) :
    Statement (.pinMuxWrite pin be value) := fun _ _ h => nomatch h
theorem pinSwitchComplete (pin) :
    Statement (.pinSwitchComplete pin) := fun _ _ h => nomatch h
theorem bar2Read (ofs) (len) :
    Statement (.bar2Read ofs len) := fun _ _ h => nomatch h
theorem bar2Write (ofs) (bytes) :
    Statement (.bar2Write ofs bytes) := fun _ _ h => nomatch h
theorem configRequest (write) (dword) (be) (value) :
    Statement (.configRequest write dword be value) := fun _ _ h => nomatch h
theorem flr : Statement .flr := fun _ _ h => nomatch h
theorem hotReset : Statement .hotReset := fun _ _ h => nomatch h
theorem linkDisable : Statement .linkDisable := fun _ _ h => nomatch h
theorem dlDown : Statement .dlDown := fun _ _ h => nomatch h
theorem d3hotEntry : Statement .d3hotEntry := fun _ _ h => nomatch h
theorem l1Entry : Statement .l1Entry := fun _ _ h => nomatch h
theorem linkRecovery : Statement .linkRecovery := fun _ _ h => nomatch h
theorem perstN (us) :
    Statement (.perstN us) := fun _ _ h => nomatch h
theorem refclkLoss : Statement .refclkLoss := fun _ _ h => nomatch h
theorem pwrGoodFall : Statement .pwrGoodFall := fun _ _ h => nomatch h
theorem bootStart (flash) :
    Statement (.bootStart flash) := fun _ _ h => nomatch h
theorem dramTrainingDone (rate) (chOk) (big) :
    Statement (.dramTrainingDone rate chOk big) := fun _ _ h => nomatch h
theorem firmwareCheckDone : Statement .firmwareCheckDone := fun _ _ h => nomatch h
theorem bootReady : Statement .bootReady := fun _ _ h => nomatch h
theorem patrolScrubVisit (unit) (flips) :
    Statement (.patrolScrubVisit unit flips) := fun _ _ h => nomatch h
theorem correctionWriteback : Statement .correctionWriteback := fun _ _ h => nomatch h
theorem dramRefresh (channel) :
    Statement (.dramRefresh channel) := fun _ _ h => nomatch h
theorem mr4Read (rate) :
    Statement (.mr4Read rate) := fun _ _ h => nomatch h
theorem wck2dqiTracking (channel) :
    Statement (.wck2dqiTracking channel) := fun _ _ h => nomatch h
theorem telemetrySnapshot : Statement .telemetrySnapshot := fun _ _ h => nomatch h
theorem telemetryDrop : Statement .telemetryDrop := fun _ _ h => nomatch h
theorem governorPeriod (ev) :
    Statement (.governorPeriod ev) := fun _ _ h => nomatch h
theorem pllLocked : Statement .pllLocked := fun _ _ h => nomatch h
theorem voutSettleExpiry : Statement .voutSettleExpiry := fun _ _ h => nomatch h
theorem pmbusTransactionDone (good) (word) :
    Statement (.pmbusTransactionDone good word) := fun _ _ h => nomatch h
theorem opSwitch : Statement .opSwitch := fun _ _ h => nomatch h
theorem thermalSample (temps) :
    Statement (.thermalSample temps) := fun _ _ h => nomatch h
theorem thermalCeilingStep : Statement .thermalCeilingStep := fun _ _ h => nomatch h
theorem thermalTrip : Statement .thermalTrip := fun _ _ h => nomatch h
theorem brakeApply : Statement .brakeApply := fun _ _ h => nomatch h
theorem brakeRelease : Statement .brakeRelease := fun _ _ h => nomatch h
theorem smbAddrWrite (value) (pecOk) :
    Statement (.smbAddrWrite value pecOk) := fun _ _ h => nomatch h
theorem smbAddrRead : Statement .smbAddrRead := fun _ _ h => nomatch h
theorem smbDataWrite (value) (pecOk) :
    Statement (.smbDataWrite value pecOk) := fun _ _ h => nomatch h
theorem smbDataRead : Statement .smbDataRead := fun _ _ h => nomatch h
theorem smbSnap (inc) (pecOk) :
    Statement (.smbSnap inc pecOk) := fun _ _ h => nomatch h
theorem smbCommit (inc) (pecOk) :
    Statement (.smbCommit inc pecOk) := fun _ _ h => nomatch h
theorem smbWindowDone : Statement .smbWindowDone := fun _ _ h => nomatch h
theorem smbStatusRead : Statement .smbStatusRead := fun _ _ h => nomatch h
theorem smbSnapshotRead : Statement .smbSnapshotRead := fun _ _ h => nomatch h
theorem smbAlertResponse : Statement .smbAlertResponse := fun _ _ h => nomatch h
theorem tsBurst (port) :
    Statement (.tsBurst port) := fun _ _ h => nomatch h
theorem tsReceived (port) (lanes) :
    Statement (.tsReceived port lanes) := fun _ _ h => nomatch h
theorem trainLanesFixed (port) (lanes) :
    Statement (.trainLanesFixed port lanes) := fun _ _ h => nomatch h
theorem trainDeadline (port) :
    Statement (.trainDeadline port) := fun _ _ h => nomatch h
theorem speedDeadline (port) :
    Statement (.speedDeadline port) := fun _ _ h => nomatch h
theorem initSend (port) :
    Statement (.initSend port) := fun _ _ h => nomatch h
theorem initReceived (port) (frame) (coding) :
    Statement (.initReceived port frame coding) := fun _ _ h => nomatch h
theorem dataFrameReceived (port) (frame) (coding) :
    Statement (.dataFrameReceived port frame coding) := fun _ _ h => nomatch h
theorem ctrlFrameReceived (port) (frame) (coding) :
    Statement (.ctrlFrameReceived port frame coding) := fun _ _ h => nomatch h
theorem nackReceived (port) (frame) (coding) :
    Statement (.nackReceived port frame coding) := fun _ _ h => nomatch h
theorem goodbyeReceived (port) (frame) (coding) :
    Statement (.goodbyeReceived port frame coding) := fun _ _ h => nomatch h
theorem heartbeat (port) :
    Statement (.heartbeat port) := fun _ _ h => nomatch h
theorem checkInterval (port) :
    Statement (.checkInterval port) := fun _ _ h => nomatch h
theorem laneLockLoss (port) :
    Statement (.laneLockLoss port) := fun _ _ h => nomatch h
theorem electricalIdleDetected (port) :
    Statement (.electricalIdleDetected port) := fun _ _ h => nomatch h
theorem downIdleExpiry (port) :
    Statement (.downIdleExpiry port) := fun _ _ h => nomatch h
theorem fastTrainLocked (port) :
    Statement (.fastTrainLocked port) := fun _ _ h => nomatch h
theorem fastTrainDeadline (port) :
    Statement (.fastTrainDeadline port) := fun _ _ h => nomatch h
theorem helloSend (port) :
    Statement (.helloSend port) := fun _ _ h => nomatch h
theorem helloReceived (port) :
    Statement (.helloReceived port) := fun _ _ h => nomatch h
theorem parentTimeout : Statement .parentTimeout := fun _ _ h => nomatch h
theorem advertReceived (port) :
    Statement (.advertReceived port) := fun _ _ h => nomatch h
theorem fabricSettle : Statement .fabricSettle := fun _ _ h => nomatch h
theorem packetForward : Statement .packetForward := fun _ _ h => nomatch h
theorem remoteRead : Statement .remoteRead := fun _ _ h => nomatch h
theorem remoteWrite : Statement .remoteWrite := fun _ _ h => nomatch h
theorem remoteA48Add : Statement .remoteA48Add := fun _ _ h => nomatch h
theorem halyard : Statement .halyard := fun _ _ h => nomatch h
theorem probe : Statement .probe := fun _ _ h => nomatch h
theorem remoteResponse : Statement .remoteResponse := fun _ _ h => nomatch h
theorem probeRspReceived : Statement .probeRspReceived := fun _ _ h => nomatch h
theorem remoteNackReceived : Statement .remoteNackReceived := fun _ _ h => nomatch h
theorem fsbSyncPulse : Statement .fsbSyncPulse := fun _ _ h => nomatch h
theorem tapReset : Statement .tapReset := fun _ _ h => nomatch h
theorem tapIdcode : Statement .tapIdcode := fun _ _ h => nomatch h
theorem tapSamplePreload (captured) (preload) :
    Statement (.tapSamplePreload captured preload) := fun _ _ h => nomatch h
theorem tapExtest : Statement .tapExtest := fun _ _ h => nomatch h
theorem tapClamp : Statement .tapClamp := fun _ _ h => nomatch h
theorem tapHighz : Statement .tapHighz := fun _ _ h => nomatch h
theorem tapDbgSelect : Statement .tapDbgSelect := fun _ _ h => nomatch h
theorem tapBypass : Statement .tapBypass := fun _ _ h => nomatch h
theorem flashDeadline : Statement .flashDeadline := fun _ _ h => nomatch h
theorem pcieLinkUp (speed) (width) :
    Statement (.pcieLinkUp speed width) := fun _ _ h => nomatch h
theorem l1Exit : Statement .l1Exit := fun _ _ h => nomatch h
theorem contextImageWritten (stream) :
    Statement (.contextImageWritten stream) := fun _ _ h => nomatch h

end Sys2Proof.Laws.Spelling
end

