-- ==== Sys2Proof/Laws/State.lean ====
section
/-! SUPPORT. What each named update of the state leaves of each field: one lemma per field per
update, so that a proof unfolds no record update. -/

namespace Sys2Proof.Machine

/-! ### `State.setReg` -/

@[simp] theorem State.setReg_pending (s : State) (o v : Nat) : (s.setReg o v).pending = s.pending := rfl
@[simp] theorem State.setReg_cycle (s : State) (o v : Nat) : (s.setReg o v).cycle = s.cycle := rfl
@[simp] theorem State.setReg_fresh (s : State) (o v : Nat) : (s.setReg o v).fresh = s.fresh := rfl
@[simp] theorem State.setReg_postAlm (s : State) (o v : Nat) : (s.setReg o v).postAlm = s.postAlm := rfl
@[simp] theorem State.setReg_bar0 (s : State) (o v : Nat) : (s.setReg o v).bar0 = s.bar0 := rfl
@[simp] theorem State.setReg_smbPath (s : State) (o v : Nat) : (s.setReg o v).smbPath = s.smbPath := rfl
@[simp] theorem State.setReg_fePath (s : State) (o v : Nat) : (s.setReg o v).fePath = s.fePath := rfl
@[simp] theorem State.setReg_dram (s : State) (o v : Nat) : (s.setReg o v).dram = s.dram := rfl
@[simp] theorem State.setReg_plate (s : State) (o v : Nat) : (s.setReg o v).plate = s.plate := rfl
@[simp] theorem State.setReg_ecc (s : State) (o v : Nat) : (s.setReg o v).ecc = s.ecc := rfl
@[simp] theorem State.setReg_corrQ (s : State) (o v : Nat) : (s.setReg o v).corrQ = s.corrQ := rfl
@[simp] theorem State.setReg_scrubRow (s : State) (o v : Nat) : (s.setReg o v).scrubRow = s.scrubRow := rfl
@[simp] theorem State.setReg_scrubDone (s : State) (o v : Nat) : (s.setReg o v).scrubDone = s.scrubDone := rfl
@[simp] theorem State.setReg_tiles (s : State) (o v : Nat) : (s.setReg o v).tiles = s.tiles := rfl
@[simp] theorem State.setReg_ops (s : State) (o v : Nat) : (s.setReg o v).ops = s.ops := rfl
@[simp] theorem State.setReg_posts (s : State) (o v : Nat) : (s.setReg o v).posts = s.posts := rfl
@[simp] theorem State.setReg_toks (s : State) (o v : Nat) : (s.setReg o v).toks = s.toks := rfl
@[simp] theorem State.setReg_ring (s : State) (o v : Nat) : (s.setReg o v).ring = s.ring := rfl
@[simp] theorem State.setReg_streams (s : State) (o v : Nat) : (s.setReg o v).streams = s.streams := rfl
@[simp] theorem State.setReg_entries (s : State) (o v : Nat) : (s.setReg o v).entries = s.entries := rfl
@[simp] theorem State.setReg_slots (s : State) (o v : Nat) : (s.setReg o v).slots = s.slots := rfl
@[simp] theorem State.setReg_mapSeq (s : State) (o v : Nat) : (s.setReg o v).mapSeq = s.mapSeq := rfl
@[simp] theorem State.setReg_prog (s : State) (o v : Nat) : (s.setReg o v).prog = s.prog := rfl
@[simp] theorem State.setReg_faults (s : State) (o v : Nat) : (s.setReg o v).faults = s.faults := rfl
@[simp] theorem State.setReg_gens (s : State) (o v : Nat) : (s.setReg o v).gens = s.gens := rfl
@[simp] theorem State.setReg_hcopy (s : State) (o v : Nat) : (s.setReg o v).hcopy = s.hcopy := rfl
@[simp] theorem State.setReg_charts (s : State) (o v : Nat) : (s.setReg o v).charts = s.charts := rfl
@[simp] theorem State.setReg_pendSigs (s : State) (o v : Nat) : (s.setReg o v).pendSigs = s.pendSigs := rfl
@[simp] theorem State.setReg_ftime (s : State) (o v : Nat) : (s.setReg o v).ftime = s.ftime := rfl
@[simp] theorem State.setReg_rmt (s : State) (o v : Nat) : (s.setReg o v).rmt = s.rmt := rfl
@[simp] theorem State.setReg_nextTag (s : State) (o v : Nat) : (s.setReg o v).nextTag = s.nextTag := rfl
@[simp] theorem State.setReg_router (s : State) (o v : Nat) : (s.setReg o v).router = s.router := rfl
@[simp] theorem State.setReg_pairs (s : State) (o v : Nat) : (s.setReg o v).pairs = s.pairs := rfl
@[simp] theorem State.setReg_tgts (s : State) (o v : Nat) : (s.setReg o v).tgts = s.tgts := rfl
@[simp] theorem State.setReg_out (s : State) (o v : Nat) : (s.setReg o v).out = s.out := rfl
@[simp] theorem State.setReg_held (s : State) (o v : Nat) : (s.setReg o v).held = s.held := rfl
@[simp] theorem State.setReg_cfg (s : State) (o v : Nat) : (s.setReg o v).cfg = s.cfg := rfl
@[simp] theorem State.setReg_msixTab (s : State) (o v : Nat) : (s.setReg o v).msixTab = s.msixTab := rfl
@[simp] theorem State.setReg_pba (s : State) (o v : Nat) : (s.setReg o v).pba = s.pba := rfl
@[simp] theorem State.setReg_msixReq (s : State) (o v : Nat) : (s.setReg o v).msixReq = s.msixReq := rfl
@[simp] theorem State.setReg_resetPend (s : State) (o v : Nat) : (s.setReg o v).resetPend = s.resetPend := rfl
@[simp] theorem State.setReg_now (s : State) (o v : Nat) : (s.setReg o v).now = s.now := rfl
@[simp] theorem State.setReg_ports (s : State) (o v : Nat) : (s.setReg o v).ports = s.ports := rfl
@[simp] theorem State.setReg_fab (s : State) (o v : Nat) : (s.setReg o v).fab = s.fab := rfl
@[simp] theorem State.setReg_flash (s : State) (o v : Nat) : (s.setReg o v).flash = s.flash := rfl
@[simp] theorem State.setReg_copy (s : State) (o v : Nat) : (s.setReg o v).copy = s.copy := rfl
@[simp] theorem State.setReg_update (s : State) (o v : Nat) : (s.setReg o v).update = s.update := rfl
@[simp] theorem State.setReg_svnFloor (s : State) (o v : Nat) : (s.setReg o v).svnFloor = s.svnFloor := rfl
@[simp] theorem State.setReg_svnBusy (s : State) (o v : Nat) : (s.setReg o v).svnBusy = s.svnBusy := rfl
@[simp] theorem State.setReg_pwr (s : State) (o v : Nat) : (s.setReg o v).pwr = s.pwr := rfl
@[simp] theorem State.setReg_smb (s : State) (o v : Nat) : (s.setReg o v).smb = s.smb := rfl
@[simp] theorem State.setReg_parks (s : State) (o v : Nat) : (s.setReg o v).parks = s.parks := rfl
@[simp] theorem State.setReg_muxWait (s : State) (o v : Nat) : (s.setReg o v).muxWait = s.muxWait := rfl
@[simp] theorem State.setReg_balls (s : State) (o v : Nat) : (s.setReg o v).balls = s.balls := rfl
@[simp] theorem State.setReg_tap (s : State) (o v : Nat) : (s.setReg o v).tap = s.tap := rfl
@[simp] theorem State.setReg_perst (s : State) (o v : Nat) : (s.setReg o v).perst = s.perst := rfl
@[simp] theorem State.setReg_rearm (s : State) (o v : Nat) : (s.setReg o v).rearm = s.rearm := rfl
@[simp] theorem State.setReg_ephRun (s : State) (o v : Nat) : (s.setReg o v).ephRun = s.ephRun := rfl
@[simp] theorem State.setReg_sealBase (s : State) (o v : Nat) : (s.setReg o v).sealBase = s.sealBase := rfl
@[simp] theorem State.setReg_sealSize (s : State) (o v : Nat) : (s.setReg o v).sealSize = s.sealSize := rfl
@[simp] theorem State.setReg_past (s : State) (o v : Nat) : (s.setReg o v).past = s.past := rfl
@[simp] theorem State.setReg_stepped (s : State) (o v : Nat) : (s.setReg o v).stepped = s.stepped := rfl

/-! ### `State.setFld` -/

@[simp] theorem State.setFld_pending (s : State) (o hi lo v : Nat) : (s.setFld o hi lo v).pending = s.pending := rfl
@[simp] theorem State.setFld_cycle (s : State) (o hi lo v : Nat) : (s.setFld o hi lo v).cycle = s.cycle := rfl
@[simp] theorem State.setFld_fresh (s : State) (o hi lo v : Nat) : (s.setFld o hi lo v).fresh = s.fresh := rfl
@[simp] theorem State.setFld_postAlm (s : State) (o hi lo v : Nat) : (s.setFld o hi lo v).postAlm = s.postAlm := rfl
@[simp] theorem State.setFld_bar0 (s : State) (o hi lo v : Nat) : (s.setFld o hi lo v).bar0 = s.bar0 := rfl
@[simp] theorem State.setFld_smbPath (s : State) (o hi lo v : Nat) : (s.setFld o hi lo v).smbPath = s.smbPath := rfl
@[simp] theorem State.setFld_fePath (s : State) (o hi lo v : Nat) : (s.setFld o hi lo v).fePath = s.fePath := rfl
@[simp] theorem State.setFld_dram (s : State) (o hi lo v : Nat) : (s.setFld o hi lo v).dram = s.dram := rfl
@[simp] theorem State.setFld_plate (s : State) (o hi lo v : Nat) : (s.setFld o hi lo v).plate = s.plate := rfl
@[simp] theorem State.setFld_ecc (s : State) (o hi lo v : Nat) : (s.setFld o hi lo v).ecc = s.ecc := rfl
@[simp] theorem State.setFld_corrQ (s : State) (o hi lo v : Nat) : (s.setFld o hi lo v).corrQ = s.corrQ := rfl
@[simp] theorem State.setFld_scrubRow (s : State) (o hi lo v : Nat) : (s.setFld o hi lo v).scrubRow = s.scrubRow := rfl
@[simp] theorem State.setFld_scrubDone (s : State) (o hi lo v : Nat) : (s.setFld o hi lo v).scrubDone = s.scrubDone := rfl
@[simp] theorem State.setFld_tiles (s : State) (o hi lo v : Nat) : (s.setFld o hi lo v).tiles = s.tiles := rfl
@[simp] theorem State.setFld_ops (s : State) (o hi lo v : Nat) : (s.setFld o hi lo v).ops = s.ops := rfl
@[simp] theorem State.setFld_posts (s : State) (o hi lo v : Nat) : (s.setFld o hi lo v).posts = s.posts := rfl
@[simp] theorem State.setFld_toks (s : State) (o hi lo v : Nat) : (s.setFld o hi lo v).toks = s.toks := rfl
@[simp] theorem State.setFld_ring (s : State) (o hi lo v : Nat) : (s.setFld o hi lo v).ring = s.ring := rfl
@[simp] theorem State.setFld_streams (s : State) (o hi lo v : Nat) : (s.setFld o hi lo v).streams = s.streams := rfl
@[simp] theorem State.setFld_entries (s : State) (o hi lo v : Nat) : (s.setFld o hi lo v).entries = s.entries := rfl
@[simp] theorem State.setFld_slots (s : State) (o hi lo v : Nat) : (s.setFld o hi lo v).slots = s.slots := rfl
@[simp] theorem State.setFld_mapSeq (s : State) (o hi lo v : Nat) : (s.setFld o hi lo v).mapSeq = s.mapSeq := rfl
@[simp] theorem State.setFld_prog (s : State) (o hi lo v : Nat) : (s.setFld o hi lo v).prog = s.prog := rfl
@[simp] theorem State.setFld_faults (s : State) (o hi lo v : Nat) : (s.setFld o hi lo v).faults = s.faults := rfl
@[simp] theorem State.setFld_gens (s : State) (o hi lo v : Nat) : (s.setFld o hi lo v).gens = s.gens := rfl
@[simp] theorem State.setFld_hcopy (s : State) (o hi lo v : Nat) : (s.setFld o hi lo v).hcopy = s.hcopy := rfl
@[simp] theorem State.setFld_charts (s : State) (o hi lo v : Nat) : (s.setFld o hi lo v).charts = s.charts := rfl
@[simp] theorem State.setFld_pendSigs (s : State) (o hi lo v : Nat) : (s.setFld o hi lo v).pendSigs = s.pendSigs := rfl
@[simp] theorem State.setFld_ftime (s : State) (o hi lo v : Nat) : (s.setFld o hi lo v).ftime = s.ftime := rfl
@[simp] theorem State.setFld_rmt (s : State) (o hi lo v : Nat) : (s.setFld o hi lo v).rmt = s.rmt := rfl
@[simp] theorem State.setFld_nextTag (s : State) (o hi lo v : Nat) : (s.setFld o hi lo v).nextTag = s.nextTag := rfl
@[simp] theorem State.setFld_router (s : State) (o hi lo v : Nat) : (s.setFld o hi lo v).router = s.router := rfl
@[simp] theorem State.setFld_pairs (s : State) (o hi lo v : Nat) : (s.setFld o hi lo v).pairs = s.pairs := rfl
@[simp] theorem State.setFld_tgts (s : State) (o hi lo v : Nat) : (s.setFld o hi lo v).tgts = s.tgts := rfl
@[simp] theorem State.setFld_out (s : State) (o hi lo v : Nat) : (s.setFld o hi lo v).out = s.out := rfl
@[simp] theorem State.setFld_held (s : State) (o hi lo v : Nat) : (s.setFld o hi lo v).held = s.held := rfl
@[simp] theorem State.setFld_cfg (s : State) (o hi lo v : Nat) : (s.setFld o hi lo v).cfg = s.cfg := rfl
@[simp] theorem State.setFld_msixTab (s : State) (o hi lo v : Nat) : (s.setFld o hi lo v).msixTab = s.msixTab := rfl
@[simp] theorem State.setFld_pba (s : State) (o hi lo v : Nat) : (s.setFld o hi lo v).pba = s.pba := rfl
@[simp] theorem State.setFld_msixReq (s : State) (o hi lo v : Nat) : (s.setFld o hi lo v).msixReq = s.msixReq := rfl
@[simp] theorem State.setFld_resetPend (s : State) (o hi lo v : Nat) : (s.setFld o hi lo v).resetPend = s.resetPend := rfl
@[simp] theorem State.setFld_now (s : State) (o hi lo v : Nat) : (s.setFld o hi lo v).now = s.now := rfl
@[simp] theorem State.setFld_ports (s : State) (o hi lo v : Nat) : (s.setFld o hi lo v).ports = s.ports := rfl
@[simp] theorem State.setFld_fab (s : State) (o hi lo v : Nat) : (s.setFld o hi lo v).fab = s.fab := rfl
@[simp] theorem State.setFld_flash (s : State) (o hi lo v : Nat) : (s.setFld o hi lo v).flash = s.flash := rfl
@[simp] theorem State.setFld_copy (s : State) (o hi lo v : Nat) : (s.setFld o hi lo v).copy = s.copy := rfl
@[simp] theorem State.setFld_update (s : State) (o hi lo v : Nat) : (s.setFld o hi lo v).update = s.update := rfl
@[simp] theorem State.setFld_svnFloor (s : State) (o hi lo v : Nat) : (s.setFld o hi lo v).svnFloor = s.svnFloor := rfl
@[simp] theorem State.setFld_svnBusy (s : State) (o hi lo v : Nat) : (s.setFld o hi lo v).svnBusy = s.svnBusy := rfl
@[simp] theorem State.setFld_pwr (s : State) (o hi lo v : Nat) : (s.setFld o hi lo v).pwr = s.pwr := rfl
@[simp] theorem State.setFld_smb (s : State) (o hi lo v : Nat) : (s.setFld o hi lo v).smb = s.smb := rfl
@[simp] theorem State.setFld_parks (s : State) (o hi lo v : Nat) : (s.setFld o hi lo v).parks = s.parks := rfl
@[simp] theorem State.setFld_muxWait (s : State) (o hi lo v : Nat) : (s.setFld o hi lo v).muxWait = s.muxWait := rfl
@[simp] theorem State.setFld_balls (s : State) (o hi lo v : Nat) : (s.setFld o hi lo v).balls = s.balls := rfl
@[simp] theorem State.setFld_tap (s : State) (o hi lo v : Nat) : (s.setFld o hi lo v).tap = s.tap := rfl
@[simp] theorem State.setFld_perst (s : State) (o hi lo v : Nat) : (s.setFld o hi lo v).perst = s.perst := rfl
@[simp] theorem State.setFld_rearm (s : State) (o hi lo v : Nat) : (s.setFld o hi lo v).rearm = s.rearm := rfl
@[simp] theorem State.setFld_ephRun (s : State) (o hi lo v : Nat) : (s.setFld o hi lo v).ephRun = s.ephRun := rfl
@[simp] theorem State.setFld_sealBase (s : State) (o hi lo v : Nat) : (s.setFld o hi lo v).sealBase = s.sealBase := rfl
@[simp] theorem State.setFld_sealSize (s : State) (o hi lo v : Nat) : (s.setFld o hi lo v).sealSize = s.sealSize := rfl
@[simp] theorem State.setFld_past (s : State) (o hi lo v : Nat) : (s.setFld o hi lo v).past = s.past := rfl
@[simp] theorem State.setFld_stepped (s : State) (o hi lo v : Nat) : (s.setFld o hi lo v).stepped = s.stepped := rfl

/-! ### `State.setReg64` -/

@[simp] theorem State.setReg64_pending (s : State) (o v : Nat) : (s.setReg64 o v).pending = s.pending := rfl
@[simp] theorem State.setReg64_cycle (s : State) (o v : Nat) : (s.setReg64 o v).cycle = s.cycle := rfl
@[simp] theorem State.setReg64_fresh (s : State) (o v : Nat) : (s.setReg64 o v).fresh = s.fresh := rfl
@[simp] theorem State.setReg64_postAlm (s : State) (o v : Nat) : (s.setReg64 o v).postAlm = s.postAlm := rfl
@[simp] theorem State.setReg64_bar0 (s : State) (o v : Nat) : (s.setReg64 o v).bar0 = s.bar0 := rfl
@[simp] theorem State.setReg64_smbPath (s : State) (o v : Nat) : (s.setReg64 o v).smbPath = s.smbPath := rfl
@[simp] theorem State.setReg64_fePath (s : State) (o v : Nat) : (s.setReg64 o v).fePath = s.fePath := rfl
@[simp] theorem State.setReg64_dram (s : State) (o v : Nat) : (s.setReg64 o v).dram = s.dram := rfl
@[simp] theorem State.setReg64_plate (s : State) (o v : Nat) : (s.setReg64 o v).plate = s.plate := rfl
@[simp] theorem State.setReg64_ecc (s : State) (o v : Nat) : (s.setReg64 o v).ecc = s.ecc := rfl
@[simp] theorem State.setReg64_corrQ (s : State) (o v : Nat) : (s.setReg64 o v).corrQ = s.corrQ := rfl
@[simp] theorem State.setReg64_scrubRow (s : State) (o v : Nat) : (s.setReg64 o v).scrubRow = s.scrubRow := rfl
@[simp] theorem State.setReg64_scrubDone (s : State) (o v : Nat) : (s.setReg64 o v).scrubDone = s.scrubDone := rfl
@[simp] theorem State.setReg64_tiles (s : State) (o v : Nat) : (s.setReg64 o v).tiles = s.tiles := rfl
@[simp] theorem State.setReg64_ops (s : State) (o v : Nat) : (s.setReg64 o v).ops = s.ops := rfl
@[simp] theorem State.setReg64_posts (s : State) (o v : Nat) : (s.setReg64 o v).posts = s.posts := rfl
@[simp] theorem State.setReg64_toks (s : State) (o v : Nat) : (s.setReg64 o v).toks = s.toks := rfl
@[simp] theorem State.setReg64_ring (s : State) (o v : Nat) : (s.setReg64 o v).ring = s.ring := rfl
@[simp] theorem State.setReg64_streams (s : State) (o v : Nat) : (s.setReg64 o v).streams = s.streams := rfl
@[simp] theorem State.setReg64_entries (s : State) (o v : Nat) : (s.setReg64 o v).entries = s.entries := rfl
@[simp] theorem State.setReg64_slots (s : State) (o v : Nat) : (s.setReg64 o v).slots = s.slots := rfl
@[simp] theorem State.setReg64_mapSeq (s : State) (o v : Nat) : (s.setReg64 o v).mapSeq = s.mapSeq := rfl
@[simp] theorem State.setReg64_prog (s : State) (o v : Nat) : (s.setReg64 o v).prog = s.prog := rfl
@[simp] theorem State.setReg64_faults (s : State) (o v : Nat) : (s.setReg64 o v).faults = s.faults := rfl
@[simp] theorem State.setReg64_gens (s : State) (o v : Nat) : (s.setReg64 o v).gens = s.gens := rfl
@[simp] theorem State.setReg64_hcopy (s : State) (o v : Nat) : (s.setReg64 o v).hcopy = s.hcopy := rfl
@[simp] theorem State.setReg64_charts (s : State) (o v : Nat) : (s.setReg64 o v).charts = s.charts := rfl
@[simp] theorem State.setReg64_pendSigs (s : State) (o v : Nat) : (s.setReg64 o v).pendSigs = s.pendSigs := rfl
@[simp] theorem State.setReg64_ftime (s : State) (o v : Nat) : (s.setReg64 o v).ftime = s.ftime := rfl
@[simp] theorem State.setReg64_rmt (s : State) (o v : Nat) : (s.setReg64 o v).rmt = s.rmt := rfl
@[simp] theorem State.setReg64_nextTag (s : State) (o v : Nat) : (s.setReg64 o v).nextTag = s.nextTag := rfl
@[simp] theorem State.setReg64_router (s : State) (o v : Nat) : (s.setReg64 o v).router = s.router := rfl
@[simp] theorem State.setReg64_pairs (s : State) (o v : Nat) : (s.setReg64 o v).pairs = s.pairs := rfl
@[simp] theorem State.setReg64_tgts (s : State) (o v : Nat) : (s.setReg64 o v).tgts = s.tgts := rfl
@[simp] theorem State.setReg64_out (s : State) (o v : Nat) : (s.setReg64 o v).out = s.out := rfl
@[simp] theorem State.setReg64_held (s : State) (o v : Nat) : (s.setReg64 o v).held = s.held := rfl
@[simp] theorem State.setReg64_cfg (s : State) (o v : Nat) : (s.setReg64 o v).cfg = s.cfg := rfl
@[simp] theorem State.setReg64_msixTab (s : State) (o v : Nat) : (s.setReg64 o v).msixTab = s.msixTab := rfl
@[simp] theorem State.setReg64_pba (s : State) (o v : Nat) : (s.setReg64 o v).pba = s.pba := rfl
@[simp] theorem State.setReg64_msixReq (s : State) (o v : Nat) : (s.setReg64 o v).msixReq = s.msixReq := rfl
@[simp] theorem State.setReg64_resetPend (s : State) (o v : Nat) : (s.setReg64 o v).resetPend = s.resetPend := rfl
@[simp] theorem State.setReg64_now (s : State) (o v : Nat) : (s.setReg64 o v).now = s.now := rfl
@[simp] theorem State.setReg64_ports (s : State) (o v : Nat) : (s.setReg64 o v).ports = s.ports := rfl
@[simp] theorem State.setReg64_fab (s : State) (o v : Nat) : (s.setReg64 o v).fab = s.fab := rfl
@[simp] theorem State.setReg64_flash (s : State) (o v : Nat) : (s.setReg64 o v).flash = s.flash := rfl
@[simp] theorem State.setReg64_copy (s : State) (o v : Nat) : (s.setReg64 o v).copy = s.copy := rfl
@[simp] theorem State.setReg64_update (s : State) (o v : Nat) : (s.setReg64 o v).update = s.update := rfl
@[simp] theorem State.setReg64_svnFloor (s : State) (o v : Nat) : (s.setReg64 o v).svnFloor = s.svnFloor := rfl
@[simp] theorem State.setReg64_svnBusy (s : State) (o v : Nat) : (s.setReg64 o v).svnBusy = s.svnBusy := rfl
@[simp] theorem State.setReg64_pwr (s : State) (o v : Nat) : (s.setReg64 o v).pwr = s.pwr := rfl
@[simp] theorem State.setReg64_smb (s : State) (o v : Nat) : (s.setReg64 o v).smb = s.smb := rfl
@[simp] theorem State.setReg64_parks (s : State) (o v : Nat) : (s.setReg64 o v).parks = s.parks := rfl
@[simp] theorem State.setReg64_muxWait (s : State) (o v : Nat) : (s.setReg64 o v).muxWait = s.muxWait := rfl
@[simp] theorem State.setReg64_balls (s : State) (o v : Nat) : (s.setReg64 o v).balls = s.balls := rfl
@[simp] theorem State.setReg64_tap (s : State) (o v : Nat) : (s.setReg64 o v).tap = s.tap := rfl
@[simp] theorem State.setReg64_perst (s : State) (o v : Nat) : (s.setReg64 o v).perst = s.perst := rfl
@[simp] theorem State.setReg64_rearm (s : State) (o v : Nat) : (s.setReg64 o v).rearm = s.rearm := rfl
@[simp] theorem State.setReg64_ephRun (s : State) (o v : Nat) : (s.setReg64 o v).ephRun = s.ephRun := rfl
@[simp] theorem State.setReg64_sealBase (s : State) (o v : Nat) : (s.setReg64 o v).sealBase = s.sealBase := rfl
@[simp] theorem State.setReg64_sealSize (s : State) (o v : Nat) : (s.setReg64 o v).sealSize = s.sealSize := rfl
@[simp] theorem State.setReg64_past (s : State) (o v : Nat) : (s.setReg64 o v).past = s.past := rfl
@[simp] theorem State.setReg64_stepped (s : State) (o v : Nat) : (s.setReg64 o v).stepped = s.stepped := rfl

/-! ### `State.bump` -/

@[simp] theorem State.bump_pending (s : State) (o n : Nat) : (s.bump o n).pending = s.pending := rfl
@[simp] theorem State.bump_cycle (s : State) (o n : Nat) : (s.bump o n).cycle = s.cycle := rfl
@[simp] theorem State.bump_fresh (s : State) (o n : Nat) : (s.bump o n).fresh = s.fresh := rfl
@[simp] theorem State.bump_postAlm (s : State) (o n : Nat) : (s.bump o n).postAlm = s.postAlm := rfl
@[simp] theorem State.bump_bar0 (s : State) (o n : Nat) : (s.bump o n).bar0 = s.bar0 := rfl
@[simp] theorem State.bump_smbPath (s : State) (o n : Nat) : (s.bump o n).smbPath = s.smbPath := rfl
@[simp] theorem State.bump_fePath (s : State) (o n : Nat) : (s.bump o n).fePath = s.fePath := rfl
@[simp] theorem State.bump_dram (s : State) (o n : Nat) : (s.bump o n).dram = s.dram := rfl
@[simp] theorem State.bump_plate (s : State) (o n : Nat) : (s.bump o n).plate = s.plate := rfl
@[simp] theorem State.bump_ecc (s : State) (o n : Nat) : (s.bump o n).ecc = s.ecc := rfl
@[simp] theorem State.bump_corrQ (s : State) (o n : Nat) : (s.bump o n).corrQ = s.corrQ := rfl
@[simp] theorem State.bump_scrubRow (s : State) (o n : Nat) : (s.bump o n).scrubRow = s.scrubRow := rfl
@[simp] theorem State.bump_scrubDone (s : State) (o n : Nat) : (s.bump o n).scrubDone = s.scrubDone := rfl
@[simp] theorem State.bump_tiles (s : State) (o n : Nat) : (s.bump o n).tiles = s.tiles := rfl
@[simp] theorem State.bump_ops (s : State) (o n : Nat) : (s.bump o n).ops = s.ops := rfl
@[simp] theorem State.bump_posts (s : State) (o n : Nat) : (s.bump o n).posts = s.posts := rfl
@[simp] theorem State.bump_toks (s : State) (o n : Nat) : (s.bump o n).toks = s.toks := rfl
@[simp] theorem State.bump_ring (s : State) (o n : Nat) : (s.bump o n).ring = s.ring := rfl
@[simp] theorem State.bump_streams (s : State) (o n : Nat) : (s.bump o n).streams = s.streams := rfl
@[simp] theorem State.bump_entries (s : State) (o n : Nat) : (s.bump o n).entries = s.entries := rfl
@[simp] theorem State.bump_slots (s : State) (o n : Nat) : (s.bump o n).slots = s.slots := rfl
@[simp] theorem State.bump_mapSeq (s : State) (o n : Nat) : (s.bump o n).mapSeq = s.mapSeq := rfl
@[simp] theorem State.bump_prog (s : State) (o n : Nat) : (s.bump o n).prog = s.prog := rfl
@[simp] theorem State.bump_faults (s : State) (o n : Nat) : (s.bump o n).faults = s.faults := rfl
@[simp] theorem State.bump_gens (s : State) (o n : Nat) : (s.bump o n).gens = s.gens := rfl
@[simp] theorem State.bump_hcopy (s : State) (o n : Nat) : (s.bump o n).hcopy = s.hcopy := rfl
@[simp] theorem State.bump_charts (s : State) (o n : Nat) : (s.bump o n).charts = s.charts := rfl
@[simp] theorem State.bump_pendSigs (s : State) (o n : Nat) : (s.bump o n).pendSigs = s.pendSigs := rfl
@[simp] theorem State.bump_ftime (s : State) (o n : Nat) : (s.bump o n).ftime = s.ftime := rfl
@[simp] theorem State.bump_rmt (s : State) (o n : Nat) : (s.bump o n).rmt = s.rmt := rfl
@[simp] theorem State.bump_nextTag (s : State) (o n : Nat) : (s.bump o n).nextTag = s.nextTag := rfl
@[simp] theorem State.bump_router (s : State) (o n : Nat) : (s.bump o n).router = s.router := rfl
@[simp] theorem State.bump_pairs (s : State) (o n : Nat) : (s.bump o n).pairs = s.pairs := rfl
@[simp] theorem State.bump_tgts (s : State) (o n : Nat) : (s.bump o n).tgts = s.tgts := rfl
@[simp] theorem State.bump_out (s : State) (o n : Nat) : (s.bump o n).out = s.out := rfl
@[simp] theorem State.bump_held (s : State) (o n : Nat) : (s.bump o n).held = s.held := rfl
@[simp] theorem State.bump_cfg (s : State) (o n : Nat) : (s.bump o n).cfg = s.cfg := rfl
@[simp] theorem State.bump_msixTab (s : State) (o n : Nat) : (s.bump o n).msixTab = s.msixTab := rfl
@[simp] theorem State.bump_pba (s : State) (o n : Nat) : (s.bump o n).pba = s.pba := rfl
@[simp] theorem State.bump_msixReq (s : State) (o n : Nat) : (s.bump o n).msixReq = s.msixReq := rfl
@[simp] theorem State.bump_resetPend (s : State) (o n : Nat) : (s.bump o n).resetPend = s.resetPend := rfl
@[simp] theorem State.bump_now (s : State) (o n : Nat) : (s.bump o n).now = s.now := rfl
@[simp] theorem State.bump_ports (s : State) (o n : Nat) : (s.bump o n).ports = s.ports := rfl
@[simp] theorem State.bump_fab (s : State) (o n : Nat) : (s.bump o n).fab = s.fab := rfl
@[simp] theorem State.bump_flash (s : State) (o n : Nat) : (s.bump o n).flash = s.flash := rfl
@[simp] theorem State.bump_copy (s : State) (o n : Nat) : (s.bump o n).copy = s.copy := rfl
@[simp] theorem State.bump_update (s : State) (o n : Nat) : (s.bump o n).update = s.update := rfl
@[simp] theorem State.bump_svnFloor (s : State) (o n : Nat) : (s.bump o n).svnFloor = s.svnFloor := rfl
@[simp] theorem State.bump_svnBusy (s : State) (o n : Nat) : (s.bump o n).svnBusy = s.svnBusy := rfl
@[simp] theorem State.bump_pwr (s : State) (o n : Nat) : (s.bump o n).pwr = s.pwr := rfl
@[simp] theorem State.bump_smb (s : State) (o n : Nat) : (s.bump o n).smb = s.smb := rfl
@[simp] theorem State.bump_parks (s : State) (o n : Nat) : (s.bump o n).parks = s.parks := rfl
@[simp] theorem State.bump_muxWait (s : State) (o n : Nat) : (s.bump o n).muxWait = s.muxWait := rfl
@[simp] theorem State.bump_balls (s : State) (o n : Nat) : (s.bump o n).balls = s.balls := rfl
@[simp] theorem State.bump_tap (s : State) (o n : Nat) : (s.bump o n).tap = s.tap := rfl
@[simp] theorem State.bump_perst (s : State) (o n : Nat) : (s.bump o n).perst = s.perst := rfl
@[simp] theorem State.bump_rearm (s : State) (o n : Nat) : (s.bump o n).rearm = s.rearm := rfl
@[simp] theorem State.bump_ephRun (s : State) (o n : Nat) : (s.bump o n).ephRun = s.ephRun := rfl
@[simp] theorem State.bump_sealBase (s : State) (o n : Nat) : (s.bump o n).sealBase = s.sealBase := rfl
@[simp] theorem State.bump_sealSize (s : State) (o n : Nat) : (s.bump o n).sealSize = s.sealSize := rfl
@[simp] theorem State.bump_past (s : State) (o n : Nat) : (s.bump o n).past = s.past := rfl
@[simp] theorem State.bump_stepped (s : State) (o n : Nat) : (s.bump o n).stepped = s.stepped := rfl

/-! ### `State.bump64` -/

@[simp] theorem State.bump64_pending (s : State) (o n : Nat) : (s.bump64 o n).pending = s.pending := rfl
@[simp] theorem State.bump64_cycle (s : State) (o n : Nat) : (s.bump64 o n).cycle = s.cycle := rfl
@[simp] theorem State.bump64_fresh (s : State) (o n : Nat) : (s.bump64 o n).fresh = s.fresh := rfl
@[simp] theorem State.bump64_postAlm (s : State) (o n : Nat) : (s.bump64 o n).postAlm = s.postAlm := rfl
@[simp] theorem State.bump64_bar0 (s : State) (o n : Nat) : (s.bump64 o n).bar0 = s.bar0 := rfl
@[simp] theorem State.bump64_smbPath (s : State) (o n : Nat) : (s.bump64 o n).smbPath = s.smbPath := rfl
@[simp] theorem State.bump64_fePath (s : State) (o n : Nat) : (s.bump64 o n).fePath = s.fePath := rfl
@[simp] theorem State.bump64_dram (s : State) (o n : Nat) : (s.bump64 o n).dram = s.dram := rfl
@[simp] theorem State.bump64_plate (s : State) (o n : Nat) : (s.bump64 o n).plate = s.plate := rfl
@[simp] theorem State.bump64_ecc (s : State) (o n : Nat) : (s.bump64 o n).ecc = s.ecc := rfl
@[simp] theorem State.bump64_corrQ (s : State) (o n : Nat) : (s.bump64 o n).corrQ = s.corrQ := rfl
@[simp] theorem State.bump64_scrubRow (s : State) (o n : Nat) : (s.bump64 o n).scrubRow = s.scrubRow := rfl
@[simp] theorem State.bump64_scrubDone (s : State) (o n : Nat) : (s.bump64 o n).scrubDone = s.scrubDone := rfl
@[simp] theorem State.bump64_tiles (s : State) (o n : Nat) : (s.bump64 o n).tiles = s.tiles := rfl
@[simp] theorem State.bump64_ops (s : State) (o n : Nat) : (s.bump64 o n).ops = s.ops := rfl
@[simp] theorem State.bump64_posts (s : State) (o n : Nat) : (s.bump64 o n).posts = s.posts := rfl
@[simp] theorem State.bump64_toks (s : State) (o n : Nat) : (s.bump64 o n).toks = s.toks := rfl
@[simp] theorem State.bump64_ring (s : State) (o n : Nat) : (s.bump64 o n).ring = s.ring := rfl
@[simp] theorem State.bump64_streams (s : State) (o n : Nat) : (s.bump64 o n).streams = s.streams := rfl
@[simp] theorem State.bump64_entries (s : State) (o n : Nat) : (s.bump64 o n).entries = s.entries := rfl
@[simp] theorem State.bump64_slots (s : State) (o n : Nat) : (s.bump64 o n).slots = s.slots := rfl
@[simp] theorem State.bump64_mapSeq (s : State) (o n : Nat) : (s.bump64 o n).mapSeq = s.mapSeq := rfl
@[simp] theorem State.bump64_prog (s : State) (o n : Nat) : (s.bump64 o n).prog = s.prog := rfl
@[simp] theorem State.bump64_faults (s : State) (o n : Nat) : (s.bump64 o n).faults = s.faults := rfl
@[simp] theorem State.bump64_gens (s : State) (o n : Nat) : (s.bump64 o n).gens = s.gens := rfl
@[simp] theorem State.bump64_hcopy (s : State) (o n : Nat) : (s.bump64 o n).hcopy = s.hcopy := rfl
@[simp] theorem State.bump64_charts (s : State) (o n : Nat) : (s.bump64 o n).charts = s.charts := rfl
@[simp] theorem State.bump64_pendSigs (s : State) (o n : Nat) : (s.bump64 o n).pendSigs = s.pendSigs := rfl
@[simp] theorem State.bump64_ftime (s : State) (o n : Nat) : (s.bump64 o n).ftime = s.ftime := rfl
@[simp] theorem State.bump64_rmt (s : State) (o n : Nat) : (s.bump64 o n).rmt = s.rmt := rfl
@[simp] theorem State.bump64_nextTag (s : State) (o n : Nat) : (s.bump64 o n).nextTag = s.nextTag := rfl
@[simp] theorem State.bump64_router (s : State) (o n : Nat) : (s.bump64 o n).router = s.router := rfl
@[simp] theorem State.bump64_pairs (s : State) (o n : Nat) : (s.bump64 o n).pairs = s.pairs := rfl
@[simp] theorem State.bump64_tgts (s : State) (o n : Nat) : (s.bump64 o n).tgts = s.tgts := rfl
@[simp] theorem State.bump64_out (s : State) (o n : Nat) : (s.bump64 o n).out = s.out := rfl
@[simp] theorem State.bump64_held (s : State) (o n : Nat) : (s.bump64 o n).held = s.held := rfl
@[simp] theorem State.bump64_cfg (s : State) (o n : Nat) : (s.bump64 o n).cfg = s.cfg := rfl
@[simp] theorem State.bump64_msixTab (s : State) (o n : Nat) : (s.bump64 o n).msixTab = s.msixTab := rfl
@[simp] theorem State.bump64_pba (s : State) (o n : Nat) : (s.bump64 o n).pba = s.pba := rfl
@[simp] theorem State.bump64_msixReq (s : State) (o n : Nat) : (s.bump64 o n).msixReq = s.msixReq := rfl
@[simp] theorem State.bump64_resetPend (s : State) (o n : Nat) : (s.bump64 o n).resetPend = s.resetPend := rfl
@[simp] theorem State.bump64_now (s : State) (o n : Nat) : (s.bump64 o n).now = s.now := rfl
@[simp] theorem State.bump64_ports (s : State) (o n : Nat) : (s.bump64 o n).ports = s.ports := rfl
@[simp] theorem State.bump64_fab (s : State) (o n : Nat) : (s.bump64 o n).fab = s.fab := rfl
@[simp] theorem State.bump64_flash (s : State) (o n : Nat) : (s.bump64 o n).flash = s.flash := rfl
@[simp] theorem State.bump64_copy (s : State) (o n : Nat) : (s.bump64 o n).copy = s.copy := rfl
@[simp] theorem State.bump64_update (s : State) (o n : Nat) : (s.bump64 o n).update = s.update := rfl
@[simp] theorem State.bump64_svnFloor (s : State) (o n : Nat) : (s.bump64 o n).svnFloor = s.svnFloor := rfl
@[simp] theorem State.bump64_svnBusy (s : State) (o n : Nat) : (s.bump64 o n).svnBusy = s.svnBusy := rfl
@[simp] theorem State.bump64_pwr (s : State) (o n : Nat) : (s.bump64 o n).pwr = s.pwr := rfl
@[simp] theorem State.bump64_smb (s : State) (o n : Nat) : (s.bump64 o n).smb = s.smb := rfl
@[simp] theorem State.bump64_parks (s : State) (o n : Nat) : (s.bump64 o n).parks = s.parks := rfl
@[simp] theorem State.bump64_muxWait (s : State) (o n : Nat) : (s.bump64 o n).muxWait = s.muxWait := rfl
@[simp] theorem State.bump64_balls (s : State) (o n : Nat) : (s.bump64 o n).balls = s.balls := rfl
@[simp] theorem State.bump64_tap (s : State) (o n : Nat) : (s.bump64 o n).tap = s.tap := rfl
@[simp] theorem State.bump64_perst (s : State) (o n : Nat) : (s.bump64 o n).perst = s.perst := rfl
@[simp] theorem State.bump64_rearm (s : State) (o n : Nat) : (s.bump64 o n).rearm = s.rearm := rfl
@[simp] theorem State.bump64_ephRun (s : State) (o n : Nat) : (s.bump64 o n).ephRun = s.ephRun := rfl
@[simp] theorem State.bump64_sealBase (s : State) (o n : Nat) : (s.bump64 o n).sealBase = s.sealBase := rfl
@[simp] theorem State.bump64_sealSize (s : State) (o n : Nat) : (s.bump64 o n).sealSize = s.sealSize := rfl
@[simp] theorem State.bump64_past (s : State) (o n : Nat) : (s.bump64 o n).past = s.past := rfl
@[simp] theorem State.bump64_stepped (s : State) (o n : Nat) : (s.bump64 o n).stepped = s.stepped := rfl

/-! ### `State.bumpFresh` -/

@[simp] theorem State.bumpFresh_pending (s : State) : (s.bumpFresh).pending = s.pending := rfl
@[simp] theorem State.bumpFresh_cycle (s : State) : (s.bumpFresh).cycle = s.cycle := rfl
@[simp] theorem State.bumpFresh_regs (s : State) : (s.bumpFresh).regs = s.regs := rfl
@[simp] theorem State.bumpFresh_postAlm (s : State) : (s.bumpFresh).postAlm = s.postAlm := rfl
@[simp] theorem State.bumpFresh_bar0 (s : State) : (s.bumpFresh).bar0 = s.bar0 := rfl
@[simp] theorem State.bumpFresh_smbPath (s : State) : (s.bumpFresh).smbPath = s.smbPath := rfl
@[simp] theorem State.bumpFresh_fePath (s : State) : (s.bumpFresh).fePath = s.fePath := rfl
@[simp] theorem State.bumpFresh_dram (s : State) : (s.bumpFresh).dram = s.dram := rfl
@[simp] theorem State.bumpFresh_plate (s : State) : (s.bumpFresh).plate = s.plate := rfl
@[simp] theorem State.bumpFresh_ecc (s : State) : (s.bumpFresh).ecc = s.ecc := rfl
@[simp] theorem State.bumpFresh_corrQ (s : State) : (s.bumpFresh).corrQ = s.corrQ := rfl
@[simp] theorem State.bumpFresh_scrubRow (s : State) : (s.bumpFresh).scrubRow = s.scrubRow := rfl
@[simp] theorem State.bumpFresh_scrubDone (s : State) : (s.bumpFresh).scrubDone = s.scrubDone := rfl
@[simp] theorem State.bumpFresh_tiles (s : State) : (s.bumpFresh).tiles = s.tiles := rfl
@[simp] theorem State.bumpFresh_ops (s : State) : (s.bumpFresh).ops = s.ops := rfl
@[simp] theorem State.bumpFresh_posts (s : State) : (s.bumpFresh).posts = s.posts := rfl
@[simp] theorem State.bumpFresh_toks (s : State) : (s.bumpFresh).toks = s.toks := rfl
@[simp] theorem State.bumpFresh_ring (s : State) : (s.bumpFresh).ring = s.ring := rfl
@[simp] theorem State.bumpFresh_streams (s : State) : (s.bumpFresh).streams = s.streams := rfl
@[simp] theorem State.bumpFresh_entries (s : State) : (s.bumpFresh).entries = s.entries := rfl
@[simp] theorem State.bumpFresh_slots (s : State) : (s.bumpFresh).slots = s.slots := rfl
@[simp] theorem State.bumpFresh_mapSeq (s : State) : (s.bumpFresh).mapSeq = s.mapSeq := rfl
@[simp] theorem State.bumpFresh_prog (s : State) : (s.bumpFresh).prog = s.prog := rfl
@[simp] theorem State.bumpFresh_faults (s : State) : (s.bumpFresh).faults = s.faults := rfl
@[simp] theorem State.bumpFresh_gens (s : State) : (s.bumpFresh).gens = s.gens := rfl
@[simp] theorem State.bumpFresh_hcopy (s : State) : (s.bumpFresh).hcopy = s.hcopy := rfl
@[simp] theorem State.bumpFresh_charts (s : State) : (s.bumpFresh).charts = s.charts := rfl
@[simp] theorem State.bumpFresh_pendSigs (s : State) : (s.bumpFresh).pendSigs = s.pendSigs := rfl
@[simp] theorem State.bumpFresh_ftime (s : State) : (s.bumpFresh).ftime = s.ftime := rfl
@[simp] theorem State.bumpFresh_rmt (s : State) : (s.bumpFresh).rmt = s.rmt := rfl
@[simp] theorem State.bumpFresh_nextTag (s : State) : (s.bumpFresh).nextTag = s.nextTag := rfl
@[simp] theorem State.bumpFresh_router (s : State) : (s.bumpFresh).router = s.router := rfl
@[simp] theorem State.bumpFresh_pairs (s : State) : (s.bumpFresh).pairs = s.pairs := rfl
@[simp] theorem State.bumpFresh_tgts (s : State) : (s.bumpFresh).tgts = s.tgts := rfl
@[simp] theorem State.bumpFresh_out (s : State) : (s.bumpFresh).out = s.out := rfl
@[simp] theorem State.bumpFresh_held (s : State) : (s.bumpFresh).held = s.held := rfl
@[simp] theorem State.bumpFresh_cfg (s : State) : (s.bumpFresh).cfg = s.cfg := rfl
@[simp] theorem State.bumpFresh_msixTab (s : State) : (s.bumpFresh).msixTab = s.msixTab := rfl
@[simp] theorem State.bumpFresh_pba (s : State) : (s.bumpFresh).pba = s.pba := rfl
@[simp] theorem State.bumpFresh_msixReq (s : State) : (s.bumpFresh).msixReq = s.msixReq := rfl
@[simp] theorem State.bumpFresh_resetPend (s : State) : (s.bumpFresh).resetPend = s.resetPend := rfl
@[simp] theorem State.bumpFresh_now (s : State) : (s.bumpFresh).now = s.now := rfl
@[simp] theorem State.bumpFresh_ports (s : State) : (s.bumpFresh).ports = s.ports := rfl
@[simp] theorem State.bumpFresh_fab (s : State) : (s.bumpFresh).fab = s.fab := rfl
@[simp] theorem State.bumpFresh_flash (s : State) : (s.bumpFresh).flash = s.flash := rfl
@[simp] theorem State.bumpFresh_copy (s : State) : (s.bumpFresh).copy = s.copy := rfl
@[simp] theorem State.bumpFresh_update (s : State) : (s.bumpFresh).update = s.update := rfl
@[simp] theorem State.bumpFresh_svnFloor (s : State) : (s.bumpFresh).svnFloor = s.svnFloor := rfl
@[simp] theorem State.bumpFresh_svnBusy (s : State) : (s.bumpFresh).svnBusy = s.svnBusy := rfl
@[simp] theorem State.bumpFresh_pwr (s : State) : (s.bumpFresh).pwr = s.pwr := rfl
@[simp] theorem State.bumpFresh_smb (s : State) : (s.bumpFresh).smb = s.smb := rfl
@[simp] theorem State.bumpFresh_parks (s : State) : (s.bumpFresh).parks = s.parks := rfl
@[simp] theorem State.bumpFresh_muxWait (s : State) : (s.bumpFresh).muxWait = s.muxWait := rfl
@[simp] theorem State.bumpFresh_balls (s : State) : (s.bumpFresh).balls = s.balls := rfl
@[simp] theorem State.bumpFresh_tap (s : State) : (s.bumpFresh).tap = s.tap := rfl
@[simp] theorem State.bumpFresh_perst (s : State) : (s.bumpFresh).perst = s.perst := rfl
@[simp] theorem State.bumpFresh_rearm (s : State) : (s.bumpFresh).rearm = s.rearm := rfl
@[simp] theorem State.bumpFresh_ephRun (s : State) : (s.bumpFresh).ephRun = s.ephRun := rfl
@[simp] theorem State.bumpFresh_sealBase (s : State) : (s.bumpFresh).sealBase = s.sealBase := rfl
@[simp] theorem State.bumpFresh_sealSize (s : State) : (s.bumpFresh).sealSize = s.sealSize := rfl
@[simp] theorem State.bumpFresh_past (s : State) : (s.bumpFresh).past = s.past := rfl
@[simp] theorem State.bumpFresh_stepped (s : State) : (s.bumpFresh).stepped = s.stepped := rfl

/-! ### `State.emit` -/

@[simp] theorem State.emit_pending (s : State) (x : Outbound) : (s.emit x).pending = s.pending := rfl
@[simp] theorem State.emit_cycle (s : State) (x : Outbound) : (s.emit x).cycle = s.cycle := rfl
@[simp] theorem State.emit_fresh (s : State) (x : Outbound) : (s.emit x).fresh = s.fresh := rfl
@[simp] theorem State.emit_regs (s : State) (x : Outbound) : (s.emit x).regs = s.regs := rfl
@[simp] theorem State.emit_postAlm (s : State) (x : Outbound) : (s.emit x).postAlm = s.postAlm := rfl
@[simp] theorem State.emit_bar0 (s : State) (x : Outbound) : (s.emit x).bar0 = s.bar0 := rfl
@[simp] theorem State.emit_smbPath (s : State) (x : Outbound) : (s.emit x).smbPath = s.smbPath := rfl
@[simp] theorem State.emit_fePath (s : State) (x : Outbound) : (s.emit x).fePath = s.fePath := rfl
@[simp] theorem State.emit_dram (s : State) (x : Outbound) : (s.emit x).dram = s.dram := rfl
@[simp] theorem State.emit_plate (s : State) (x : Outbound) : (s.emit x).plate = s.plate := rfl
@[simp] theorem State.emit_ecc (s : State) (x : Outbound) : (s.emit x).ecc = s.ecc := rfl
@[simp] theorem State.emit_corrQ (s : State) (x : Outbound) : (s.emit x).corrQ = s.corrQ := rfl
@[simp] theorem State.emit_scrubRow (s : State) (x : Outbound) : (s.emit x).scrubRow = s.scrubRow := rfl
@[simp] theorem State.emit_scrubDone (s : State) (x : Outbound) : (s.emit x).scrubDone = s.scrubDone := rfl
@[simp] theorem State.emit_tiles (s : State) (x : Outbound) : (s.emit x).tiles = s.tiles := rfl
@[simp] theorem State.emit_ops (s : State) (x : Outbound) : (s.emit x).ops = s.ops := rfl
@[simp] theorem State.emit_posts (s : State) (x : Outbound) : (s.emit x).posts = s.posts := rfl
@[simp] theorem State.emit_toks (s : State) (x : Outbound) : (s.emit x).toks = s.toks := rfl
@[simp] theorem State.emit_ring (s : State) (x : Outbound) : (s.emit x).ring = s.ring := rfl
@[simp] theorem State.emit_streams (s : State) (x : Outbound) : (s.emit x).streams = s.streams := rfl
@[simp] theorem State.emit_entries (s : State) (x : Outbound) : (s.emit x).entries = s.entries := rfl
@[simp] theorem State.emit_slots (s : State) (x : Outbound) : (s.emit x).slots = s.slots := rfl
@[simp] theorem State.emit_mapSeq (s : State) (x : Outbound) : (s.emit x).mapSeq = s.mapSeq := rfl
@[simp] theorem State.emit_prog (s : State) (x : Outbound) : (s.emit x).prog = s.prog := rfl
@[simp] theorem State.emit_faults (s : State) (x : Outbound) : (s.emit x).faults = s.faults := rfl
@[simp] theorem State.emit_gens (s : State) (x : Outbound) : (s.emit x).gens = s.gens := rfl
@[simp] theorem State.emit_hcopy (s : State) (x : Outbound) : (s.emit x).hcopy = s.hcopy := rfl
@[simp] theorem State.emit_charts (s : State) (x : Outbound) : (s.emit x).charts = s.charts := rfl
@[simp] theorem State.emit_pendSigs (s : State) (x : Outbound) : (s.emit x).pendSigs = s.pendSigs := rfl
@[simp] theorem State.emit_ftime (s : State) (x : Outbound) : (s.emit x).ftime = s.ftime := rfl
@[simp] theorem State.emit_rmt (s : State) (x : Outbound) : (s.emit x).rmt = s.rmt := rfl
@[simp] theorem State.emit_nextTag (s : State) (x : Outbound) : (s.emit x).nextTag = s.nextTag := rfl
@[simp] theorem State.emit_router (s : State) (x : Outbound) : (s.emit x).router = s.router := rfl
@[simp] theorem State.emit_pairs (s : State) (x : Outbound) : (s.emit x).pairs = s.pairs := rfl
@[simp] theorem State.emit_tgts (s : State) (x : Outbound) : (s.emit x).tgts = s.tgts := rfl
@[simp] theorem State.emit_held (s : State) (x : Outbound) : (s.emit x).held = s.held := rfl
@[simp] theorem State.emit_cfg (s : State) (x : Outbound) : (s.emit x).cfg = s.cfg := rfl
@[simp] theorem State.emit_msixTab (s : State) (x : Outbound) : (s.emit x).msixTab = s.msixTab := rfl
@[simp] theorem State.emit_pba (s : State) (x : Outbound) : (s.emit x).pba = s.pba := rfl
@[simp] theorem State.emit_msixReq (s : State) (x : Outbound) : (s.emit x).msixReq = s.msixReq := rfl
@[simp] theorem State.emit_resetPend (s : State) (x : Outbound) : (s.emit x).resetPend = s.resetPend := rfl
@[simp] theorem State.emit_now (s : State) (x : Outbound) : (s.emit x).now = s.now := rfl
@[simp] theorem State.emit_ports (s : State) (x : Outbound) : (s.emit x).ports = s.ports := rfl
@[simp] theorem State.emit_fab (s : State) (x : Outbound) : (s.emit x).fab = s.fab := rfl
@[simp] theorem State.emit_flash (s : State) (x : Outbound) : (s.emit x).flash = s.flash := rfl
@[simp] theorem State.emit_copy (s : State) (x : Outbound) : (s.emit x).copy = s.copy := rfl
@[simp] theorem State.emit_update (s : State) (x : Outbound) : (s.emit x).update = s.update := rfl
@[simp] theorem State.emit_svnFloor (s : State) (x : Outbound) : (s.emit x).svnFloor = s.svnFloor := rfl
@[simp] theorem State.emit_svnBusy (s : State) (x : Outbound) : (s.emit x).svnBusy = s.svnBusy := rfl
@[simp] theorem State.emit_pwr (s : State) (x : Outbound) : (s.emit x).pwr = s.pwr := rfl
@[simp] theorem State.emit_smb (s : State) (x : Outbound) : (s.emit x).smb = s.smb := rfl
@[simp] theorem State.emit_parks (s : State) (x : Outbound) : (s.emit x).parks = s.parks := rfl
@[simp] theorem State.emit_muxWait (s : State) (x : Outbound) : (s.emit x).muxWait = s.muxWait := rfl
@[simp] theorem State.emit_balls (s : State) (x : Outbound) : (s.emit x).balls = s.balls := rfl
@[simp] theorem State.emit_tap (s : State) (x : Outbound) : (s.emit x).tap = s.tap := rfl
@[simp] theorem State.emit_perst (s : State) (x : Outbound) : (s.emit x).perst = s.perst := rfl
@[simp] theorem State.emit_rearm (s : State) (x : Outbound) : (s.emit x).rearm = s.rearm := rfl
@[simp] theorem State.emit_ephRun (s : State) (x : Outbound) : (s.emit x).ephRun = s.ephRun := rfl
@[simp] theorem State.emit_sealBase (s : State) (x : Outbound) : (s.emit x).sealBase = s.sealBase := rfl
@[simp] theorem State.emit_sealSize (s : State) (x : Outbound) : (s.emit x).sealSize = s.sealSize := rfl
@[simp] theorem State.emit_past (s : State) (x : Outbound) : (s.emit x).past = s.past := rfl
@[simp] theorem State.emit_stepped (s : State) (x : Outbound) : (s.emit x).stepped = s.stepped := rfl

/-! ### `State.setEcc` -/

@[simp] theorem State.setEcc_pending (s : State) (w : Nat) (e : EccErr) : (s.setEcc w e).pending = s.pending := rfl
@[simp] theorem State.setEcc_cycle (s : State) (w : Nat) (e : EccErr) : (s.setEcc w e).cycle = s.cycle := rfl
@[simp] theorem State.setEcc_fresh (s : State) (w : Nat) (e : EccErr) : (s.setEcc w e).fresh = s.fresh := rfl
@[simp] theorem State.setEcc_regs (s : State) (w : Nat) (e : EccErr) : (s.setEcc w e).regs = s.regs := rfl
@[simp] theorem State.setEcc_postAlm (s : State) (w : Nat) (e : EccErr) : (s.setEcc w e).postAlm = s.postAlm := rfl
@[simp] theorem State.setEcc_bar0 (s : State) (w : Nat) (e : EccErr) : (s.setEcc w e).bar0 = s.bar0 := rfl
@[simp] theorem State.setEcc_smbPath (s : State) (w : Nat) (e : EccErr) : (s.setEcc w e).smbPath = s.smbPath := rfl
@[simp] theorem State.setEcc_fePath (s : State) (w : Nat) (e : EccErr) : (s.setEcc w e).fePath = s.fePath := rfl
@[simp] theorem State.setEcc_dram (s : State) (w : Nat) (e : EccErr) : (s.setEcc w e).dram = s.dram := rfl
@[simp] theorem State.setEcc_plate (s : State) (w : Nat) (e : EccErr) : (s.setEcc w e).plate = s.plate := rfl
@[simp] theorem State.setEcc_corrQ (s : State) (w : Nat) (e : EccErr) : (s.setEcc w e).corrQ = s.corrQ := rfl
@[simp] theorem State.setEcc_scrubRow (s : State) (w : Nat) (e : EccErr) : (s.setEcc w e).scrubRow = s.scrubRow := rfl
@[simp] theorem State.setEcc_scrubDone (s : State) (w : Nat) (e : EccErr) : (s.setEcc w e).scrubDone = s.scrubDone := rfl
@[simp] theorem State.setEcc_tiles (s : State) (w : Nat) (e : EccErr) : (s.setEcc w e).tiles = s.tiles := rfl
@[simp] theorem State.setEcc_ops (s : State) (w : Nat) (e : EccErr) : (s.setEcc w e).ops = s.ops := rfl
@[simp] theorem State.setEcc_posts (s : State) (w : Nat) (e : EccErr) : (s.setEcc w e).posts = s.posts := rfl
@[simp] theorem State.setEcc_toks (s : State) (w : Nat) (e : EccErr) : (s.setEcc w e).toks = s.toks := rfl
@[simp] theorem State.setEcc_ring (s : State) (w : Nat) (e : EccErr) : (s.setEcc w e).ring = s.ring := rfl
@[simp] theorem State.setEcc_streams (s : State) (w : Nat) (e : EccErr) : (s.setEcc w e).streams = s.streams := rfl
@[simp] theorem State.setEcc_entries (s : State) (w : Nat) (e : EccErr) : (s.setEcc w e).entries = s.entries := rfl
@[simp] theorem State.setEcc_slots (s : State) (w : Nat) (e : EccErr) : (s.setEcc w e).slots = s.slots := rfl
@[simp] theorem State.setEcc_mapSeq (s : State) (w : Nat) (e : EccErr) : (s.setEcc w e).mapSeq = s.mapSeq := rfl
@[simp] theorem State.setEcc_prog (s : State) (w : Nat) (e : EccErr) : (s.setEcc w e).prog = s.prog := rfl
@[simp] theorem State.setEcc_faults (s : State) (w : Nat) (e : EccErr) : (s.setEcc w e).faults = s.faults := rfl
@[simp] theorem State.setEcc_gens (s : State) (w : Nat) (e : EccErr) : (s.setEcc w e).gens = s.gens := rfl
@[simp] theorem State.setEcc_hcopy (s : State) (w : Nat) (e : EccErr) : (s.setEcc w e).hcopy = s.hcopy := rfl
@[simp] theorem State.setEcc_charts (s : State) (w : Nat) (e : EccErr) : (s.setEcc w e).charts = s.charts := rfl
@[simp] theorem State.setEcc_pendSigs (s : State) (w : Nat) (e : EccErr) : (s.setEcc w e).pendSigs = s.pendSigs := rfl
@[simp] theorem State.setEcc_ftime (s : State) (w : Nat) (e : EccErr) : (s.setEcc w e).ftime = s.ftime := rfl
@[simp] theorem State.setEcc_rmt (s : State) (w : Nat) (e : EccErr) : (s.setEcc w e).rmt = s.rmt := rfl
@[simp] theorem State.setEcc_nextTag (s : State) (w : Nat) (e : EccErr) : (s.setEcc w e).nextTag = s.nextTag := rfl
@[simp] theorem State.setEcc_router (s : State) (w : Nat) (e : EccErr) : (s.setEcc w e).router = s.router := rfl
@[simp] theorem State.setEcc_pairs (s : State) (w : Nat) (e : EccErr) : (s.setEcc w e).pairs = s.pairs := rfl
@[simp] theorem State.setEcc_tgts (s : State) (w : Nat) (e : EccErr) : (s.setEcc w e).tgts = s.tgts := rfl
@[simp] theorem State.setEcc_out (s : State) (w : Nat) (e : EccErr) : (s.setEcc w e).out = s.out := rfl
@[simp] theorem State.setEcc_held (s : State) (w : Nat) (e : EccErr) : (s.setEcc w e).held = s.held := rfl
@[simp] theorem State.setEcc_cfg (s : State) (w : Nat) (e : EccErr) : (s.setEcc w e).cfg = s.cfg := rfl
@[simp] theorem State.setEcc_msixTab (s : State) (w : Nat) (e : EccErr) : (s.setEcc w e).msixTab = s.msixTab := rfl
@[simp] theorem State.setEcc_pba (s : State) (w : Nat) (e : EccErr) : (s.setEcc w e).pba = s.pba := rfl
@[simp] theorem State.setEcc_msixReq (s : State) (w : Nat) (e : EccErr) : (s.setEcc w e).msixReq = s.msixReq := rfl
@[simp] theorem State.setEcc_resetPend (s : State) (w : Nat) (e : EccErr) : (s.setEcc w e).resetPend = s.resetPend := rfl
@[simp] theorem State.setEcc_now (s : State) (w : Nat) (e : EccErr) : (s.setEcc w e).now = s.now := rfl
@[simp] theorem State.setEcc_ports (s : State) (w : Nat) (e : EccErr) : (s.setEcc w e).ports = s.ports := rfl
@[simp] theorem State.setEcc_fab (s : State) (w : Nat) (e : EccErr) : (s.setEcc w e).fab = s.fab := rfl
@[simp] theorem State.setEcc_flash (s : State) (w : Nat) (e : EccErr) : (s.setEcc w e).flash = s.flash := rfl
@[simp] theorem State.setEcc_copy (s : State) (w : Nat) (e : EccErr) : (s.setEcc w e).copy = s.copy := rfl
@[simp] theorem State.setEcc_update (s : State) (w : Nat) (e : EccErr) : (s.setEcc w e).update = s.update := rfl
@[simp] theorem State.setEcc_svnFloor (s : State) (w : Nat) (e : EccErr) : (s.setEcc w e).svnFloor = s.svnFloor := rfl
@[simp] theorem State.setEcc_svnBusy (s : State) (w : Nat) (e : EccErr) : (s.setEcc w e).svnBusy = s.svnBusy := rfl
@[simp] theorem State.setEcc_pwr (s : State) (w : Nat) (e : EccErr) : (s.setEcc w e).pwr = s.pwr := rfl
@[simp] theorem State.setEcc_smb (s : State) (w : Nat) (e : EccErr) : (s.setEcc w e).smb = s.smb := rfl
@[simp] theorem State.setEcc_parks (s : State) (w : Nat) (e : EccErr) : (s.setEcc w e).parks = s.parks := rfl
@[simp] theorem State.setEcc_muxWait (s : State) (w : Nat) (e : EccErr) : (s.setEcc w e).muxWait = s.muxWait := rfl
@[simp] theorem State.setEcc_balls (s : State) (w : Nat) (e : EccErr) : (s.setEcc w e).balls = s.balls := rfl
@[simp] theorem State.setEcc_tap (s : State) (w : Nat) (e : EccErr) : (s.setEcc w e).tap = s.tap := rfl
@[simp] theorem State.setEcc_perst (s : State) (w : Nat) (e : EccErr) : (s.setEcc w e).perst = s.perst := rfl
@[simp] theorem State.setEcc_rearm (s : State) (w : Nat) (e : EccErr) : (s.setEcc w e).rearm = s.rearm := rfl
@[simp] theorem State.setEcc_ephRun (s : State) (w : Nat) (e : EccErr) : (s.setEcc w e).ephRun = s.ephRun := rfl
@[simp] theorem State.setEcc_sealBase (s : State) (w : Nat) (e : EccErr) : (s.setEcc w e).sealBase = s.sealBase := rfl
@[simp] theorem State.setEcc_sealSize (s : State) (w : Nat) (e : EccErr) : (s.setEcc w e).sealSize = s.sealSize := rfl
@[simp] theorem State.setEcc_past (s : State) (w : Nat) (e : EccErr) : (s.setEcc w e).past = s.past := rfl
@[simp] theorem State.setEcc_stepped (s : State) (w : Nat) (e : EccErr) : (s.setEcc w e).stepped = s.stepped := rfl

/-! ### `State.setEntry` -/

@[simp] theorem State.setEntry_pending (s : State) (e : Entry) : (s.setEntry e).pending = s.pending := rfl
@[simp] theorem State.setEntry_cycle (s : State) (e : Entry) : (s.setEntry e).cycle = s.cycle := rfl
@[simp] theorem State.setEntry_fresh (s : State) (e : Entry) : (s.setEntry e).fresh = s.fresh := rfl
@[simp] theorem State.setEntry_regs (s : State) (e : Entry) : (s.setEntry e).regs = s.regs := rfl
@[simp] theorem State.setEntry_postAlm (s : State) (e : Entry) : (s.setEntry e).postAlm = s.postAlm := rfl
@[simp] theorem State.setEntry_bar0 (s : State) (e : Entry) : (s.setEntry e).bar0 = s.bar0 := rfl
@[simp] theorem State.setEntry_smbPath (s : State) (e : Entry) : (s.setEntry e).smbPath = s.smbPath := rfl
@[simp] theorem State.setEntry_fePath (s : State) (e : Entry) : (s.setEntry e).fePath = s.fePath := rfl
@[simp] theorem State.setEntry_dram (s : State) (e : Entry) : (s.setEntry e).dram = s.dram := rfl
@[simp] theorem State.setEntry_plate (s : State) (e : Entry) : (s.setEntry e).plate = s.plate := rfl
@[simp] theorem State.setEntry_ecc (s : State) (e : Entry) : (s.setEntry e).ecc = s.ecc := rfl
@[simp] theorem State.setEntry_corrQ (s : State) (e : Entry) : (s.setEntry e).corrQ = s.corrQ := rfl
@[simp] theorem State.setEntry_scrubRow (s : State) (e : Entry) : (s.setEntry e).scrubRow = s.scrubRow := rfl
@[simp] theorem State.setEntry_scrubDone (s : State) (e : Entry) : (s.setEntry e).scrubDone = s.scrubDone := rfl
@[simp] theorem State.setEntry_tiles (s : State) (e : Entry) : (s.setEntry e).tiles = s.tiles := rfl
@[simp] theorem State.setEntry_ops (s : State) (e : Entry) : (s.setEntry e).ops = s.ops := rfl
@[simp] theorem State.setEntry_posts (s : State) (e : Entry) : (s.setEntry e).posts = s.posts := rfl
@[simp] theorem State.setEntry_toks (s : State) (e : Entry) : (s.setEntry e).toks = s.toks := rfl
@[simp] theorem State.setEntry_ring (s : State) (e : Entry) : (s.setEntry e).ring = s.ring := rfl
@[simp] theorem State.setEntry_streams (s : State) (e : Entry) : (s.setEntry e).streams = s.streams := rfl
@[simp] theorem State.setEntry_slots (s : State) (e : Entry) : (s.setEntry e).slots = s.slots := rfl
@[simp] theorem State.setEntry_mapSeq (s : State) (e : Entry) : (s.setEntry e).mapSeq = s.mapSeq := rfl
@[simp] theorem State.setEntry_prog (s : State) (e : Entry) : (s.setEntry e).prog = s.prog := rfl
@[simp] theorem State.setEntry_faults (s : State) (e : Entry) : (s.setEntry e).faults = s.faults := rfl
@[simp] theorem State.setEntry_gens (s : State) (e : Entry) : (s.setEntry e).gens = s.gens := rfl
@[simp] theorem State.setEntry_hcopy (s : State) (e : Entry) : (s.setEntry e).hcopy = s.hcopy := rfl
@[simp] theorem State.setEntry_charts (s : State) (e : Entry) : (s.setEntry e).charts = s.charts := rfl
@[simp] theorem State.setEntry_pendSigs (s : State) (e : Entry) : (s.setEntry e).pendSigs = s.pendSigs := rfl
@[simp] theorem State.setEntry_ftime (s : State) (e : Entry) : (s.setEntry e).ftime = s.ftime := rfl
@[simp] theorem State.setEntry_rmt (s : State) (e : Entry) : (s.setEntry e).rmt = s.rmt := rfl
@[simp] theorem State.setEntry_nextTag (s : State) (e : Entry) : (s.setEntry e).nextTag = s.nextTag := rfl
@[simp] theorem State.setEntry_router (s : State) (e : Entry) : (s.setEntry e).router = s.router := rfl
@[simp] theorem State.setEntry_pairs (s : State) (e : Entry) : (s.setEntry e).pairs = s.pairs := rfl
@[simp] theorem State.setEntry_tgts (s : State) (e : Entry) : (s.setEntry e).tgts = s.tgts := rfl
@[simp] theorem State.setEntry_out (s : State) (e : Entry) : (s.setEntry e).out = s.out := rfl
@[simp] theorem State.setEntry_held (s : State) (e : Entry) : (s.setEntry e).held = s.held := rfl
@[simp] theorem State.setEntry_cfg (s : State) (e : Entry) : (s.setEntry e).cfg = s.cfg := rfl
@[simp] theorem State.setEntry_msixTab (s : State) (e : Entry) : (s.setEntry e).msixTab = s.msixTab := rfl
@[simp] theorem State.setEntry_pba (s : State) (e : Entry) : (s.setEntry e).pba = s.pba := rfl
@[simp] theorem State.setEntry_msixReq (s : State) (e : Entry) : (s.setEntry e).msixReq = s.msixReq := rfl
@[simp] theorem State.setEntry_resetPend (s : State) (e : Entry) : (s.setEntry e).resetPend = s.resetPend := rfl
@[simp] theorem State.setEntry_now (s : State) (e : Entry) : (s.setEntry e).now = s.now := rfl
@[simp] theorem State.setEntry_ports (s : State) (e : Entry) : (s.setEntry e).ports = s.ports := rfl
@[simp] theorem State.setEntry_fab (s : State) (e : Entry) : (s.setEntry e).fab = s.fab := rfl
@[simp] theorem State.setEntry_flash (s : State) (e : Entry) : (s.setEntry e).flash = s.flash := rfl
@[simp] theorem State.setEntry_copy (s : State) (e : Entry) : (s.setEntry e).copy = s.copy := rfl
@[simp] theorem State.setEntry_update (s : State) (e : Entry) : (s.setEntry e).update = s.update := rfl
@[simp] theorem State.setEntry_svnFloor (s : State) (e : Entry) : (s.setEntry e).svnFloor = s.svnFloor := rfl
@[simp] theorem State.setEntry_svnBusy (s : State) (e : Entry) : (s.setEntry e).svnBusy = s.svnBusy := rfl
@[simp] theorem State.setEntry_pwr (s : State) (e : Entry) : (s.setEntry e).pwr = s.pwr := rfl
@[simp] theorem State.setEntry_smb (s : State) (e : Entry) : (s.setEntry e).smb = s.smb := rfl
@[simp] theorem State.setEntry_parks (s : State) (e : Entry) : (s.setEntry e).parks = s.parks := rfl
@[simp] theorem State.setEntry_muxWait (s : State) (e : Entry) : (s.setEntry e).muxWait = s.muxWait := rfl
@[simp] theorem State.setEntry_balls (s : State) (e : Entry) : (s.setEntry e).balls = s.balls := rfl
@[simp] theorem State.setEntry_tap (s : State) (e : Entry) : (s.setEntry e).tap = s.tap := rfl
@[simp] theorem State.setEntry_perst (s : State) (e : Entry) : (s.setEntry e).perst = s.perst := rfl
@[simp] theorem State.setEntry_rearm (s : State) (e : Entry) : (s.setEntry e).rearm = s.rearm := rfl
@[simp] theorem State.setEntry_ephRun (s : State) (e : Entry) : (s.setEntry e).ephRun = s.ephRun := rfl
@[simp] theorem State.setEntry_sealBase (s : State) (e : Entry) : (s.setEntry e).sealBase = s.sealBase := rfl
@[simp] theorem State.setEntry_sealSize (s : State) (e : Entry) : (s.setEntry e).sealSize = s.sealSize := rfl
@[simp] theorem State.setEntry_past (s : State) (e : Entry) : (s.setEntry e).past = s.past := rfl
@[simp] theorem State.setEntry_stepped (s : State) (e : Entry) : (s.setEntry e).stepped = s.stepped := rfl

/-! ### `State.setSlot` -/

@[simp] theorem State.setSlot_pending (s : State) (n : Nat) (x : Option ExecSlot) : (s.setSlot n x).pending = s.pending := rfl
@[simp] theorem State.setSlot_cycle (s : State) (n : Nat) (x : Option ExecSlot) : (s.setSlot n x).cycle = s.cycle := rfl
@[simp] theorem State.setSlot_fresh (s : State) (n : Nat) (x : Option ExecSlot) : (s.setSlot n x).fresh = s.fresh := rfl
@[simp] theorem State.setSlot_regs (s : State) (n : Nat) (x : Option ExecSlot) : (s.setSlot n x).regs = s.regs := rfl
@[simp] theorem State.setSlot_postAlm (s : State) (n : Nat) (x : Option ExecSlot) : (s.setSlot n x).postAlm = s.postAlm := rfl
@[simp] theorem State.setSlot_bar0 (s : State) (n : Nat) (x : Option ExecSlot) : (s.setSlot n x).bar0 = s.bar0 := rfl
@[simp] theorem State.setSlot_smbPath (s : State) (n : Nat) (x : Option ExecSlot) : (s.setSlot n x).smbPath = s.smbPath := rfl
@[simp] theorem State.setSlot_fePath (s : State) (n : Nat) (x : Option ExecSlot) : (s.setSlot n x).fePath = s.fePath := rfl
@[simp] theorem State.setSlot_dram (s : State) (n : Nat) (x : Option ExecSlot) : (s.setSlot n x).dram = s.dram := rfl
@[simp] theorem State.setSlot_plate (s : State) (n : Nat) (x : Option ExecSlot) : (s.setSlot n x).plate = s.plate := rfl
@[simp] theorem State.setSlot_ecc (s : State) (n : Nat) (x : Option ExecSlot) : (s.setSlot n x).ecc = s.ecc := rfl
@[simp] theorem State.setSlot_corrQ (s : State) (n : Nat) (x : Option ExecSlot) : (s.setSlot n x).corrQ = s.corrQ := rfl
@[simp] theorem State.setSlot_scrubRow (s : State) (n : Nat) (x : Option ExecSlot) : (s.setSlot n x).scrubRow = s.scrubRow := rfl
@[simp] theorem State.setSlot_scrubDone (s : State) (n : Nat) (x : Option ExecSlot) : (s.setSlot n x).scrubDone = s.scrubDone := rfl
@[simp] theorem State.setSlot_tiles (s : State) (n : Nat) (x : Option ExecSlot) : (s.setSlot n x).tiles = s.tiles := rfl
@[simp] theorem State.setSlot_ops (s : State) (n : Nat) (x : Option ExecSlot) : (s.setSlot n x).ops = s.ops := rfl
@[simp] theorem State.setSlot_posts (s : State) (n : Nat) (x : Option ExecSlot) : (s.setSlot n x).posts = s.posts := rfl
@[simp] theorem State.setSlot_toks (s : State) (n : Nat) (x : Option ExecSlot) : (s.setSlot n x).toks = s.toks := rfl
@[simp] theorem State.setSlot_ring (s : State) (n : Nat) (x : Option ExecSlot) : (s.setSlot n x).ring = s.ring := rfl
@[simp] theorem State.setSlot_streams (s : State) (n : Nat) (x : Option ExecSlot) : (s.setSlot n x).streams = s.streams := rfl
@[simp] theorem State.setSlot_entries (s : State) (n : Nat) (x : Option ExecSlot) : (s.setSlot n x).entries = s.entries := rfl
@[simp] theorem State.setSlot_mapSeq (s : State) (n : Nat) (x : Option ExecSlot) : (s.setSlot n x).mapSeq = s.mapSeq := rfl
@[simp] theorem State.setSlot_prog (s : State) (n : Nat) (x : Option ExecSlot) : (s.setSlot n x).prog = s.prog := rfl
@[simp] theorem State.setSlot_faults (s : State) (n : Nat) (x : Option ExecSlot) : (s.setSlot n x).faults = s.faults := rfl
@[simp] theorem State.setSlot_gens (s : State) (n : Nat) (x : Option ExecSlot) : (s.setSlot n x).gens = s.gens := rfl
@[simp] theorem State.setSlot_hcopy (s : State) (n : Nat) (x : Option ExecSlot) : (s.setSlot n x).hcopy = s.hcopy := rfl
@[simp] theorem State.setSlot_charts (s : State) (n : Nat) (x : Option ExecSlot) : (s.setSlot n x).charts = s.charts := rfl
@[simp] theorem State.setSlot_pendSigs (s : State) (n : Nat) (x : Option ExecSlot) : (s.setSlot n x).pendSigs = s.pendSigs := rfl
@[simp] theorem State.setSlot_ftime (s : State) (n : Nat) (x : Option ExecSlot) : (s.setSlot n x).ftime = s.ftime := rfl
@[simp] theorem State.setSlot_rmt (s : State) (n : Nat) (x : Option ExecSlot) : (s.setSlot n x).rmt = s.rmt := rfl
@[simp] theorem State.setSlot_nextTag (s : State) (n : Nat) (x : Option ExecSlot) : (s.setSlot n x).nextTag = s.nextTag := rfl
@[simp] theorem State.setSlot_router (s : State) (n : Nat) (x : Option ExecSlot) : (s.setSlot n x).router = s.router := rfl
@[simp] theorem State.setSlot_pairs (s : State) (n : Nat) (x : Option ExecSlot) : (s.setSlot n x).pairs = s.pairs := rfl
@[simp] theorem State.setSlot_tgts (s : State) (n : Nat) (x : Option ExecSlot) : (s.setSlot n x).tgts = s.tgts := rfl
@[simp] theorem State.setSlot_out (s : State) (n : Nat) (x : Option ExecSlot) : (s.setSlot n x).out = s.out := rfl
@[simp] theorem State.setSlot_held (s : State) (n : Nat) (x : Option ExecSlot) : (s.setSlot n x).held = s.held := rfl
@[simp] theorem State.setSlot_cfg (s : State) (n : Nat) (x : Option ExecSlot) : (s.setSlot n x).cfg = s.cfg := rfl
@[simp] theorem State.setSlot_msixTab (s : State) (n : Nat) (x : Option ExecSlot) : (s.setSlot n x).msixTab = s.msixTab := rfl
@[simp] theorem State.setSlot_pba (s : State) (n : Nat) (x : Option ExecSlot) : (s.setSlot n x).pba = s.pba := rfl
@[simp] theorem State.setSlot_msixReq (s : State) (n : Nat) (x : Option ExecSlot) : (s.setSlot n x).msixReq = s.msixReq := rfl
@[simp] theorem State.setSlot_resetPend (s : State) (n : Nat) (x : Option ExecSlot) : (s.setSlot n x).resetPend = s.resetPend := rfl
@[simp] theorem State.setSlot_now (s : State) (n : Nat) (x : Option ExecSlot) : (s.setSlot n x).now = s.now := rfl
@[simp] theorem State.setSlot_ports (s : State) (n : Nat) (x : Option ExecSlot) : (s.setSlot n x).ports = s.ports := rfl
@[simp] theorem State.setSlot_fab (s : State) (n : Nat) (x : Option ExecSlot) : (s.setSlot n x).fab = s.fab := rfl
@[simp] theorem State.setSlot_flash (s : State) (n : Nat) (x : Option ExecSlot) : (s.setSlot n x).flash = s.flash := rfl
@[simp] theorem State.setSlot_copy (s : State) (n : Nat) (x : Option ExecSlot) : (s.setSlot n x).copy = s.copy := rfl
@[simp] theorem State.setSlot_update (s : State) (n : Nat) (x : Option ExecSlot) : (s.setSlot n x).update = s.update := rfl
@[simp] theorem State.setSlot_svnFloor (s : State) (n : Nat) (x : Option ExecSlot) : (s.setSlot n x).svnFloor = s.svnFloor := rfl
@[simp] theorem State.setSlot_svnBusy (s : State) (n : Nat) (x : Option ExecSlot) : (s.setSlot n x).svnBusy = s.svnBusy := rfl
@[simp] theorem State.setSlot_pwr (s : State) (n : Nat) (x : Option ExecSlot) : (s.setSlot n x).pwr = s.pwr := rfl
@[simp] theorem State.setSlot_smb (s : State) (n : Nat) (x : Option ExecSlot) : (s.setSlot n x).smb = s.smb := rfl
@[simp] theorem State.setSlot_parks (s : State) (n : Nat) (x : Option ExecSlot) : (s.setSlot n x).parks = s.parks := rfl
@[simp] theorem State.setSlot_muxWait (s : State) (n : Nat) (x : Option ExecSlot) : (s.setSlot n x).muxWait = s.muxWait := rfl
@[simp] theorem State.setSlot_balls (s : State) (n : Nat) (x : Option ExecSlot) : (s.setSlot n x).balls = s.balls := rfl
@[simp] theorem State.setSlot_tap (s : State) (n : Nat) (x : Option ExecSlot) : (s.setSlot n x).tap = s.tap := rfl
@[simp] theorem State.setSlot_perst (s : State) (n : Nat) (x : Option ExecSlot) : (s.setSlot n x).perst = s.perst := rfl
@[simp] theorem State.setSlot_rearm (s : State) (n : Nat) (x : Option ExecSlot) : (s.setSlot n x).rearm = s.rearm := rfl
@[simp] theorem State.setSlot_ephRun (s : State) (n : Nat) (x : Option ExecSlot) : (s.setSlot n x).ephRun = s.ephRun := rfl
@[simp] theorem State.setSlot_sealBase (s : State) (n : Nat) (x : Option ExecSlot) : (s.setSlot n x).sealBase = s.sealBase := rfl
@[simp] theorem State.setSlot_sealSize (s : State) (n : Nat) (x : Option ExecSlot) : (s.setSlot n x).sealSize = s.sealSize := rfl
@[simp] theorem State.setSlot_past (s : State) (n : Nat) (x : Option ExecSlot) : (s.setSlot n x).past = s.past := rfl
@[simp] theorem State.setSlot_stepped (s : State) (n : Nat) (x : Option ExecSlot) : (s.setSlot n x).stepped = s.stepped := rfl

/-! ### `State.setStream` -/

@[simp] theorem State.setStream_pending (s : State) (n : Nat) (x : StreamRec) : (s.setStream n x).pending = s.pending := rfl
@[simp] theorem State.setStream_cycle (s : State) (n : Nat) (x : StreamRec) : (s.setStream n x).cycle = s.cycle := rfl
@[simp] theorem State.setStream_fresh (s : State) (n : Nat) (x : StreamRec) : (s.setStream n x).fresh = s.fresh := rfl
@[simp] theorem State.setStream_regs (s : State) (n : Nat) (x : StreamRec) : (s.setStream n x).regs = s.regs := rfl
@[simp] theorem State.setStream_postAlm (s : State) (n : Nat) (x : StreamRec) : (s.setStream n x).postAlm = s.postAlm := rfl
@[simp] theorem State.setStream_bar0 (s : State) (n : Nat) (x : StreamRec) : (s.setStream n x).bar0 = s.bar0 := rfl
@[simp] theorem State.setStream_smbPath (s : State) (n : Nat) (x : StreamRec) : (s.setStream n x).smbPath = s.smbPath := rfl
@[simp] theorem State.setStream_fePath (s : State) (n : Nat) (x : StreamRec) : (s.setStream n x).fePath = s.fePath := rfl
@[simp] theorem State.setStream_dram (s : State) (n : Nat) (x : StreamRec) : (s.setStream n x).dram = s.dram := rfl
@[simp] theorem State.setStream_plate (s : State) (n : Nat) (x : StreamRec) : (s.setStream n x).plate = s.plate := rfl
@[simp] theorem State.setStream_ecc (s : State) (n : Nat) (x : StreamRec) : (s.setStream n x).ecc = s.ecc := rfl
@[simp] theorem State.setStream_corrQ (s : State) (n : Nat) (x : StreamRec) : (s.setStream n x).corrQ = s.corrQ := rfl
@[simp] theorem State.setStream_scrubRow (s : State) (n : Nat) (x : StreamRec) : (s.setStream n x).scrubRow = s.scrubRow := rfl
@[simp] theorem State.setStream_scrubDone (s : State) (n : Nat) (x : StreamRec) : (s.setStream n x).scrubDone = s.scrubDone := rfl
@[simp] theorem State.setStream_tiles (s : State) (n : Nat) (x : StreamRec) : (s.setStream n x).tiles = s.tiles := rfl
@[simp] theorem State.setStream_ops (s : State) (n : Nat) (x : StreamRec) : (s.setStream n x).ops = s.ops := rfl
@[simp] theorem State.setStream_posts (s : State) (n : Nat) (x : StreamRec) : (s.setStream n x).posts = s.posts := rfl
@[simp] theorem State.setStream_toks (s : State) (n : Nat) (x : StreamRec) : (s.setStream n x).toks = s.toks := rfl
@[simp] theorem State.setStream_ring (s : State) (n : Nat) (x : StreamRec) : (s.setStream n x).ring = s.ring := rfl
@[simp] theorem State.setStream_entries (s : State) (n : Nat) (x : StreamRec) : (s.setStream n x).entries = s.entries := rfl
@[simp] theorem State.setStream_slots (s : State) (n : Nat) (x : StreamRec) : (s.setStream n x).slots = s.slots := rfl
@[simp] theorem State.setStream_mapSeq (s : State) (n : Nat) (x : StreamRec) : (s.setStream n x).mapSeq = s.mapSeq := rfl
@[simp] theorem State.setStream_prog (s : State) (n : Nat) (x : StreamRec) : (s.setStream n x).prog = s.prog := rfl
@[simp] theorem State.setStream_faults (s : State) (n : Nat) (x : StreamRec) : (s.setStream n x).faults = s.faults := rfl
@[simp] theorem State.setStream_gens (s : State) (n : Nat) (x : StreamRec) : (s.setStream n x).gens = s.gens := rfl
@[simp] theorem State.setStream_hcopy (s : State) (n : Nat) (x : StreamRec) : (s.setStream n x).hcopy = s.hcopy := rfl
@[simp] theorem State.setStream_charts (s : State) (n : Nat) (x : StreamRec) : (s.setStream n x).charts = s.charts := rfl
@[simp] theorem State.setStream_pendSigs (s : State) (n : Nat) (x : StreamRec) : (s.setStream n x).pendSigs = s.pendSigs := rfl
@[simp] theorem State.setStream_ftime (s : State) (n : Nat) (x : StreamRec) : (s.setStream n x).ftime = s.ftime := rfl
@[simp] theorem State.setStream_rmt (s : State) (n : Nat) (x : StreamRec) : (s.setStream n x).rmt = s.rmt := rfl
@[simp] theorem State.setStream_nextTag (s : State) (n : Nat) (x : StreamRec) : (s.setStream n x).nextTag = s.nextTag := rfl
@[simp] theorem State.setStream_router (s : State) (n : Nat) (x : StreamRec) : (s.setStream n x).router = s.router := rfl
@[simp] theorem State.setStream_pairs (s : State) (n : Nat) (x : StreamRec) : (s.setStream n x).pairs = s.pairs := rfl
@[simp] theorem State.setStream_tgts (s : State) (n : Nat) (x : StreamRec) : (s.setStream n x).tgts = s.tgts := rfl
@[simp] theorem State.setStream_out (s : State) (n : Nat) (x : StreamRec) : (s.setStream n x).out = s.out := rfl
@[simp] theorem State.setStream_held (s : State) (n : Nat) (x : StreamRec) : (s.setStream n x).held = s.held := rfl
@[simp] theorem State.setStream_cfg (s : State) (n : Nat) (x : StreamRec) : (s.setStream n x).cfg = s.cfg := rfl
@[simp] theorem State.setStream_msixTab (s : State) (n : Nat) (x : StreamRec) : (s.setStream n x).msixTab = s.msixTab := rfl
@[simp] theorem State.setStream_pba (s : State) (n : Nat) (x : StreamRec) : (s.setStream n x).pba = s.pba := rfl
@[simp] theorem State.setStream_msixReq (s : State) (n : Nat) (x : StreamRec) : (s.setStream n x).msixReq = s.msixReq := rfl
@[simp] theorem State.setStream_resetPend (s : State) (n : Nat) (x : StreamRec) : (s.setStream n x).resetPend = s.resetPend := rfl
@[simp] theorem State.setStream_now (s : State) (n : Nat) (x : StreamRec) : (s.setStream n x).now = s.now := rfl
@[simp] theorem State.setStream_ports (s : State) (n : Nat) (x : StreamRec) : (s.setStream n x).ports = s.ports := rfl
@[simp] theorem State.setStream_fab (s : State) (n : Nat) (x : StreamRec) : (s.setStream n x).fab = s.fab := rfl
@[simp] theorem State.setStream_flash (s : State) (n : Nat) (x : StreamRec) : (s.setStream n x).flash = s.flash := rfl
@[simp] theorem State.setStream_copy (s : State) (n : Nat) (x : StreamRec) : (s.setStream n x).copy = s.copy := rfl
@[simp] theorem State.setStream_update (s : State) (n : Nat) (x : StreamRec) : (s.setStream n x).update = s.update := rfl
@[simp] theorem State.setStream_svnFloor (s : State) (n : Nat) (x : StreamRec) : (s.setStream n x).svnFloor = s.svnFloor := rfl
@[simp] theorem State.setStream_svnBusy (s : State) (n : Nat) (x : StreamRec) : (s.setStream n x).svnBusy = s.svnBusy := rfl
@[simp] theorem State.setStream_pwr (s : State) (n : Nat) (x : StreamRec) : (s.setStream n x).pwr = s.pwr := rfl
@[simp] theorem State.setStream_smb (s : State) (n : Nat) (x : StreamRec) : (s.setStream n x).smb = s.smb := rfl
@[simp] theorem State.setStream_parks (s : State) (n : Nat) (x : StreamRec) : (s.setStream n x).parks = s.parks := rfl
@[simp] theorem State.setStream_muxWait (s : State) (n : Nat) (x : StreamRec) : (s.setStream n x).muxWait = s.muxWait := rfl
@[simp] theorem State.setStream_balls (s : State) (n : Nat) (x : StreamRec) : (s.setStream n x).balls = s.balls := rfl
@[simp] theorem State.setStream_tap (s : State) (n : Nat) (x : StreamRec) : (s.setStream n x).tap = s.tap := rfl
@[simp] theorem State.setStream_perst (s : State) (n : Nat) (x : StreamRec) : (s.setStream n x).perst = s.perst := rfl
@[simp] theorem State.setStream_rearm (s : State) (n : Nat) (x : StreamRec) : (s.setStream n x).rearm = s.rearm := rfl
@[simp] theorem State.setStream_ephRun (s : State) (n : Nat) (x : StreamRec) : (s.setStream n x).ephRun = s.ephRun := rfl
@[simp] theorem State.setStream_sealBase (s : State) (n : Nat) (x : StreamRec) : (s.setStream n x).sealBase = s.sealBase := rfl
@[simp] theorem State.setStream_sealSize (s : State) (n : Nat) (x : StreamRec) : (s.setStream n x).sealSize = s.sealSize := rfl
@[simp] theorem State.setStream_past (s : State) (n : Nat) (x : StreamRec) : (s.setStream n x).past = s.past := rfl
@[simp] theorem State.setStream_stepped (s : State) (n : Nat) (x : StreamRec) : (s.setStream n x).stepped = s.stepped := rfl

/-! ### `State.setProg` -/

@[simp] theorem State.setProg_pending (s : State) (n : Nat) (p : Prog) : (s.setProg n p).pending = s.pending := rfl
@[simp] theorem State.setProg_cycle (s : State) (n : Nat) (p : Prog) : (s.setProg n p).cycle = s.cycle := rfl
@[simp] theorem State.setProg_fresh (s : State) (n : Nat) (p : Prog) : (s.setProg n p).fresh = s.fresh := rfl
@[simp] theorem State.setProg_regs (s : State) (n : Nat) (p : Prog) : (s.setProg n p).regs = s.regs := rfl
@[simp] theorem State.setProg_postAlm (s : State) (n : Nat) (p : Prog) : (s.setProg n p).postAlm = s.postAlm := rfl
@[simp] theorem State.setProg_bar0 (s : State) (n : Nat) (p : Prog) : (s.setProg n p).bar0 = s.bar0 := rfl
@[simp] theorem State.setProg_smbPath (s : State) (n : Nat) (p : Prog) : (s.setProg n p).smbPath = s.smbPath := rfl
@[simp] theorem State.setProg_fePath (s : State) (n : Nat) (p : Prog) : (s.setProg n p).fePath = s.fePath := rfl
@[simp] theorem State.setProg_dram (s : State) (n : Nat) (p : Prog) : (s.setProg n p).dram = s.dram := rfl
@[simp] theorem State.setProg_plate (s : State) (n : Nat) (p : Prog) : (s.setProg n p).plate = s.plate := rfl
@[simp] theorem State.setProg_ecc (s : State) (n : Nat) (p : Prog) : (s.setProg n p).ecc = s.ecc := rfl
@[simp] theorem State.setProg_corrQ (s : State) (n : Nat) (p : Prog) : (s.setProg n p).corrQ = s.corrQ := rfl
@[simp] theorem State.setProg_scrubRow (s : State) (n : Nat) (p : Prog) : (s.setProg n p).scrubRow = s.scrubRow := rfl
@[simp] theorem State.setProg_scrubDone (s : State) (n : Nat) (p : Prog) : (s.setProg n p).scrubDone = s.scrubDone := rfl
@[simp] theorem State.setProg_tiles (s : State) (n : Nat) (p : Prog) : (s.setProg n p).tiles = s.tiles := rfl
@[simp] theorem State.setProg_ops (s : State) (n : Nat) (p : Prog) : (s.setProg n p).ops = s.ops := rfl
@[simp] theorem State.setProg_posts (s : State) (n : Nat) (p : Prog) : (s.setProg n p).posts = s.posts := rfl
@[simp] theorem State.setProg_toks (s : State) (n : Nat) (p : Prog) : (s.setProg n p).toks = s.toks := rfl
@[simp] theorem State.setProg_ring (s : State) (n : Nat) (p : Prog) : (s.setProg n p).ring = s.ring := rfl
@[simp] theorem State.setProg_streams (s : State) (n : Nat) (p : Prog) : (s.setProg n p).streams = s.streams := rfl
@[simp] theorem State.setProg_entries (s : State) (n : Nat) (p : Prog) : (s.setProg n p).entries = s.entries := rfl
@[simp] theorem State.setProg_slots (s : State) (n : Nat) (p : Prog) : (s.setProg n p).slots = s.slots := rfl
@[simp] theorem State.setProg_mapSeq (s : State) (n : Nat) (p : Prog) : (s.setProg n p).mapSeq = s.mapSeq := rfl
@[simp] theorem State.setProg_faults (s : State) (n : Nat) (p : Prog) : (s.setProg n p).faults = s.faults := rfl
@[simp] theorem State.setProg_gens (s : State) (n : Nat) (p : Prog) : (s.setProg n p).gens = s.gens := rfl
@[simp] theorem State.setProg_hcopy (s : State) (n : Nat) (p : Prog) : (s.setProg n p).hcopy = s.hcopy := rfl
@[simp] theorem State.setProg_charts (s : State) (n : Nat) (p : Prog) : (s.setProg n p).charts = s.charts := rfl
@[simp] theorem State.setProg_pendSigs (s : State) (n : Nat) (p : Prog) : (s.setProg n p).pendSigs = s.pendSigs := rfl
@[simp] theorem State.setProg_ftime (s : State) (n : Nat) (p : Prog) : (s.setProg n p).ftime = s.ftime := rfl
@[simp] theorem State.setProg_rmt (s : State) (n : Nat) (p : Prog) : (s.setProg n p).rmt = s.rmt := rfl
@[simp] theorem State.setProg_nextTag (s : State) (n : Nat) (p : Prog) : (s.setProg n p).nextTag = s.nextTag := rfl
@[simp] theorem State.setProg_router (s : State) (n : Nat) (p : Prog) : (s.setProg n p).router = s.router := rfl
@[simp] theorem State.setProg_pairs (s : State) (n : Nat) (p : Prog) : (s.setProg n p).pairs = s.pairs := rfl
@[simp] theorem State.setProg_tgts (s : State) (n : Nat) (p : Prog) : (s.setProg n p).tgts = s.tgts := rfl
@[simp] theorem State.setProg_out (s : State) (n : Nat) (p : Prog) : (s.setProg n p).out = s.out := rfl
@[simp] theorem State.setProg_held (s : State) (n : Nat) (p : Prog) : (s.setProg n p).held = s.held := rfl
@[simp] theorem State.setProg_cfg (s : State) (n : Nat) (p : Prog) : (s.setProg n p).cfg = s.cfg := rfl
@[simp] theorem State.setProg_msixTab (s : State) (n : Nat) (p : Prog) : (s.setProg n p).msixTab = s.msixTab := rfl
@[simp] theorem State.setProg_pba (s : State) (n : Nat) (p : Prog) : (s.setProg n p).pba = s.pba := rfl
@[simp] theorem State.setProg_msixReq (s : State) (n : Nat) (p : Prog) : (s.setProg n p).msixReq = s.msixReq := rfl
@[simp] theorem State.setProg_resetPend (s : State) (n : Nat) (p : Prog) : (s.setProg n p).resetPend = s.resetPend := rfl
@[simp] theorem State.setProg_now (s : State) (n : Nat) (p : Prog) : (s.setProg n p).now = s.now := rfl
@[simp] theorem State.setProg_ports (s : State) (n : Nat) (p : Prog) : (s.setProg n p).ports = s.ports := rfl
@[simp] theorem State.setProg_fab (s : State) (n : Nat) (p : Prog) : (s.setProg n p).fab = s.fab := rfl
@[simp] theorem State.setProg_flash (s : State) (n : Nat) (p : Prog) : (s.setProg n p).flash = s.flash := rfl
@[simp] theorem State.setProg_copy (s : State) (n : Nat) (p : Prog) : (s.setProg n p).copy = s.copy := rfl
@[simp] theorem State.setProg_update (s : State) (n : Nat) (p : Prog) : (s.setProg n p).update = s.update := rfl
@[simp] theorem State.setProg_svnFloor (s : State) (n : Nat) (p : Prog) : (s.setProg n p).svnFloor = s.svnFloor := rfl
@[simp] theorem State.setProg_svnBusy (s : State) (n : Nat) (p : Prog) : (s.setProg n p).svnBusy = s.svnBusy := rfl
@[simp] theorem State.setProg_pwr (s : State) (n : Nat) (p : Prog) : (s.setProg n p).pwr = s.pwr := rfl
@[simp] theorem State.setProg_smb (s : State) (n : Nat) (p : Prog) : (s.setProg n p).smb = s.smb := rfl
@[simp] theorem State.setProg_parks (s : State) (n : Nat) (p : Prog) : (s.setProg n p).parks = s.parks := rfl
@[simp] theorem State.setProg_muxWait (s : State) (n : Nat) (p : Prog) : (s.setProg n p).muxWait = s.muxWait := rfl
@[simp] theorem State.setProg_balls (s : State) (n : Nat) (p : Prog) : (s.setProg n p).balls = s.balls := rfl
@[simp] theorem State.setProg_tap (s : State) (n : Nat) (p : Prog) : (s.setProg n p).tap = s.tap := rfl
@[simp] theorem State.setProg_perst (s : State) (n : Nat) (p : Prog) : (s.setProg n p).perst = s.perst := rfl
@[simp] theorem State.setProg_rearm (s : State) (n : Nat) (p : Prog) : (s.setProg n p).rearm = s.rearm := rfl
@[simp] theorem State.setProg_ephRun (s : State) (n : Nat) (p : Prog) : (s.setProg n p).ephRun = s.ephRun := rfl
@[simp] theorem State.setProg_sealBase (s : State) (n : Nat) (p : Prog) : (s.setProg n p).sealBase = s.sealBase := rfl
@[simp] theorem State.setProg_sealSize (s : State) (n : Nat) (p : Prog) : (s.setProg n p).sealSize = s.sealSize := rfl
@[simp] theorem State.setProg_past (s : State) (n : Nat) (p : Prog) : (s.setProg n p).past = s.past := rfl
@[simp] theorem State.setProg_stepped (s : State) (n : Nat) (p : Prog) : (s.setProg n p).stepped = s.stepped := rfl

/-! ### `State.setChart` -/

@[simp] theorem State.setChart_pending (s : State) (n : Nat) (c : ChartRec) : (s.setChart n c).pending = s.pending := rfl
@[simp] theorem State.setChart_cycle (s : State) (n : Nat) (c : ChartRec) : (s.setChart n c).cycle = s.cycle := rfl
@[simp] theorem State.setChart_fresh (s : State) (n : Nat) (c : ChartRec) : (s.setChart n c).fresh = s.fresh := rfl
@[simp] theorem State.setChart_regs (s : State) (n : Nat) (c : ChartRec) : (s.setChart n c).regs = s.regs := rfl
@[simp] theorem State.setChart_postAlm (s : State) (n : Nat) (c : ChartRec) : (s.setChart n c).postAlm = s.postAlm := rfl
@[simp] theorem State.setChart_bar0 (s : State) (n : Nat) (c : ChartRec) : (s.setChart n c).bar0 = s.bar0 := rfl
@[simp] theorem State.setChart_smbPath (s : State) (n : Nat) (c : ChartRec) : (s.setChart n c).smbPath = s.smbPath := rfl
@[simp] theorem State.setChart_fePath (s : State) (n : Nat) (c : ChartRec) : (s.setChart n c).fePath = s.fePath := rfl
@[simp] theorem State.setChart_dram (s : State) (n : Nat) (c : ChartRec) : (s.setChart n c).dram = s.dram := rfl
@[simp] theorem State.setChart_plate (s : State) (n : Nat) (c : ChartRec) : (s.setChart n c).plate = s.plate := rfl
@[simp] theorem State.setChart_ecc (s : State) (n : Nat) (c : ChartRec) : (s.setChart n c).ecc = s.ecc := rfl
@[simp] theorem State.setChart_corrQ (s : State) (n : Nat) (c : ChartRec) : (s.setChart n c).corrQ = s.corrQ := rfl
@[simp] theorem State.setChart_scrubRow (s : State) (n : Nat) (c : ChartRec) : (s.setChart n c).scrubRow = s.scrubRow := rfl
@[simp] theorem State.setChart_scrubDone (s : State) (n : Nat) (c : ChartRec) : (s.setChart n c).scrubDone = s.scrubDone := rfl
@[simp] theorem State.setChart_tiles (s : State) (n : Nat) (c : ChartRec) : (s.setChart n c).tiles = s.tiles := rfl
@[simp] theorem State.setChart_ops (s : State) (n : Nat) (c : ChartRec) : (s.setChart n c).ops = s.ops := rfl
@[simp] theorem State.setChart_posts (s : State) (n : Nat) (c : ChartRec) : (s.setChart n c).posts = s.posts := rfl
@[simp] theorem State.setChart_toks (s : State) (n : Nat) (c : ChartRec) : (s.setChart n c).toks = s.toks := rfl
@[simp] theorem State.setChart_ring (s : State) (n : Nat) (c : ChartRec) : (s.setChart n c).ring = s.ring := rfl
@[simp] theorem State.setChart_streams (s : State) (n : Nat) (c : ChartRec) : (s.setChart n c).streams = s.streams := rfl
@[simp] theorem State.setChart_entries (s : State) (n : Nat) (c : ChartRec) : (s.setChart n c).entries = s.entries := rfl
@[simp] theorem State.setChart_slots (s : State) (n : Nat) (c : ChartRec) : (s.setChart n c).slots = s.slots := rfl
@[simp] theorem State.setChart_mapSeq (s : State) (n : Nat) (c : ChartRec) : (s.setChart n c).mapSeq = s.mapSeq := rfl
@[simp] theorem State.setChart_prog (s : State) (n : Nat) (c : ChartRec) : (s.setChart n c).prog = s.prog := rfl
@[simp] theorem State.setChart_faults (s : State) (n : Nat) (c : ChartRec) : (s.setChart n c).faults = s.faults := rfl
@[simp] theorem State.setChart_gens (s : State) (n : Nat) (c : ChartRec) : (s.setChart n c).gens = s.gens := rfl
@[simp] theorem State.setChart_hcopy (s : State) (n : Nat) (c : ChartRec) : (s.setChart n c).hcopy = s.hcopy := rfl
@[simp] theorem State.setChart_pendSigs (s : State) (n : Nat) (c : ChartRec) : (s.setChart n c).pendSigs = s.pendSigs := rfl
@[simp] theorem State.setChart_ftime (s : State) (n : Nat) (c : ChartRec) : (s.setChart n c).ftime = s.ftime := rfl
@[simp] theorem State.setChart_rmt (s : State) (n : Nat) (c : ChartRec) : (s.setChart n c).rmt = s.rmt := rfl
@[simp] theorem State.setChart_nextTag (s : State) (n : Nat) (c : ChartRec) : (s.setChart n c).nextTag = s.nextTag := rfl
@[simp] theorem State.setChart_router (s : State) (n : Nat) (c : ChartRec) : (s.setChart n c).router = s.router := rfl
@[simp] theorem State.setChart_pairs (s : State) (n : Nat) (c : ChartRec) : (s.setChart n c).pairs = s.pairs := rfl
@[simp] theorem State.setChart_tgts (s : State) (n : Nat) (c : ChartRec) : (s.setChart n c).tgts = s.tgts := rfl
@[simp] theorem State.setChart_out (s : State) (n : Nat) (c : ChartRec) : (s.setChart n c).out = s.out := rfl
@[simp] theorem State.setChart_held (s : State) (n : Nat) (c : ChartRec) : (s.setChart n c).held = s.held := rfl
@[simp] theorem State.setChart_cfg (s : State) (n : Nat) (c : ChartRec) : (s.setChart n c).cfg = s.cfg := rfl
@[simp] theorem State.setChart_msixTab (s : State) (n : Nat) (c : ChartRec) : (s.setChart n c).msixTab = s.msixTab := rfl
@[simp] theorem State.setChart_pba (s : State) (n : Nat) (c : ChartRec) : (s.setChart n c).pba = s.pba := rfl
@[simp] theorem State.setChart_msixReq (s : State) (n : Nat) (c : ChartRec) : (s.setChart n c).msixReq = s.msixReq := rfl
@[simp] theorem State.setChart_resetPend (s : State) (n : Nat) (c : ChartRec) : (s.setChart n c).resetPend = s.resetPend := rfl
@[simp] theorem State.setChart_now (s : State) (n : Nat) (c : ChartRec) : (s.setChart n c).now = s.now := rfl
@[simp] theorem State.setChart_ports (s : State) (n : Nat) (c : ChartRec) : (s.setChart n c).ports = s.ports := rfl
@[simp] theorem State.setChart_fab (s : State) (n : Nat) (c : ChartRec) : (s.setChart n c).fab = s.fab := rfl
@[simp] theorem State.setChart_flash (s : State) (n : Nat) (c : ChartRec) : (s.setChart n c).flash = s.flash := rfl
@[simp] theorem State.setChart_copy (s : State) (n : Nat) (c : ChartRec) : (s.setChart n c).copy = s.copy := rfl
@[simp] theorem State.setChart_update (s : State) (n : Nat) (c : ChartRec) : (s.setChart n c).update = s.update := rfl
@[simp] theorem State.setChart_svnFloor (s : State) (n : Nat) (c : ChartRec) : (s.setChart n c).svnFloor = s.svnFloor := rfl
@[simp] theorem State.setChart_svnBusy (s : State) (n : Nat) (c : ChartRec) : (s.setChart n c).svnBusy = s.svnBusy := rfl
@[simp] theorem State.setChart_pwr (s : State) (n : Nat) (c : ChartRec) : (s.setChart n c).pwr = s.pwr := rfl
@[simp] theorem State.setChart_smb (s : State) (n : Nat) (c : ChartRec) : (s.setChart n c).smb = s.smb := rfl
@[simp] theorem State.setChart_parks (s : State) (n : Nat) (c : ChartRec) : (s.setChart n c).parks = s.parks := rfl
@[simp] theorem State.setChart_muxWait (s : State) (n : Nat) (c : ChartRec) : (s.setChart n c).muxWait = s.muxWait := rfl
@[simp] theorem State.setChart_balls (s : State) (n : Nat) (c : ChartRec) : (s.setChart n c).balls = s.balls := rfl
@[simp] theorem State.setChart_tap (s : State) (n : Nat) (c : ChartRec) : (s.setChart n c).tap = s.tap := rfl
@[simp] theorem State.setChart_perst (s : State) (n : Nat) (c : ChartRec) : (s.setChart n c).perst = s.perst := rfl
@[simp] theorem State.setChart_rearm (s : State) (n : Nat) (c : ChartRec) : (s.setChart n c).rearm = s.rearm := rfl
@[simp] theorem State.setChart_ephRun (s : State) (n : Nat) (c : ChartRec) : (s.setChart n c).ephRun = s.ephRun := rfl
@[simp] theorem State.setChart_sealBase (s : State) (n : Nat) (c : ChartRec) : (s.setChart n c).sealBase = s.sealBase := rfl
@[simp] theorem State.setChart_sealSize (s : State) (n : Nat) (c : ChartRec) : (s.setChart n c).sealSize = s.sealSize := rfl
@[simp] theorem State.setChart_past (s : State) (n : Nat) (c : ChartRec) : (s.setChart n c).past = s.past := rfl
@[simp] theorem State.setChart_stepped (s : State) (n : Nat) (c : ChartRec) : (s.setChart n c).stepped = s.stepped := rfl

/-! ### `State.setTile` -/

@[simp] theorem State.setTile_pending (s : State) (cl n : Nat) (x : Tile) : (s.setTile cl n x).pending = s.pending := rfl
@[simp] theorem State.setTile_cycle (s : State) (cl n : Nat) (x : Tile) : (s.setTile cl n x).cycle = s.cycle := rfl
@[simp] theorem State.setTile_fresh (s : State) (cl n : Nat) (x : Tile) : (s.setTile cl n x).fresh = s.fresh := rfl
@[simp] theorem State.setTile_regs (s : State) (cl n : Nat) (x : Tile) : (s.setTile cl n x).regs = s.regs := rfl
@[simp] theorem State.setTile_postAlm (s : State) (cl n : Nat) (x : Tile) : (s.setTile cl n x).postAlm = s.postAlm := rfl
@[simp] theorem State.setTile_bar0 (s : State) (cl n : Nat) (x : Tile) : (s.setTile cl n x).bar0 = s.bar0 := rfl
@[simp] theorem State.setTile_smbPath (s : State) (cl n : Nat) (x : Tile) : (s.setTile cl n x).smbPath = s.smbPath := rfl
@[simp] theorem State.setTile_fePath (s : State) (cl n : Nat) (x : Tile) : (s.setTile cl n x).fePath = s.fePath := rfl
@[simp] theorem State.setTile_dram (s : State) (cl n : Nat) (x : Tile) : (s.setTile cl n x).dram = s.dram := rfl
@[simp] theorem State.setTile_plate (s : State) (cl n : Nat) (x : Tile) : (s.setTile cl n x).plate = s.plate := rfl
@[simp] theorem State.setTile_ecc (s : State) (cl n : Nat) (x : Tile) : (s.setTile cl n x).ecc = s.ecc := rfl
@[simp] theorem State.setTile_corrQ (s : State) (cl n : Nat) (x : Tile) : (s.setTile cl n x).corrQ = s.corrQ := rfl
@[simp] theorem State.setTile_scrubRow (s : State) (cl n : Nat) (x : Tile) : (s.setTile cl n x).scrubRow = s.scrubRow := rfl
@[simp] theorem State.setTile_scrubDone (s : State) (cl n : Nat) (x : Tile) : (s.setTile cl n x).scrubDone = s.scrubDone := rfl
@[simp] theorem State.setTile_ops (s : State) (cl n : Nat) (x : Tile) : (s.setTile cl n x).ops = s.ops := rfl
@[simp] theorem State.setTile_posts (s : State) (cl n : Nat) (x : Tile) : (s.setTile cl n x).posts = s.posts := rfl
@[simp] theorem State.setTile_toks (s : State) (cl n : Nat) (x : Tile) : (s.setTile cl n x).toks = s.toks := rfl
@[simp] theorem State.setTile_ring (s : State) (cl n : Nat) (x : Tile) : (s.setTile cl n x).ring = s.ring := rfl
@[simp] theorem State.setTile_streams (s : State) (cl n : Nat) (x : Tile) : (s.setTile cl n x).streams = s.streams := rfl
@[simp] theorem State.setTile_entries (s : State) (cl n : Nat) (x : Tile) : (s.setTile cl n x).entries = s.entries := rfl
@[simp] theorem State.setTile_slots (s : State) (cl n : Nat) (x : Tile) : (s.setTile cl n x).slots = s.slots := rfl
@[simp] theorem State.setTile_mapSeq (s : State) (cl n : Nat) (x : Tile) : (s.setTile cl n x).mapSeq = s.mapSeq := rfl
@[simp] theorem State.setTile_prog (s : State) (cl n : Nat) (x : Tile) : (s.setTile cl n x).prog = s.prog := rfl
@[simp] theorem State.setTile_faults (s : State) (cl n : Nat) (x : Tile) : (s.setTile cl n x).faults = s.faults := rfl
@[simp] theorem State.setTile_gens (s : State) (cl n : Nat) (x : Tile) : (s.setTile cl n x).gens = s.gens := rfl
@[simp] theorem State.setTile_hcopy (s : State) (cl n : Nat) (x : Tile) : (s.setTile cl n x).hcopy = s.hcopy := rfl
@[simp] theorem State.setTile_charts (s : State) (cl n : Nat) (x : Tile) : (s.setTile cl n x).charts = s.charts := rfl
@[simp] theorem State.setTile_pendSigs (s : State) (cl n : Nat) (x : Tile) : (s.setTile cl n x).pendSigs = s.pendSigs := rfl
@[simp] theorem State.setTile_ftime (s : State) (cl n : Nat) (x : Tile) : (s.setTile cl n x).ftime = s.ftime := rfl
@[simp] theorem State.setTile_rmt (s : State) (cl n : Nat) (x : Tile) : (s.setTile cl n x).rmt = s.rmt := rfl
@[simp] theorem State.setTile_nextTag (s : State) (cl n : Nat) (x : Tile) : (s.setTile cl n x).nextTag = s.nextTag := rfl
@[simp] theorem State.setTile_router (s : State) (cl n : Nat) (x : Tile) : (s.setTile cl n x).router = s.router := rfl
@[simp] theorem State.setTile_pairs (s : State) (cl n : Nat) (x : Tile) : (s.setTile cl n x).pairs = s.pairs := rfl
@[simp] theorem State.setTile_tgts (s : State) (cl n : Nat) (x : Tile) : (s.setTile cl n x).tgts = s.tgts := rfl
@[simp] theorem State.setTile_out (s : State) (cl n : Nat) (x : Tile) : (s.setTile cl n x).out = s.out := rfl
@[simp] theorem State.setTile_held (s : State) (cl n : Nat) (x : Tile) : (s.setTile cl n x).held = s.held := rfl
@[simp] theorem State.setTile_cfg (s : State) (cl n : Nat) (x : Tile) : (s.setTile cl n x).cfg = s.cfg := rfl
@[simp] theorem State.setTile_msixTab (s : State) (cl n : Nat) (x : Tile) : (s.setTile cl n x).msixTab = s.msixTab := rfl
@[simp] theorem State.setTile_pba (s : State) (cl n : Nat) (x : Tile) : (s.setTile cl n x).pba = s.pba := rfl
@[simp] theorem State.setTile_msixReq (s : State) (cl n : Nat) (x : Tile) : (s.setTile cl n x).msixReq = s.msixReq := rfl
@[simp] theorem State.setTile_resetPend (s : State) (cl n : Nat) (x : Tile) : (s.setTile cl n x).resetPend = s.resetPend := rfl
@[simp] theorem State.setTile_now (s : State) (cl n : Nat) (x : Tile) : (s.setTile cl n x).now = s.now := rfl
@[simp] theorem State.setTile_ports (s : State) (cl n : Nat) (x : Tile) : (s.setTile cl n x).ports = s.ports := rfl
@[simp] theorem State.setTile_fab (s : State) (cl n : Nat) (x : Tile) : (s.setTile cl n x).fab = s.fab := rfl
@[simp] theorem State.setTile_flash (s : State) (cl n : Nat) (x : Tile) : (s.setTile cl n x).flash = s.flash := rfl
@[simp] theorem State.setTile_copy (s : State) (cl n : Nat) (x : Tile) : (s.setTile cl n x).copy = s.copy := rfl
@[simp] theorem State.setTile_update (s : State) (cl n : Nat) (x : Tile) : (s.setTile cl n x).update = s.update := rfl
@[simp] theorem State.setTile_svnFloor (s : State) (cl n : Nat) (x : Tile) : (s.setTile cl n x).svnFloor = s.svnFloor := rfl
@[simp] theorem State.setTile_svnBusy (s : State) (cl n : Nat) (x : Tile) : (s.setTile cl n x).svnBusy = s.svnBusy := rfl
@[simp] theorem State.setTile_pwr (s : State) (cl n : Nat) (x : Tile) : (s.setTile cl n x).pwr = s.pwr := rfl
@[simp] theorem State.setTile_smb (s : State) (cl n : Nat) (x : Tile) : (s.setTile cl n x).smb = s.smb := rfl
@[simp] theorem State.setTile_parks (s : State) (cl n : Nat) (x : Tile) : (s.setTile cl n x).parks = s.parks := rfl
@[simp] theorem State.setTile_muxWait (s : State) (cl n : Nat) (x : Tile) : (s.setTile cl n x).muxWait = s.muxWait := rfl
@[simp] theorem State.setTile_balls (s : State) (cl n : Nat) (x : Tile) : (s.setTile cl n x).balls = s.balls := rfl
@[simp] theorem State.setTile_tap (s : State) (cl n : Nat) (x : Tile) : (s.setTile cl n x).tap = s.tap := rfl
@[simp] theorem State.setTile_perst (s : State) (cl n : Nat) (x : Tile) : (s.setTile cl n x).perst = s.perst := rfl
@[simp] theorem State.setTile_rearm (s : State) (cl n : Nat) (x : Tile) : (s.setTile cl n x).rearm = s.rearm := rfl
@[simp] theorem State.setTile_ephRun (s : State) (cl n : Nat) (x : Tile) : (s.setTile cl n x).ephRun = s.ephRun := rfl
@[simp] theorem State.setTile_sealBase (s : State) (cl n : Nat) (x : Tile) : (s.setTile cl n x).sealBase = s.sealBase := rfl
@[simp] theorem State.setTile_sealSize (s : State) (cl n : Nat) (x : Tile) : (s.setTile cl n x).sealSize = s.sealSize := rfl
@[simp] theorem State.setTile_past (s : State) (cl n : Nat) (x : Tile) : (s.setTile cl n x).past = s.past := rfl
@[simp] theorem State.setTile_stepped (s : State) (cl n : Nat) (x : Tile) : (s.setTile cl n x).stepped = s.stepped := rfl

/-! ### `State.setOp` -/

@[simp] theorem State.setOp_pending (s : State) (o : OpRec) : (s.setOp o).pending = s.pending := rfl
@[simp] theorem State.setOp_cycle (s : State) (o : OpRec) : (s.setOp o).cycle = s.cycle := rfl
@[simp] theorem State.setOp_fresh (s : State) (o : OpRec) : (s.setOp o).fresh = s.fresh := rfl
@[simp] theorem State.setOp_regs (s : State) (o : OpRec) : (s.setOp o).regs = s.regs := rfl
@[simp] theorem State.setOp_postAlm (s : State) (o : OpRec) : (s.setOp o).postAlm = s.postAlm := rfl
@[simp] theorem State.setOp_bar0 (s : State) (o : OpRec) : (s.setOp o).bar0 = s.bar0 := rfl
@[simp] theorem State.setOp_smbPath (s : State) (o : OpRec) : (s.setOp o).smbPath = s.smbPath := rfl
@[simp] theorem State.setOp_fePath (s : State) (o : OpRec) : (s.setOp o).fePath = s.fePath := rfl
@[simp] theorem State.setOp_dram (s : State) (o : OpRec) : (s.setOp o).dram = s.dram := rfl
@[simp] theorem State.setOp_plate (s : State) (o : OpRec) : (s.setOp o).plate = s.plate := rfl
@[simp] theorem State.setOp_ecc (s : State) (o : OpRec) : (s.setOp o).ecc = s.ecc := rfl
@[simp] theorem State.setOp_corrQ (s : State) (o : OpRec) : (s.setOp o).corrQ = s.corrQ := rfl
@[simp] theorem State.setOp_scrubRow (s : State) (o : OpRec) : (s.setOp o).scrubRow = s.scrubRow := rfl
@[simp] theorem State.setOp_scrubDone (s : State) (o : OpRec) : (s.setOp o).scrubDone = s.scrubDone := rfl
@[simp] theorem State.setOp_tiles (s : State) (o : OpRec) : (s.setOp o).tiles = s.tiles := rfl
@[simp] theorem State.setOp_posts (s : State) (o : OpRec) : (s.setOp o).posts = s.posts := rfl
@[simp] theorem State.setOp_toks (s : State) (o : OpRec) : (s.setOp o).toks = s.toks := rfl
@[simp] theorem State.setOp_ring (s : State) (o : OpRec) : (s.setOp o).ring = s.ring := rfl
@[simp] theorem State.setOp_streams (s : State) (o : OpRec) : (s.setOp o).streams = s.streams := rfl
@[simp] theorem State.setOp_entries (s : State) (o : OpRec) : (s.setOp o).entries = s.entries := rfl
@[simp] theorem State.setOp_slots (s : State) (o : OpRec) : (s.setOp o).slots = s.slots := rfl
@[simp] theorem State.setOp_mapSeq (s : State) (o : OpRec) : (s.setOp o).mapSeq = s.mapSeq := rfl
@[simp] theorem State.setOp_prog (s : State) (o : OpRec) : (s.setOp o).prog = s.prog := rfl
@[simp] theorem State.setOp_faults (s : State) (o : OpRec) : (s.setOp o).faults = s.faults := rfl
@[simp] theorem State.setOp_gens (s : State) (o : OpRec) : (s.setOp o).gens = s.gens := rfl
@[simp] theorem State.setOp_hcopy (s : State) (o : OpRec) : (s.setOp o).hcopy = s.hcopy := rfl
@[simp] theorem State.setOp_charts (s : State) (o : OpRec) : (s.setOp o).charts = s.charts := rfl
@[simp] theorem State.setOp_pendSigs (s : State) (o : OpRec) : (s.setOp o).pendSigs = s.pendSigs := rfl
@[simp] theorem State.setOp_ftime (s : State) (o : OpRec) : (s.setOp o).ftime = s.ftime := rfl
@[simp] theorem State.setOp_rmt (s : State) (o : OpRec) : (s.setOp o).rmt = s.rmt := rfl
@[simp] theorem State.setOp_nextTag (s : State) (o : OpRec) : (s.setOp o).nextTag = s.nextTag := rfl
@[simp] theorem State.setOp_router (s : State) (o : OpRec) : (s.setOp o).router = s.router := rfl
@[simp] theorem State.setOp_pairs (s : State) (o : OpRec) : (s.setOp o).pairs = s.pairs := rfl
@[simp] theorem State.setOp_tgts (s : State) (o : OpRec) : (s.setOp o).tgts = s.tgts := rfl
@[simp] theorem State.setOp_out (s : State) (o : OpRec) : (s.setOp o).out = s.out := rfl
@[simp] theorem State.setOp_held (s : State) (o : OpRec) : (s.setOp o).held = s.held := rfl
@[simp] theorem State.setOp_cfg (s : State) (o : OpRec) : (s.setOp o).cfg = s.cfg := rfl
@[simp] theorem State.setOp_msixTab (s : State) (o : OpRec) : (s.setOp o).msixTab = s.msixTab := rfl
@[simp] theorem State.setOp_pba (s : State) (o : OpRec) : (s.setOp o).pba = s.pba := rfl
@[simp] theorem State.setOp_msixReq (s : State) (o : OpRec) : (s.setOp o).msixReq = s.msixReq := rfl
@[simp] theorem State.setOp_resetPend (s : State) (o : OpRec) : (s.setOp o).resetPend = s.resetPend := rfl
@[simp] theorem State.setOp_now (s : State) (o : OpRec) : (s.setOp o).now = s.now := rfl
@[simp] theorem State.setOp_ports (s : State) (o : OpRec) : (s.setOp o).ports = s.ports := rfl
@[simp] theorem State.setOp_fab (s : State) (o : OpRec) : (s.setOp o).fab = s.fab := rfl
@[simp] theorem State.setOp_flash (s : State) (o : OpRec) : (s.setOp o).flash = s.flash := rfl
@[simp] theorem State.setOp_copy (s : State) (o : OpRec) : (s.setOp o).copy = s.copy := rfl
@[simp] theorem State.setOp_update (s : State) (o : OpRec) : (s.setOp o).update = s.update := rfl
@[simp] theorem State.setOp_svnFloor (s : State) (o : OpRec) : (s.setOp o).svnFloor = s.svnFloor := rfl
@[simp] theorem State.setOp_svnBusy (s : State) (o : OpRec) : (s.setOp o).svnBusy = s.svnBusy := rfl
@[simp] theorem State.setOp_pwr (s : State) (o : OpRec) : (s.setOp o).pwr = s.pwr := rfl
@[simp] theorem State.setOp_smb (s : State) (o : OpRec) : (s.setOp o).smb = s.smb := rfl
@[simp] theorem State.setOp_parks (s : State) (o : OpRec) : (s.setOp o).parks = s.parks := rfl
@[simp] theorem State.setOp_muxWait (s : State) (o : OpRec) : (s.setOp o).muxWait = s.muxWait := rfl
@[simp] theorem State.setOp_balls (s : State) (o : OpRec) : (s.setOp o).balls = s.balls := rfl
@[simp] theorem State.setOp_tap (s : State) (o : OpRec) : (s.setOp o).tap = s.tap := rfl
@[simp] theorem State.setOp_perst (s : State) (o : OpRec) : (s.setOp o).perst = s.perst := rfl
@[simp] theorem State.setOp_rearm (s : State) (o : OpRec) : (s.setOp o).rearm = s.rearm := rfl
@[simp] theorem State.setOp_ephRun (s : State) (o : OpRec) : (s.setOp o).ephRun = s.ephRun := rfl
@[simp] theorem State.setOp_sealBase (s : State) (o : OpRec) : (s.setOp o).sealBase = s.sealBase := rfl
@[simp] theorem State.setOp_sealSize (s : State) (o : OpRec) : (s.setOp o).sealSize = s.sealSize := rfl
@[simp] theorem State.setOp_past (s : State) (o : OpRec) : (s.setOp o).past = s.past := rfl
@[simp] theorem State.setOp_stepped (s : State) (o : OpRec) : (s.setOp o).stepped = s.stepped := rfl

/-! ### `State.setPair` -/

@[simp] theorem State.setPair_pending (s : State) (n : Nat) (p : PairSeq) : (s.setPair n p).pending = s.pending := rfl
@[simp] theorem State.setPair_cycle (s : State) (n : Nat) (p : PairSeq) : (s.setPair n p).cycle = s.cycle := rfl
@[simp] theorem State.setPair_fresh (s : State) (n : Nat) (p : PairSeq) : (s.setPair n p).fresh = s.fresh := rfl
@[simp] theorem State.setPair_regs (s : State) (n : Nat) (p : PairSeq) : (s.setPair n p).regs = s.regs := rfl
@[simp] theorem State.setPair_postAlm (s : State) (n : Nat) (p : PairSeq) : (s.setPair n p).postAlm = s.postAlm := rfl
@[simp] theorem State.setPair_bar0 (s : State) (n : Nat) (p : PairSeq) : (s.setPair n p).bar0 = s.bar0 := rfl
@[simp] theorem State.setPair_smbPath (s : State) (n : Nat) (p : PairSeq) : (s.setPair n p).smbPath = s.smbPath := rfl
@[simp] theorem State.setPair_fePath (s : State) (n : Nat) (p : PairSeq) : (s.setPair n p).fePath = s.fePath := rfl
@[simp] theorem State.setPair_dram (s : State) (n : Nat) (p : PairSeq) : (s.setPair n p).dram = s.dram := rfl
@[simp] theorem State.setPair_plate (s : State) (n : Nat) (p : PairSeq) : (s.setPair n p).plate = s.plate := rfl
@[simp] theorem State.setPair_ecc (s : State) (n : Nat) (p : PairSeq) : (s.setPair n p).ecc = s.ecc := rfl
@[simp] theorem State.setPair_corrQ (s : State) (n : Nat) (p : PairSeq) : (s.setPair n p).corrQ = s.corrQ := rfl
@[simp] theorem State.setPair_scrubRow (s : State) (n : Nat) (p : PairSeq) : (s.setPair n p).scrubRow = s.scrubRow := rfl
@[simp] theorem State.setPair_scrubDone (s : State) (n : Nat) (p : PairSeq) : (s.setPair n p).scrubDone = s.scrubDone := rfl
@[simp] theorem State.setPair_tiles (s : State) (n : Nat) (p : PairSeq) : (s.setPair n p).tiles = s.tiles := rfl
@[simp] theorem State.setPair_ops (s : State) (n : Nat) (p : PairSeq) : (s.setPair n p).ops = s.ops := rfl
@[simp] theorem State.setPair_posts (s : State) (n : Nat) (p : PairSeq) : (s.setPair n p).posts = s.posts := rfl
@[simp] theorem State.setPair_toks (s : State) (n : Nat) (p : PairSeq) : (s.setPair n p).toks = s.toks := rfl
@[simp] theorem State.setPair_ring (s : State) (n : Nat) (p : PairSeq) : (s.setPair n p).ring = s.ring := rfl
@[simp] theorem State.setPair_streams (s : State) (n : Nat) (p : PairSeq) : (s.setPair n p).streams = s.streams := rfl
@[simp] theorem State.setPair_entries (s : State) (n : Nat) (p : PairSeq) : (s.setPair n p).entries = s.entries := rfl
@[simp] theorem State.setPair_slots (s : State) (n : Nat) (p : PairSeq) : (s.setPair n p).slots = s.slots := rfl
@[simp] theorem State.setPair_mapSeq (s : State) (n : Nat) (p : PairSeq) : (s.setPair n p).mapSeq = s.mapSeq := rfl
@[simp] theorem State.setPair_prog (s : State) (n : Nat) (p : PairSeq) : (s.setPair n p).prog = s.prog := rfl
@[simp] theorem State.setPair_faults (s : State) (n : Nat) (p : PairSeq) : (s.setPair n p).faults = s.faults := rfl
@[simp] theorem State.setPair_gens (s : State) (n : Nat) (p : PairSeq) : (s.setPair n p).gens = s.gens := rfl
@[simp] theorem State.setPair_hcopy (s : State) (n : Nat) (p : PairSeq) : (s.setPair n p).hcopy = s.hcopy := rfl
@[simp] theorem State.setPair_charts (s : State) (n : Nat) (p : PairSeq) : (s.setPair n p).charts = s.charts := rfl
@[simp] theorem State.setPair_pendSigs (s : State) (n : Nat) (p : PairSeq) : (s.setPair n p).pendSigs = s.pendSigs := rfl
@[simp] theorem State.setPair_ftime (s : State) (n : Nat) (p : PairSeq) : (s.setPair n p).ftime = s.ftime := rfl
@[simp] theorem State.setPair_rmt (s : State) (n : Nat) (p : PairSeq) : (s.setPair n p).rmt = s.rmt := rfl
@[simp] theorem State.setPair_nextTag (s : State) (n : Nat) (p : PairSeq) : (s.setPair n p).nextTag = s.nextTag := rfl
@[simp] theorem State.setPair_router (s : State) (n : Nat) (p : PairSeq) : (s.setPair n p).router = s.router := rfl
@[simp] theorem State.setPair_pairs (s : State) (n : Nat) (p : PairSeq) : (s.setPair n p).pairs = s.pairs := rfl
@[simp] theorem State.setPair_out (s : State) (n : Nat) (p : PairSeq) : (s.setPair n p).out = s.out := rfl
@[simp] theorem State.setPair_held (s : State) (n : Nat) (p : PairSeq) : (s.setPair n p).held = s.held := rfl
@[simp] theorem State.setPair_cfg (s : State) (n : Nat) (p : PairSeq) : (s.setPair n p).cfg = s.cfg := rfl
@[simp] theorem State.setPair_msixTab (s : State) (n : Nat) (p : PairSeq) : (s.setPair n p).msixTab = s.msixTab := rfl
@[simp] theorem State.setPair_pba (s : State) (n : Nat) (p : PairSeq) : (s.setPair n p).pba = s.pba := rfl
@[simp] theorem State.setPair_msixReq (s : State) (n : Nat) (p : PairSeq) : (s.setPair n p).msixReq = s.msixReq := rfl
@[simp] theorem State.setPair_resetPend (s : State) (n : Nat) (p : PairSeq) : (s.setPair n p).resetPend = s.resetPend := rfl
@[simp] theorem State.setPair_now (s : State) (n : Nat) (p : PairSeq) : (s.setPair n p).now = s.now := rfl
@[simp] theorem State.setPair_ports (s : State) (n : Nat) (p : PairSeq) : (s.setPair n p).ports = s.ports := rfl
@[simp] theorem State.setPair_fab (s : State) (n : Nat) (p : PairSeq) : (s.setPair n p).fab = s.fab := rfl
@[simp] theorem State.setPair_flash (s : State) (n : Nat) (p : PairSeq) : (s.setPair n p).flash = s.flash := rfl
@[simp] theorem State.setPair_copy (s : State) (n : Nat) (p : PairSeq) : (s.setPair n p).copy = s.copy := rfl
@[simp] theorem State.setPair_update (s : State) (n : Nat) (p : PairSeq) : (s.setPair n p).update = s.update := rfl
@[simp] theorem State.setPair_svnFloor (s : State) (n : Nat) (p : PairSeq) : (s.setPair n p).svnFloor = s.svnFloor := rfl
@[simp] theorem State.setPair_svnBusy (s : State) (n : Nat) (p : PairSeq) : (s.setPair n p).svnBusy = s.svnBusy := rfl
@[simp] theorem State.setPair_pwr (s : State) (n : Nat) (p : PairSeq) : (s.setPair n p).pwr = s.pwr := rfl
@[simp] theorem State.setPair_smb (s : State) (n : Nat) (p : PairSeq) : (s.setPair n p).smb = s.smb := rfl
@[simp] theorem State.setPair_parks (s : State) (n : Nat) (p : PairSeq) : (s.setPair n p).parks = s.parks := rfl
@[simp] theorem State.setPair_muxWait (s : State) (n : Nat) (p : PairSeq) : (s.setPair n p).muxWait = s.muxWait := rfl
@[simp] theorem State.setPair_balls (s : State) (n : Nat) (p : PairSeq) : (s.setPair n p).balls = s.balls := rfl
@[simp] theorem State.setPair_tap (s : State) (n : Nat) (p : PairSeq) : (s.setPair n p).tap = s.tap := rfl
@[simp] theorem State.setPair_perst (s : State) (n : Nat) (p : PairSeq) : (s.setPair n p).perst = s.perst := rfl
@[simp] theorem State.setPair_rearm (s : State) (n : Nat) (p : PairSeq) : (s.setPair n p).rearm = s.rearm := rfl
@[simp] theorem State.setPair_ephRun (s : State) (n : Nat) (p : PairSeq) : (s.setPair n p).ephRun = s.ephRun := rfl
@[simp] theorem State.setPair_sealBase (s : State) (n : Nat) (p : PairSeq) : (s.setPair n p).sealBase = s.sealBase := rfl
@[simp] theorem State.setPair_sealSize (s : State) (n : Nat) (p : PairSeq) : (s.setPair n p).sealSize = s.sealSize := rfl
@[simp] theorem State.setPair_past (s : State) (n : Nat) (p : PairSeq) : (s.setPair n p).past = s.past := rfl
@[simp] theorem State.setPair_stepped (s : State) (n : Nat) (p : PairSeq) : (s.setPair n p).stepped = s.stepped := rfl

/-! ### `State.setPort` -/

@[simp] theorem State.setPort_pending (s : State) (p : Nat) (x : Port) : (s.setPort p x).pending = s.pending := rfl
@[simp] theorem State.setPort_cycle (s : State) (p : Nat) (x : Port) : (s.setPort p x).cycle = s.cycle := rfl
@[simp] theorem State.setPort_fresh (s : State) (p : Nat) (x : Port) : (s.setPort p x).fresh = s.fresh := rfl
@[simp] theorem State.setPort_regs (s : State) (p : Nat) (x : Port) : (s.setPort p x).regs = s.regs := rfl
@[simp] theorem State.setPort_postAlm (s : State) (p : Nat) (x : Port) : (s.setPort p x).postAlm = s.postAlm := rfl
@[simp] theorem State.setPort_bar0 (s : State) (p : Nat) (x : Port) : (s.setPort p x).bar0 = s.bar0 := rfl
@[simp] theorem State.setPort_smbPath (s : State) (p : Nat) (x : Port) : (s.setPort p x).smbPath = s.smbPath := rfl
@[simp] theorem State.setPort_fePath (s : State) (p : Nat) (x : Port) : (s.setPort p x).fePath = s.fePath := rfl
@[simp] theorem State.setPort_dram (s : State) (p : Nat) (x : Port) : (s.setPort p x).dram = s.dram := rfl
@[simp] theorem State.setPort_plate (s : State) (p : Nat) (x : Port) : (s.setPort p x).plate = s.plate := rfl
@[simp] theorem State.setPort_ecc (s : State) (p : Nat) (x : Port) : (s.setPort p x).ecc = s.ecc := rfl
@[simp] theorem State.setPort_corrQ (s : State) (p : Nat) (x : Port) : (s.setPort p x).corrQ = s.corrQ := rfl
@[simp] theorem State.setPort_scrubRow (s : State) (p : Nat) (x : Port) : (s.setPort p x).scrubRow = s.scrubRow := rfl
@[simp] theorem State.setPort_scrubDone (s : State) (p : Nat) (x : Port) : (s.setPort p x).scrubDone = s.scrubDone := rfl
@[simp] theorem State.setPort_tiles (s : State) (p : Nat) (x : Port) : (s.setPort p x).tiles = s.tiles := rfl
@[simp] theorem State.setPort_ops (s : State) (p : Nat) (x : Port) : (s.setPort p x).ops = s.ops := rfl
@[simp] theorem State.setPort_posts (s : State) (p : Nat) (x : Port) : (s.setPort p x).posts = s.posts := rfl
@[simp] theorem State.setPort_toks (s : State) (p : Nat) (x : Port) : (s.setPort p x).toks = s.toks := rfl
@[simp] theorem State.setPort_ring (s : State) (p : Nat) (x : Port) : (s.setPort p x).ring = s.ring := rfl
@[simp] theorem State.setPort_streams (s : State) (p : Nat) (x : Port) : (s.setPort p x).streams = s.streams := rfl
@[simp] theorem State.setPort_entries (s : State) (p : Nat) (x : Port) : (s.setPort p x).entries = s.entries := rfl
@[simp] theorem State.setPort_slots (s : State) (p : Nat) (x : Port) : (s.setPort p x).slots = s.slots := rfl
@[simp] theorem State.setPort_mapSeq (s : State) (p : Nat) (x : Port) : (s.setPort p x).mapSeq = s.mapSeq := rfl
@[simp] theorem State.setPort_prog (s : State) (p : Nat) (x : Port) : (s.setPort p x).prog = s.prog := rfl
@[simp] theorem State.setPort_faults (s : State) (p : Nat) (x : Port) : (s.setPort p x).faults = s.faults := rfl
@[simp] theorem State.setPort_gens (s : State) (p : Nat) (x : Port) : (s.setPort p x).gens = s.gens := rfl
@[simp] theorem State.setPort_hcopy (s : State) (p : Nat) (x : Port) : (s.setPort p x).hcopy = s.hcopy := rfl
@[simp] theorem State.setPort_charts (s : State) (p : Nat) (x : Port) : (s.setPort p x).charts = s.charts := rfl
@[simp] theorem State.setPort_pendSigs (s : State) (p : Nat) (x : Port) : (s.setPort p x).pendSigs = s.pendSigs := rfl
@[simp] theorem State.setPort_ftime (s : State) (p : Nat) (x : Port) : (s.setPort p x).ftime = s.ftime := rfl
@[simp] theorem State.setPort_rmt (s : State) (p : Nat) (x : Port) : (s.setPort p x).rmt = s.rmt := rfl
@[simp] theorem State.setPort_nextTag (s : State) (p : Nat) (x : Port) : (s.setPort p x).nextTag = s.nextTag := rfl
@[simp] theorem State.setPort_router (s : State) (p : Nat) (x : Port) : (s.setPort p x).router = s.router := rfl
@[simp] theorem State.setPort_pairs (s : State) (p : Nat) (x : Port) : (s.setPort p x).pairs = s.pairs := rfl
@[simp] theorem State.setPort_tgts (s : State) (p : Nat) (x : Port) : (s.setPort p x).tgts = s.tgts := rfl
@[simp] theorem State.setPort_out (s : State) (p : Nat) (x : Port) : (s.setPort p x).out = s.out := rfl
@[simp] theorem State.setPort_held (s : State) (p : Nat) (x : Port) : (s.setPort p x).held = s.held := rfl
@[simp] theorem State.setPort_cfg (s : State) (p : Nat) (x : Port) : (s.setPort p x).cfg = s.cfg := rfl
@[simp] theorem State.setPort_msixTab (s : State) (p : Nat) (x : Port) : (s.setPort p x).msixTab = s.msixTab := rfl
@[simp] theorem State.setPort_pba (s : State) (p : Nat) (x : Port) : (s.setPort p x).pba = s.pba := rfl
@[simp] theorem State.setPort_msixReq (s : State) (p : Nat) (x : Port) : (s.setPort p x).msixReq = s.msixReq := rfl
@[simp] theorem State.setPort_resetPend (s : State) (p : Nat) (x : Port) : (s.setPort p x).resetPend = s.resetPend := rfl
@[simp] theorem State.setPort_now (s : State) (p : Nat) (x : Port) : (s.setPort p x).now = s.now := rfl
@[simp] theorem State.setPort_fab (s : State) (p : Nat) (x : Port) : (s.setPort p x).fab = s.fab := rfl
@[simp] theorem State.setPort_flash (s : State) (p : Nat) (x : Port) : (s.setPort p x).flash = s.flash := rfl
@[simp] theorem State.setPort_copy (s : State) (p : Nat) (x : Port) : (s.setPort p x).copy = s.copy := rfl
@[simp] theorem State.setPort_update (s : State) (p : Nat) (x : Port) : (s.setPort p x).update = s.update := rfl
@[simp] theorem State.setPort_svnFloor (s : State) (p : Nat) (x : Port) : (s.setPort p x).svnFloor = s.svnFloor := rfl
@[simp] theorem State.setPort_svnBusy (s : State) (p : Nat) (x : Port) : (s.setPort p x).svnBusy = s.svnBusy := rfl
@[simp] theorem State.setPort_pwr (s : State) (p : Nat) (x : Port) : (s.setPort p x).pwr = s.pwr := rfl
@[simp] theorem State.setPort_smb (s : State) (p : Nat) (x : Port) : (s.setPort p x).smb = s.smb := rfl
@[simp] theorem State.setPort_parks (s : State) (p : Nat) (x : Port) : (s.setPort p x).parks = s.parks := rfl
@[simp] theorem State.setPort_muxWait (s : State) (p : Nat) (x : Port) : (s.setPort p x).muxWait = s.muxWait := rfl
@[simp] theorem State.setPort_balls (s : State) (p : Nat) (x : Port) : (s.setPort p x).balls = s.balls := rfl
@[simp] theorem State.setPort_tap (s : State) (p : Nat) (x : Port) : (s.setPort p x).tap = s.tap := rfl
@[simp] theorem State.setPort_perst (s : State) (p : Nat) (x : Port) : (s.setPort p x).perst = s.perst := rfl
@[simp] theorem State.setPort_rearm (s : State) (p : Nat) (x : Port) : (s.setPort p x).rearm = s.rearm := rfl
@[simp] theorem State.setPort_ephRun (s : State) (p : Nat) (x : Port) : (s.setPort p x).ephRun = s.ephRun := rfl
@[simp] theorem State.setPort_sealBase (s : State) (p : Nat) (x : Port) : (s.setPort p x).sealBase = s.sealBase := rfl
@[simp] theorem State.setPort_sealSize (s : State) (p : Nat) (x : Port) : (s.setPort p x).sealSize = s.sealSize := rfl
@[simp] theorem State.setPort_past (s : State) (p : Nat) (x : Port) : (s.setPort p x).past = s.past := rfl
@[simp] theorem State.setPort_stepped (s : State) (p : Nat) (x : Port) : (s.setPort p x).stepped = s.stepped := rfl

/-! ### `State.setLink` -/

@[simp] theorem State.setLink_pending (s : State) (p st rate width : Nat) : (s.setLink p st rate width).pending = s.pending := rfl
@[simp] theorem State.setLink_cycle (s : State) (p st rate width : Nat) : (s.setLink p st rate width).cycle = s.cycle := rfl
@[simp] theorem State.setLink_fresh (s : State) (p st rate width : Nat) : (s.setLink p st rate width).fresh = s.fresh := rfl
@[simp] theorem State.setLink_postAlm (s : State) (p st rate width : Nat) : (s.setLink p st rate width).postAlm = s.postAlm := rfl
@[simp] theorem State.setLink_bar0 (s : State) (p st rate width : Nat) : (s.setLink p st rate width).bar0 = s.bar0 := rfl
@[simp] theorem State.setLink_smbPath (s : State) (p st rate width : Nat) : (s.setLink p st rate width).smbPath = s.smbPath := rfl
@[simp] theorem State.setLink_fePath (s : State) (p st rate width : Nat) : (s.setLink p st rate width).fePath = s.fePath := rfl
@[simp] theorem State.setLink_dram (s : State) (p st rate width : Nat) : (s.setLink p st rate width).dram = s.dram := rfl
@[simp] theorem State.setLink_plate (s : State) (p st rate width : Nat) : (s.setLink p st rate width).plate = s.plate := rfl
@[simp] theorem State.setLink_ecc (s : State) (p st rate width : Nat) : (s.setLink p st rate width).ecc = s.ecc := rfl
@[simp] theorem State.setLink_corrQ (s : State) (p st rate width : Nat) : (s.setLink p st rate width).corrQ = s.corrQ := rfl
@[simp] theorem State.setLink_scrubRow (s : State) (p st rate width : Nat) : (s.setLink p st rate width).scrubRow = s.scrubRow := rfl
@[simp] theorem State.setLink_scrubDone (s : State) (p st rate width : Nat) : (s.setLink p st rate width).scrubDone = s.scrubDone := rfl
@[simp] theorem State.setLink_tiles (s : State) (p st rate width : Nat) : (s.setLink p st rate width).tiles = s.tiles := rfl
@[simp] theorem State.setLink_ops (s : State) (p st rate width : Nat) : (s.setLink p st rate width).ops = s.ops := rfl
@[simp] theorem State.setLink_posts (s : State) (p st rate width : Nat) : (s.setLink p st rate width).posts = s.posts := rfl
@[simp] theorem State.setLink_toks (s : State) (p st rate width : Nat) : (s.setLink p st rate width).toks = s.toks := rfl
@[simp] theorem State.setLink_ring (s : State) (p st rate width : Nat) : (s.setLink p st rate width).ring = s.ring := rfl
@[simp] theorem State.setLink_streams (s : State) (p st rate width : Nat) : (s.setLink p st rate width).streams = s.streams := rfl
@[simp] theorem State.setLink_entries (s : State) (p st rate width : Nat) : (s.setLink p st rate width).entries = s.entries := rfl
@[simp] theorem State.setLink_slots (s : State) (p st rate width : Nat) : (s.setLink p st rate width).slots = s.slots := rfl
@[simp] theorem State.setLink_mapSeq (s : State) (p st rate width : Nat) : (s.setLink p st rate width).mapSeq = s.mapSeq := rfl
@[simp] theorem State.setLink_prog (s : State) (p st rate width : Nat) : (s.setLink p st rate width).prog = s.prog := rfl
@[simp] theorem State.setLink_faults (s : State) (p st rate width : Nat) : (s.setLink p st rate width).faults = s.faults := rfl
@[simp] theorem State.setLink_gens (s : State) (p st rate width : Nat) : (s.setLink p st rate width).gens = s.gens := rfl
@[simp] theorem State.setLink_hcopy (s : State) (p st rate width : Nat) : (s.setLink p st rate width).hcopy = s.hcopy := rfl
@[simp] theorem State.setLink_charts (s : State) (p st rate width : Nat) : (s.setLink p st rate width).charts = s.charts := rfl
@[simp] theorem State.setLink_pendSigs (s : State) (p st rate width : Nat) : (s.setLink p st rate width).pendSigs = s.pendSigs := rfl
@[simp] theorem State.setLink_ftime (s : State) (p st rate width : Nat) : (s.setLink p st rate width).ftime = s.ftime := rfl
@[simp] theorem State.setLink_rmt (s : State) (p st rate width : Nat) : (s.setLink p st rate width).rmt = s.rmt := rfl
@[simp] theorem State.setLink_nextTag (s : State) (p st rate width : Nat) : (s.setLink p st rate width).nextTag = s.nextTag := rfl
@[simp] theorem State.setLink_router (s : State) (p st rate width : Nat) : (s.setLink p st rate width).router = s.router := rfl
@[simp] theorem State.setLink_pairs (s : State) (p st rate width : Nat) : (s.setLink p st rate width).pairs = s.pairs := rfl
@[simp] theorem State.setLink_tgts (s : State) (p st rate width : Nat) : (s.setLink p st rate width).tgts = s.tgts := rfl
@[simp] theorem State.setLink_out (s : State) (p st rate width : Nat) : (s.setLink p st rate width).out = s.out := rfl
@[simp] theorem State.setLink_held (s : State) (p st rate width : Nat) : (s.setLink p st rate width).held = s.held := rfl
@[simp] theorem State.setLink_cfg (s : State) (p st rate width : Nat) : (s.setLink p st rate width).cfg = s.cfg := rfl
@[simp] theorem State.setLink_msixTab (s : State) (p st rate width : Nat) : (s.setLink p st rate width).msixTab = s.msixTab := rfl
@[simp] theorem State.setLink_pba (s : State) (p st rate width : Nat) : (s.setLink p st rate width).pba = s.pba := rfl
@[simp] theorem State.setLink_msixReq (s : State) (p st rate width : Nat) : (s.setLink p st rate width).msixReq = s.msixReq := rfl
@[simp] theorem State.setLink_resetPend (s : State) (p st rate width : Nat) : (s.setLink p st rate width).resetPend = s.resetPend := rfl
@[simp] theorem State.setLink_now (s : State) (p st rate width : Nat) : (s.setLink p st rate width).now = s.now := rfl
@[simp] theorem State.setLink_ports (s : State) (p st rate width : Nat) : (s.setLink p st rate width).ports = s.ports := rfl
@[simp] theorem State.setLink_fab (s : State) (p st rate width : Nat) : (s.setLink p st rate width).fab = s.fab := rfl
@[simp] theorem State.setLink_flash (s : State) (p st rate width : Nat) : (s.setLink p st rate width).flash = s.flash := rfl
@[simp] theorem State.setLink_copy (s : State) (p st rate width : Nat) : (s.setLink p st rate width).copy = s.copy := rfl
@[simp] theorem State.setLink_update (s : State) (p st rate width : Nat) : (s.setLink p st rate width).update = s.update := rfl
@[simp] theorem State.setLink_svnFloor (s : State) (p st rate width : Nat) : (s.setLink p st rate width).svnFloor = s.svnFloor := rfl
@[simp] theorem State.setLink_svnBusy (s : State) (p st rate width : Nat) : (s.setLink p st rate width).svnBusy = s.svnBusy := rfl
@[simp] theorem State.setLink_pwr (s : State) (p st rate width : Nat) : (s.setLink p st rate width).pwr = s.pwr := rfl
@[simp] theorem State.setLink_smb (s : State) (p st rate width : Nat) : (s.setLink p st rate width).smb = s.smb := rfl
@[simp] theorem State.setLink_parks (s : State) (p st rate width : Nat) : (s.setLink p st rate width).parks = s.parks := rfl
@[simp] theorem State.setLink_muxWait (s : State) (p st rate width : Nat) : (s.setLink p st rate width).muxWait = s.muxWait := rfl
@[simp] theorem State.setLink_balls (s : State) (p st rate width : Nat) : (s.setLink p st rate width).balls = s.balls := rfl
@[simp] theorem State.setLink_tap (s : State) (p st rate width : Nat) : (s.setLink p st rate width).tap = s.tap := rfl
@[simp] theorem State.setLink_perst (s : State) (p st rate width : Nat) : (s.setLink p st rate width).perst = s.perst := rfl
@[simp] theorem State.setLink_rearm (s : State) (p st rate width : Nat) : (s.setLink p st rate width).rearm = s.rearm := rfl
@[simp] theorem State.setLink_ephRun (s : State) (p st rate width : Nat) : (s.setLink p st rate width).ephRun = s.ephRun := rfl
@[simp] theorem State.setLink_sealBase (s : State) (p st rate width : Nat) : (s.setLink p st rate width).sealBase = s.sealBase := rfl
@[simp] theorem State.setLink_sealSize (s : State) (p st rate width : Nat) : (s.setLink p st rate width).sealSize = s.sealSize := rfl
@[simp] theorem State.setLink_past (s : State) (p st rate width : Nat) : (s.setLink p st rate width).past = s.past := rfl
@[simp] theorem State.setLink_stepped (s : State) (p st rate width : Nat) : (s.setLink p st rate width).stepped = s.stepped := rfl

/-! ### `State.setPwr` -/

@[simp] theorem State.setPwr_pending (s : State) (f : Power → Power) : (s.setPwr f).pending = s.pending := rfl
@[simp] theorem State.setPwr_cycle (s : State) (f : Power → Power) : (s.setPwr f).cycle = s.cycle := rfl
@[simp] theorem State.setPwr_fresh (s : State) (f : Power → Power) : (s.setPwr f).fresh = s.fresh := rfl
@[simp] theorem State.setPwr_regs (s : State) (f : Power → Power) : (s.setPwr f).regs = s.regs := rfl
@[simp] theorem State.setPwr_postAlm (s : State) (f : Power → Power) : (s.setPwr f).postAlm = s.postAlm := rfl
@[simp] theorem State.setPwr_bar0 (s : State) (f : Power → Power) : (s.setPwr f).bar0 = s.bar0 := rfl
@[simp] theorem State.setPwr_smbPath (s : State) (f : Power → Power) : (s.setPwr f).smbPath = s.smbPath := rfl
@[simp] theorem State.setPwr_fePath (s : State) (f : Power → Power) : (s.setPwr f).fePath = s.fePath := rfl
@[simp] theorem State.setPwr_dram (s : State) (f : Power → Power) : (s.setPwr f).dram = s.dram := rfl
@[simp] theorem State.setPwr_plate (s : State) (f : Power → Power) : (s.setPwr f).plate = s.plate := rfl
@[simp] theorem State.setPwr_ecc (s : State) (f : Power → Power) : (s.setPwr f).ecc = s.ecc := rfl
@[simp] theorem State.setPwr_corrQ (s : State) (f : Power → Power) : (s.setPwr f).corrQ = s.corrQ := rfl
@[simp] theorem State.setPwr_scrubRow (s : State) (f : Power → Power) : (s.setPwr f).scrubRow = s.scrubRow := rfl
@[simp] theorem State.setPwr_scrubDone (s : State) (f : Power → Power) : (s.setPwr f).scrubDone = s.scrubDone := rfl
@[simp] theorem State.setPwr_tiles (s : State) (f : Power → Power) : (s.setPwr f).tiles = s.tiles := rfl
@[simp] theorem State.setPwr_ops (s : State) (f : Power → Power) : (s.setPwr f).ops = s.ops := rfl
@[simp] theorem State.setPwr_posts (s : State) (f : Power → Power) : (s.setPwr f).posts = s.posts := rfl
@[simp] theorem State.setPwr_toks (s : State) (f : Power → Power) : (s.setPwr f).toks = s.toks := rfl
@[simp] theorem State.setPwr_ring (s : State) (f : Power → Power) : (s.setPwr f).ring = s.ring := rfl
@[simp] theorem State.setPwr_streams (s : State) (f : Power → Power) : (s.setPwr f).streams = s.streams := rfl
@[simp] theorem State.setPwr_entries (s : State) (f : Power → Power) : (s.setPwr f).entries = s.entries := rfl
@[simp] theorem State.setPwr_slots (s : State) (f : Power → Power) : (s.setPwr f).slots = s.slots := rfl
@[simp] theorem State.setPwr_mapSeq (s : State) (f : Power → Power) : (s.setPwr f).mapSeq = s.mapSeq := rfl
@[simp] theorem State.setPwr_prog (s : State) (f : Power → Power) : (s.setPwr f).prog = s.prog := rfl
@[simp] theorem State.setPwr_faults (s : State) (f : Power → Power) : (s.setPwr f).faults = s.faults := rfl
@[simp] theorem State.setPwr_gens (s : State) (f : Power → Power) : (s.setPwr f).gens = s.gens := rfl
@[simp] theorem State.setPwr_hcopy (s : State) (f : Power → Power) : (s.setPwr f).hcopy = s.hcopy := rfl
@[simp] theorem State.setPwr_charts (s : State) (f : Power → Power) : (s.setPwr f).charts = s.charts := rfl
@[simp] theorem State.setPwr_pendSigs (s : State) (f : Power → Power) : (s.setPwr f).pendSigs = s.pendSigs := rfl
@[simp] theorem State.setPwr_ftime (s : State) (f : Power → Power) : (s.setPwr f).ftime = s.ftime := rfl
@[simp] theorem State.setPwr_rmt (s : State) (f : Power → Power) : (s.setPwr f).rmt = s.rmt := rfl
@[simp] theorem State.setPwr_nextTag (s : State) (f : Power → Power) : (s.setPwr f).nextTag = s.nextTag := rfl
@[simp] theorem State.setPwr_router (s : State) (f : Power → Power) : (s.setPwr f).router = s.router := rfl
@[simp] theorem State.setPwr_pairs (s : State) (f : Power → Power) : (s.setPwr f).pairs = s.pairs := rfl
@[simp] theorem State.setPwr_tgts (s : State) (f : Power → Power) : (s.setPwr f).tgts = s.tgts := rfl
@[simp] theorem State.setPwr_out (s : State) (f : Power → Power) : (s.setPwr f).out = s.out := rfl
@[simp] theorem State.setPwr_held (s : State) (f : Power → Power) : (s.setPwr f).held = s.held := rfl
@[simp] theorem State.setPwr_cfg (s : State) (f : Power → Power) : (s.setPwr f).cfg = s.cfg := rfl
@[simp] theorem State.setPwr_msixTab (s : State) (f : Power → Power) : (s.setPwr f).msixTab = s.msixTab := rfl
@[simp] theorem State.setPwr_pba (s : State) (f : Power → Power) : (s.setPwr f).pba = s.pba := rfl
@[simp] theorem State.setPwr_msixReq (s : State) (f : Power → Power) : (s.setPwr f).msixReq = s.msixReq := rfl
@[simp] theorem State.setPwr_resetPend (s : State) (f : Power → Power) : (s.setPwr f).resetPend = s.resetPend := rfl
@[simp] theorem State.setPwr_now (s : State) (f : Power → Power) : (s.setPwr f).now = s.now := rfl
@[simp] theorem State.setPwr_ports (s : State) (f : Power → Power) : (s.setPwr f).ports = s.ports := rfl
@[simp] theorem State.setPwr_fab (s : State) (f : Power → Power) : (s.setPwr f).fab = s.fab := rfl
@[simp] theorem State.setPwr_flash (s : State) (f : Power → Power) : (s.setPwr f).flash = s.flash := rfl
@[simp] theorem State.setPwr_copy (s : State) (f : Power → Power) : (s.setPwr f).copy = s.copy := rfl
@[simp] theorem State.setPwr_update (s : State) (f : Power → Power) : (s.setPwr f).update = s.update := rfl
@[simp] theorem State.setPwr_svnFloor (s : State) (f : Power → Power) : (s.setPwr f).svnFloor = s.svnFloor := rfl
@[simp] theorem State.setPwr_svnBusy (s : State) (f : Power → Power) : (s.setPwr f).svnBusy = s.svnBusy := rfl
@[simp] theorem State.setPwr_smb (s : State) (f : Power → Power) : (s.setPwr f).smb = s.smb := rfl
@[simp] theorem State.setPwr_parks (s : State) (f : Power → Power) : (s.setPwr f).parks = s.parks := rfl
@[simp] theorem State.setPwr_muxWait (s : State) (f : Power → Power) : (s.setPwr f).muxWait = s.muxWait := rfl
@[simp] theorem State.setPwr_balls (s : State) (f : Power → Power) : (s.setPwr f).balls = s.balls := rfl
@[simp] theorem State.setPwr_tap (s : State) (f : Power → Power) : (s.setPwr f).tap = s.tap := rfl
@[simp] theorem State.setPwr_perst (s : State) (f : Power → Power) : (s.setPwr f).perst = s.perst := rfl
@[simp] theorem State.setPwr_rearm (s : State) (f : Power → Power) : (s.setPwr f).rearm = s.rearm := rfl
@[simp] theorem State.setPwr_ephRun (s : State) (f : Power → Power) : (s.setPwr f).ephRun = s.ephRun := rfl
@[simp] theorem State.setPwr_sealBase (s : State) (f : Power → Power) : (s.setPwr f).sealBase = s.sealBase := rfl
@[simp] theorem State.setPwr_sealSize (s : State) (f : Power → Power) : (s.setPwr f).sealSize = s.sealSize := rfl
@[simp] theorem State.setPwr_past (s : State) (f : Power → Power) : (s.setPwr f).past = s.past := rfl
@[simp] theorem State.setPwr_stepped (s : State) (f : Power → Power) : (s.setPwr f).stepped = s.stepped := rfl

/-! ### `State.setStep` -/

@[simp] theorem State.setStep_pending (s : State) (n : Nat) : (s.setStep n).pending = s.pending := rfl
@[simp] theorem State.setStep_cycle (s : State) (n : Nat) : (s.setStep n).cycle = s.cycle := rfl
@[simp] theorem State.setStep_fresh (s : State) (n : Nat) : (s.setStep n).fresh = s.fresh := rfl
@[simp] theorem State.setStep_postAlm (s : State) (n : Nat) : (s.setStep n).postAlm = s.postAlm := rfl
@[simp] theorem State.setStep_bar0 (s : State) (n : Nat) : (s.setStep n).bar0 = s.bar0 := rfl
@[simp] theorem State.setStep_smbPath (s : State) (n : Nat) : (s.setStep n).smbPath = s.smbPath := rfl
@[simp] theorem State.setStep_fePath (s : State) (n : Nat) : (s.setStep n).fePath = s.fePath := rfl
@[simp] theorem State.setStep_dram (s : State) (n : Nat) : (s.setStep n).dram = s.dram := rfl
@[simp] theorem State.setStep_plate (s : State) (n : Nat) : (s.setStep n).plate = s.plate := rfl
@[simp] theorem State.setStep_ecc (s : State) (n : Nat) : (s.setStep n).ecc = s.ecc := rfl
@[simp] theorem State.setStep_corrQ (s : State) (n : Nat) : (s.setStep n).corrQ = s.corrQ := rfl
@[simp] theorem State.setStep_scrubRow (s : State) (n : Nat) : (s.setStep n).scrubRow = s.scrubRow := rfl
@[simp] theorem State.setStep_scrubDone (s : State) (n : Nat) : (s.setStep n).scrubDone = s.scrubDone := rfl
@[simp] theorem State.setStep_tiles (s : State) (n : Nat) : (s.setStep n).tiles = s.tiles := rfl
@[simp] theorem State.setStep_ops (s : State) (n : Nat) : (s.setStep n).ops = s.ops := rfl
@[simp] theorem State.setStep_posts (s : State) (n : Nat) : (s.setStep n).posts = s.posts := rfl
@[simp] theorem State.setStep_toks (s : State) (n : Nat) : (s.setStep n).toks = s.toks := rfl
@[simp] theorem State.setStep_ring (s : State) (n : Nat) : (s.setStep n).ring = s.ring := rfl
@[simp] theorem State.setStep_streams (s : State) (n : Nat) : (s.setStep n).streams = s.streams := rfl
@[simp] theorem State.setStep_entries (s : State) (n : Nat) : (s.setStep n).entries = s.entries := rfl
@[simp] theorem State.setStep_slots (s : State) (n : Nat) : (s.setStep n).slots = s.slots := rfl
@[simp] theorem State.setStep_mapSeq (s : State) (n : Nat) : (s.setStep n).mapSeq = s.mapSeq := rfl
@[simp] theorem State.setStep_prog (s : State) (n : Nat) : (s.setStep n).prog = s.prog := rfl
@[simp] theorem State.setStep_faults (s : State) (n : Nat) : (s.setStep n).faults = s.faults := rfl
@[simp] theorem State.setStep_gens (s : State) (n : Nat) : (s.setStep n).gens = s.gens := rfl
@[simp] theorem State.setStep_hcopy (s : State) (n : Nat) : (s.setStep n).hcopy = s.hcopy := rfl
@[simp] theorem State.setStep_charts (s : State) (n : Nat) : (s.setStep n).charts = s.charts := rfl
@[simp] theorem State.setStep_pendSigs (s : State) (n : Nat) : (s.setStep n).pendSigs = s.pendSigs := rfl
@[simp] theorem State.setStep_ftime (s : State) (n : Nat) : (s.setStep n).ftime = s.ftime := rfl
@[simp] theorem State.setStep_rmt (s : State) (n : Nat) : (s.setStep n).rmt = s.rmt := rfl
@[simp] theorem State.setStep_nextTag (s : State) (n : Nat) : (s.setStep n).nextTag = s.nextTag := rfl
@[simp] theorem State.setStep_router (s : State) (n : Nat) : (s.setStep n).router = s.router := rfl
@[simp] theorem State.setStep_pairs (s : State) (n : Nat) : (s.setStep n).pairs = s.pairs := rfl
@[simp] theorem State.setStep_tgts (s : State) (n : Nat) : (s.setStep n).tgts = s.tgts := rfl
@[simp] theorem State.setStep_out (s : State) (n : Nat) : (s.setStep n).out = s.out := rfl
@[simp] theorem State.setStep_held (s : State) (n : Nat) : (s.setStep n).held = s.held := rfl
@[simp] theorem State.setStep_cfg (s : State) (n : Nat) : (s.setStep n).cfg = s.cfg := rfl
@[simp] theorem State.setStep_msixTab (s : State) (n : Nat) : (s.setStep n).msixTab = s.msixTab := rfl
@[simp] theorem State.setStep_pba (s : State) (n : Nat) : (s.setStep n).pba = s.pba := rfl
@[simp] theorem State.setStep_msixReq (s : State) (n : Nat) : (s.setStep n).msixReq = s.msixReq := rfl
@[simp] theorem State.setStep_resetPend (s : State) (n : Nat) : (s.setStep n).resetPend = s.resetPend := rfl
@[simp] theorem State.setStep_now (s : State) (n : Nat) : (s.setStep n).now = s.now := rfl
@[simp] theorem State.setStep_ports (s : State) (n : Nat) : (s.setStep n).ports = s.ports := rfl
@[simp] theorem State.setStep_fab (s : State) (n : Nat) : (s.setStep n).fab = s.fab := rfl
@[simp] theorem State.setStep_flash (s : State) (n : Nat) : (s.setStep n).flash = s.flash := rfl
@[simp] theorem State.setStep_copy (s : State) (n : Nat) : (s.setStep n).copy = s.copy := rfl
@[simp] theorem State.setStep_update (s : State) (n : Nat) : (s.setStep n).update = s.update := rfl
@[simp] theorem State.setStep_svnFloor (s : State) (n : Nat) : (s.setStep n).svnFloor = s.svnFloor := rfl
@[simp] theorem State.setStep_svnBusy (s : State) (n : Nat) : (s.setStep n).svnBusy = s.svnBusy := rfl
@[simp] theorem State.setStep_pwr (s : State) (n : Nat) : (s.setStep n).pwr = s.pwr := rfl
@[simp] theorem State.setStep_smb (s : State) (n : Nat) : (s.setStep n).smb = s.smb := rfl
@[simp] theorem State.setStep_parks (s : State) (n : Nat) : (s.setStep n).parks = s.parks := rfl
@[simp] theorem State.setStep_muxWait (s : State) (n : Nat) : (s.setStep n).muxWait = s.muxWait := rfl
@[simp] theorem State.setStep_balls (s : State) (n : Nat) : (s.setStep n).balls = s.balls := rfl
@[simp] theorem State.setStep_tap (s : State) (n : Nat) : (s.setStep n).tap = s.tap := rfl
@[simp] theorem State.setStep_perst (s : State) (n : Nat) : (s.setStep n).perst = s.perst := rfl
@[simp] theorem State.setStep_rearm (s : State) (n : Nat) : (s.setStep n).rearm = s.rearm := rfl
@[simp] theorem State.setStep_ephRun (s : State) (n : Nat) : (s.setStep n).ephRun = s.ephRun := rfl
@[simp] theorem State.setStep_sealBase (s : State) (n : Nat) : (s.setStep n).sealBase = s.sealBase := rfl
@[simp] theorem State.setStep_sealSize (s : State) (n : Nat) : (s.setStep n).sealSize = s.sealSize := rfl
@[simp] theorem State.setStep_past (s : State) (n : Nat) : (s.setStep n).past = s.past := rfl
@[simp] theorem State.setStep_stepped (s : State) (n : Nat) : (s.setStep n).stepped = s.stepped := rfl

/-! ### `State.withPending` -/

@[simp] theorem State.withPending_cycle (s : State) (q : List Instr) : (s.withPending q).cycle = s.cycle := rfl
@[simp] theorem State.withPending_fresh (s : State) (q : List Instr) : (s.withPending q).fresh = s.fresh := rfl
@[simp] theorem State.withPending_regs (s : State) (q : List Instr) : (s.withPending q).regs = s.regs := rfl
@[simp] theorem State.withPending_postAlm (s : State) (q : List Instr) : (s.withPending q).postAlm = s.postAlm := rfl
@[simp] theorem State.withPending_bar0 (s : State) (q : List Instr) : (s.withPending q).bar0 = s.bar0 := rfl
@[simp] theorem State.withPending_smbPath (s : State) (q : List Instr) : (s.withPending q).smbPath = s.smbPath := rfl
@[simp] theorem State.withPending_fePath (s : State) (q : List Instr) : (s.withPending q).fePath = s.fePath := rfl
@[simp] theorem State.withPending_dram (s : State) (q : List Instr) : (s.withPending q).dram = s.dram := rfl
@[simp] theorem State.withPending_plate (s : State) (q : List Instr) : (s.withPending q).plate = s.plate := rfl
@[simp] theorem State.withPending_ecc (s : State) (q : List Instr) : (s.withPending q).ecc = s.ecc := rfl
@[simp] theorem State.withPending_corrQ (s : State) (q : List Instr) : (s.withPending q).corrQ = s.corrQ := rfl
@[simp] theorem State.withPending_scrubRow (s : State) (q : List Instr) : (s.withPending q).scrubRow = s.scrubRow := rfl
@[simp] theorem State.withPending_scrubDone (s : State) (q : List Instr) : (s.withPending q).scrubDone = s.scrubDone := rfl
@[simp] theorem State.withPending_tiles (s : State) (q : List Instr) : (s.withPending q).tiles = s.tiles := rfl
@[simp] theorem State.withPending_ops (s : State) (q : List Instr) : (s.withPending q).ops = s.ops := rfl
@[simp] theorem State.withPending_posts (s : State) (q : List Instr) : (s.withPending q).posts = s.posts := rfl
@[simp] theorem State.withPending_toks (s : State) (q : List Instr) : (s.withPending q).toks = s.toks := rfl
@[simp] theorem State.withPending_ring (s : State) (q : List Instr) : (s.withPending q).ring = s.ring := rfl
@[simp] theorem State.withPending_streams (s : State) (q : List Instr) : (s.withPending q).streams = s.streams := rfl
@[simp] theorem State.withPending_entries (s : State) (q : List Instr) : (s.withPending q).entries = s.entries := rfl
@[simp] theorem State.withPending_slots (s : State) (q : List Instr) : (s.withPending q).slots = s.slots := rfl
@[simp] theorem State.withPending_mapSeq (s : State) (q : List Instr) : (s.withPending q).mapSeq = s.mapSeq := rfl
@[simp] theorem State.withPending_prog (s : State) (q : List Instr) : (s.withPending q).prog = s.prog := rfl
@[simp] theorem State.withPending_faults (s : State) (q : List Instr) : (s.withPending q).faults = s.faults := rfl
@[simp] theorem State.withPending_gens (s : State) (q : List Instr) : (s.withPending q).gens = s.gens := rfl
@[simp] theorem State.withPending_hcopy (s : State) (q : List Instr) : (s.withPending q).hcopy = s.hcopy := rfl
@[simp] theorem State.withPending_charts (s : State) (q : List Instr) : (s.withPending q).charts = s.charts := rfl
@[simp] theorem State.withPending_pendSigs (s : State) (q : List Instr) : (s.withPending q).pendSigs = s.pendSigs := rfl
@[simp] theorem State.withPending_ftime (s : State) (q : List Instr) : (s.withPending q).ftime = s.ftime := rfl
@[simp] theorem State.withPending_rmt (s : State) (q : List Instr) : (s.withPending q).rmt = s.rmt := rfl
@[simp] theorem State.withPending_nextTag (s : State) (q : List Instr) : (s.withPending q).nextTag = s.nextTag := rfl
@[simp] theorem State.withPending_router (s : State) (q : List Instr) : (s.withPending q).router = s.router := rfl
@[simp] theorem State.withPending_pairs (s : State) (q : List Instr) : (s.withPending q).pairs = s.pairs := rfl
@[simp] theorem State.withPending_tgts (s : State) (q : List Instr) : (s.withPending q).tgts = s.tgts := rfl
@[simp] theorem State.withPending_out (s : State) (q : List Instr) : (s.withPending q).out = s.out := rfl
@[simp] theorem State.withPending_held (s : State) (q : List Instr) : (s.withPending q).held = s.held := rfl
@[simp] theorem State.withPending_cfg (s : State) (q : List Instr) : (s.withPending q).cfg = s.cfg := rfl
@[simp] theorem State.withPending_msixTab (s : State) (q : List Instr) : (s.withPending q).msixTab = s.msixTab := rfl
@[simp] theorem State.withPending_pba (s : State) (q : List Instr) : (s.withPending q).pba = s.pba := rfl
@[simp] theorem State.withPending_msixReq (s : State) (q : List Instr) : (s.withPending q).msixReq = s.msixReq := rfl
@[simp] theorem State.withPending_resetPend (s : State) (q : List Instr) : (s.withPending q).resetPend = s.resetPend := rfl
@[simp] theorem State.withPending_now (s : State) (q : List Instr) : (s.withPending q).now = s.now := rfl
@[simp] theorem State.withPending_ports (s : State) (q : List Instr) : (s.withPending q).ports = s.ports := rfl
@[simp] theorem State.withPending_fab (s : State) (q : List Instr) : (s.withPending q).fab = s.fab := rfl
@[simp] theorem State.withPending_flash (s : State) (q : List Instr) : (s.withPending q).flash = s.flash := rfl
@[simp] theorem State.withPending_copy (s : State) (q : List Instr) : (s.withPending q).copy = s.copy := rfl
@[simp] theorem State.withPending_update (s : State) (q : List Instr) : (s.withPending q).update = s.update := rfl
@[simp] theorem State.withPending_svnFloor (s : State) (q : List Instr) : (s.withPending q).svnFloor = s.svnFloor := rfl
@[simp] theorem State.withPending_svnBusy (s : State) (q : List Instr) : (s.withPending q).svnBusy = s.svnBusy := rfl
@[simp] theorem State.withPending_pwr (s : State) (q : List Instr) : (s.withPending q).pwr = s.pwr := rfl
@[simp] theorem State.withPending_smb (s : State) (q : List Instr) : (s.withPending q).smb = s.smb := rfl
@[simp] theorem State.withPending_parks (s : State) (q : List Instr) : (s.withPending q).parks = s.parks := rfl
@[simp] theorem State.withPending_muxWait (s : State) (q : List Instr) : (s.withPending q).muxWait = s.muxWait := rfl
@[simp] theorem State.withPending_balls (s : State) (q : List Instr) : (s.withPending q).balls = s.balls := rfl
@[simp] theorem State.withPending_tap (s : State) (q : List Instr) : (s.withPending q).tap = s.tap := rfl
@[simp] theorem State.withPending_perst (s : State) (q : List Instr) : (s.withPending q).perst = s.perst := rfl
@[simp] theorem State.withPending_rearm (s : State) (q : List Instr) : (s.withPending q).rearm = s.rearm := rfl
@[simp] theorem State.withPending_ephRun (s : State) (q : List Instr) : (s.withPending q).ephRun = s.ephRun := rfl
@[simp] theorem State.withPending_sealBase (s : State) (q : List Instr) : (s.withPending q).sealBase = s.sealBase := rfl
@[simp] theorem State.withPending_sealSize (s : State) (q : List Instr) : (s.withPending q).sealSize = s.sealSize := rfl
@[simp] theorem State.withPending_past (s : State) (q : List Instr) : (s.withPending q).past = s.past := rfl
@[simp] theorem State.withPending_stepped (s : State) (q : List Instr) : (s.withPending q).stepped = s.stepped := rfl

/-! ### What they write -/

@[simp] theorem State.bumpFresh_fresh (s : State) : s.bumpFresh.fresh = s.fresh + 1 := rfl
@[simp] theorem State.emit_out (s : State) (x : Outbound) : (s.emit x).out = s.out ++ [x] := rfl
@[simp] theorem State.setPwr_pwr (s : State) (f : Power → Power) : (s.setPwr f).pwr = f s.pwr := rfl
@[simp] theorem State.withPending_pending (s : State) (q : List Instr) : (s.withPending q).pending = q :=
  rfl
theorem State.setReg_regs (s : State) (o v : Nat) :
    (s.setReg o v).regs = SMap.set regReset s.regs o (BitVec.ofNat 32 v) := rfl

end Sys2Proof.Machine
end

