-- ==== Sys2Proof/Laws/Registers.lean ====
section
/-! SUPPORT. Laws of the registers: what a read finds after a write, by dword and by field, and that the
families of State.Canonical stay canonical. -/

namespace Sys2Proof.Machine

/-- A dword just written reads as written. -/
theorem State.reg_setReg_same {s : State} (h : SMap.wf regReset s.regs = true) (o v : Nat) :
    (s.setReg o v).reg o = v % 2 ^ 32 := by
  unfold State.reg
  rw [State.setReg_regs, SMap.get_set_same (lo := none) h, BitVec.toNat_ofNat]

/-- Another dword reads as before. -/
theorem State.reg_setReg_other {s : State} (h : SMap.wf regReset s.regs = true) {o k : Nat}
    (v : Nat) (hk : k ≠ o) : (s.setReg o v).reg k = s.reg k := by
  unfold State.reg
  rw [State.setReg_regs, SMap.get_set_other (lo := none) h hk]

/-- The registers stay canonical. -/
@[simp] theorem State.wf_setReg {s : State} (h : SMap.wf regReset s.regs = true) (o v : Nat) :
    SMap.wf regReset (s.setReg o v).regs = true := SMap.wf_set h
@[simp] theorem State.wf_setFld {s : State} (h : SMap.wf regReset s.regs = true) (o hi lo v : Nat) :
    SMap.wf regReset (s.setFld o hi lo v).regs = true := State.wf_setReg h _ _
@[simp] theorem State.wf_bump {s : State} (h : SMap.wf regReset s.regs = true) (o n : Nat) :
    SMap.wf regReset (s.bump o n).regs = true := State.wf_setReg h _ _
@[simp] theorem State.wf_setReg64 {s : State} (h : SMap.wf regReset s.regs = true) (o v : Nat) :
    SMap.wf regReset (s.setReg64 o v).regs = true := State.wf_setReg (State.wf_setReg h _ _) _ _

/-- A field write leaves every other dword. -/
theorem State.reg_setFld_other {s : State} (h : SMap.wf regReset s.regs = true) {o k : Nat}
    (hi lo v : Nat) (hk : k ≠ o) : (s.setFld o hi lo v).reg k = s.reg k :=
  State.reg_setReg_other h _ hk

/-- A counter's new value. -/
theorem State.reg_bump_same {s : State} (h : SMap.wf regReset s.regs = true) (o n : Nat) :
    (s.bump o n).reg o = (s.reg o + n) % 2 ^ 32 := by
  unfold State.bump
  rw [State.reg_setReg_same h, Nat.mod_mod]

/-- A counter leaves every other dword. -/
theorem State.reg_bump_other {s : State} (h : SMap.wf regReset s.regs = true) {o k : Nat}
    (n : Nat) (hk : k ≠ o) : (s.bump o n).reg k = s.reg k := State.reg_setReg_other h _ hk

/-- A dword is below 2^32. -/
theorem State.reg_lt (s : State) (o : Nat) : s.reg o < 2 ^ 32 := (SMap.get regReset s.regs o).isLt

/-- What `bits` reads of a number whose bits `hi:lo` have been replaced. -/
theorem bits_putBits_same {v hi lo x : Nat} :
    bits (putBits v hi lo x) hi lo = x % 2 ^ (hi + 1 - lo) := by
  unfold bits putBits bits
  have hp : 0 < 2 ^ lo := Nat.two_pow_pos lo
  have hq : 0 < 2 ^ (hi + 1 - lo) := Nat.two_pow_pos _
  generalize 2 ^ lo = p at *
  generalize 2 ^ (hi + 1 - lo) = q at *
  have e : v - v / p % q * p = v % p + v / p / q * q * p := by
    have h1 := Nat.div_add_mod v p
    have h2 := Nat.div_add_mod (v / p) q
    have h3 : v = p * (q * (v / p / q) + v / p % q) + v % p := by rw [h2, h1]
    have h4 : p * (q * (v / p / q) + v / p % q) = v / p / q * q * p + v / p % q * p := by ring
    omega
  rw [e, show v % p + v / p / q * q * p + x % q * p = v % p + p * (x % q + q * (v / p / q)) by ring,
    Nat.add_mul_div_left _ _ hp, Nat.div_eq_of_lt (Nat.mod_lt _ hp), Nat.zero_add,
    Nat.add_mul_mod_self_left, Nat.mod_mod]

/-- A replaced field keeps a number below 2^32. -/
theorem putBits_lt {v hi lo x : Nat} (hv : v < 2 ^ 32) (h : lo ≤ hi) (hh : hi < 32) :
    putBits v hi lo x < 2 ^ 32 := by
  unfold putBits bits
  have hp : 0 < 2 ^ lo := Nat.two_pow_pos lo
  have hq : 0 < 2 ^ (hi + 1 - lo) := Nat.two_pow_pos _
  have hpq : 2 ^ 32 = 2 ^ lo * (2 ^ (hi + 1 - lo) * 2 ^ (31 - hi)) := by
    rw [← pow_add, ← pow_add]; congr 1; omega
  rw [hpq] at hv ⊢
  generalize 2 ^ lo = p at *
  generalize 2 ^ (hi + 1 - lo) = q at *
  generalize 2 ^ (31 - hi) = r at *
  have e : v - v / p % q * p = v % p + v / p / q * q * p := by
    have h1 := Nat.div_add_mod v p
    have h2 := Nat.div_add_mod (v / p) q
    have h3 : v = p * (q * (v / p / q) + v / p % q) + v % p := by rw [h2, h1]
    have h4 : p * (q * (v / p / q) + v / p % q) = v / p / q * q * p + v / p % q * p := by ring
    omega
  rw [e]
  have h5 : v / p / q < r := by
    rw [Nat.div_div_eq_div_mul]
    exact Nat.div_lt_of_lt_mul (by rw [← mul_assoc] at hv; exact hv)
  have h6 : v % p < p := Nat.mod_lt _ hp
  have h7 : x % q + 1 ≤ q := Nat.mod_lt _ hq
  have h8 : v / p / q + 1 ≤ r := h5
  have h9 : p * (q * (v / p / q + 1)) ≤ p * (q * r) :=
    Nat.mul_le_mul_left _ (Nat.mul_le_mul_left _ h8)
  have h10 : p * (x % q + 1) ≤ p * q := Nat.mul_le_mul_left _ h7
  nlinarith

/-- The field just written. -/
theorem State.fld_setFld_same {s : State} (h : SMap.wf regReset s.regs = true) {o hi lo : Nat}
    (v : Nat) (hl : lo ≤ hi) (hh : hi < 32) :
    (s.setFld o hi lo v).fld o hi lo = v % 2 ^ (hi + 1 - lo) := by
  unfold State.fld State.setFld
  rw [State.reg_setReg_same h, Nat.mod_eq_of_lt (putBits_lt (s.reg_lt o) hl hh),
    bits_putBits_same]

/-- A number by the parts below, within and above bits `hi:lo`. -/
theorem bits_split (v hi lo : Nat) :
    v = 2 ^ lo * (2 ^ (hi + 1 - lo) * (v / 2 ^ lo / 2 ^ (hi + 1 - lo)) + bits v hi lo) + v % 2 ^ lo := by
  unfold bits
  rw [Nat.div_add_mod, Nat.div_add_mod]

theorem putBits_eq (v hi lo x : Nat) :
    putBits v hi lo x = 2 ^ lo * (2 ^ (hi + 1 - lo) * (v / 2 ^ lo / 2 ^ (hi + 1 - lo)) +
      x % 2 ^ (hi + 1 - lo)) + v % 2 ^ lo := by
  have h := bits_split v hi lo
  unfold putBits
  generalize bits v hi lo = b at *
  generalize v / 2 ^ lo / 2 ^ (hi + 1 - lo) = c at *
  generalize x % 2 ^ (hi + 1 - lo) = y at *
  rw [Nat.mul_add] at h ⊢
  rw [Nat.mul_comm b, Nat.mul_comm y]
  omega

/-- Bit `j` of a number whose bits `hi:lo` have been replaced. -/
theorem testBit_putBits {v hi lo x : Nat} (h : lo ≤ hi + 1) (j : Nat) :
    (putBits v hi lo x).testBit j =
      if lo ≤ j ∧ j ≤ hi then x.testBit (j - lo) else v.testBit j := by
  have hv : v.testBit j = (2 ^ lo * (2 ^ (hi + 1 - lo) * (v / 2 ^ lo / 2 ^ (hi + 1 - lo)) +
      bits v hi lo) + v % 2 ^ lo).testBit j := by rw [← bits_split]
  have hb : bits v hi lo < 2 ^ (hi + 1 - lo) := Nat.mod_lt _ (Nat.two_pow_pos _)
  rw [putBits_eq, hv, Nat.testBit_two_pow_mul_add _ (Nat.mod_lt _ (Nat.two_pow_pos _)),
    Nat.testBit_two_pow_mul_add _ (Nat.mod_lt _ (Nat.two_pow_pos _)),
    Nat.testBit_two_pow_mul_add _ (Nat.mod_lt _ (Nat.two_pow_pos _)), Nat.testBit_two_pow_mul_add _ hb,
    Nat.testBit_mod_two_pow, Nat.testBit_mod_two_pow]
  by_cases h1 : j < lo
  · simp [h1]
  · by_cases h2 : j ≤ hi
    · rw [if_neg h1, if_pos (by omega), if_pos ⟨by omega, h2⟩]
      have h3 : j - lo < hi + 1 - lo := by omega
      simp [h3]
    · rw [if_neg h1, if_neg (by omega), if_neg (by omega), if_neg h1, if_neg (by omega)]

/-- A field outside the replaced bits. -/
theorem bits_putBits_other {v hi lo x h2 l2 : Nat} (h : lo ≤ hi + 1) (hd : h2 < lo ∨ hi < l2) :
    bits (putBits v hi lo x) h2 l2 = bits v h2 l2 := by
  apply Nat.eq_of_testBit_eq
  intro i
  unfold bits
  simp only [Nat.testBit_mod_two_pow, Nat.testBit_div_two_pow, testBit_putBits h]
  by_cases hi' : i < h2 + 1 - l2
  · rw [if_neg (by omega)]
  · simp [hi']

/-- Another field of the same dword keeps its value. -/
theorem State.fld_setFld_disjoint {s : State} (h : SMap.wf regReset s.regs = true)
    {o hi lo h2 l2 : Nat} (v : Nat) (hl : lo ≤ hi) (hh : hi < 32) (hd : h2 < lo ∨ hi < l2) :
    (s.setFld o hi lo v).fld o h2 l2 = s.fld o h2 l2 := by
  unfold State.fld State.setFld
  rw [State.reg_setReg_same h, Nat.mod_eq_of_lt (putBits_lt (s.reg_lt o) hl hh),
    bits_putBits_other (by omega) hd]

/-- A field of another dword keeps its value. -/
theorem State.fld_setFld_other {s : State} (h : SMap.wf regReset s.regs = true) {o k hi lo : Nat}
    (v h2 l2 : Nat) (hk : k ≠ o) : (s.setFld o hi lo v).fld k h2 l2 = s.fld k h2 l2 := by
  unfold State.fld
  rw [State.reg_setFld_other h _ _ _ hk]

/-- The state that a link was put into. -/
theorem State.linkSt_setLink {s : State} (h : SMap.wf regReset s.regs = true) (p st rate width : Nat) :
    (s.setLink p st rate width).linkSt p = st % 16 := by
  unfold State.setLink State.linkSt
  rw [State.fld_setFld_disjoint (by simp [h]) _ (by omega) (by omega) (by omega),
    State.fld_setFld_disjoint (by simp [h]) _ (by omega) (by omega) (by omega),
    State.fld_setFld_same h _ (by omega) (by omega)]
  rfl

end Sys2Proof.Machine
end

