-- ==== Sys2Proof/WellFormed.lean ====
section
/-! DEFINITION. Which commands are well formed: the operands' ranges that their types do not already
fix, as the rules of the spec bound them. -/

namespace Sys2Proof

/-- A view whose bytes lie in the 48-bit address space (R304). -/
def View.ok (v : View) : Bool :=
  (v.bytes.all fun x => decide (x.1 < 2 ^ 48)) && v.fails.all fun x => decide (x.1 < 2 ^ 48)

/-- A host read's issuer: the reads that the rest of its step makes. -/
def HostIssuer.ok : HostIssuer → Bool
  | .operation _ _ _ _ | .record | .doorbell | .entry | .pennant _ => true
  | .block v | .buffer _ _ v => v.ok

/-- R800, R802: a flash part has a capacity, and its bytes lie in it. -/
def FlashPart.ok (f : FlashPart) : Bool :=
  decide (0 < f.capMib) && f.cells.all fun x => decide (x.1 < f.capMib * 2 ^ 20)

/-- Well-formed commands. An entry read returns whole entries, at most 16 (R526); a BAR2 request stays
within the window and 4096 bytes (R652); a thermal sample has its twelve sensors (R852); the bits of
a memory upset lie in the 72-bit codeword (R312); a boundary-scan value has 1192 cells (R910). -/
def Instr.wellFormed : Instr → Bool
  | .entryReadReturn bytes _ => bytes.length % 64 == 0 && decide (bytes.length ≤ 1024)
  | .hostReadCompletion i _ => i.ok
  | .completionTimeout i => i.ok
  | .bar2Read ofs len => decide (len ≤ 4096) && decide (ofs.toNat + len ≤ 2 ^ 28)
  | .bar2Write ofs bytes => decide (bytes.length ≤ 4096) && decide (ofs.toNat + bytes.length ≤ 2 ^ 28)
  | .bootStart f => (f.map FlashPart.ok).getD true
  | .thermalSample l => l.length == 12
  | .patrolScrubVisit _ flips => flips.all fun x => decide (x.2.toNat < 72)
  | .tapSamplePreload c p => decide (c < 2 ^ 1192) && decide (p < 2 ^ 1192)
  | .postApply _ _ _ srcs => decide srcs.Nodup
  | .perstN us => decide (0 < us)
  | _ => true

end Sys2Proof
end

