-- ==== Sys2Proof/Tests/Slice0.lean ====
section
/-! SUPPORT. Tests: the well-formedness checks on ill-formed terms, single commands on small states with
results taken from the spec, and for every statement states and operands that meet its hypotheses. -/

namespace Sys2Proof.Tests
open Sys2Proof.Machine

set_option Elab.async false

/-! ### Helpers -/

/-- PERST_N is high, and these dwords are set. -/
def made (l : List (Nat × Nat)) : State :=
  l.foldl (fun s x => s.setReg x.1 x.2) { State.reset with perst := false }

/-- READY, with 32 GiB of DRAM trained and inline ECC. -/
def up : State := made [(Reg.HI_BOOT, 1), (Reg.MEM_ID, 0x2020), (Reg.MEM_TRAIN_STATUS, 0x1FFFF),
  (Reg.ALM_BOOT_STATUS, 0x3000)]

/-- `up`, with these dwords set too. -/
def upWith (l : List (Nat × Nat)) : State := l.foldl (fun s x => s.setReg x.1 x.2) up

/-- Set a dword of configuration space. -/
def cfgSet (s : State) (o v : Nat) : State :=
  { s with cfg := SMap.set cfgReset s.cfg o (BitVec.ofNat 32 v) }

/-- `up`, with Memory Space and Bus Master Enable set and the host link up. -/
def host : State := (cfgSet up 0x04 6).setReg Reg.HI_LINK 0x105

/-- `host`, with these dwords set too. -/
def hostWith (l : List (Nat × Nat)) : State := l.foldl (fun s x => s.setReg x.1 x.2) host

/-- The canonical form, decided. -/
def canon (s : State) : Bool :=
  s.dram.wf && s.plate.wf && SMap.wf regReset s.regs && SMap.wf regReset s.postAlm &&
  SMap.wf State.eccD s.ecc && SMap.wf State.natD s.scrubRow && SMap.wf State.tileD s.tiles &&
  SMap.wf State.tokD s.toks && SMap.wf State.streamD s.streams && SMap.wf State.slotD s.slots &&
  SMap.wf State.progD s.prog && SMap.wf State.chartD s.charts && SMap.wf State.pairD s.pairs &&
  SMap.wf State.pairD s.tgts && SMap.wf cfgReset s.cfg && SMap.wf msixReset s.msixTab &&
  SMap.wf State.portD s.ports && SMap.wf State.parkD s.parks && SMap.wf State.pastD s.past &&
  SMap.wf State.natD s.stepped

theorem canon_of {s : State} (h : canon s = true) : s.Canonical := by
  simpa [canon, State.Canonical, and_assoc] using h

/-- What holds of the state that an outcome goes on with. -/
def after (o : Host.Outcome State Fault Refusal) (p : State → Bool) : Bool :=
  match o with
  | .next t => p t
  | _ => false

theorem after_of {o : Host.Outcome State Fault Refusal} {p : State → Bool} (h : after o p = true) :
    ∃ t, o = .next t ∧ p t = true := by
  cases o with
  | next t => exact ⟨t, rfl, h⟩
  | fault _ => cases h
  | refused _ => cases h

/-- What holds of a value where there is one. -/
def some! {α : Type} (o : Option α) (p : α → Bool) : Bool :=
  match o with
  | some x => p x
  | none => false

theorem some_of {α : Type} {o : Option α} {p : α → Bool} (h : some! o p = true) :
    ∃ x, o = some x ∧ p x = true := by
  cases o with
  | some x => exact ⟨x, rfl, h⟩
  | none => cases h

/-! ### Hypotheses met: the step and resets -/

theorem wit_StepRunsTheFrontCommand :
    ({ State.reset with pending := [.poll] } : State).pending = .poll :: [] := rfl

theorem wit_EmptyQueueStepIsOneCycle :
    State.reset.pending = [] ∧ State.reset.perst = true ∧ up.pending = [] ∧ up.perst = false ∧
    up.pwr.telemQ = [] ∧ up.ring.arrived = [] := by decide +kernel

theorem wit_EveryStepKeepsCanonicalForm : up.Canonical ∧
    ∃ t, step { up with pending := [.thermalCeilingStep] } = .next t ∧ t.pwr.thCeil = 0 := by
  refine ⟨canon_of (by decide +kernel), ?_⟩
  obtain ⟨t, h, hp⟩ := after_of (o := step { up with pending := [.thermalCeilingStep] })
    (p := fun t => t.pwr.thCeil == 0) (by decide +kernel)
  exact ⟨t, h, by simpa using hp⟩

theorem wit_EveryStepTakesOneCommandFromTheQueue :
    ∃ t, step { State.reset with pending := [.poll, .linkRecovery] } = .next t ∧
      t.pending = [.linkRecovery] := by
  obtain ⟨t, h, hp⟩ := after_of (o := step { State.reset with pending := [.poll, .linkRecovery] })
    (p := fun t => t.pending == [.linkRecovery]) (by decide +kernel)
  exact ⟨t, h, by simpa using hp⟩

theorem wit_DeviceHeldInResetStaysInReset :
    ({ State.reset with pending := [.poll], cycle := 7 } : State).HeldInReset :=
  ⟨rfl, rfl, by simp⟩

theorem wit_FundamentalResetRestoresEveryResetValue :
    99 < 100 ∧ 100 ≤ 100 ∧ State.reset.perst = true ∧ up.perst = false := by decide +kernel

theorem wit_AnyDeviceResetClearsTheTiles :
    up.perst = false ∧ 100 ≤ 100 ∧
    ({ up with resetPend := some .fault } : State).resetPend = some .fault ∧
    ({ up with resetPend := some .fault } : State).alive = true := by decide +kernel

/-! ### Hypotheses met: the TAP, SMBus and PCIe -/

theorem wit_TapInstructionsSelectAndShift :
    State.reset.perst = true ∧ up.perst = false ∧
    bitOf ((upWith [(Reg.DBG_TAP, 2)]).reg Reg.DBG_TAP) 1 = true ∧
    bitOf (up.reg Reg.DBG_TAP) 1 = false ∧
    (Config.debugDisable = false ∨ Config.debugDisable = true) :=
  ⟨by decide +kernel, by decide +kernel, by decide +kernel, by decide +kernel, by
    cases Config.debugDisable <;> simp⟩

theorem wit_TapInstructionsLeaveTheDevice :
    up.Canonical ∧ ∃ t, exec (.tapSamplePreload 5 9) up = .next t ∧ t.tap.bscan = 9 := by
  refine ⟨canon_of (by decide +kernel), ?_⟩
  obtain ⟨t, h, hp⟩ := after_of (o := exec (.tapSamplePreload 5 9) up)
    (p := fun t => t.tap.bscan == 9) (by decide +kernel)
  exact ⟨t, h, by simpa using hp⟩

/-- The SMBus target busy with an advance, at the last address of the window. -/
def smbBusy : State := { up with smb := ⟨0xFFFFC, 0, true, true, false, false⟩ }

theorem wit_SmbusWritesAct :
    up.smbTakes = true ∧
    (let s : State := { up with smb := ⟨0x50000, 7, false, false, false, false⟩ };
      s.smbTakes = true ∧ inPwr s.smb.addr = true ∧ s.ready = true) ∧
    inPwr up.smb.addr = false ∧ (made [(Reg.ALM_BOOT_STATUS, 0x1800)]).smbTakes = true ∧
    (made [(Reg.ALM_BOOT_STATUS, 0x1800)]).ready = false ∧
    smbBusy.smbOn = true ∧ smbBusy.smb.busy = true := by decide +kernel

theorem wit_SmbusReadsAnswerAndBadPecsAreRefused :
    up.Canonical ∧ up.smbTakes = true ∧ smbBusy.smbTakes = false ∧ State.reset.smbTakes = false ∧
    up.smbOn = true ∧
    (upWith [(Reg.PWR_THERM, 0x10000)]).smbOn = true ∧
    (upWith [(Reg.PWR_THERM, 0x10000)]).smbAlert = true :=
  ⟨canon_of (by decide +kernel), by decide +kernel⟩

theorem wit_Bar2ReadAnswers :
    up.perst = false ∧ 4096 ≤ 4096 ∧ (0 : Nat) + 4096 ≤ 2 ^ 28 ∧ up.memOff = true ∧
    (cfgSet (made []) 4 6).memOff = false ∧ (cfgSet (made []) 4 6).ready = false ∧
    host.memOff = false ∧ host.ready = true ∧ host.tripped = false ∧
    -- the last byte of the window, at the top of usable DRAM and beyond it
    (let s := hostWith [(Reg.HI_WIN_BASE, 0x6F00)];
      s.memOff = false ∧ s.fld Reg.HI_WIN_BASE 16 0 * 2 ^ 20 + (2 ^ 28 - 1) + 1 = s.dramCap ∧
      s.dramCap ≠ 0 ∧ s.ecc = [] ∧ s.dram.wf = true) ∧
    (let s := hostWith [(Reg.HI_WIN_BASE, 0x7000)];
      s.dramCap < s.fld Reg.HI_WIN_BASE 16 0 * 2 ^ 20 + 1) ∧
    (hostWith [(Reg.MEM_ID, 0xC000)]).dramCap = 0 := by decide +kernel

theorem wit_Bar2WriteStoresEnabledBytes :
    host.Canonical ∧ host.perst = false ∧ host.memOff = false ∧ host.ready = true ∧
    host.tripped = false ∧ (2 ^ 28 - 2) + [some (1 : Byte), none].length ≤ 2 ^ 28 ∧
    host.dramCap ≠ 0 ∧ host.fld Reg.HI_WIN_BASE 16 0 * 2 ^ 20 + (2 ^ 28 - 2) + 2 ≤ host.dramCap ∧
    host.ecc = [] ∧ (hostWith [(Reg.MEM_ID, 0xC000)]).dramCap = 0 :=
  ⟨canon_of (by decide +kernel), by decide +kernel⟩

theorem wit_ConfigRequestsAnswer :
    up.perst = false ∧ (made []).bootStep < 2 ∧
    ({ up with resetPend := some .flr } : State).pcieReset = true ∧
    2 ≤ (made [(Reg.ALM_BOOT_STATUS, 0x1000)]).bootStep ∧ up.pcieReset = false ∧
    SMap.wf cfgReset host.cfg = true ∧ 4 * (1 : BitVec 10).toNat ≠ 0x44 ∧
    4 * (1 : BitVec 10).toNat ≠ 0x78 := by decide +kernel

/-- A message of vector 31 requested, with MSI-X enabled. -/
def msix : State := { cfgSet host 0x50 0x80000000 with
  msixReq := [31, 0]
  msixTab := SMap.set msixReset [] 127 0 }

theorem wit_MsixMessagesAndHostLinkEventsAct :
    (msix.msixReq = 31 :: [0] ∧ msix.perst = false ∧ bitOf (msix.cfgD 0x50) 31 = true ∧
      msix.msixMasked 31 = false ∧ msix.alive = true ∧ msix.bme = true ∧ msix.resetPend = none ∧
      msix.cfgD 0x44 % 4 ≠ 3) ∧
    (let s := cfgSet msix 0x50 0xC0000000;
      bitOf (s.cfgD 0x50) 31 = true ∧ s.msixMasked 31 = true) ∧
    (let s := cfgSet msix 0x04 2;
      bitOf (s.cfgD 0x50) 31 = true ∧ s.msixMasked 31 = false ∧ s.bme = false) ∧
    (cfgSet host 0x80 2).Canonical ∧ (cfgSet host 0x80 2).perst = false ∧
    2 ≤ (cfgSet host 0x80 2).bootStep ∧ (5 : Fin 6) ≠ 0 ∧ (cfgSet host 0x80 2).hostLinkUp = true ∧
    bitOf ((cfgSet host 0x80 2).cfgD 0x80) 1 = true :=
  ⟨by decide +kernel, by decide +kernel, by decide +kernel, canon_of (by decide +kernel), by
    decide +kernel⟩

theorem wit_PcieResetsStartTheSequence :
    host.Canonical ∧ host.perst = false ∧ host.resetPend = none ∧
    ({ host with resetPend := some .fault } : State).Canonical ∧
    cfgKept true 0x80 = true ∧ cfgKept false 0x80 = false ∧ cfgKept false 0x04 = false ∧
    host.ops = [] ∧ ∀ st, host.cut? st = none :=
  ⟨canon_of (by decide +kernel), by decide +kernel, by decide +kernel, canon_of (by decide +kernel),
    by decide +kernel, by decide +kernel, by decide +kernel, rfl, fun _ => rfl⟩

theorem wit_ResetPurgeClearsTheEngines :
    let s : State := { host with resetPend := some .fault }
    s.Canonical ∧ s.resetPend = some .fault ∧ s.alive = true ∧ s.ready = true ∧
    keptReg true Reg.FE_RESET_COUNT = true ∧ keptReg false Reg.HI_NOTICE_EN = false ∧
    liveReg Reg.HI_NOTICE_EN = false :=
  ⟨canon_of (by decide +kernel), by decide +kernel⟩

/-! ### Hypotheses met: the Cunery ports -/

/-- Port 5 in a link state, as this record. -/
def linked (st : Nat) (x : Port) : State := (up.setLink 5 st 2 8).setPort 5 x

/-- A port with one frame in its retry buffer and one management packet waiting. -/
def busyPort : Port := { Port.init₀ with
  retry := [⟨4095, 0, leBytes 32 1⟩]
  rxE := 0
  credit := [512, 512, 64] }

/-- A frame of a type without a payload. -/
def bare (ftype : Nat) : List Byte := frameBytes ftype 0 0 0x8FFF 0 [1, 2, 3] 0 []

theorem wit_LinkTrainingAndMonitorsMoveThePort :
    (∀ st : Fin 9, canon (linked st busyPort) = true ∧ (linked st busyPort).alive = true ∧
      (linked st busyPort).linkSt 5 = st) ∧
    -- lane masks: both lane groups, the upper one only, and neither
    (255 % 16 = 15 ∧ 0xF0 / 16 = 15 ∧ 0xF0 % 16 ≠ 15 ∧ 0xEE % 16 ≠ 15 ∧ 0xEE / 16 ≠ 15) ∧
    (laneWidth 255).isSome = true ∧ (laneWidth 0xF0).isSome = true ∧ laneWidth 0 = none ∧
    (linked 3 busyPort).port 5 = busyPort ∧ busyPort.fast = false ∧
    bitOf (((linked 7 busyPort).setReg (lk 5 Reg.FAB_LINK_CTRL) 1).reg
      (lk 5 Reg.FAB_LINK_CTRL)) 0 = true ∧
    bitOf ((linked 7 busyPort).reg (lk 5 Reg.FAB_LINK_CTRL)) 0 = false ∧
    ((linked 8 { busyPort with fast := true }).port 5).fast = true ∧
    ((linked 3 { busyPort with fast := true }).port 5).fast = true ∧
    -- the monitors
    (linked 5 busyPort).linkUp 5 = true ∧ (linked 6 busyPort).linkUp 5 = true ∧
    (linked 7 busyPort).linkUp 5 = false ∧
    (let x := { busyPort with good := true }; x.good = true ∧ x.old = 0) ∧
    (busyPort.good = false ∧ busyPort.old = 0 ∧ busyPort.misses < 2) ∧
    (let x := { busyPort with good := true, old := 1, misses := 1 };
      x.good = true ∧ 0 < x.old ∧ x.misses < 2) ∧
    (let x := { busyPort with misses := 2 }; x.good = false ∧ 2 ≤ x.misses) ∧
    checkFrame busyPort.peerTgen (bare 5) false = .good ∧ fieldAt (bare 5) 0 1 = 5 := by
  decide +kernel

/-- A DATA frame that carries a PROBE to device 0. -/
def dataFrame (seq : Nat) : List Byte := frameBytes 1 0 seq 0x8FFF 32 [0, 0, 0] 0
  (pktBytes { from? := none, sp16 := false, sat := 0, ptype := 5, nflags := 0, dst := 0, src := 1, dlen := 0, epoch := 0,
              pseq := 0, off := 0, inc := 0, tag := 0, status := 0, hops := 1, data := [] })

/-- The payload of an INIT frame with PEER_SEEN, from a compatible peer. -/
def initPl : List Byte := (linked 3 { busyPort with init := some [] }).initPayload 5

/-- An INIT frame with it. -/
def initFrame : List Byte := frameBytes 4 0 0 0 64 [0, 0, 0] 7 initPl

theorem wit_LinkFramesAreTakenAndSent :
    (let s := linked 5 busyPort; let x := s.port 5
      canon s = true ∧ s.alive = true ∧ s.linkUp 5 = true ∧
      checkFrame x.peerTgen (bare 2) false = .good ∧ fieldAt (bare 2) 0 1 = 2 ∧ x.todo = 0 ∧
      x.mgtq = [] ∧
      checkFrame x.peerTgen (bare 3) false = .good ∧ fieldAt (bare 3) 0 1 = 3 ∧
      checkFrame x.peerTgen (dataFrame 0) false = .good ∧ fieldAt (dataFrame 0) 0 1 = 1 ∧
      (let u := s.noteFrame 5 (dataFrame 0); let y := u.port 5
        let k := pktOfBytes 5 (((dataFrame 0).drop 16).take (fieldAt (dataFrame 0) 6 2))
        fieldAt (dataFrame 0) 2 2 % 4096 = y.rxE ∧ u.linkSt 5 = 5 ∧
        ptypeVc k.ptype = some (fieldAt (dataFrame 0) 1 1 % 4) ∧ k.epoch = u.reg Reg.FAB_EPOCH ∧
        cdiv (fieldAt (dataFrame 0) 6 2) 64 ≤ u.vcFree 5 (fieldAt (dataFrame 0) 1 1 % 4))) ∧
    -- a duplicate at either end of its range, and a frame too new
    (let s := linked 6 busyPort
      ∀ q ∈ [4095, 3072], (let f := dataFrame q; let y := (s.noteFrame 5 f).port 5
        checkFrame (s.port 5).peerTgen f false = .good ∧ 1 ≤ (y.rxE + 4096 - q) % 4096 ∧
        (y.rxE + 4096 - q) % 4096 ≤ 1024 ∧ q ≠ y.rxE)) ∧
    (let s := linked 5 busyPort; let f := dataFrame 1; let y := (s.noteFrame 5 f).port 5
      checkFrame (s.port 5).peerTgen f false = .good ∧ 1024 < (y.rxE + 4096 - 1) % 4096 ∧
      y.nacked = false) ∧
    checkFrame busyPort.peerTgen (bare 2) true = .bad ∧
    checkFrame busyPort.peerTgen (dataFrame 0) true = .bad ∧ busyPort.nacked = false ∧
    -- INIT
    canon (linked 3 busyPort) = true ∧ (linked 3 busyPort).alive = true ∧
    (linked 3 busyPort).linkSt 5 = 3 ∧ busyPort.init = none ∧
    (let x := { busyPort with init := some initPl, gotSeen := true, rate := 1 };
      ((linked 3 x).port 5).init = some initPl ∧ x.gotSeen = true ∧
      compatible ((linked 3 x).reg64 Reg.FAB_LINK_COMPAT) (fieldAt initPl 0 8) = true) ∧
    checkFrame busyPort.peerTgen initFrame false = .good ∧ fieldAt initFrame 0 1 = 4 ∧
    busyPort.peerTgen ≠ fieldAt initFrame 14 2 := by decide +kernel

theorem wit_LinkEventsLeaveTheRest : (linked 5 busyPort).Canonical ∧
    ∃ t, exec (.laneLockLoss 5) (linked 5 busyPort) = .next t ∧ t.linkSt 5 = 7 := by
  refine ⟨canon_of (by decide +kernel), ?_⟩
  obtain ⟨t, h, hp⟩ := after_of (o := exec (.laneLockLoss 5) (linked 5 busyPort))
    (p := fun t => t.linkSt 5 == 7) (by decide +kernel)
  exact ⟨t, h, by simpa using hp⟩

/-! ### Hypotheses met: the fabric -/

/-- A settled device at address 2 with UID 77, port 5 ACTIVE, static routing: device 0 by port 5. -/
def settled (regs : List (Nat × Nat)) (router : List Pkt) : State :=
  let s := regs.foldl (fun s x => s.setReg x.1 x.2) ((linked 5 busyPort).setReg Reg.FAB_STATE 7)
  let s := ((s.setReg Reg.FAB_UID 77).setReg Reg.FAB_ADDR 2).setReg Reg.FAB_SHAPE 0x8000;
  { s with
    router := router
    fab := { s.fab with static := [0xFFFFFFF5], root := 77 } }

/-- A packet without data from device 1, in by port 1. -/
def pkt (ptype dst epoch hops : Nat) : Pkt :=
  { from? := some 1, sp16 := false, sat := 0, ptype := ptype, nflags := 0, dst := dst, src := 1,
    dlen := 8, epoch := epoch, pseq := 0, off := 0x40, inc := 3, tag := 9, status := 0, hops := hops, data := [] }

/-- A HELLO and an advert that have come in by port 5. -/
def hello : Pkt := { pkt 0x40 0 0 0 with from? := some 5, data := leBytes 64 66 }
def advert (uid aseq : Nat) : Pkt := { pkt 0x41 0 0 0 with
  from? := some 5
  data := leBytes 8 uid ++ leBytes 4 3 ++ leBytes 4 aseq ++ leBytes 128 0 }

theorem wit_HellosAreSentAndTaken :
    (let s := { settled [] [hello] with ports := SMap.set State.portD [] 5 { busyPort with mgtq := [] } };
      canon s = true ∧ s.alive = true ∧ s.fabOn = true ∧ s.linkSt 5 = 5 ∧
      (s.port 5).mgtq = [] ∧
      (s.port 5).maySend 2 (cdiv (s.mgtPkt 0x40 (s.helloPayload 5)).length 64) = true ∧
      takeFirst (fun k => k.from? == some 5 && k.ptype == 0x40) s.router = some (hello, [])) ∧
    (linked 4 busyPort).linkSt 5 ≠ 5 ∧
    ({ settled [] [hello] with fab := Fabric.init } : State).fab.root = 0 := by decide +kernel

/-- The advert of device 66 as the database holds it. -/
def known : Advert := advertOf 5 (advert 66 5).data

theorem wit_AdvertsAndTimeAreKept :
    (let s := settled [] [advert 66 5];
      canon s = true ∧ s.alive = true ∧ s.fabOn = true ∧
      takeFirst (fun k => k.from? == some 5 && k.ptype == 0x41) s.router = some (advert 66 5, []) ∧
      known.epoch = s.reg Reg.FAB_EPOCH ∧ dbFind s.fab.db known.uid = none ∧
      s.fab.db.length < 4096) ∧
    (let f := { Fabric.init with db := [known] }; let a := advertOf 5 (advert 66 6).data
      let b := advertOf 5 (advert 66 5).data;
      dbFind f.db a.uid = some known ∧ a.uid ≠ (settled [] []).uid ∧ advertNewer a known = true ∧
      dbFind f.db b.uid = some known ∧ advertNewer b known = false ∧ b.inc = known.inc) ∧
    (let s := settled [] []; let t : State := { s with fab := { s.fab with root := 66 } };
      t.isRoot = false ∧ canon t = true) ∧
    (let s := upWith [(Reg.PIN_MUX + 20, 3)];
      canon s = true ∧ s.alive = true ∧ s.fld (Reg.PIN_MUX + 4 * 5) 3 0 = 3 ∧
      SMap.get State.parkD s.parks 5 = none ∧ bitOf (s.reg Reg.FAB_STATE) 3 = false) ∧
    bitOf ((upWith [(Reg.FAB_STATE, 8)]).reg Reg.FAB_STATE) 3 = true := by decide +kernel

theorem wit_SettleMapsTheDevice :
    (let s := settled [] [];
      -- the own advert carries a mapping: the address 2 under the origin 66
      let a : Advert := { known with uid := 77, addr := 0x8002, origin := 66, mapEpoch := 4 }
      let t : State := { s with fab := { s.fab with db := [a] } }
      let m := t.mapping (component t.fab.db t.uid);
      canon t = true ∧ t.running = true ∧ t.fabOn = true ∧ coordIn m.coords t.uid ≠ none) ∧
    (let s := settled [] []
      let t : State := { s with fab := { s.fab with tooMany := true } }
      let m := t.mapping (component t.fab.db t.uid);
      coordIn m.coords t.uid = none) := by decide +kernel

theorem wit_RouterForwardsOrDiscards :
    (let s := settled [] [pkt 1 0 0 62];
      canon s = true ∧ s.alive = true ∧ s.fabOn = true ∧
      s.scan [] [] [] s.router = some (pkt 1 0 0 62, .send 5 2, [])) ∧
    (let s := settled [(Reg.FAB_EPOCH, 1)] [pkt 1 0 0 62];
      s.scan [] [] [] s.router = some (pkt 1 0 0 62, .stale, [])) ∧
    (let s := settled [] [pkt 1 0 0 63];
      s.scan [] [] [] s.router = some (pkt 1 0 0 63, .far, [])) ∧
    (let s := settled [] [pkt 0x81 1 0 0];
      s.scan [] [] [] s.router = some (pkt 0x81 1 0 0, .lost, [])) := by decide +kernel

/-- A settled device with the remote window open and one request for it. -/
def asked (k : Pkt) : State := settled [(Reg.MEM_REMOTE_CTRL, 1)] [k]

/-- A request of 8 bytes. -/
def request (ty : Nat) : Pkt := { pkt ty 2 0 1 with data := if ty = 1 then [] else leBytes 8 5 }

theorem wit_RemoteRequestsAreAppliedOnce :
    (∀ ty ∈ [1, 2, 3, 4], let k := request ty; let s := asked k;
      canon s = true ∧ s.running = true ∧
      firstOfSrc [] s.isMine (fun k => k.ptype == ty && (s.stalePkt k || s.actsNow k)) s.router =
        some (k, []) ∧
      s.stalePkt k = false ∧ k.pseq = (s.pairOf k).next ∧ bitOf k.nflags 3 = false ∧
      s.targetOk k.off (if ty = 1 then k.dlen else k.data.length) = some 0x40 ∧ s.ecc = [] ∧
      (ty = 3 → 0x40 % 8 = 0 ∧ k.data.length % 8 = 0) ∧ (ty = 4 → k.data.length = 8)) ∧
    -- an SP16 add (log entry 31)
    (let k := { request 3 with sp16 := true, dlen := 2, data := leBytes 2 5 }; let s := asked k;
      canon s = true ∧ s.running = true ∧
      firstOfSrc [] s.isMine (fun k => k.ptype == 3 && (s.stalePkt k || s.actsNow k)) s.router =
        some (k, []) ∧ s.stalePkt k = false ∧ k.pseq = (s.pairOf k).next ∧ bitOf k.nflags 3 = false ∧
      s.targetOk k.off 2 = some 0x40 ∧ 0x40 % 2 = 0 ∧ k.data.length % 2 = 0) ∧
    -- a stale request, one too early, one seen before, a replayed one, a refused one
    (let k := request 2; let s := settled [(Reg.FAB_EPOCH, 1)] [k];
      s.running = true ∧ s.stalePkt k = true ∧
      firstOfSrc [] s.isMine (fun k => k.ptype == 2 && (s.stalePkt k || s.actsNow k)) s.router =
        some (k, [])) ∧
    (let k := { request 2 with pseq := 1 }; let s := asked k;
      s.stalePkt k = false ∧ k.pseq ≠ (s.pairOf k).next ∧
      pairBefore k.pseq (s.pairOf k).next = false) ∧
    (let k := { request 2 with pseq := 0xFFFFFFFF }; let s := asked k;
      s.stalePkt k = false ∧ pairBefore k.pseq (s.pairOf k).next = true) ∧
    (let k := { request 2 with nflags := 8 }; let s := asked k;
      s.stalePkt k = false ∧ k.pseq = (s.pairOf k).next ∧ bitOf k.nflags 3 = true) ∧
    (let k := request 2; let s := settled [] [k];
      s.stalePkt k = false ∧ k.pseq = (s.pairOf k).next ∧ bitOf k.nflags 3 = false ∧
      s.targetOk k.off k.data.length = none) := by decide +kernel

/-- A request of this device, issued under the epoch 0. -/
def waiting (use : RmtUse) : RmtReq :=
  { tag := 9, dst := 1, off := 0x40, kind := .write, len := 8, data := leBytes 8 5, poison := false,
    pseq := 0, epoch := 0, inc := 3, uda := 2 ^ 47 + 2 ^ 35 + 0x40, use := use }

/-- A settled device whose request has been answered. -/
def answered (ptype status : Nat) (probing : List Nat) (epoch : Nat) : State :=
  let k : Pkt := { pkt ptype 2 epoch 1 with status := status }
  let s := settled [(Reg.FAB_EPOCH, epoch)] [k];
  { s with
    rmt := [waiting .device]
    fab := { s.fab with probing := probing } }

/-- The answer that a state takes passes a test, with the state that it leaves. -/
def takes (s : State) (p : Nat → Bool) (q : State → Pkt → Bool) : Bool :=
  match s.takeAnswer p with
  | some (u, some k) => q u k
  | _ => false

theorem wit_SourceTakesTheAnswers :
    (∀ st ∈ [0, 3], let s := answered 0x82 st [] 0;
      canon s = true ∧ s.running = true ∧ s.pendSigs = [] ∧
      takes s (fun t => t == 0x81 || t == 0x82) (fun u k =>
        u.reqOf k == some (waiting .device) && k.status == st) = true) ∧
    (let k := request 5; let s := asked k;
      s.fld Reg.FAB_STATE 1 0 = 3 ∧
      firstOfSrc [] s.isMine (fun k => k.ptype == 0x05 && (s.stalePkt k || s.actsNow k)) s.router =
        some (k, [])) ∧
    takes (answered 0x85 0 [1] 1) (fun t => t == 0x85) (fun u k => u.fab.probing.contains k.src) = true ∧
    takes (answered 0x85 0 [] 1) (fun t => t == 0x85) (fun u k => !u.fab.probing.contains k.src) = true ∧
    (∀ st ∈ [2, 4], takes (answered 0x8F st [] 0) (fun t => t == 0x8F) (fun u k =>
      u.reqOf k == some (waiting .device) && k.status == st && !u.fab.probing.contains 1) = true) := by
  decide +kernel

/-! ### Hypotheses met: the ring -/

/-- The ring runs with 64 entries at HEAD 5, with these entries arrived. -/
def ringed (l : List (Nat × List Byte)) : State :=
  { hostWith [(Reg.FE_RING_CTRL, 13), (Reg.FE_RING_HEAD, 5), (Reg.FE_RING_TAIL, 5),
      (Reg.FE_DB_ADDR, 0x1000), (Reg.FE_POLL_MIN, 1500), (Reg.FE_POLL_MAX, 48000)] with
    ring := { Ring.init with
      started := true
      lineLive := true
      readHead := 5
      arrived := l } }

/-- `n` bytes with these fields: byte offset and value. -/
def fields (n : Nat) (l : List (Nat × Nat)) : List Byte :=
  leBytes n (l.foldl (fun a x => a + x.2 * 2 ^ (8 * x.1)) 0)

/-- An entry: KIND, STREAM 1, and other fields. -/
def entry (kind : Nat) (l : List (Nat × Nat)) : List Byte := fields 64 ([(0, kind), (2, 1)] ++ l)

theorem wit_PollAndDoorbellMoveTail :
    (let s := ringed [];
      canon s = true ∧ s.running = true ∧ s.ring.started = true ∧ s.ring.pollOpen = false ∧
      s.waitedOn = [] ∧ s.ring.penReads = [] ∧ s.bme = true ∧ s.inD3 = false ∧
      s.tagsInUse + s.pollSet.length < s.tagCap ∧
      bitOf (s.reg Reg.FE_RING_CTRL) 6 = false) ∧
    (let s := (ringed []).setReg Reg.FE_RING_CTRL 0x4D;
      bitOf (s.reg Reg.FE_RING_CTRL) 6 = true ∧ s.pollLimitsOk = true) ∧
    (let s := ((ringed []).setReg Reg.FE_RING_CTRL 0x4D).setReg Reg.FE_POLL_MIN 374;
      bitOf (s.reg Reg.FE_RING_CTRL) 6 = true ∧ s.pollLimitsOk = false) ∧
    (let s := ringed []
      let t : State := { s with ring := { s.ring with pollOpen := true, pollOut := true } };
      canon t = true ∧ t.running = true ∧ t.ring.started = true ∧ t.ring.pollOpen = true ∧
      t.ring.pollOut = true ∧
      -- TAIL at its greatest, and one beyond
      (69 + 2 ^ 32 - t.reg Reg.FE_RING_HEAD) % 2 ^ 32 ≤ t.ringSize ∧ t.ring.reading = 0 ∧
      t.ring.halted = false ∧ t.bme = true ∧ t.inD3 = false ∧ t.held = [] ∧ t.tagsInUse ≤ t.tagCap ∧
      t.noTimeout (some .timeout) = false ∧
      (69 + 2 ^ 32 - t.ring.readHead) % 2 ^ 32 ≤ t.ringSize ∧
      min 16 (min ((69 + 2 ^ 32 - t.ring.readHead) % 2 ^ 32)
        (t.ringSize - t.ring.readHead % t.ringSize)) ≠ 0 ∧
      t.ringSize < (70 + 2 ^ 32 - t.reg Reg.FE_RING_HEAD) % 2 ^ 32) := by decide +kernel

theorem wit_EntryReturnTakesWrittenEntries :
    let s := ringed []
    let t : State := { s with ring := { s.ring with reading := 2 } }
    let good := entry 0 [(4, 5)] ++ entry 0 [(4, 6)];
    canon t = true ∧ t.running = true ∧ t.ring.started = true ∧ t.ring.reading ≠ 0 ∧
    t.ring.readHead < 2 ^ 32 ∧ t.noTimeout (some .poisoned) = false ∧
    (∀ i ∈ [0, 1], leAt ((good.drop (64 * i)).take 64) 4 2 = (t.ring.readHead + i) % 2 ^ 32 % 65536) ∧
    (rowKind (good.take 64)).isSome = true ∧ t.ring.arrived = [] ∧
    leAt ((entry 0 [(4, 6)]).take 64) 4 2 ≠ (t.ring.readHead + 0) % 2 ^ 32 % 65536 := by decide +kernel

theorem wit_StatusLineIsWrittenOnChange :
    (let s := ringed []; s.running = true ∧ s.ring.lineLive = true ∧ s.lineFields ≠ s.ring.shown) ∧
    (let s := ringed []; let t : State := { s with ring := { s.ring with shown := s.lineFields } };
      t.running = true ∧ t.ring.closing = false ∧ t.lineFields = t.ring.shown) ∧
    (let s := ringed []; let t : State := { s with ring := { s.ring with closing := true } };
      t.running = true ∧ t.ring.lineLive = true ∧ t.ring.closing = true) ∧
    up.ring.lineLive = false := by decide +kernel

/-- The entry at the front is admitted, as a state and a request of which `p` holds. -/
def admitted (s : State) (k : RowKind) (p : State → Req → Bool) : Bool :=
  match s.front k with
  | some (a, raw) =>
    match s.sealRefresh.checkEntry View.none k a raw with
    | .ok u r => p u r
    | _ => false
  | none => false

theorem admitted_of {s : State} {k : RowKind} {p : State → Req → Bool} (h : admitted s k p = true) :
    ∃ u r, s.Admits View.none k u r ∧ p u r = true := by
  unfold admitted at h
  split at h
  · rename_i a raw hf
    split at h
    · rename_i u r hc
      exact ⟨u, r, ⟨a, raw, hf, hc⟩, h⟩
    · cases h
  · cases h

/-- The ring with one entry at its front, stream 1 created, and a change to the state. -/
def front (raw : List Byte) (f : State → State) : State :=
  f ((ringed [(5, raw)]).setStream 1 { StreamRec.free with created := true, lastMap := 4 })

/-! ### Hypotheses met: admission -/

/-- A command buffer of one lane: flags, node and operation words. -/
def bufBytes (flags node : Nat) (ops : List Nat) : List Byte :=
  let n := 64 + 32 * ops.length;
  fields 64 [(0, 0x7A3B), (2, 1), (3, flags), (4, n), (8, 2 ^ node), (10, 2), (11, 1), (16, n),
    (0x18 + 4 * node, 64)] ++ ops.flatMap (leBytes 32)

/-- Store bytes in DRAM. -/
def put (u : Nat) (l : List Byte) (s : State) : State := s.rawWrite u l

/-- An admitted RE_SUBMIT of stream 1 with a buffer of lane 0. -/
def job : Entry := { idx := 4, stream := 1, kind := .submit, tolerate := false, notBefore := none,
                     waits := [], sigs := [], ext := 0,
                     buf := some { bufOfHeader 0x2000 (bufBytes 0 0 [0, 0]) with elastic := 0 },
                     gen := Gen.zero, hgen := 1, fault := none, active := true, due := true,
                     prefetched := false, staged := [], restored := none }

/-- The permission of R12. -/
def expert (s : State) : State := s.setReg Reg.FE_EXPERT_STATUS 3

/-- Stream 1 has `job`. -/
def withJob (s : State) : State :=
  ({ s with entries := [job] }).setStream 1 { s.stream 1 with lastIdx := some 4 }

theorem wit_BadEntriesAreRejectedAndCounted :
    rowOf (.reNop View.none) = some (View.none, .nop) ∧ up.front .nop = none ∧
    (let s := front (entry 0 [(7, 1)]) id;
      canon s = true ∧ s.front .nop = some (5, entry 0 [(7, 1)]) ∧
      s.shapeOk .nop (entry 0 [(7, 1)]) = false ∧ s.ring.arrived.tail = []) ∧
    -- the last stream, one beyond, and too many waits
    (let s := front (entry 4 [(6, 1)]) fun s => s.setStream 511 { StreamRec.free with created := true };
      s.shapeOk .waitOnly (fields 64 [(0, 4), (2, 511), (6, 1)]) = true ∧
      s.shapeOk .waitOnly (fields 64 [(0, 4), (2, 512), (6, 1)]) = false ∧
      s.shapeOk .waitOnly (fields 64 [(0, 4), (1, 4), (2, 1), (6, 16)]) = true ∧
      s.shapeOk .waitOnly (fields 64 [(0, 4), (1, 4), (2, 1), (6, 17)]) = false) ∧
    State.reset.restoreDue = none ∧ State.reset.abortsSealing = none ∧
    -- no dump area, and no domain of capture depth 2
    (let s := front (entry 0 [(7, 1)]) id;
      s.reg64 Reg.FE_DUMP_BASE = 0 ∧ ((upto 512).all fun n => s.streamDepth n != 2) = true) := by
  decide +kernel

/-- The first 24 bytes of a context image of domain 0, with their own checksum. -/
def image : List Byte :=
  let l := fields 24 [(0, 0x7A5C), (2, 1)];
  l.take 16 ++ leBytes 4 (crc32c l) ++ l.drop 20

theorem wit_SlotlessEntriesAreAdmitted :
    (let s := front (entry 0 []) id;
      canon s = true ∧ s.front .nop = some (5, entry 0 []) ∧ s.reg Reg.FE_RING_HEAD = 5 ∧
      admitted s .nop (fun _ _ => true) = true ∧ bitOf (leAt (entry 0 []) 1 1) 2 = false) ∧
    admitted (front (entry 4 [(6, 1), (32, 0x40)]) id) .waitOnly (fun _ _ => true) = true ∧
    admitted (front (entry 5 [(7, 1), (48, 0x48)]) id) .signalOnly (fun _ _ => true) = true ∧
    -- a misplaced image, a boundary save, and a cut with and without permission
    admitted (front (entry 7 [(8, 0x800)]) id) .save
      (fun _ r => !inHostOrDram (leAt r.raw 8 8 % 2 ^ 48) 4096) = true ∧
    admitted (front (entry 7 [(8, 0x10000)]) id) .save (fun u r =>
      inHostOrDram (leAt r.raw 8 8 % 2 ^ 48) 4096 && u.addrOk true (leAt r.raw 8 8 % 2 ^ 48) 4096 &&
      !bitOf (leAt r.raw 0x1C 1) 0) = true ∧
    (∀ x ∈ [true, false], admitted (front (entry 7 [(8, 0x10000), (16, 0x20000), (0x18, 2000), (0x1C, 1)])
      (fun s => withJob (if x then expert s else s))) .save (fun u r =>
        u.addrOk true 0x10000 4096 && bitOf (leAt r.raw 0x1C 1 % 8) 0 &&
        (u.stream r.stream).lastIdx == some 4 &&
        (u.entries.find? fun e => e.idx == 4 && e.stream == r.stream && e.takesSlot) == some job &&
        inHostOrDram 0x20000 64 && u.addrOk true 0x20000 (u.areaSize job false) &&
        decide (u.areaSize job false ≤ leAt r.raw 0x18 4 * 1024) && u.expert == x) = true) ∧
    -- a misplaced and a bad image to restore, and what a good one passes
    admitted (front (entry 8 [(8, 0x800)]) id) .restore
      (fun _ r => !inHostOrDram (leAt r.raw 8 8 % 2 ^ 48) 4096) = true ∧
    admitted (front (entry 8 [(8, 0x10000)]) id) .restore (fun u _ =>
      let q := (Ctx.start u View.none []).read true 0x10000 4096;
      !q.1.stall && !imageOk q.2 (q.1.s.stream 1).domain) = true ∧
    imageOk image 0 = true ∧
    (let e : Entry := { job with kind := .restore 0x10000 0x2000 (leBytes 4 0x01000000) }
      let s := front (entry 0 []) fun s => { s with entries := [e] };
      some! s.restoreDue (fun x => x == e) = true ∧ s.running = true) := by decide +kernel

/-- A generation of no handles in force. -/
def withGen (s : State) : State := { s with gens := [⟨1, 0, 0, 0⟩] }

/-- A chart image of one segment and one patchable parameter. -/
def chartImage : List Byte :=
  fields 64 [(0, 0x7A4D), (2, 1), (4, 1), (6, 1), (0x10, 64), (0x14, 128), (0x18, 192), (0x1C, 0x180)] ++
  fields 64 [(0, 256)] ++ fields 128 [(8, 1)] ++ bufBytes 0 0 [0, 0]

/-- The chart of that image at 0x8000, as ID 3. -/
def chart : ChartRec := { ChartRec.free with
  used := true
  current := 1
  image := 0x8000
  nseg := 1
  nparam := 1
  relocUda := 0x80C0
  patchable := [true]
  lanes := 1
  nCl := 2
  nFe := 1
  vers := [⟨1, 0x8080, [0x8100], 0⟩] }

/-- The chart is loaded. -/
def withChart (s : State) : State := (put 0x8000 chartImage s).setChart 3 chart

theorem wit_BuffersAndLaunchesAreAdmitted :
    -- a buffer that is misaligned, an indirect one, a direct one sealed, and without room
    admitted (front (entry 1 [(8, 0x2010)]) withGen) .submit (fun u r =>
      match u.readBuf View.none { newEntry r .submit with hgen := u.genInForce } 0x2010 with
      | .fault _ _ _ => !u.gens.isEmpty
      | _ => false) = true ∧
    admitted (front (entry 1 [(8, 0x2000)]) (withGen ∘ put 0x2000 (bufBytes 0 0 [0, 0]))) .submit
      (fun u r =>
        match u.readBuf View.none { newEntry r .submit with hgen := u.genInForce } 0x2000 with
        | .ok _ b _ => !b.direct
        | _ => false) = true ∧
    (∀ size ∈ [0, 4], admitted (front (entry 1 [(8, 0x2000)]) fun s =>
      ((expert (withGen (put 0x2000 (bufBytes 1 0 [0, 0]) s))).setReg Reg.FE_SEAL_BASE 0x100000).setReg
        Reg.FE_SEAL_SIZE size) .submit (fun u r =>
        let e := { newEntry r .submit with hgen := u.genInForce };
        match u.readBuf View.none e 0x2000 with
        | .ok w b _ =>
          match w.sealBuf View.none e b with
          | .done _ _ => b.direct && size == 4
          | .fault _ _ => b.direct && size == 0
          | _ => false
        | _ => false) = true) ∧
    (let s : State := { withGen up with
        entries := [{ job with buf := job.buf.map fun b => { b with sealAt := some (0x100000, 4096) } }]
        sealBase := 0x100000
        sealSize := 4 }
      let e := { job with hgen := 1 }
      let t := expert (put 0x2000 (bufBytes 1 0 [0, 0]) s);
      (match t.readBuf View.none e 0x2000 with
        | .ok w b _ =>
          match w.sealBuf View.none e b with
          | .noRoom => b.direct
          | _ => false
        | _ => false) = true) ∧
    -- a launch of an absent chart, and of one that is there
    admitted (front (entry 2 [(8, 3)]) withGen) .launch (fun u r =>
      launchBodyOk r.raw && !(u.chart 3).used) = true ∧
    admitted (front (entry 2 [(8, 3)]) (withGen ∘ withChart)) .launch (fun u r =>
      launchBodyOk r.raw && (u.chart 3).used && !(u.chart 3).dropping &&
      ((u.chart 3).version? 1).isSome && (u.readArgs View.none 0 0).2.isSome &&
      (match u.bindSeg View.none { newEntry r .submit with hgen := 1 }
          ⟨3, 1, 1, 0, [], [], [], [], 1, 2, 1⟩ 0 (fun _ => none) with
        | .done _ _ _ => true
        | _ => false)) = true ∧
    -- without a generation: a bad set-up and a good one
    admitted (front (entry 1 [(8, 0x2000)]) id) .submit (fun u _ =>
      u.gens.isEmpty && !u.handleSetupOk) = true ∧
    admitted (front (entry 1 [(8, 0x2000)]) fun s => s.setReg Reg.FE_HSHADOW_BASE 0x4000) .submit
      (fun u _ => u.gens.isEmpty && u.handleSetupOk && u.freeCopy == some 0) = true ∧
    -- seal space has come free, for a buffer and for a launch
    (let t : State := withGen (put 0x2000 (bufBytes 0 0 [0, 0]) up);
      (match job.buf with
        | some b =>
          match t.finishSubmit View.none job b with
          | .done _ => t.running
          | _ => false
        | none => false) = true) ∧
    (let t : State := withGen (withChart up);
      (match t.finishLaunch View.none job ⟨3, 1, 1, 0, [], [], [], [], 1, 2, 1⟩ with
        | .done _ => t.running
        | _ => false) = true) := by decide +kernel

theorem wit_StreamAndAbortEntriesAct :
    (∀ fl ∈ [0, 1], admitted (front (fields 64 [(0, 3), (2, 511), (9, 3), (10, 15), (0x0B, fl),
        (0x10, 0x2000)]) id) .create (fun u r =>
      let q := (Ctx.start u View.none []).read true (leAt r.raw 0x10 8 % 2 ^ 48) 40;
      bitOf (leAt r.raw 0x0B 1) 0 == (fl == 1) && !q.1.stall && q.1.err.isNone && q.1.miss == []) = true) ∧
    admitted (front (fields 64 [(0, 3), (2, 511), (0x0B, 1), (0x10, 0x2004)]) id) .create (fun u r =>
      bitOf (leAt r.raw 0x0B 1) 0 && leAt r.raw 0x10 8 % 2 ^ 48 % 8 != 0 &&
      !((Ctx.start u View.none []).read true 0x2004 40).1.stall) = true ∧
    (∀ fl ∈ [0, 1], admitted (front (entry 3 [(8, 1), (0x0B, fl), (0x10, 0x2000)]) id) .configure
      (fun u _ =>
        let q := (Ctx.start u View.none []).read true 0x2000 40;
        !q.1.stall && q.1.err.isNone && q.1.miss == []) = true) ∧
    -- a seed block of device 9, first without its bytes, and one whose fetch has failed
    (∀ x ∈ [(3, [(8, 1), (0x0B, 1), (0x10, 2 ^ 47 + 9 * 2 ^ 35)])], ∀ bad ∈ [true, false],
      admitted (front (entry x.1 x.2) fun s =>
        let s := s.setReg Reg.FAB_STATE 3
        { s with
          fab := { s.fab with map := [⟨9, 77, 0, true, 0⟩] }
          ring := { s.ring with fetchBad := bad } }) .configure (fun u _ =>
        let q := (Ctx.start u View.none u.ring.fetched).read true (2 ^ 47 + 9 * 2 ^ 35) 40;
        u.ring.fetchBad == bad && !q.1.stall && q.1.miss != []) = true) ∧
    admitted (front (entry 3 [(8, 2)]) id) .destroy (fun u _ => canon u && u.entries == []) = true ∧
    admitted (front (entry 3 [(8, 2)]) withJob) .destroy
      (fun u r => canon u && u.entries.any fun e => e.stream == r.stream) = true ∧
    admitted (front (entry 3 [(8, 3)]) id) .release (fun u r => !(u.stream r.stream).isolated) = true ∧
    (∀ fl ∈ [0, 2], admitted (front (entry 3 [(8, 3), (0x0B, fl)]) fun s =>
      withJob (s.setStream 1 { s.stream 1 with isolated := true })) .release
        (fun u r => (u.stream r.stream).isolated && bitOf (leAt r.raw 0x0B 1) 1 == (fl == 2)) = true) ∧
    -- an abort of nothing, of an entry that has committed, of a waiting and of a running one
    admitted (front (entry 6 [(8, 4)]) id) .abort (fun u r =>
      u.entries == [] && SMap.get State.pastD u.past (leAt r.raw 8 4) == none &&
      !bitOf (leAt r.raw 12 1) 0) = true ∧
    admitted (front (entry 6 [(8, 4)]) fun s => { s with
        past := SMap.set State.pastD [] 4 (some (1, true)) }) .abort (fun u r =>
      u.entries == [] && SMap.get State.pastD u.past 4 == some (r.stream, true)) = true ∧
    admitted (front (entry 6 [(8, 4)]) withJob) .abort (fun u r =>
      (u.entries.find? fun e => e.idx == 4 && e.stream == r.stream) == some job &&
      !u.faulted 4 && u.slotOf 4 == none) = true ∧
    admitted (front (entry 6 [(8, 4)]) fun s =>
      (withJob s).setSlot 7 (some ⟨1, 4, [], none, none⟩)) .abort (fun u _ =>
      !u.faulted 4 && u.slotOf 4 == some 7 && u.slot? 7 == some ⟨1, 4, [], none, none⟩) = true := by
  decide +kernel

/-- A patch request block: VERSIONED to 0xA000, one entry for parameter 0. -/
def patch : List Byte :=
  fields 64 [(0, 0x7A4E), (2, 1), (8, 0xA000), (16, 0x1000)] ++ fields 16 [(8, 9)]

theorem wit_HandleAndChartEntriesAct :
    admitted (front (entry 0x0C []) id) .handleSync (fun u _ => !u.handleSetupOk) = true ∧
    admitted (front (entry 0x0C []) fun s => { s.setReg Reg.FE_HSHADOW_BASE 0x4000 with
        gens := [⟨1, 0, 0, 0⟩, ⟨2, 1, 0, 0⟩]
        entries := [job, { job with idx := 6, hgen := 2 }] }) .handleSync
      (fun u _ => u.handleSetupOk && u.freeCopy == none) = true ∧
    admitted (front (entry 0x0C []) fun s => withGen (s.setReg Reg.FE_HSHADOW_BASE 0x4000)) .handleSync
      (fun u _ => u.handleSetupOk && u.freeCopy == some 1) = true ∧
    (let h : HandleCopy := ⟨0, 0x4000, 2, 0x5000, [], true⟩
      let s := front (entry 0x0C []) fun s => { s with hcopy := some h }
      let t : State := { s with ecc := [(0xA04, .ue [1, 2])] };
      s.hcopy = some h ∧ s.running = true ∧ s.ring.halted = false ∧
      (s.readLocal (h.src + 32) (32 * (h.count - 1))).2.isSome = true ∧
      t.running = true ∧ (t.readLocal (h.src + 32) (32 * (h.count - 1))).2 = none) ∧
    -- LOAD: a bad body, an ID in use, a bad and a good image
    admitted (front (entry 9 [(8, 1024)]) id) .chartLoad (fun u r => !u.chartBodyOk .chartLoad r.raw) = true ∧
    admitted (front (entry 9 [(8, 3), (0x10, 0x8000)]) withChart) .chartLoad (fun u r =>
      u.chartBodyOk .chartLoad r.raw && (u.chart 3).used) = true ∧
    admitted (front (entry 9 [(8, 1023), (0x10, 0x8000)]) id) .chartLoad (fun u r =>
      u.chartBodyOk .chartLoad r.raw && !(u.chart 1023).used &&
      (match u.readImage 0x8000 1 with
        | .bad _ _ _ => true
        | _ => false)) = true ∧
    admitted (front (entry 9 [(8, 1023), (0x10, 0x8000)]) withChart) .chartLoad (fun u r =>
      u.chartBodyOk .chartLoad r.raw && !(u.chart 1023).used &&
      (match u.readImage 0x8000 1 with
        | .good _ _ => true
        | _ => false)) = true ∧
    -- DROP
    admitted (front (entry 0x0B [(8, 3)]) id) .chartDrop (fun u r =>
      u.chartBodyOk .chartDrop r.raw && !(u.chart 3).used) = true ∧
    admitted (front (entry 0x0B [(8, 3)]) withChart) .chartDrop (fun u r =>
      u.chartBodyOk .chartDrop r.raw && (u.chart 3).used && !(u.chart 3).dropping) = true ∧
    -- VERSIONED
    admitted (front (entry 0x0A [(8, 3), (0x10, 0x9000)]) id) .patchVersioned (fun u r =>
      u.chartBodyOk .patchVersioned r.raw && !(u.chart 3).used) = true ∧
    admitted (front (entry 0x0A [(8, 3), (12, 2), (0x10, 0x9000)]) withChart) .patchVersioned (fun u r =>
      u.chartBodyOk .patchVersioned r.raw && (u.chart 3).used && leAt r.raw 12 2 != (u.chart 3).current)
      = true ∧
    admitted (front (entry 0x0A [(8, 3), (0x10, 0x9000)]) (put 0x9000 patch ∘ withChart)) .patchVersioned
      (fun u r =>
        let c := u.chart 3;
        u.chartBodyOk .patchVersioned r.raw && c.used && !c.dropping &&
        (match c.version? c.current, u.readPatch View.none 0x9000 with
          | some cur, (q, some (h, es)) =>
            let k := q.patchEntsOk c cur [] es 0
            let ps := patchPieces k.2.2 c cur es;
            !q.stall && k.2.1 == none &&
            leAt h 8 8 % 2 ^ 48 == 0xA000 && k.1.s.inDram 0xA000 0 &&
            decide ((c.vers.filter fun y => y.ver != cur.ver || k.1.s.pinned 3 y.ver).length ≤ 3) &&
            pieceOver (leAt h 16 8) ps 0 == none &&
            k.1.s.inDram 0xA000 (ps.foldl (fun n p => n + p.2.2.2) 0) &&
            (match (k.1.readPieces es ps).2 with
              | .ok _ => true
              | .error _ => false)
          | _, _ => false)) = true ∧
    -- HOT
    admitted (front (entry 0x0A [(8, 3), (10, 1), (0x10, 0x9000)]) withChart) .patchHot (fun u r =>
      u.chartBodyOk .patchHot r.raw && !u.expert) = true ∧
    admitted (front (entry 0x0A [(8, 3), (10, 1), (0x10, 0x9000)]) (expert ∘ put 0x9000 patch ∘ withChart))
      .patchHot (fun u r =>
        let c := u.chart 3;
        u.chartBodyOk .patchHot r.raw && u.expert && c.used &&
        (match c.version? c.current, u.readPatch View.none 0x9000 with
          | some _, (q, some (_, es)) =>
            !q.stall && es.all fun e => e.etype == 0 && decide (c.narg ≤ e.param) &&
              decide (e.param < c.nparam) && nth false c.patchable e.param
          | _, _ => false)) = true := by decide +kernel

/-- A flash part. -/
def part : FlashPart := ⟨16, true, false, true, true, true, []⟩

theorem wit_AlmanacAndFabricEntriesAct :
    rowOf (.reAlmanacUpdateRead View.none) = some (View.none, .almRead) ∧
    admitted (front (entry 0x0D [(8, 2), (16, 0x2010)]) id) .almRead (fun _ r => !updateBodyOk r.raw) = true ∧
    admitted (front (entry 0x0D [(8, 2), (12, 32), (16, 0x2000)]) fun s =>
      { s with update := some ⟨.almanac, 1, [], 0, []⟩ }) .almRead
      (fun u r => updateBodyOk r.raw && u.update.isSome) = true ∧
    admitted (front (entry 0x0D [(12, 64), (16, 0x2000)]) fun s => { s with flash := some part }) .almanac
      (fun u r => updateBodyOk r.raw && u.update.isNone && u.flash.isSome &&
        (let q := (Ctx.start u View.none []).read true 0x2000 64;
         !q.1.stall && q.1.err.isNone)) = true ∧
    admitted (front (entry 0x0D [(8, 1), (12, 64), (16, 0x2000)]) fun s =>
      { s with flash := some part }) .firmware
      (fun u r => updateBodyOk r.raw && u.update.isNone && u.flash.isSome &&
        (let q := (Ctx.start u View.none []).read true 0x2000 64;
         !q.1.stall && q.1.err.isNone)) = true ∧
    (∀ n ∈ [31, 32], admitted (front (entry 0x0D [(8, 2), (12, n), (16, 0x2000)]) fun s =>
      { s with flash := some part, copy := leBytes 32 1 }) .almRead
      (fun u r => updateBodyOk r.raw && u.update.isNone && u.flash.isSome && u.copy != [] &&
        decide (leAt r.raw 12 4 < u.copy.length) == (n == 31)) = true) ∧
    admitted (front (entry 0x0E []) id) .rediscover (fun _ _ => true) = true ∧
    admitted (front (entry 0x0E [(8, 1)]) id) .remap (fun u _ => !u.expert) = true ∧
    admitted (front (entry 0x0E [(8, 1)]) expert) .remap (fun u _ => u.expert) = true ∧
    admitted (front (entry 0x0E [(8, 2)]) id) .fence (fun _ _ => true) = true := by decide +kernel

/-! ### Hypotheses met: register access -/

theorem wit_RegisterReadsAnswer :
    State.reset.reach .bar0 0x8000 = .nobody ∧ up.reach .bar0 0x8000 = .unsupported ∧
    (cfgSet (made []) 4 6).reach .bar0 0x8000 = .blank ∧
    (cfgSet (made []) 4 6).reach .bar0 Reg.HI_BOOT = .readOnly ∧ pairHalf Reg.HI_BOOT = none ∧
    host.reach .bar0 0xFFFFC = .full ∧ pairHalf 0xFFFFC = none ∧
    host.reach .bar0 Reg.MEM_ID = .full ∧ pairHalf Reg.MEM_ID = none ∧
    host.reach .bar0 Reg.CL_STEPS = .full ∧ pairHalf Reg.CL_STEPS = some false ∧
    host.reach .bar0 (Reg.CL_STEPS + 4) = .full ∧ pairHalf (Reg.CL_STEPS + 4) = some true ∧
    (host.path .bar0).snap = none := by decide +kernel

/-- A read of CL_STEPS has captured its high half. -/
theorem wit_RegisterReadsAnswer_capture :
    after (exec (.pairLowRead .bar0 (BitVec.ofNat 20 Reg.CL_STEPS) 15) host) (fun t =>
      decide ((t.path .bar0).snap = some (Reg.CL_STEPS, 0)) &&
      decide ((t.path .bar0) = (({ t with cycle := 9 } : State).path .bar0)) &&
      decide (t.reach .bar0 (Reg.CL_STEPS + 4) = .full)) = true ∧
    (BitVec.ofNat 20 Reg.CL_STEPS).toNat % 8 = 0 := by decide +kernel

/-- Offsets that set nothing off. -/
def quiet (k : Nat) : Bool :=
  decide ((k < 0x2000 ∧ k ≠ Reg.HI_NOTICE_EN) ∨ (0x8000 ≤ k ∧ k < 0x20000))

/-- `host`, with the session unlocked. -/
def openHost : State := hostWith [(Reg.FE_EXPERT_STATUS, 3)]

/-- The row that holds an offset. -/
def rowAt (o : Nat) (p : RegRow → Bool → Bool) : Bool :=
  match regAt o with
  | some (r, _, _, high) => p r high
  | none => false

theorem wit_RegisterWritesStoreByFieldType :
    canon host = true ∧ host.ready = true ∧
    State.reset.reach .bar0 0x8000 = .nobody ∧ up.reach .bar0 0x8000 = .unsupported ∧
    (cfgSet (made []) 4 6).reach .bar0 0x8000 = .blank ∧
    (cfgSet (made []) 4 6).reach .bar0 0 = .readOnly ∧
    (host.reach .bar0 0x1FFC = .full ∧ quiet 0x1FFC = true ∧ regAt 0x1FFC = none ∧
      bitOf (host.reg Reg.DBG_ACCESS_STATUS) 0 = false) ∧
    bitOf ((host.setReg Reg.DBG_ACCESS_STATUS 1).reg Reg.DBG_ACCESS_STATUS) 0 = true ∧
    (let o := Reg.MEM_SCRUB_INTERVAL;
      host.reach .bar0 o = .full ∧ quiet o = true ∧ byteWritable o = false ∧
      rowAt o (fun r high => !r.pair && !high && expertChange (dwordFields r false) (host.reg o) 7 &&
        !expertChange (dwordFields r false) (host.reg o) 0x01000100) = true) ∧
    (canon openHost = true ∧ openHost.unlocked = true ∧ openHost.ready = true ∧
      openHost.reach .bar0 Reg.MEM_SCRUB_INTERVAL = .full) ∧
    (let o := Reg.CL_STEPS;
      host.reach .bar0 o = .full ∧ quiet o = true ∧ quiet (o + 4) = true ∧
      rowAt o (fun r high => r.pair && !high) = true ∧
      rowAt (o + 4) (fun r high => r.pair && high) = true) ∧
    (let s := host.setPath .bar0 { host.path .bar0 with stage := some (Reg.CL_STEPS, 5) };
      canon s = true ∧ s.reach .bar0 (Reg.CL_STEPS + 4) = .full ∧
      (s.path .bar0).stage = some (Reg.CL_STEPS + 4 - 4, 5)) := by decide +kernel

theorem wit_RingEnableStartsAndStopsTheRing :
    (let s := hostWith [(Reg.FE_RING_CTRL, 12), (Reg.FE_DB_ADDR, 0x1000), (Reg.FE_STATUS_ADDR, 0x1040)];
      canon s = true ∧ s.reach .bar0 Reg.FE_RING_CTRL = .full ∧
      bitOf (s.reg Reg.FE_RING_CTRL) 0 = false ∧
      (s.setFld Reg.FE_RING_CTRL 5 1 6).ringSetupOk = true ∧ bits 13 5 1 = 6 ∧
      s.bme = true ∧ s.resetPend = none ∧ s.inD3 = false ∧ s.frontBusy = false ∧
      -- 2^5 entries are too few, and so are 2^17 too many
      (s.setFld Reg.FE_RING_CTRL 5 1 (bits 11 5 1)).ringSetupOk = false ∧
      (s.setFld Reg.FE_RING_CTRL 5 1 (bits 35 5 1)).ringSetupOk = false ∧
      (s.setFld Reg.FE_RING_CTRL 5 1 (bits 33 5 1)).ringSetupOk = true) ∧
    (let s := ringed [(5, entry 0 [])];
      canon s = true ∧ s.reach .bar0 Reg.FE_RING_CTRL = .full ∧
      bitOf (s.reg Reg.FE_RING_CTRL) 0 = true ∧ bits 15 5 1 ≠ s.fld Reg.FE_RING_CTRL 5 1 ∧
      s.ring.sealing = none ∧ s.hcopy = none) ∧
    (let s := ringed [(5, entry 0 [])];
      let t : State := { s with hcopy := some ⟨0, 5, 1, 2, [], true⟩ };
      canon t = true ∧ t.hcopy.isSome = true) := by decide +kernel

/-- A firmware image of one payload byte, signed (RFC 6979's key, A.2.5). -/
def fwGood : List Byte :=
  fields 64 [(0, 0x7A72), (2, 1), (4, 1), (0x0D, 1), (0x10, 1)] ++
  beBytes 32 0x60fed4ba255a9d31c961eb74c6356d68c049b8923b61fa6ce669622e60f29fb6 ++
  beBytes 32 0x7903fe1008b8bc99a41ae9e95628bc64f2f1b20c2d7e9f5177a3c294d4462299 ++
  beBytes 32 0xefd48b2aacb6a8fd1140dd9cd45e81d69d2c877b56aaf991c34d0ea84eaf3716 ++
  beBytes 32 0x5e2d94c3918b10de8cfd12432bd2ff4a6fa6d456aa75b663326f7fa00b88394d ++
  List.replicate 0x141 0

/-- The image is good on a device whose key hash is that of its key. -/
theorem wit_CommandRegistersAct_goodImage
    (h : Config.keyHash = 0xd6c23e2744a840cb3a5a14b6554cce7c070057c4e3298cb93577de687eece659) :
    fwOk fwGood 0 = true := by
  unfold fwOk Config.keySet
  rw [h]
  decide +kernel

/-- A flash of 16 MiB, erased. -/
def blankFlash : FlashPart := { part with cells := [] }

theorem wit_CommandRegistersAct :
    canon host = true ∧
    (∀ o ∈ [Reg.FE_EXPERT_UNLOCK, Reg.HI_NOTICE_EN, Reg.EPH_TEST_CTRL, Reg.ALM_SVN_COMMIT,
      Reg.ALM_RECOVERY], host.reach .bar0 o = .full) ∧
    bitOf (host.reg Reg.FE_EXPERT_STATUS) 0 = false ∧
    bitOf ((hostWith [(Reg.FE_EXPERT_STATUS, 1)]).reg Reg.FE_EXPERT_STATUS) 0 = true ∧
    (let s := cfgSet (hostWith [(Reg.HI_NOTICE_STATUS, 0x80)]) 0x50 0x80000000;
      canon s = true ∧ s.reach .bar0 Reg.HI_NOTICE_EN = .full ∧ bitOf (s.cfgD 0x50) 31 = true ∧
      bitOf (s.reg Reg.HI_NOTICE_EN) 7 = false ∧ bitOf (s.reg Reg.HI_NOTICE_STATUS) 7 = true) ∧
    host.ephRun = none ∧
    (let s : State := { host with ephRun := some (3, 0, 5) };
      canon s = true ∧ s.reach .bar0 Reg.EPH_TEST_CTRL = .full ∧ s.ephRun.isSome = true ∧
      s.alive = true ∧ 0 ∉ s.rearm ∧ (ephSelfTest 3 0 5).isSome = true ∧ ephSelfTest 4 0 5 = none) ∧
    (let s : State := { host with svnBusy := true };
      canon s = true ∧ s.svnBusy = true ∧ s.reach .bar0 Reg.ALM_SVN_COMMIT = .full) ∧
    (bitOf (host.reg Reg.ALM_RECOVERY) 0 = false ∧ host.update = none ∧ host.flash = none) ∧
    (let s : State := { host with flash := some blankFlash };
      canon s = true ∧ s.reach .bar0 Reg.ALM_RECOVERY = .full ∧
      bitOf (s.reg Reg.ALM_BOOT_STATUS) 8 = false ∧ s.update = none) ∧
    (let s : State := { put 0x10000 fwGood (hostWith [(Reg.ALM_BOOT_STATUS, 0x100),
        (Reg.ALM_RECOVERY_OFS, 0x10000)]) with flash := some blankFlash };
      canon s = true ∧ s.reach .bar0 Reg.ALM_RECOVERY = .full ∧
      bitOf (s.reg Reg.ALM_BOOT_STATUS) 8 = true ∧ s.dramCap ≠ 0 ∧ s.update = none ∧
      s.placedImage.2 = some fwGood ∧ s.svnFloor = 0 ∧ bitOf (s.reg Reg.ALM_RECOVERY) 0 = false) := by
  decide +kernel

theorem wit_LinkControlAndPinMuxWritesAct :
    (∀ p : Fin 6, host.reach .bar0 (lk p Reg.FAB_LINK_CTRL) = .full) ∧
    (let s := host.setReg (lk 5 Reg.FAB_LINK_CTRL) 0;
      canon s = true ∧ bitOf (s.reg (lk 5 Reg.FAB_LINK_CTRL)) 0 = false ∧ s.linkSt 5 = 0) ∧
    (let s := ((host.setReg (lk 5 Reg.FAB_LINK_CTRL) 1).setLink 5 6 2 8).setPort 5 busyPort;
      canon s = true ∧ s.linkUp 5 = true ∧ s.reach .bar0 (lk 5 Reg.FAB_LINK_CTRL) = .full) ∧
    (let s := (host.setReg (lk 5 Reg.FAB_LINK_CTRL) 1).setLink 5 2 0 0;
      canon s = true ∧ s.linkUp 5 = false ∧ bitOf (s.reg (lk 5 Reg.FAB_LINK_CTRL)) 0 = true ∧
      s.linkSt 5 ≠ 7 ∧ s.reach .bar0 (lk 5 Reg.FAB_LINK_CTRL) = .full) ∧
    (∀ n : Fin 12, host.reach .bar0 (muxReg n) = .full) ∧ canon host = true ∧ host.unlocked = false ∧
    (let s := hostWith [(Reg.FE_EXPERT_STATUS, 3), (muxReg 0, 6), (Reg.PWR_OP, 0)];
      canon s = true ∧ s.unlocked = true ∧ s.reach .bar0 (muxReg 0) = .full ∧
      funcOk 0 11 = false ∧ funcOk 0 6 = true ∧ funcOk 0 1 = true ∧ s.park 0 = none ∧
      s.mux 0 = 6 ∧ pmbFunc 0 = some (s.mux 0) ∧ s.op = 0 ∧ s.fld Reg.PWR_OP 9 9 = 0 ∧
      s.pwr.pmb = none) ∧
    (let s := hostWith [(Reg.FE_EXPERT_STATUS, 3), (muxReg 0, 6), (Reg.PWR_OP, 3)];
      canon s = true ∧ s.op ≠ 0 ∧ pmbFunc 0 = some (s.mux 0) ∧ s.reach .bar0 (muxReg 0) = .full) ∧
    (let s := hostWith [(Reg.FE_EXPERT_STATUS, 3), (muxReg 0, 6), (Reg.PWR_OP, 0)]
      let t : State := { s with pwr := { s.pwr with pmb := some ⟨true, 0, 0⟩ } };
      canon t = true ∧ t.pwr.pmb.isSome = true ∧ t.op = 0 ∧ t.fld Reg.PWR_OP 9 9 = 0 ∧
      t.reach .bar0 (muxReg 0) = .full) ∧
    (let s := hostWith [(Reg.FE_EXPERT_STATUS, 3)]
      let t : State := { s with parks := SMap.set State.parkD s.parks 11 (some ⟨2, true, none⟩) };
      canon t = true ∧ t.unlocked = true ∧ funcOk 11 10 = true ∧ (t.park 11).isSome = true ∧
      t.reach .bar0 (muxReg 11) = .full) := by decide +kernel

/-! ### Hypotheses met: slots, waits, faults and context -/

/-- A state with stream 1, whose head is this entry. -/
def headed (e : Entry) (s : State) : State :=
  ({ s with entries := [e] }).setStream 1 { StreamRec.free with created := true, lastIdx := some 4 }

/-- The entry holds a slot, with its lane 0 at this offset and blocked so. -/
def seated (n : Nat) (e : Entry) (pc : Nat) (b : Option Block) (s : State) : State :=
  (headed e s).setSlot n (some ⟨1, 4, [(0, ⟨pc, [], 0, b, 0, none, []⟩)], none, none⟩)

/-- A change to slot 0. -/
def slotWith (f : ExecSlot → ExecSlot) (s : State) : State := s.setSlot 0 ((s.slot? 0).map f)

/-- `job` as a launch of two segments, of version 1 of chart 3. -/
def launchJob (version seg : Nat) (ahead : List BufInfo) : Entry :=
  { job with kind := .launch ⟨3, version, 2, seg, [], ahead, [], [], 1, 2, 1⟩ }

/-- The chart has two segments. -/
def withChart2 (s : State) : State :=
  (put 0x8000 chartImage s).setChart 3 { chart with
    nseg := 2
    vers := [⟨1, 0x8080, [0x8100, 0x8100], 0⟩] }

theorem wit_SlotsAreMappedAndEntriesCommit :
    (let s := headed job host;
      canon s = true ∧ s.running = true ∧ s.candidates = [1] ∧ s.head? 1 = some job ∧
      s.freeSlot = some 0 ∧ s.toksFree (entryToks job) = true ∧ job.restored = none ∧
      job.buf.isSome = true) ∧
    (let s := (List.range 8).foldl (fun s n => s.setSlot n (some ⟨2, 9, [], none, none⟩)) (headed job host);
      canon s = true ∧ s.freeSlot = none ∧ s.head? 1 = some job) ∧
    (let s := (headed job host).allocToks 7 [(0, 63)] fun _ _ => 0;
      canon s = true ∧ s.toksFree (entryToks job) = false) ∧
    (∀ version ∈ [1, 2],
      let e := launchJob version 0 []
      let s := seated 7 e 0x40 none (withChart2 (withGen host));
      canon s = true ∧ s.running = true ∧ s.head? 1 = some e ∧ s.slotOf 4 = some 7 ∧
      (match s.launchIn 7 with
        | some (x, e', l) => e' == e && !s.slotHalted x && l.seg + 1 + l.ahead.length == 1 &&
          (match s.bindSeg View.none e l 1 (fun _ => none) with
            | .done _ _ _ => version == 1
            | .fault _ _ => version == 2
            | .wait => false)
        | none => false) = true) ∧
    (∀ b ∈ job.buf,
      let e := launchJob 1 0 [b]
      let s := seated 7 e (b.laneEnd 0) none host;
      canon s = true ∧ s.running = true ∧
      (match s.launchIn 7 with
        | some (x, e', l) => e' == e && e'.buf == some b && l.ahead == [b] && s.bufDone 7 x b
        | none => false) = true) ∧
    -- commits: kinds without a slot, a boundary save, a finished buffer and a finished launch
    (∀ k ∈ [EKind.waitOnly, .signalOnly, .save 0x10000 0 0 none Gen.zero true,
        .save 0x10000 0 0 none Gen.zero false, .restore 0x10000 0 (leBytes 4 0)],
      let e := { job with kind := k, buf := none }
      let s := headed e host;
      canon s = true ∧ s.running = true ∧ s.head? 1 = some e ∧ s.faulted 4 = false ∧
      s.slotOf 4 = none ∧ e.ready = true ∧ leAt (leBytes 4 0) 3 1 ≠ 1) ∧
    (∀ b ∈ job.buf, ∀ e ∈ [job, launchJob 1 1 []],
      let s := seated 7 e (b.laneEnd 0) none host;
      canon s = true ∧ s.running = true ∧ s.head? 1 = some e ∧ s.faulted 4 = false ∧
      s.slotOf 4 = some 7 ∧ e.buf = some b ∧
      some! (s.slot? 7) (fun x => s.bufDone 7 x b) = true) := by decide +kernel

/-- `job`, waiting on a pennant, with a watch. -/
def waitingOn (u : Nat) : Entry :=
  { job with kind := .waitOnly, buf := none, waits := [⟨u, 5, false, some 0, true⟩] }

theorem wit_WaitsAreMetByWhatIsRead :
    (∀ time ∈ [0, 10 ^ 12],
      let e := { job with notBefore := some time }
      let s := headed e host;
      canon s = true ∧ s.running = true ∧ s.head? 1 = some e ∧ e.active = true ∧
      decide (time ≤ s.ns) = decide (time = 0) ∧ decide (s.ns < time) = decide (time ≠ 0)) ∧
    (let s := headed (waitingOn 0x4000) host;
      canon s = true ∧ isLocal 0x4000 = true ∧ s.watched 0x4000 = true ∧
      s.addrOk true 0x4000 8 = true ∧ s.ecc = []) ∧
    (let u := 2 ^ 43 - 8
      let s := headed (waitingOn u) host;
      isLocal u = true ∧ s.watched u = true ∧ s.addrOk true u 8 = false) ∧
    (let u := 2 ^ 45 + 64
      let s := headed (waitingOn u) host
      let t : State := { s with ring := { s.ring with penReads := [(u, false)] } };
      canon t = true ∧ t.running = true ∧ t.pennantLanes u = [] ∧
      t.entries.map (fun e => e.idx) = [4] ∧ t.faulted 4 = false ∧
      (waitingOn u).waits.any (waitSees u (2 ^ 63 + 5) fun _ => true) = true ∧
      (waitingOn u).waits.any (waitSees u 4 fun _ => true) = false ∧
      bitOf (2 ^ 63 + 5) 63 = true ∧ bitOf 5 63 = false) ∧
    (∀ b ∈ job.buf,
      let b' := { b with uda := 2 ^ 45 + 4096 }
      let e := { job with buf := some b' }
      let s := headed e host;
      canon s = true ∧ s.running = true ∧ e.prefetched = false ∧ e.fault = none ∧ s.faulted 4 = false ∧
      s.entry? 4 = some e ∧ regionOf b'.uda = .host ∧ b'.sealAt = none ∧ s.bme = true ∧
      s.noTimeout (some .poisoned) = false) := by decide +kernel

/-- A fault raised, with a response of Contain or Reset. -/
def aFault (r : Bool) : FaultInfo := { up.plainFault .addrInvalid 0 with reset := r }

/-- A save of the target 4, with CFLAGS. -/
def cutSave (cflags : Nat) : Entry :=
  { job with idx := 5, kind := .save 0x10000 0x20000 cflags (some 4) Gen.zero false, buf := none }

/-- `job` in slot 0, blocked so, with a cut save of it behind it. -/
def cutUp (cflags : Nat) (b : Option Block) : State :=
  let s := seated 0 job 0x40 b host;
  { s with entries := s.entries ++ [cutSave cflags] }

theorem wit_FaultsStopAndCutsSave :
    (∀ r ∈ [true, false],
      let s : State := { headed job host with faults := [(4, aFault r)] }
      let t : State := { seated 0 job 0x40 none host with faults := [(4, aFault r)] };
      canon s = true ∧ s.running = true ∧ s.entry? 4 = some job ∧ s.slotOf 4 = none ∧
      canon t = true ∧ t.running = true ∧ t.entry? 4 = some job ∧ t.slotOf 4 = some 0 ∧
      some! (t.slot? 0) (fun x => x.stop.isNone) = true ∧ (t.stream 1).destroy = none ∧
      -- nothing has begun, and no cut is being written
      s.ops = [] ∧ t.ops = [] ∧ (t.entries.any fun e => match e.kind with
        | .save _ _ _ _ _ _ => true
        | _ => false) = false) ∧
    (∀ why ∈ [StopWhy.abort, .fault (aFault false) [] 0 []],
      let s := slotWith (fun x => { x with stop := some why }) (seated 0 job 0x40 none host);
      canon s = true ∧ s.running = true ∧ s.quiet 0 = true ∧ s.entry? 4 = some job ∧
      some! (s.slotOfStream 1) (fun y => y.1 == 0 && y.2.entry == 4 && y.2.stop == some why) = true) ∧
    (let s := cutUp 1 (some (.checkpoint 7 1));
      canon s = true ∧ s.running = true ∧
      some! (s.cut? 1) (fun c => !s.slotHalted c.x && c.x.cutting.isNone && c.x.stopped == [(7, 1)] &&
        s.cutReady c 1 && (s.stateArea c.x c.e c.b (bitOf c.cflags 2)).2.isSome) = true) ∧
    (let s := slotWith (fun x => { x with lanes := [0, 1].map fun n =>
        (n, ⟨0x40, [], 0, some (.checkpoint (7 + n) 3), 0, none, []⟩) }) (cutUp 1 none);
      canon s = true ∧
      some! (s.cut? 1) (fun c => !s.slotHalted c.x && c.x.cutting.isNone &&
        c.x.stopped == [(7, 3), (8, 3)]) = true) ∧
    (∀ cf ∈ [1, 3],
      let s := slotWith (fun x => { x with cutting := some 5 }) (cutUp cf (some (.checkpoint 7 1)));
      canon s = true ∧ s.held = [] ∧
      some! (s.cut? 1) (fun c => !s.slotHalted c.x && c.x.cutting == some c.save.idx &&
        bitOf c.cflags 1 == decide (cf = 3)) = true) := by decide +kernel

theorem wit_SamplesAndFailedReadsActAsStated :
    (let s := (seated 7 job 0x40 none (hostWith [(Reg.FE_HANG_WINDOW, 2)])).setSlot 0 none
      let t : State := { s with prog := SMap.set State.progD s.prog 7 ⟨0, 0, 0, 0, [0, 0, 0, 0], 1⟩ };
      canon t = true ∧ t.running = true ∧ t.slot? 0 = none ∧ t.hangWindow = 2 ∧
      (t.progOf 7).last = [0, 0, 0, 0] ∧ (t.progOf 7).still + 1 = t.hangWindow ∧
      (t.progOf 6).last ≠ [0, 0, 0, 0] ∧
      some! (t.slot? 7) (fun x => !x.exempt && !t.slotHalted x) = true) ∧
    (let s := seated 7 job 0x40 (some (.pennant 0x4000 5 false 0 false)) host;
      some! (s.slot? 7) (fun x => x.exempt) = true) ∧
    (bitOf ((cfgSet host 0x98 16).cfgD 0x98) 4 = true ∧ canon (cfgSet host 0x98 16) = true ∧
      (cfgSet host 0x98 16).running = true) ∧
    bitOf (host.cfgD 0x98) 4 = false ∧ cplFail .poisoned = some .poisoned ∧
    (let s := ringed []
      let t : State := { s with ring := { s.ring with
        pollOut := true
        reading := 3
        penReads := [(2 ^ 45 + 64, false)] } };
      canon t = true ∧ t.running = true ∧ t.ring.pollOut = true ∧ t.ring.reading ≠ 0 ∧
      t.ring.penReads.map (fun x => x.1) = [2 ^ 45 + 64]) ∧
    (let s : State := { host with ring := { host.ring with records := 2 } };
      canon s = true ∧ s.running = true ∧ s.ring.records ≠ 0 ∧ host.ring.records = 0) ∧
    (∀ active ∈ [true, false],
      let e := { job with
        buf := job.buf.map fun b => { b with uda := 2 ^ 45 + 4096 }
        active := active }
      let s := headed e host;
      canon s = true ∧ s.running = true ∧ s.front .submit = none ∧ e.fault = none ∧
      s.bufferEntry 1 (2 ^ 45 + 4096) = some e ∧ s.entry? 4 = some e ∧ s.slotOf 4 = none) := by
  decide +kernel

/-! ### Hypotheses met: the sequencers -/

/-- A handle table entry: base, size, all rights, domain 0 and LOC. -/
def handleBytes (base size loc : Nat) : List Byte :=
  fields 32 [(0, base), (8, size), (16, 0x87), (18, loc)]

/-- A descriptor of 64 rows and columns of handle 1, at an offset, with this stride. -/
def descBytes (ofs stride : Nat) : List Byte :=
  fields 64 [(0, 2 ^ 40 + ofs), (8, 64), (12, 64), (16, stride)]

/-- `job` with one direct buffer: the operations of lane 0, two descriptors, lanes 0 and 1, and handle 1
at this base. -/
def opJob (ops : List Nat) (base loc : Nat) : Entry :=
  let pad := 2 - ops.length % 2
  let l := bufBytes 0 0 (ops ++ List.replicate pad 0) ++ descBytes 0 128 ++ descBytes 8192 128
  let b := { bufOfHeader 0x2000 l with
    lanes := 3
    laneOfs := [64, 64 + 32 * ops.length, 0, 0, 0, 0, 0, 0, 0]
    descOfs := 64 + 32 * (ops.length + pad)
    descCount := 2
    sealAt := some (0x100000, 4096)
    image := l
    handles := [(1, handleBytes base 0x10000 loc)] };
  { job with buf := some b }

/-- `host`, with that job in slot 0, its lane 0 at operation `i`, and its counters 0 and 1. -/
def opUp (ops : List Nat) (base loc i : Nat) (drs : SMap (Option DReg)) : State :=
  let s : State := { seated 0 (opJob ops base loc) 0x40 none host with gens := [⟨1, 0, 0, 2⟩] };
  ((s.setSlot 0 (some ⟨1, 4, [(0, ⟨64 + 32 * i, drs, 0, none, 0, none, []⟩)], none, none⟩)).allocToks 0 [(0, 2)]
    fun _ _ => 0)

/-- The next operation of lane 0 of slot 0 is relocated. -/
def readied (s : State) (node : Nat) : State := s.relocate 0 node View.none fun _ => true

/-- The next operation of a lane of slot 0 is relocated, with what `p` holds of. -/
def fetches (s : State) (node : Nat) (p : Fetch → SMap (Option DReg) → Nat → Bool) : Bool :=
  match s.laneReady 0 node with
  | some f₀ =>
    match f₀.l.ahead with
    | r :: t => p { f₀ with w := r.word, l := { f₀.l with ahead := t } } r.drs r.uda
    | [] => false
  | none => false

theorem fetches_of {s : State} {node : Nat} {p : Fetch → SMap (Option DReg) → Nat → Bool}
    (h : fetches s node p = true) : ∃ f drs u, s.Fetches 0 node f drs u ∧ p f drs u = true := by
  unfold fetches at h
  split at h
  · rename_i f₀ hf
    split at h
    · rename_i r t hr
      exact ⟨_, _, _, ⟨f₀, r, t, hf, hr, rfl, rfl, rfl⟩, h⟩
    · cases h
  · cases h

/-- TILE_READ of tile 0, slot 0, to handle 1. -/
def tileReadWord : Nat := 0x09 + 2 ^ (40 + 128)

/-- An operation queued for tile 0. -/
def queuedOp (ofs w : Nat) : OpRec :=
  newOp 0 0 ofs w (.tiles 1) [] 0

/-- `opUp` under Central dispatch: the buffer stands at 0x2000 and is not sealed. -/
def centralUp (ops : List Nat) (base : Nat) : State :=
  let s := opUp ops base 1 0 []
  let e := { opJob ops base 1 with buf := (opJob ops base 1).buf.map fun b => { b with sealAt := none } };
  put 0x2000 (((e.buf).map (·.image)).getD []) { s with entries := [e] }

/-- What G0 finds as it relocates the next operation of lane 0. -/
def relocs (s : State) (p : Lane → Relocated → Bool) : Bool :=
  match s.laneAhead 0 0 with
  | some (_, e, b, l) => p l ((Ctx.start s View.none []).relocNext (s.opEnv e b 0) l fun w => opCode w == 0x09)
  | none => false

theorem wit_OperationsAreFetchedAndIssued :
    (laneRow (.tileRead 0 0 .issue View.none)).isSome = true ∧
    (aheadRow (.tileRead 0 0 .relocate View.none)).isSome = true ∧
    (unitWords (.tileRead 0 0 .issue View.none)).isSome = true ∧
    host.laneReady 0 0 = none ∧ host.laneAhead 0 0 = none ∧
    -- relocated: an operation, one of another row, a misplaced tile, a missing handle
    (let s := opUp [tileReadWord] (2 ^ 44) 1 0 [];
      canon s = true ∧ relocs s (fun l q => l.ahead == [] && match q with
        | .ok _ k => k.ahead.map (·.word) == [tileReadWord]
        | _ => false) = true ∧
      s.laneReady 0 0 ≠ none ∧ some! ((readied s 0).laneReady 0 0) (fun g => g.l.ahead != []) = true) ∧
    relocs (opUp [0] (2 ^ 44) 1 0 []) (fun _ q => match q with
      | .none => true
      | _ => false) = true ∧
    (let s := opUp [tileReadWord] (2 ^ 44 + 32) 1 0 [];
      relocs s (fun l q => l.ahead == [] && match q with
        | .fault _ ofs _ _ x => ofs == l.pc && x.code == .opInvalid
        | _ => false) = true ∧
      some! ((readied s 0).laneReady 0 0) (fun g => g.l.ahead == []) = false) ∧
    relocs (opUp [0x09 + 2 ^ (41 + 128)] (2 ^ 44) 1 0 []) (fun _ q => match q with
      | .fault _ _ _ _ x => x.code == .handleInvalid
      | _ => false) = true ∧
    (let s := centralUp [tileReadWord] (2 ^ 44)
      let t : State := { s with ecc := [(0x2040 / 8, .ue [1, 2])] };
      relocs t (fun _ q => match q with
        | .unread _ _ x => x.code == .eccUncorr
        | _ => false) = true) ∧
    -- one behind another that stands relocated
    (let s := readied (centralUp [tileReadWord, 0x09 + 2 ^ (41 + 128)] (2 ^ 44)) 0;
      canon s = true ∧ relocs s (fun l q => l.ahead != [] && match q with
        | .fault _ _ _ _ x => x.code == .handleInvalid
        | _ => false) = true) ∧
    -- issued: with room and without, and one of another row
    (let s := readied (opUp [tileReadWord] (2 ^ 44) 1 0 []) 0;
      canon s = true ∧ fetches s 0 (fun f drs u => f.w == tileReadWord && opUnit f.w == some (.tiles 1) &&
        u == 2 ^ 44 && s.hasRoom (newOp 0 0 f.l.pc f.w (.tiles 1) drs u) &&
        some! (s.slot? 0) (fun x => (x.lane? 0).isSome)) = true ∧
      (let t : State := { s with ops := [queuedOp 0 0, queuedOp 32 0] };
        canon t = true ∧ fetches t 0 (fun f drs u =>
          !t.hasRoom (newOp 0 0 f.l.pc f.w (.tiles 1) drs u)) = true)) ∧
    fetches (readied (opUp [0] (2 ^ 44) 1 0 []) 0) 0 (fun f _ _ => opCode f.w != 0x09) = true := by
  decide +kernel

/-- A PENNANT_SIGNAL (0x0D) or PENNANT_WAIT (0x0E) of handle 1, with value 5 and bit 191. -/
def pennantWord (op : Nat) (b : Bool) : Nat := op + 2 ^ (40 + 64) + 5 * 2 ^ 128 + 2 ^ 191 * b2n b

/-- A CHECKPOINT with CP_ID 7 and LANES lane 0. -/
def checkpointWord : Nat := 0x0F + 7 * 2 ^ 64 + 2 ^ 80

theorem wit_LaneOperationsComplete :
    (∀ w ∈ [0, 1, 0x0B + 2 ^ 15 + 2 ^ 32, checkpointWord],
      let s := readied (opUp [w] (2 ^ 44) 1 0 []) 0;
      canon s = true ∧ s.laneIdle 0 0 = true ∧ s.running = true ∧
      fetches s 0 (fun f _ _ => f.w == w && !s.cutPending f.x.entry) = true) ∧
    (let s := opUp [0x08 + 2 ^ 64] 0 0 0 []
      let e := opJob [0x08 + 2 ^ 64] 0 0
      let b' := e.buf.map fun b => { b with lanes := 0x100, laneOfs := List.replicate 8 0 ++ [64] }
      let u : State := { s with entries := [{ e with buf := b' }] }
      let t := readied (u.setSlot 0 (some ⟨1, 4, [(8, ⟨64, [], 0, none, 0, none, []⟩)], none, none⟩)) 8;
      canon t = true ∧ fetches t 8 (fun f _ _ => opCode f.w == 0x08) = true) ∧
    (let s : State := { readied (opUp [0x0B + 2 ^ 15 + 2 ^ 32] (2 ^ 44) 1 0 []) 0 with
        ops := [queuedOp 0 0] };
      s.laneIdle 0 0 = false ∧ fetches s 0 (fun f _ _ => opCode f.w == 0x0B) = true) ∧
    (let s := readied (opUp [checkpointWord] (2 ^ 44) 1 0 []) 0
      let t : State := { s with entries := s.entries ++ [cutSave 1] };
      canon t = true ∧ t.cutPending 4 = true ∧ t.running = true ∧ fetches t 0 (fun f _ _ =>
        f.x.entry == 4) = true) ∧
    -- signals: local, to the host, and to device 9
    (∀ b ∈ [true, false],
      let s := readied (opUp [pennantWord 0x0D b] (2 ^ 44 + 8) 1 0 []) 0;
      canon s = true ∧ s.laneIdle 0 0 = true ∧ s.ecc = [] ∧ fetches s 0 (fun f _ u => isLocal u &&
        bitOf f.w 191 == b && s.addrOk true u 8 && opCode f.w == 0x0D) = true) ∧
    (let s := readied (opUp [pennantWord 0x0D false] (2 ^ 45 + 4096) 2 0 []) 0;
      canon s = true ∧ s.bme = true ∧ s.inD3 = false ∧ s.laneIdle 0 0 = true ∧ fetches s 0 (fun f _ u =>
        regionOf u == .host && s.addrOk true u 8 && !bitOf f.w 191) = true) ∧
    (∀ b ∈ [true, false],
      let s := (opUp [pennantWord 0x0D b] (2 ^ 47 + 9 * 2 ^ 35 + 64) 3 0 []).setReg Reg.FAB_STATE 3
      let t := readied { s with fab := { s.fab with map := [⟨9, 77, 0, true, 0⟩] } } 0;
      canon t = true ∧ t.laneIdle 0 0 = true ∧ fetches t 0 (fun f _ u => regionOf u == .remote &&
        t.remoteOk u == some true && bitOf f.w 191 == b) = true) ∧
    (let s := seated 0 job 0x40 (some (.checkpoint 7 1)) host;
      canon s = true ∧ s.running = true ∧ s.cutPending 4 = false ∧
      some! (s.slot? 0) (fun x => x.entry == 4 && x.cutting == none && !s.laneHalted x 0 &&
        some! (x.lane? 0) (fun l => l.block == some (.checkpoint 7 1))) = true) := by decide +kernel

/-- TOKEN_WAIT on counter 1 for 3. -/
def tokenWaitWord : Nat := 0x0C + 2 ^ 8 + 2 ^ 14 + 3 * 2 ^ 16

/-- BARRIER on counter 1 of lanes 0 and 1. -/
def barrierWord : Nat := 0x10 + 2 ^ 64 + 3 * 2 ^ 80

theorem wit_WaitsPostsAndCompletionsAct :
    (∀ v ∈ [2, 3, 65535], ∀ w ∈ [tokenWaitWord, barrierWord],
      let s := readied ((opUp [w] (2 ^ 44) 1 0 []).setTokVal 0 0 1 v) 0;
      canon s = true ∧ s.tokVal 0 0 1 = v ∧ s.laneIdle 0 0 = true ∧ s.ops = [] ∧
      some! (s.tokAt 0 0 1) (fun i => (SMap.get State.tokD s.toks i).served != s.cycle + 1) = true ∧
      fetches s 0 (fun f _ _ => f.w == w && waitN tokenWaitWord == 3 && waitTok tokenWaitWord == 1 &&
        bits barrierWord 69 64 == 1 && !postEn barrierWord) = true) ∧
    (let s := readied (opUp [barrierWord] (2 ^ 44) 1 0 []) 0;
      canon s = true ∧ s.tokVal 0 0 1 = 0 ∧ s.laneIdle 0 0 = true ∧ fetches s 0 (fun _ _ _ => true) = true) ∧
    -- pennant waits: not reached, reached, and on the host
    (∀ v ∈ [4, 5],
      let s := readied (put (2 ^ 44 + 8) (leBytes 8 v)
        (opUp [pennantWord 0x0E false] (2 ^ 44 + 8) 1 0 [])) 0;
      canon s = true ∧ s.ecc = [] ∧ fetches s 0 (fun f _ u => opCode f.w == 0x0E && isLocal u &&
        s.addrOk true u 8 && !bitOf (s.rawWord u) 63 && bits f.w 190 128 == 5 &&
        s.rawWord u % 2 ^ 63 == v && f.x.lanes.map (·.1) == [0]) = true) ∧
    (let s := readied (opUp [pennantWord 0x0E false] (2 ^ 45 + 4096) 2 0 []) 0;
      canon s = true ∧ s.bme = true ∧ s.inD3 = false ∧ s.ring.penReads = [] ∧ fetches s 0 (fun f _ u =>
        opCode f.w == 0x0E && regionOf u == .host && s.tagFree (.read (s.iova u) 8)) = true) ∧
    -- completions of a first and a last repetition, with and without a post
    (∀ r ∈ [1, 2], ∀ w ∈ [0x03 + 2 * 2 ^ 96, 0x03 + 2 ^ 15 + 2 ^ 32 + 2 * 2 ^ 96],
      let o : OpRec := { queuedOp 64 w with
        unit := .mover 0
        rep := r
        issued := true }
      let s : State := { opUp [0] (2 ^ 44) 1 0 [] with ops := [o] };
      canon s = true ∧ s.opAt 0 0 64 = some o ∧ s.running = true ∧ s.opQuiet o = true ∧ o.after = [] ∧
      opRepeat o.word = 2 ∧ some! (s.slot? 0) (fun x => !s.slotHalted x) = true) ∧
    -- a post that fits, one that just does, and one that does not
    (∀ v ∈ [0, 65533, 65534],
      let p : Post := ⟨0, 1, 0, 1, 2, 64, 0, 0⟩
      let s : State := { (opUp [0] (2 ^ 44) 1 0 []).setTokVal 0 0 1 v with posts := [p] };
      canon s = true ∧ s.running = true ∧ s.tokVal 0 0 1 = v ∧ (s.tokAt 0 0 1).isSome = true ∧
      takePosts 0 0 1 [1] s.posts = ([p], []) ∧ s.ops = [] ∧
      ((upto 9).filter fun n => [(1 : Fin 9)].any fun y => y.val == n) = [1] ∧
      some! (s.slot? 0) (fun x => !s.slotHalted x && some! (x.lane? 0) fun l => l.block == none) = true) ∧
    (let s := slotWith (fun x => { x with stop := some .abort }) (opUp [0] (2 ^ 44) 1 0 []);
      some! (s.slot? 0) (fun x => x.stop.isSome) = true) := by decide +kernel

/-! ### Hypotheses met: the units -/

/-- A descriptor register of `r` rows and `c` columns at this offset of cluster 0's plate store. -/
def regOf (r c ofs : Nat) : Option DReg :=
  some { dregOfBytes (fields 64 [(0, 2 ^ 40 + ofs), (8, r), (12, c), (16, 128)]) with uda := 2 ^ 44 + ofs }

/-- An operation at offset 64 of lane 0, with registers 1 to 4, in its queue. -/
def queued (word : Nat) (unit : UnitId) : OpRec :=
  { queuedOp 64 word with
    unit := unit
    uda := 2 ^ 44 + 64
    drs := [(1, regOf 1 4 0), (2, regOf 4 2 0x1000), (3, regOf 1024 64 0x4000),
      (4, regOf 64 64 0x40000)] }

/-- `opUp`, with these operations queued. -/
def queueUp (l : List OpRec) : State := { opUp [0] (2 ^ 44) 1 0 [] with ops := l }

/-- A COPY of 4 bytes from register 1 to register 2. -/
def copyWord : Nat := 0x03 + 2 ^ 72 + 2 * 2 ^ 80 + 3 * 2 ^ 128

/-- A FILL of 16 bytes of register 2. -/
def fillWord : Nat := 0x03 + 4 * 2 ^ 66 + 2 * 2 ^ 80 + 15 * 2 ^ 128 + 9 * 2 ^ 192

theorem wit_UnitOperationsArePerformed :
    (unitAt (.moveCopy 0 0 (.perform 64) View.none)).isSome = true ∧
    (unitWords (.moveCopy 0 0 (.perform 64) View.none)).isSome = true ∧
    (unitBody (.moveCopy 0 0 (.perform 64) View.none)).isSome = true ∧
    (let o := queued copyWord (.mover 0)
      let s := queueUp [o];
      s.opAt 0 0 64 = some o ∧ s.atHead o = true ∧ s.running = true ∧ isMove 0 o.word = true ∧
      o.issued = false ∧ waitEn o.word = false ∧ s.tilesOpen o = true ∧
      some! (s.slot? 0) (fun x => !s.slotHalted x) = true ∧
      s.claim 0 0 64 (isMove 0) = (s, some o) ∧
      (let c := moveCopyBody o (Ctx.start s View.none o.fetched);
        c.err = none ∧ c.stall = false ∧ c.miss = [])) ∧
    -- not at the head, issued, another row's, stopped
    (let o := queued copyWord (.mover 0)
      let s := queueUp [{ o with ofs := 32 }, o];
      s.opAt 0 0 64 = some o ∧ s.atHead o = false) ∧
    (let s := slotWith (fun x => { x with stop := some .abort }) (queueUp [queued copyWord (.mover 0)]);
      some! (s.slot? 0) (fun x => s.slotHalted x) = true) ∧
    -- an error, a wait for the host, and bytes to be fetched from device 9
    (let o := { queued copyWord (.mover 0) with drs := [] }
      let s := queueUp [o];
      s.claim 0 0 64 (isMove 0) = (s, some o) ∧
      (moveCopyBody o (Ctx.start s View.none o.fetched)).err.isSome = true) ∧
    (let o := { queued copyWord (.mover 0) with
        drs := [(1, (regOf 1 4 0).map fun d => { d with uda := 2 ^ 45 + 4096 }), (2, regOf 4 2 0x1000)] }
      let s := (cfgSet (queueUp [o]) 4 2);
      s.claim 0 0 64 (isMove 0) = (s, some o) ∧
      (let c := moveCopyBody o (Ctx.start s View.none o.fetched); c.err = none ∧ c.stall = true)) ∧
    (let o := { queued copyWord (.mover 0) with
        drs := [(1, (regOf 1 4 0).map fun d => { d with uda := 2 ^ 47 + 9 * 2 ^ 35 }),
          (2, regOf 4 2 0x1000)] }
      let u := (queueUp [o]).setReg Reg.FAB_STATE 3
      let s : State := { u with fab := { u.fab with map := [⟨9, 77, 0, true, 0⟩] } };
      s.claim 0 0 64 (isMove 0) = (s, some o) ∧
      (let c := moveCopyBody o (Ctx.start s View.none o.fetched);
        c.err = none ∧ c.stall = false ∧ c.miss ≠ [])) ∧
    -- a tile that an earlier operation holds
    (let o := queued 0x0A (.tiles 1)
      let e := { queued 0x04 .egress with
        ofs := 32
        word := 0x04 + 2 ^ 80 }
      let s := queueUp [e, o];
      s.claim 0 0 64 (fun w => opCode w == 0x0A) = (s, some o) ∧ s.tilesOpen o = false) := by
  decide +kernel

theorem wit_CopiesFillsAndTilesMoveBytes :
    (let o := queued copyWord (.mover 0)
      let s := queueUp [o];
      canon s = true ∧ s.opAt 0 0 64 = some o ∧ s.tilesOpen o = true ∧ s.ecc = [] ∧
      s.claim 0 0 64 (fun w => isMove 0 w || isMove 6 w || isMove 7 w) = (s, some o) ∧
      some! o.ends (fun x => decide (0 < (moveWord o.word).bytes) && isLocal x.1.uda && isLocal x.2.uda &&
        s.addrOk false x.1.uda (moveWord o.word).bytes && s.addrOk false x.2.uda (moveWord o.word).bytes &&
        decide (x.1.uda + (moveWord o.word).bytes ≤ x.2.uda))
        = true) ∧
    (let o := queued fillWord (.mover 0)
      let s := queueUp [o];
      canon s = true ∧ s.tilesOpen o = true ∧ s.claim 0 0 64 (isMove 4) = (s, some o) ∧
      (moveWord o.word).bytes = 16 ∧
      some! (o.reg (moveWord o.word).dst) (fun b => isLocal b.uda && s.addrOk false b.uda 16) = true) ∧
    (let o := queued 0x09 (.tiles 1)
      let s := queueUp [o];
      canon s = true ∧ s.tilesOpen o = true ∧ s.claim 0 0 64 (fun w => opCode w == 0x09) = (s, some o) ∧
      s.tileAllowed 0 0 (s.domainOf o) = true ∧ (s.tile 0 0).holds 0 false = true ∧
      (s.tile 0 0).holds 0 true = false ∧
      ((s.tile 0 0).slot 0).oneShift false = true ∧ isLocal o.uda = true ∧
      s.addrOk false o.uda (tileBytes 1) = true) ∧
    (let o := queued 0x09 (.tiles 1)
      let s := (queueUp [o]).setReg (clReg 0 Reg.CL_TILE_PDMASK) 0xFFFE;
      canon s = true ∧ s.tilesOpen o = true ∧ s.claim 0 0 64 (fun w => opCode w == 0x09) = (s, some o) ∧
      s.tileAllowed 0 0 (s.domainOf o) = false) ∧
    (let o := queued 0x0A (.tiles 1)
      let s := put (2 ^ 44 + 64) (TileHdr.bytes ⟨0x7A1E, 1, 0, 0, 0, 0, 0, 64, 64, 0⟩) (queueUp [o]);
      canon s = true ∧ s.tilesOpen o = true ∧ s.claim 0 0 64 (fun w => opCode w == 0x0A) = (s, some o) ∧
      s.tileAllowed 0 0 (s.domainOf o) = true ∧ (s.tile 0 0).a16 = bitOf o.word 70 ∧
      s.addrOk false o.uda (tileBytes 1) = true ∧
      (tileHdr (s.rawRead o.uda (tileBytes 1))).ok [0, 1] = true ∧
      (tileHdr (s.rawRead o.uda (tileBytes 1))).format = 1) := by decide +kernel

/-- A MATMUL of 1 × 4 by 4 × 2 at length 16 on tile 0 with spills, and more of its fields. -/
def mmWord (x : Nat) : Nat :=
  0x02 + 2 ^ 64 + 2 * 2 ^ 72 + 2 ^ 96 + 4 * 2 ^ 112 + 2 ^ 176 + 3 * 2 ^ 178 + x

/-- That operation with a run of tile 0. -/
def mmRun (x pos : Nat) (ovf : List (Nat × Nat)) (due : List Nat) (chunks : Nat) : OpRec :=
  { queued (mmWord x) (.tiles 1) with
    begun := true
    mat := some ⟨[⟨0, true, false, pos, 0, 0, ovf, due, [], 0, 0, chunks, [], [], false⟩], 0, none, 16⟩ }

/-- What tile 0 of cluster 0 runs. -/
def onArray (s : State) (p : OpRec → MatCfg → Bool) : Bool :=
  match s.matOn 0 0 with
  | some (o, c) => p o c
  | none => false

/-- Margin stop of MARGIN_ID 0 with k 1, list register 4, on these clusters. -/
def marginBits (cls : Nat) : Nat := 2 ^ 175 + cls * 2 ^ 197 + 4 * 2 ^ 205

theorem wit_MatmulAdvancesStepByStep :
    (∀ m ∈ [none, (mmRun 0 0 [] [] 0).mat],
      let o := { queued (mmWord 0) (.tiles 1) with mat := m }
      let s := queueUp [o];
      s.claim 0 0 64 (fun x => opCode x == 0x02) = (s, some o) ∧ s.gated = false) ∧
    -- gated, a group not complete, another tile not open
    (let s : State := { (queueUp [mmRun 0 0 [] [] 0]).setReg Reg.PWR_GOV 15 with cycle := 15 };
      s.gated = true ∧ onArray s (fun _ _ => true) = true) ∧
    (let s := queueUp [mmRun (marginBits 3) 0 [] [] 0];
      onArray s (fun o c => !s.groupReady o c) = true) ∧
    (let s := queueUp [{ queued 0x0A (.tiles 2) with ofs := 32 },
        { mmRun (2 ^ 171 + 2 * 2 ^ 96) 0 [] [] 0 with unit := .tiles 3 }];
      onArray s (fun o c => c.together 0 == [0, 1] && !s.tileOpen o 1) = true) ∧
    -- begin: a bad tile to add to
    (let o := { mmRun (2 ^ 177) 0 [] [] 0 with
        mat := some ⟨[⟨0, false, false, 0, 0, 0, [], [], [], 0, 0, 0, [], [], false⟩], 0, none, 16⟩ }
      let s := queueUp [o];
      onArray s (fun o c => s.groupReady o c && (c.together 0).all (fun t => s.tileOpen o t) &&
        (s.beginAll o c (c.together 0)).2.isSome) = true) ∧
    -- a step
    (let s := queueUp [mmRun 0 0 [] [] 0];
      s.gated = false ∧ onArray s (fun o c => s.groupReady o c && c.together 0 == [0] &&
        (s.beginAll o c [0]).2.isNone &&
        some! ((s.beginAll o c [0]).1.run? o 0) (fun r => r.due == [] && !r.done) &&
        !(s.beginAll o c [0]).1.mustRewind o c [0] && (s.stepAll o c 1 [0]).2.isNone) = true) ∧
    -- spills: the last of a round and not the last, without a register, and one that waits
    (∀ due ∈ [[0], [0, 0]],
      let s := queueUp [mmRun 0 4 [] due 0];
      onArray s (fun o c => some! (s.run? o 0) fun r => !c.w.margin && !c.isInitial 0 r 0 &&
        r.due == due && (let x := (Ctx.start s View.none []).spillTile o c 0 0 true;
          x.err.isNone && (x.afterSpill o c { r with due := [], spilled := [0] } 0 false).1.err.isNone))
        = true) ∧
    (let s := queueUp [{ mmRun 0 4 [] [0] 0 with drs := [(1, regOf 1 4 0), (2, regOf 4 2 0x1000)] }];
      onArray s (fun o c => ((Ctx.start s View.none []).spillTile o c 0 0 true).err.isSome) = true) ∧
    (let s := queueUp [mmRun (marginBits 1) 4 [] [0] 1];
      onArray s (fun o c => s.groupReady o c && c.w.margin && some! (s.run? o 0) fun r =>
        !c.isInitial 0 r 0 && some! o.mat fun m => c.heldBack r m.decided) = true) ∧
    -- rewinds: none due, without SPILL_EN over old contents, one in range, and one out of it
    (let s := queueUp [mmRun 0 4 [] [] 0]; onArray s (fun o c => !s.mustRewind o c [0]) = true) ∧
    (let s := queueUp [{ mmRun 0 4 [(0, 5)] [] 0 with
        word := mmWord 0 - 2 ^ 176 + 2 ^ 71 }];
      onArray s (fun o c => s.mustRewind o c (c.together 0) && !c.w.spillEn && c.w.add) = true) ∧
    (∀ sh ∈ [30, 31],
      let u := queueUp [mmRun 0 4 [(0, 5)] [] 0]
      let s := u.modSlot 0 0 0 fun x => { x with cells := [(5, ⟨0, sh, false⟩)] };
      onArray s (fun o c => s.mustRewind o c (c.together 0) && c.together 0 == [0] && c.w.spillEn &&
        some! (s.run? o 0) fun r => (s.rewindTile o c r).2.isNone == (sh == 30)) = true) ∧
    -- margin decisions: before the end, and at it
    (∀ d ∈ [0, 3],
      let o := { mmRun (marginBits 1) 4 [] [] (d + 1) with
        mat := some ⟨[⟨0, true, false, 4, 0, 0, [], [], [], 0, 0, d + 1, [], [], false⟩], d, none, 16⟩ }
      let s := queueUp [o];
      s.running = true ∧ s.dueTurn 0 0 = some 0 ∧
      some! (s.slot? 0) (fun x => !s.slotHalted x) = true ∧ s.marginGroup 0 0 0 = [o] ∧
      some! (s.matNow o) (fun c =>
        let t := min c.len ((o.decided + 1) * c.p)
        let q := (Ctx.start s View.none []).marginRows [(o, c)] c.m t;
        t == 4 * (d + 1) && q.1.err.isNone && decide (t < c.len) == (d == 0) &&
          q.2.any (fun r => !r.proven c.w.marginK) &&
          (let k := (Ctx.start (q.1.s.stopMember o c t) View.none []).write false true
              (((drOf o.drs c.w.drTopk).map (·.uda)).getD 0)
              ((⟨c.w.marginK, 0, c.m, c.a.eRef + c.b.eRef, c.io, c.len, t⟩ : LHdr).bytes ++
                q.2.flatMap fun r => recordBytesOf (r.record c.w.marginK));
            k.err.isNone && !k.stall)) = true) ∧
    (let o := { mmRun (marginBits 1) 4 [] [] 1 with
        drs := [(1, regOf 1 4 0), (2, regOf 4 2 0x1000)] }
      let s := queueUp [o];
      s.dueTurn 0 0 = some 0 ∧ s.marginGroup 0 0 0 = [o]) := by decide +kernel

/-! ### Hypotheses met: events of the memories -/

theorem wit_MemoryEventsAct :
    (∀ unit ∈ [0, 383],
      let s : State := { host with ecc := [(2 ^ 41, .ce 3), (2 ^ 41 + 1, .ue [0, 71])] };
      canon s = true ∧ s.running = true ∧ SMap.get State.natD s.scrubRow unit < 4096 ∧ unit < 384) ∧
    (canon host = true ∧ host.running = true ∧ host.dramOn = true ∧ host.iecc = true) ∧
    -- an upset of the last bit of a word that no visit of unit 0 reaches
    (let w := 2 ^ 41 + 4096;
      (71 < 72) ∧ regionOf (8 * w) = .plate ∧ host.addrOk false (8 * w) 8 = true ∧
      SMap.get State.eccD host.ecc w = .none ∧ w / 8 ≠ 2 ^ 44 / 64) ∧
    (let s : State := { host with
        ecc := [(8, .ce 3), (9, .ue [0, 71])]
        corrQ := [1] };
      canon s = true ∧ s.running = true ∧ s.corrQ = [1]) := by decide +kernel

/-! ### Hypotheses met: power, pins and temperature -/

/-- A state with a change of point in progress. -/
def changing (c : OpChange) (regs : List (Nat × Nat)) (f : Power → Power) : State :=
  let s := hostWith regs;
  { s with pwr := f { s.pwr with change := some c } }

theorem wit_OperatingPointChangesRun :
    (let c : OpChange := ⟨0, true, false, false, false⟩
      let s := changing c [(Reg.PWR_OP, 0x203)] id;
      canon s = true ∧ s.alive = true ∧ s.pwr.change = some c ∧ s.pwr.pmb = none ∧ s.muxWait = none) ∧
    (∀ c ∈ [(⟨0, true, true, true, true⟩ : OpChange), ⟨2, false, true, false, false⟩],
      let s := changing c [(Reg.PWR_OP, 0x201), (Reg.PWR_PMB_CFG, 0x10000)] id;
      canon s = true ∧ s.alive = true ∧ s.pwr.change = some c ∧ c.locked = true ∧
      (c.faster = true → c.ok = true) ∧ s.op ≠ c.target ∧ c.target < 4 ∧ s.pwr.pmb = none ∧
      s.pwr.brakeDue = false ∧ s.pmbEn = true) ∧
    -- transactions: writes and reads, first and last tries, for either direction
    (∀ p ∈ [(⟨true, 9, 0⟩ : PmbTrans), ⟨true, 9, 3⟩, ⟨false, 0, 2⟩, ⟨false, 0, 3⟩],
      ∀ c ∈ [(⟨0, true, true, true, false⟩ : OpChange), ⟨2, false, true, false, false⟩],
      let s := changing c [(Reg.PWR_OP, 0x201)] fun x => { x with pmb := some p };
      canon s = true ∧ s.alive = true ∧ s.pwr.pmb = some p ∧ s.muxWait = none ∧
      s.pwr.brakeDue = false) ∧
    bitOf 0x8000 15 = true ∧ (bitOf 0 15 || bitOf 0 6 || bitOf 0 5 || bitOf 0 1) = false := by
  decide +kernel

/-- No static power: the governed power is the board's allowance `p`, in mW; the cap is 100 W. -/
def governs (p op gov dwell : Nat) : State :=
  let s := hostWith [(Reg.PWR_COEF_STATIC, 0), (Reg.PWR_BOARD_ALLOW, p), (Reg.PWR_VOUT_OP01, 0x00640064),
    (Reg.PWR_CAP, 100), (Reg.PWR_OP, op), (Reg.PWR_GOV, gov)];
  { s with pwr := { s.pwr with dwell := dwell } }

theorem wit_GovernorHoldsTheCap :
    (∀ x ∈ [(90000, 0x20, 0, 0), (101000, 0x01, 0, 0), (200000, 1, 0, 1), (10000, 1, 0x11, 5),
        (10000, 1, 1, 5), (10000, 1, 0, 0), (90000, 1, 0, 0)],
      let s := governs x.1 x.2.1 x.2.2.1 x.2.2.2;
      canon s = true ∧ s.alive = true ∧ s.ready = true ∧ s.estWord 0 ≠ 0 ∧
      bitOf (s.reg Reg.PWR_OP) 6 = false ∧ s.pwr.thHold = false ∧ s.governed [] = x.1 ∧
      s.capMw = 100000 ∧ s.pwr.change = none ∧ s.op = x.2.1 % 4 ∧ s.ceilOp = x.2.1 / 16 ∧
      s.fld Reg.PWR_GOV 3 0 = x.2.2.1 % 16 ∧ s.fld Reg.PWR_GOV 5 4 = x.2.2.1 / 16) ∧
    -- slower: by one point, where the gate alone would need more than 4; faster: 15 / 16 of the cap
    (4 < 0 + cdiv (16 * (200000 - 100000)) 200000 ∧ 0 + cdiv (16 * (101000 - 100000)) 101000 ≤ 4) ∧
    (let s := governs 10000 1 0 0;
      16 * 10000 * freqOf 0 * s.estWord 0 ^ 2 ≤ 15 * 100000 * freqOf 1 * s.estWord 1 ^ 2) := by
  decide +kernel

theorem wit_TemperatureThrottlesAndTrips :
    (canon host = true ∧ host.perst = false ∧ (List.replicate 12 (440 : Word16)).length = 12 ∧
      host.alive = true ∧ host.ready = true) ∧
    (let s : State := { host with pwr := { host.pwr with hot2 := true } };
      canon s = true ∧ s.alive = true ∧ s.pwr.hot2 = true) := by decide +kernel

theorem wit_BrakeTelemetryAndPinsAct :
    (let s := hostWith [(muxReg 4, 8), (Reg.PWR_OP, 1)];
      canon s = true ∧ s.alive = true ∧ s.ready = true ∧ s.pinFn 4 = some 8 ∧
      bitOf (s.reg Reg.PWR_GOV) 6 = false ∧ s.pwr.change = none ∧ s.op ≠ 3) ∧
    (let s := hostWith [(Reg.PWR_TELEM_ADDR, 0x4000)]
      let u := s.reg64 Reg.PWR_TELEM_ADDR % 2 ^ 48;
      canon s = true ∧ u ≠ 0 ∧ u % 128 = 0 ∧ s.inDram u 256 = true) ∧
    (let s : State := { host with pwr := { host.pwr with telemQ := [(0x4000, leBytes 64 7)] } };
      canon s = true ∧ s.pwr.telemQ = [(0x4000, leBytes 64 7)]) ∧
    (∀ n ∈ [0, 11],
      let k : Park := ⟨0, true, none⟩
      let u := hostWith [(muxReg 0, 6), (muxReg 1, 7), (Reg.PIN_STATUS, 1)]
      let s : State := { u with parks := SMap.set State.parkD u.parks n (some k) }
      let t := s.setReg (muxReg 0) 1;
      canon s = true ∧ s.alive = true ∧ s.park n = some k ∧ k.next = none ∧ s.pmbEn = false ∧
      canon t = true ∧ t.mux 0 ≠ 6 ∧ t.park n = some k) := by decide +kernel

/-! ### Hypotheses met: boot, the flash and the fuses -/

/-- The flash holds `fwGood` in slot A, and nothing else. -/
def goodFlash : FlashPart := flashProgram part (fwBase 1) fwGood

theorem wit_PowerUpSequenceRuns :
    (State.reset.perst = true ∧ State.reset.ready = false ∧ canon State.reset = true ∧
      discover none = none ∧ (discover (some part)).isSome = true) ∧
    (let s := made [(Reg.ALM_BOOT_STATUS, 0x1800)];
      canon s = true ∧ s.alive = true ∧ 3 ≤ s.bootStep ∧ s.ready = false ∧ s.dramSetting.1 < 3 ∧
      bitOf (s.reg Reg.MEM_TRAIN_STATUS) 16 = false ∧ s.fwDone = false ∧ s.flash = none) ∧
    (let s : State := { made [(Reg.ALM_BOOT_STATUS, 0x1800)] with flash := some part };
      canon s = true ∧ fwTry part = [1, 2] ∧ (∀ n ∈ fwTry part, fwOk (fwImage part n) s.svnFloor = false) ∧
      fwImage goodFlash 1 = fwGood ∧ fwOk (fwImage goodFlash 2) s.svnFloor = false ∧
      (fwTry goodFlash).length = 2 ∧ s.svnFloor = 0) ∧
    (let s := made [(Reg.ALM_BOOT_STATUS, 0x2900), (Reg.MEM_TRAIN_STATUS, 0x1FFFF)];
      canon s = true ∧ s.alive = true ∧ s.ready = false ∧ bitOf (s.reg Reg.MEM_TRAIN_STATUS) 16 = true ∧
      s.fwDone = true ∧ ∀ p : Fin 6, s.linkSt p = 0) := by decide +kernel

/-- An update with these commands left. -/
def updating (l : List FlashCmd) : State :=
  { host with
    flash := some part
    update := some ⟨.almanac, 7, l, 0, []⟩ }

theorem wit_FlashAndFuseCommandsEnd :
    (∀ l ∈ [[FlashCmd.erase 0x1000, .program 0x1000 [1, 2]], [.program 0x1000 [1, 2], .readBack 0x1000 [1, 2]],
        [.readBack 0x1000 [1, 2]], [.readBack 0x1000 [255, 255]], [.erase 0x1000]],
      canon (updating l) = true ∧ (updating l).update.isSome = true ∧ (updating l).flash = some part) ∧
    flashRead part 0x1000 2 ≠ [1, 2] ∧ flashRead part 0x1000 2 = [255, 255] ∧
    (let s : State := { hostWith [(Reg.ALM_FW_SVN, 40)] with
        svnBusy := true
        svnFloor := 32 };
      canon s = true ∧ s.svnBusy = true ∧ s.alive = true ∧ s.svnFloor ≤ 32 ∧
      s.rearm.contains 2 = false) := by decide +kernel

theorem wit_SetUpPowerAndBootCommandsComplete :
    (let s := hostWith [(Reg.FE_RING_CTRL, 12), (Reg.FE_DB_ADDR, 0x1000), (Reg.FE_STATUS_ADDR, 0x1040)];
      canon s = true ∧ s.reach .bar0 Reg.FE_RING_CTRL = .full ∧ bitOf (s.reg Reg.FE_RING_CTRL) 0 = false ∧
      (s.setFld Reg.FE_RING_CTRL 5 1 (bits 12 5 1)).ringSetupOk = true ∧
      after (exec (.ringEnable 12) s) (fun t => bitOf (t.reg Reg.FE_RING_CTRL) 0 && t.ring.started) = true) ∧
    (let s := ringed [];
      canon s = true ∧ s.reach .bar0 Reg.FE_RING_CTRL = .full ∧ bitOf (s.reg Reg.FE_RING_CTRL) 0 = true ∧
      after (exec (.ringDisable 13) s) (fun t => !bitOf (t.reg Reg.FE_RING_CTRL) 0 && !t.ring.started) =
        true) ∧
    (let s := host.setReg (lk 5 Reg.FAB_LINK_CTRL) 0;
      canon s = true ∧ s.reach .bar0 (lk 5 Reg.FAB_LINK_CTRL) = .full ∧
      bitOf (s.reg (lk 5 Reg.FAB_LINK_CTRL)) 0 = false ∧ s.linkSt 5 = 0 ∧
      after (exec (.linkEnableWrite 5 15 1) s) (fun t => t.linkSt 5 == 1) = true) ∧
    (let s := (host.setReg (lk 5 Reg.FAB_LINK_CTRL) 1).setLink 5 2 0 0;
      canon s = true ∧ s.reach .bar0 (lk 5 Reg.FAB_LINK_CTRL) = .full ∧ s.linkUp 5 = false ∧
      bitOf (s.reg (lk 5 Reg.FAB_LINK_CTRL)) 0 = true ∧ s.linkSt 5 ≠ 7 ∧
      after (exec (.linkDisableWrite 5 15 0) s) (fun t => t.linkSt 5 == 0) = true) ∧
    (let s := ((host.setReg (lk 5 Reg.FAB_LINK_CTRL) 1).setLink 5 6 2 8).setPort 5 busyPort;
      canon s = true ∧ s.reach .bar0 (lk 5 Reg.FAB_LINK_CTRL) = .full ∧ s.linkUp 5 = true ∧
      after (exec (.linkRetrainWrite 5 15 3) s) (fun t => t.linkSt 5 == 7 &&
        t.fld (lk 5 Reg.FAB_LINK_DOWN_CAUSE) 2 0 == 6) = true) ∧
    (let s := hostWith [(Reg.FE_EXPERT_STATUS, 3)];
      canon s = true ∧ s.reach .bar0 (muxReg 11) = .full ∧ s.unlocked = true ∧ s.park 11 = none ∧
      funcOk 11 10 = true ∧ s.mux 11 ≠ 10 ∧ pmbFunc 11 ≠ some (s.mux 11) ∧
      after (exec (.pinMuxWrite 11 15 10) s) (fun t => t.mux 11 == 10 && (t.park 11).isSome) = true) ∧
    (let c : OpChange := ⟨0, true, false, false, false⟩
      let s := changing c [(Reg.PWR_OP, 0x203)] id;
      canon s = true ∧ s.alive = true ∧ s.pwr.change = some c ∧ s.pwr.pmb = none ∧ c.faster = true ∧
      c.settled = false) ∧
    (let c : OpChange := ⟨2, false, true, false, false⟩
      let s := changing c [(Reg.PWR_OP, 0x201), (Reg.PWR_PMB_CFG, 0x10000)] id;
      canon s = true ∧ s.alive = true ∧ c.locked = true ∧ s.op ≠ c.target ∧ c.target < 4 ∧
      s.pwr.pmb = none ∧ s.pwr.brakeDue = false ∧
      after (exec .opSwitch s) (fun t => t.op == 2 && t.reg Reg.PWR_OP_SWITCHES == 1) = true) ∧
    (let p : PmbTrans := ⟨true, 9, 2⟩
      let s : State := { host with pwr := { host.pwr with pmb := some p } };
      s.alive = true ∧ s.muxWait = none ∧ s.pwr.pmb = some p ∧ p.tries < 3) ∧
    (let s := made [(Reg.ALM_BOOT_STATUS, 0x1800)];
      canon s = true ∧ s.alive = true ∧ s.ready = false ∧ 3 ≤ s.bootStep ∧
      bitOf (s.reg Reg.MEM_TRAIN_STATUS) 16 = false ∧ s.fwDone = false ∧
      after (exec (.dramTrainingDone none 0xFFFE true) s) (fun t => t.bootStep == 4 &&
        t.fld Reg.MEM_TRAIN_STATUS 16 0 == 0x1FFFE) = true ∧
      after (exec .firmwareCheckDone s) (fun t => t.bootStep == 5 && t.fwDone) = true) ∧
    (let s := made [(Reg.ALM_BOOT_STATUS, 0x2900), (Reg.MEM_TRAIN_STATUS, 0x1FFFF)];
      canon s = true ∧ s.alive = true ∧ s.ready = false ∧ 3 ≤ s.bootStep ∧
      bitOf (s.reg Reg.MEM_TRAIN_STATUS) 16 = true ∧ s.fwDone = true ∧
      after (exec .bootReady s) (fun t => t.ready && t.bootStep == 6) = true) ∧
    (let s := updating [.erase 0x1000, .program 0x1000 [1, 2]];
      s.flash = some part ∧
      after (exec (.flashCommandDone .done) s) (fun t => t.update.isSome && t.regs == s.regs) = true) ∧
    (let s : State := { host with
        flash := some part
        update := some ⟨.recovery, 7, [.erase 0x1000], 0, []⟩ };
      canon s = true ∧ 1 ∉ s.rearm ∧ after (exec .flashDeadline s) (fun t => t.update.isNone &&
        t.fld Reg.ALM_UPDATE 11 4 == 5 && t.fld Reg.ALM_RECOVERY 8 1 == 5) = true) ∧
    (let s : State := { hostWith [(Reg.ALM_FW_SVN, 5)] with svnBusy := true };
      canon s = true ∧ s.alive = true ∧ s.svnBusy = true ∧
      after (exec .svnCommitDone s) (fun t => t.svnFloor == 5) = true) ∧
    (∀ a l, FlashCmd.erase 0x1000 ≠ .readBack a l) ∧ State.reset.HeldInReset :=
  ⟨by decide +kernel, by decide +kernel, by decide +kernel, by decide +kernel, by decide +kernel,
    by decide +kernel, by decide +kernel, by decide +kernel, by decide +kernel, by decide +kernel,
    by decide +kernel, by decide +kernel, by decide +kernel, by decide +kernel,
    (fun _ _ h => by cases h), ⟨rfl, rfl, by simp [State.reset]⟩⟩

/-! ### Well-formedness: an ill-formed term for every check -/

theorem smoke_entry_reads : Instr.wellFormed (.entryReadReturn (List.replicate 63 0) none) = false ∧
    Instr.wellFormed (.entryReadReturn (List.replicate 1088 0) none) = false ∧
    Instr.wellFormed (.entryReadReturn (List.replicate 64 0) none) = true := by decide +kernel

theorem smoke_views :
    Instr.wellFormed (.hostReadCompletion (.block ⟨[(2 ^ 48, 0)], []⟩) .success) = false ∧
    Instr.wellFormed (.completionTimeout (.buffer 1 0 ⟨[], [(2 ^ 48, .timeout)]⟩)) = false ∧
    Instr.wellFormed (.completionTimeout .doorbell) = true := by decide +kernel

theorem smoke_windows : Instr.wellFormed (.bar2Read 0 4097) = false ∧
    Instr.wellFormed (.bar2Read 0xFFFFFFF 2) = false ∧
    Instr.wellFormed (.bar2Write 0xFFFFFFF [none, none]) = false ∧
    Instr.wellFormed (.bar2Write 0 (List.replicate 4097 none)) = false := by decide +kernel

theorem smoke_parts :
    Instr.wellFormed (.bootStart (some { part with capMib := 0 })) = false ∧
    Instr.wellFormed (.bootStart (some { part with cells := [(2 ^ 24, 0)] })) = false ∧
    Instr.wellFormed (.thermalSample [0, 0]) = false ∧
    Instr.wellFormed (.patrolScrubVisit 0 [(0, 72)]) = false ∧
    Instr.wellFormed (.tapSamplePreload (2 ^ 1192) 0) = false ∧
    Instr.wellFormed (.tapSamplePreload 0 (2 ^ 1192)) = false ∧
    Instr.wellFormed (.postApply 0 0 0 [1, 1]) = false ∧
    Instr.wellFormed (.perstN 0) = false := by decide +kernel

/-! ### The spec's worked figures, and known vectors of the standards it names -/

/-- Chapter 03's table: the thresholds at L = 16 in units of 2048, and the bits of 24,576 and 5,461. -/
theorem test_thresholds :
    (List.range 16).map (fun t => bitrev15 t / 2048) = [0, 8, 4, 12, 2, 10, 6, 14, 1, 9, 5, 13, 3, 11, 7, 15] ∧
    ((List.range 14).map fun t => pascal15 t / 2048) = [0, 8, 12, 4, 10, 2, 6, 14, 15, 7, 3, 11, 5, 13] ∧
    ((List.range 14).map fun t => streamBit 24576 (bitrev15 t)) =
      [true, true, true, false, true, true, true, false, true, true, true, false, true, true] ∧
    ((List.range 14).map fun t => streamBit 5461 (pascal15 t)) =
      [true, false, false, false, false, true, false, false, false, false, false, false, false, false] := by
  decide +kernel

/-- Chapter 00: 0xC000 has magnitude 16,384 and a negative sign; chapter 02: the count −32 as a word. -/
theorem test_numbers : sp16Val 0xC000 = -16384 ∧ a48OfSlot (-32) 0 false = 0x0000FFFFFFFFFFE0 ∧
    a48OfSlot (-32) 0 true = 0x8000FFFFFFFFFFE0 := by decide +kernel

/-- Chapter 06: the count −32 at L = 256 with ep = −2, for eo = −5 and −4, NEAREST. -/
theorem test_requantization :
    requant (egScale (-32) (-2) (-5) 256).1 none = (0xFFFF, true) ∧
    requant (egScale (-32) (-2) (-4) 256).1 none = (0xC000, false) := by decide +kernel

/-- Chapter 09: relocation's figures: the footprint, and the offset and origin of repetition 3. -/
theorem test_descriptor :
    (let d := dregOfBytes (fields 64 [(0, 0x0001230000001800), (8, 688), (12, 1024), (16, 14848),
        (24, 3072), (28, 0x31), (31, 253), (40, 10215424), (44, 688)]);
      d.extent = 10202624 ∧ d.eRef = -3 ∧
      some! (d.advance 3) (fun x => refOffset x.ref == 30652416 && x.originR == 2064 &&
        refHandle x.ref == 0x123) = true) := by decide +kernel

/-- Chapter 10: the bytes of the first matmul, and what the device derives from them. -/
theorem test_matmul_word :
    let w := ofLeBytes (leBytes 8 0x000200040004C002 ++ leBytes 8 0x0006FFFF00410401 ++
      leBytes 8 0x0019080000000000 ++ leBytes 8 0)
    opCode w = 2 ∧ waitTok w = 0 ∧ waitEn w = true ∧ postEn w = true ∧ waitN w = 4 ∧ postN w = 4 ∧
    postTok w = 2 ∧ postNode w = 0 ∧ (matWord w).drA = 1 ∧ (matWord w).drB = 4 ∧
    (matWord w).mask = 0xFFFF ∧ (matWord w).outTag = 0x41 ∧ (matWord w).bcast = 1 ∧
    (matWord w).spillEn = true ∧ (matWord w).drSpill = 6 ∧ (matWord w).replayStep = 1 ∧
    precLen (bitOf w 124) (bits w 123 112) = some 64 ∧
    some! (regOf 64 688 0) (fun a => some! (regOf 688 1024 0) fun b =>
      some! (matCfg w a b 64) fun c => c.m == 64 && c.n == 1024 && c.k == 688 && c.g == 16 &&
        c.nbr == 1 && c.nbc == 16 && c.perTile == 1 && !c.streamed && c.kPass == 688 && c.p == 64 &&
        c.blocks * 32832 == 525312 && c.blockSteps == 2752) = true := by decide +kernel

/-- Chapter 18: 128 tiles and 68 lines in each of the 15,000 cycles of a period at OP0, 85 °C. -/
def fullLoad : State := made [(Reg.HI_BOOT, 1), (Reg.PWR_OP, 0), (Reg.PWR_TJ, 340), (Reg.PWR_CAP, 75)]

theorem test_governed_power : fullLoad.governed [⟨0, 1920000, 1020000, 0, 0⟩] = 76740 := by decide +kernel

/-- Chapter 18: under the cap of 75 W the first period of that load sets g to 1. -/
theorem test_governor_gate :
    after (exec (.governorPeriod [⟨0, 1920000, 1020000, 0, 0⟩]) fullLoad)
      (fun t => t.fld Reg.PWR_GOV 3 0 == 1 && t.op == 0 && t.reg Reg.PWR_P_MW == 76740) = true := by
  decide +kernel

/-- Chapter 20: the offset temperature of 90.25 °C crosses the threshold of 90.0 °C. -/
theorem test_watermark :
    after (exec (.thermalSample (List.replicate 12 361))
        (upWith [(Reg.PWR_WM_THRESH + 32, 33128)]))
      (fun t => t.reg (Reg.PWR_WM_STATE + 32) == 0x0103 && t.reg (Reg.PWR_WM_PEAK + 32) == 33129) = true ∧
    after (exec (.thermalSample (List.replicate 12 359))
        (upWith [(Reg.PWR_WM_THRESH + 32, 33128)]))
      (fun t => t.reg (Reg.PWR_WM_STATE + 32) == 0) = true := by decide +kernel

/-- Chapter 20: a counter read across a carry: CL_STEPS of cluster 2 lies at 0x1_4080. -/
theorem test_counter_read :
    clReg 2 Reg.CL_STEPS = 0x14080 ∧
    after (exec (.pairLowRead .bar0 0x14080 15) (hostWith [(0x14080, 0xFFFFFFF0), (0x14084, 1)])) (fun t =>
      t.out == [.regRead .bar0 0x14080 0xFFFFFFF0] &&
      after (exec (.pairLowRead .bar0 0x14084 15) (t.setReg 0x14084 2)) fun u =>
        u.out == t.out ++ [.regRead .bar0 0x14084 1]) = true := by decide +kernel

/-- CRC-32C and CRC-32 of the digits 1 to 9, and SHA-256 of "abc" (FIPS 180-4). -/
theorem test_checksums :
    crc32c [0x31, 0x32, 0x33, 0x34, 0x35, 0x36, 0x37, 0x38, 0x39] = 0xE3069283 ∧
    crc32 [0x31, 0x32, 0x33, 0x34, 0x35, 0x36, 0x37, 0x38, 0x39] = 0xCBF43926 ∧
    ofBeBytes (sha256 [0x61, 0x62, 0x63]) =
      0xba7816bf8f01cfea414140de5dae2223b00361a396177a9cb410ff61f20015ad := by decide +kernel

/-- RFC 6979, A.2.5: the signature of "sample" with SHA-256 on P-256. -/
theorem test_signature :
    ecdsaOk 0x60fed4ba255a9d31c961eb74c6356d68c049b8923b61fa6ce669622e60f29fb6
      0x7903fe1008b8bc99a41ae9e95628bc64f2f1b20c2d7e9f5177a3c294d4462299
      0xefd48b2aacb6a8fd1140dd9cd45e81d69d2c877b56aaf991c34d0ea84eaf3716
      0xf7cb1c942d657c41d436c7a1b6e29f65f3e900dbb9aff4064dc4ab2f843acda8
      (sha256 [0x73, 0x61, 0x6d, 0x70, 0x6c, 0x65]) = true := by decide +kernel

/-! ### Single commands -/

/-- R673: a PERST_N pulse shorter than 100 µs is outside the spec's bounds. -/
theorem test_short_perst : exec (.perstN 99) up = .fault .shortPerst ∧
    after (exec (.perstN 100) up) (fun t => t.perst) = true := ⟨rfl, by decide +kernel⟩

/-- R15, R922: two writes of the halves of CL_STEPS store both at the second. -/
theorem test_pair_write :
    after (exec (.pairLowWrite .bar0 0x10080 15 7) host) (fun t => t.reg 0x10080 == 0 &&
      after (exec (.pairHighWrite .bar0 0x10084 15 9) t) fun u =>
        u.reg 0x10080 == 7 && u.reg 0x10084 == 9) = true := by decide +kernel

/-- R323: a COPY of 4 bytes and a FILL. -/
theorem test_copy :
    after (exec (.moveCopy 0 0 (.perform 64) View.none)
        (put (2 ^ 44) [1, 2, 3, 4, 5] (queueUp [queued copyWord (.mover 0)])))
      (fun t => t.rawRead (2 ^ 44 + 0x1000) 5 == [1, 2, 3, 4, 0]) = true := by decide +kernel

theorem test_fill :
    after (exec (.moveFill 0 0 (.perform 64) View.none) (queueUp [queued fillWord (.mover 0)]))
      (fun t => t.rawRead (2 ^ 44 + 0x1000) 17 == [9, 0, 0, 0, 0, 0, 0, 0, 9, 0, 0, 0, 0, 0, 0, 0, 0]) = true := by
  decide +kernel

/-- R430: MAX keeps the larger of value and pennant, and the poison bit. -/
theorem test_signal_max :
    after (exec (.pennantSignalMax 0 0 (.issue View.none))
        (put (2 ^ 44 + 8) (leBytes 8 (2 ^ 63 + 9)) (opUp [pennantWord 0x0D true] (2 ^ 44 + 8) 1 0 [])))
      (fun t => t.rawWord (2 ^ 44 + 8) == 2 ^ 63 + 9) = true := by decide +kernel

/-- R431: a post that passes 65,535 raises TOKEN_OVERFLOW. -/
theorem test_token_overflow :
    after (exec (.postApply 0 0 1 [1]) { (opUp [0] (2 ^ 44) 1 0 []).setTokVal 0 0 1 65534 with
        posts := [⟨0, 1, 0, 1, 2, 64, 0, 0⟩] })
      (fun t => t.tokVal 0 0 1 == 65534 && t.faults.map (fun f => f.2.code) == [.tokenOverflow]) = true := by
  decide +kernel

/-- R507: a TAIL more than a ring ahead of the head is not taken, and sets TAIL_ERR. -/
theorem test_far_tail :
    after (exec (.doorbellReadReturn 70 none)
        { ringed [] with ring := { (ringed []).ring with
          pollOpen := true
          pollOut := true } })
      (fun t => t.reg Reg.FE_RING_TAIL == 5 && bitOf (t.reg Reg.FE_RING_STATUS) 4) = true := by
  decide +kernel

end Sys2Proof.Tests
end

section
/-! SUPPORT. The admission of an entry, said once (R527): what a row of the table does with what its
action answers. The rows' own theorems then speak of their actions alone. -/

namespace Sys2Proof.Machine

/-- FE_RING_STATUS.STATE has not left 1 between a state and itself. -/
@[simp] theorem State.ringEdge_self (s : State) : s.ringEdge s = s :=
  if_neg fun h => h.2.1 h.1

section
variable {i : Instr} {s u w : State} {v : View} {k : RowKind} {r : Req} {act : State → Req → Acted}

/-- An entry whose action completes passes. -/
theorem passes_of_done (hi : exec i s = .next (s.admitRow k v act)) (h : s.Admits v k u r)
    (ha : act u r = .done w) : Passes i s w := by
  obtain ⟨a, raw, hf, hc⟩ := h
  simp only [Passes, hi, State.admitRow, hf, hc, ha]

/-- An entry whose action finds its body bad is rejected. -/
theorem rejects_of_reject (hi : exec i s = .next (s.admitRow k v act)) (h : s.Admits v k u r)
    (ha : act u r = .reject w) : Rejects i s w := by
  obtain ⟨a, raw, hf, hc⟩ := h
  simp only [Rejects, hi, State.admitRow, hf, hc, ha]

/-- An entry that cannot act yet changes nothing. -/
theorem exec_of_wait (hi : exec i s = .next (s.admitRow k v act)) (h : s.Admits v k u r)
    (ha : act u r = .wait) : exec i s = .next s := by
  obtain ⟨a, raw, hf, hc⟩ := h
  simp only [hi, State.admitRow, hf, hc, ha, State.ringEdge_self]

/-- An entry that begins an admission of several steps stays at the front. -/
theorem exec_of_hold (hi : exec i s = .next (s.admitRow k v act)) (h : s.Admits v k u r)
    (ha : act u r = .hold w) : exec i s = .next (s.ringEdge w) := by
  obtain ⟨a, raw, hf, hc⟩ := h
  simp only [hi, State.admitRow, hf, hc, ha]

end

end Sys2Proof.Machine
end

section
/-! Almanac and fabric entries (O37). -/

namespace Sys2Proof.Machine

section
variable {s : State} {v : View} {r : Req} {c : Ctx} {l : List Byte} {cap : Nat}
  {go : State → List Byte → Nat → List SigRec → State}

theorem actUpdate_badBody (hb : updateBodyOk r.raw = false) : actUpdate v cap go s r = .reject s :=
  if_pos hb

/-- With an update in progress the bytes at SRC are of no account. -/
theorem actUpdate_busy (hb : updateBodyOk r.raw = true) (hu : s.update.isSome = true) :
    actUpdate v cap go s r = .done (go s [] (leAt r.raw 24 8 % 2 ^ 48) r.sigs) := by
  simp [actUpdate, hb, hu]

theorem actUpdate_read (hb : updateBodyOk r.raw = true) (hu : s.update = none)
    (hf : s.flash.isSome = true)
    (hq : (Ctx.start s v []).read true (leAt r.raw 16 8 % 2 ^ 48) (min cap (leAt r.raw 12 4)) = (c, l))
    (hst : c.stall = false) (he : c.err = none) :
    actUpdate v cap go s r = .done (go c.s l (leAt r.raw 24 8 % 2 ^ 48) r.sigs) := by
  have hf' : s.flash ≠ none := Option.isSome_iff_ne_none.1 hf
  simp [-Nat.reducePow, actUpdate, hb, hu, hf', hq, hst, he]

end

theorem State.almanacUpdate_busy {s : State} (hu : s.update.isSome = true) (l : List Byte) (res : Nat)
    (g : List SigRec) : s.almanacUpdate l res g = s.flashResult 1 none none res g := if_pos hu

theorem State.firmwareUpdate_busy {s : State} (hu : s.update.isSome = true) (l : List Byte) (res : Nat)
    (g : List SigRec) : s.firmwareUpdate l res g = s.flashResult 1 none none res g := if_pos hu

/-- The commands of the three rows of RE_ALMANAC_UPDATE. -/
theorem rowOf_update {i : Instr} {v : View} {k : RowKind} (h : rowOf i = some (v, k))
    (hk : k = .almanac ∨ k = .firmware ∨ k = .almRead) :
    i = .reAlmanacUpdateAlmanac v ∧ k = .almanac ∨ i = .reAlmanacUpdateFirmware v ∧ k = .firmware ∨
      i = .reAlmanacUpdateRead v ∧ k = .almRead := by
  unfold rowOf at h
  rcases hk with rfl | rfl | rfl <;> split at h <;> simp_all

/-- R817, R819: the three rows of RE_ALMANAC_UPDATE reject a bad body, and answer BUSY while another
update is in progress. -/
theorem update_badBody_or_busy {i : Instr} {s u : State} {v : View} {k : RowKind} {r : Req}
    (hi : rowOf i = some (v, k)) (hk : k = .almanac ∨ k = .firmware ∨ k = .almRead)
    (h : s.Admits v k u r) :
    (updateBodyOk r.raw = false → Rejects i s u) ∧
      (updateBodyOk r.raw = true → u.update.isSome = true →
        Passes i s (u.flashResult 1 none none (leAt r.raw 24 8 % 2 ^ 48) r.sigs)) := by
  rcases rowOf_update hi hk with ⟨rfl, rfl⟩ | ⟨rfl, rfl⟩ | ⟨rfl, rfl⟩
  · refine ⟨fun hb => rejects_of_reject rfl h (actUpdate_badBody hb), fun hb hu => ?_⟩
    refine passes_of_done rfl h ((actUpdate_busy hb hu).trans ?_)
    rw [State.almanacUpdate_busy hu]
  · refine ⟨fun hb => rejects_of_reject rfl h (actUpdate_badBody hb), fun hb hu => ?_⟩
    refine passes_of_done rfl h ((actUpdate_busy hb hu).trans ?_)
    rw [State.firmwareUpdate_busy hu]
  · exact ⟨fun hb => rejects_of_reject rfl h (if_pos hb),
      fun hb hu => passes_of_done rfl h (by simp [hb, hu])⟩

/-- R822: READ gives the copy that this boot applied, where it fits and can be written. -/
theorem almanacRead_passes {s u : State} {v : View} {r : Req} (h : s.Admits v .almRead u r)
    (hb : updateBodyOk r.raw = true) (hu : u.update = none) (hf : u.flash.isSome = true)
    (hc : u.copy ≠ []) :
    let res := leAt r.raw 24 8 % 2 ^ 48
    let ended := fun (w : State) (code : Nat) (seq : Option Nat) => Passes (.reAlmanacUpdateRead v) s
      ((w.setFld Reg.ALM_UPDATE 11 4 code).flashResult code seq none res r.sigs)
    (leAt r.raw 12 4 < u.copy.length → ended u 6 none) ∧
    (u.copy.length ≤ leAt r.raw 12 4 → ∀ w e, u.ownWrite (leAt r.raw 16 8 % 2 ^ 48) u.copy = (w, e) →
      (e = none → ended w 0 (some (leAt u.copy 4 4))) ∧ (e.isSome = true → ended w 2 none)) := by
  have hf' : u.flash ≠ none := Option.isSome_iff_ne_none.1 hf
  refine ⟨fun hl => passes_of_done rfl h (by simp [hb, hu, hf', hc, hl]), fun hl w e hw => ?_⟩
  have hl' := Nat.not_lt.2 hl
  exact ⟨fun he => passes_of_done rfl h (by simp [-Nat.reducePow, hb, hu, hf', hc, hl', hw, he]),
    fun he => passes_of_done rfl h (by simp [-Nat.reducePow, hb, hu, hf', hc, hl', hw, he])⟩

/-- Settles O37: each clause is the completion of its row's action. -/
theorem almanacAndFabricEntriesAct : Obligations.AlmanacAndFabricEntriesAct := by
  intro s u v r
  refine ⟨fun i k hi hk h => update_badBody_or_busy hi hk h, fun hb hu hf => ⟨?almanac, ?firmware, ?read⟩,
    ?rediscover, ?remap, ?fence⟩
  case almanac => exact fun c l h hq hst he => passes_of_done rfl h (actUpdate_read hb hu hf hq hst he)
  case firmware => exact fun c l h hq hst he => passes_of_done rfl h (actUpdate_read hb hu hf hq hst he)
  case read => exact fun h hc => almanacRead_passes h hb hu hf hc
  case rediscover => exact fun h => passes_of_done rfl h rfl
  case remap =>
    exact fun h => ⟨fun he => rejects_of_reject rfl h (if_pos he),
      fun he => passes_of_done rfl h (by simp [he])⟩
  case fence => exact fun h => passes_of_done rfl h rfl

end Sys2Proof.Machine
end

section
/-! SUPPORT. What a read of local memory leaves (R334, R335): a word with wrong bits is counted and
logged, in the registers that `eccRegs` lists, and nothing else of the state changes that the ring
or a stream holds. -/

namespace Sys2Proof.Machine

/-! ### Registers that an update leaves -/

theorem State.SameRegs.refl (s : State) (l : List Nat) : s.SameRegs s l := fun _ _ => rfl

theorem State.SameRegs.trans {s t u : State} {l : List Nat} (h : s.SameRegs t l)
    (h' : t.SameRegs u l) : s.SameRegs u l := fun o ho => (h' o ho).trans (h o ho)

theorem State.SameRegs.mono {s t : State} {l m : List Nat} (h : s.SameRegs t l) (hl : l ⊆ m) :
    s.SameRegs t m := fun o ho => h o fun hm => ho (hl hm)

/-- Registers are equal where the register files are. -/
theorem State.sameRegs_of_regs {s t : State} (h : t.regs = s.regs) (l : List Nat) : s.SameRegs t l :=
  fun o _ => by simp only [State.reg, h]

theorem State.sameRegs_setReg {s : State} (h : SMap.wf regReset s.regs = true) {o : Nat} (v : Nat)
    {l : List Nat} (ho : o ∈ l) : s.SameRegs (s.setReg o v) l :=
  fun _ hk => State.reg_setReg_other h v fun e => hk (e ▸ ho)

/-! ### Notices -/

@[simp] theorem State.requestMsix_regs (s : State) (n : Nat) : (s.requestMsix n).regs = s.regs := by
  unfold State.requestMsix; split_ifs <;> rfl
@[simp] theorem State.requestMsix_ring (s : State) (n : Nat) : (s.requestMsix n).ring = s.ring := by
  unfold State.requestMsix; split_ifs <;> rfl
@[simp] theorem State.requestMsix_entries (s : State) (n : Nat) :
    (s.requestMsix n).entries = s.entries := by
  unfold State.requestMsix; split_ifs <;> rfl
@[simp] theorem State.requestMsix_streams (s : State) (n : Nat) :
    (s.requestMsix n).streams = s.streams := by
  unfold State.requestMsix; split_ifs <;> rfl
@[simp] theorem State.requestMsix_dram (s : State) (n : Nat) : (s.requestMsix n).dram = s.dram := by
  unfold State.requestMsix; split_ifs <;> rfl
@[simp] theorem State.requestMsix_plate (s : State) (n : Nat) : (s.requestMsix n).plate = s.plate := by
  unfold State.requestMsix; split_ifs <;> rfl

@[simp] theorem State.notice_ring (s : State) (n : Nat) : (s.notice n).ring = s.ring := by
  simp only [State.notice]; split_ifs <;> simp
@[simp] theorem State.notice_entries (s : State) (n : Nat) : (s.notice n).entries = s.entries := by
  simp only [State.notice]; split_ifs <;> simp
@[simp] theorem State.notice_streams (s : State) (n : Nat) : (s.notice n).streams = s.streams := by
  simp only [State.notice]; split_ifs <;> simp
@[simp] theorem State.notice_dram (s : State) (n : Nat) : (s.notice n).dram = s.dram := by
  simp only [State.notice]; split_ifs <;> simp
@[simp] theorem State.notice_plate (s : State) (n : Nat) : (s.notice n).plate = s.plate := by
  simp only [State.notice]; split_ifs <;> simp

/-- R665: of the registers a notice sets HI_NOTICE_STATUS alone. -/
theorem State.notice_regs (s : State) (n : Nat) : ∃ v, (s.notice n).regs =
    (s.setReg Reg.HI_NOTICE_STATUS v).regs := by
  refine ⟨s.reg Reg.HI_NOTICE_STATUS ||| 2 ^ n, ?_⟩
  simp only [State.notice]
  split_ifs <;> simp

theorem State.sameRegs_notice {s : State} (h : SMap.wf regReset s.regs = true) (n : Nat)
    {l : List Nat} (hl : Reg.HI_NOTICE_STATUS ∈ l) : s.SameRegs (s.notice n) l := by
  obtain ⟨v, hv⟩ := s.notice_regs n
  exact (State.sameRegs_setReg h v hl).trans (State.sameRegs_of_regs hv l)

/-! ### Reads of local memory -/

/-- The registers that count and log the errors of local memory (R337), with the notice (R665). -/
def eccRegs : List Nat :=
  [Reg.MEM_CE_PS, Reg.MEM_UE_PS, Reg.MEM_CE_DRAM, Reg.MEM_UE_DRAM, Reg.MEM_ERR_STATUS,
   Reg.MEM_ERR_ADDR, Reg.MEM_ERR_ADDR + 4, Reg.MEM_ERR_INFO, Reg.HI_NOTICE_STATUS]

/-- `t` holds what `s` does in every field named here, but for the registers of `eccRegs`. -/
structure State.EccLogged (s t : State) : Prop where
  ring : t.ring = s.ring
  entries : t.entries = s.entries
  streams : t.streams = s.streams
  dram : t.dram = s.dram
  plate : t.plate = s.plate
  regs : SMap.wf regReset s.regs = true → SMap.wf regReset t.regs = true ∧ s.SameRegs t eccRegs

namespace State.EccLogged
variable {s t : State}

theorem refl (s : State) : s.EccLogged s := ⟨rfl, rfl, rfl, rfl, rfl, fun h => ⟨h, .refl s _⟩⟩

theorem setReg (h : s.EccLogged t) {o : Nat} (v : Nat) (ho : o ∈ eccRegs) :
    s.EccLogged (t.setReg o v) where
  ring := h.ring
  entries := h.entries
  streams := h.streams
  dram := h.dram
  plate := h.plate
  regs hs := by
    obtain ⟨hw, hr⟩ := h.regs hs
    exact ⟨State.wf_setReg hw o v, hr.trans (State.sameRegs_setReg hw v ho)⟩

theorem notice (h : s.EccLogged t) (n : Nat) : s.EccLogged (t.notice n) where
  ring := by simp [h.ring]
  entries := by simp [h.entries]
  streams := by simp [h.streams]
  dram := by simp [h.dram]
  plate := by simp [h.plate]
  regs hs := by
    obtain ⟨hw, hr⟩ := h.regs hs
    obtain ⟨v, hv⟩ := t.notice_regs n
    exact ⟨hv ▸ State.wf_setReg hw _ v, hr.trans (State.sameRegs_notice hw n (by decide))⟩

/-- R337: one error. -/
theorem memErr (h : s.EccLogged t) (u : Nat) (ue byScrub : Bool) (bit : Nat) :
    s.EccLogged (t.memErr u ue byScrub bit) := by
  have hcnt : (match regionOf u, ue with
      | .plate, false => Reg.MEM_CE_PS
      | .plate, true => Reg.MEM_UE_PS
      | _, false => Reg.MEM_CE_DRAM
      | _, true => Reg.MEM_UE_DRAM) ∈ eccRegs := by
    split <;> decide
  unfold State.memErr
  extract_lets cnt t1 st hadCe hadUe capture t2 rose t3
  have h1 : s.EccLogged t1 := h.setReg _ hcnt
  have h2 : s.EccLogged t2 := by
    unfold t2
    split
    · exact ((h1.setReg _ (by decide)).setReg _ (by decide)).setReg _ (by decide)
    · exact h1.setReg _ (by decide)
  have h3 : s.EccLogged t3 := h2.setReg _ (by decide)
  split
  · exact h3.notice 2
  · exact h3

theorem queueCorr (h : s.EccLogged t) (line : Nat) : s.EccLogged (t.queueCorr line) := by
  unfold State.queueCorr
  split
  · exact h
  · exact ⟨h.ring, h.entries, h.streams, h.dram, h.plate, h.regs⟩

theorem eccRead (h : s.EccLogged t) (l : List (Nat × EccErr)) : s.EccLogged (t.eccRead l).1 := by
  induction l generalizing t with
  | nil => exact h
  | cons x l ih =>
    obtain ⟨w, e⟩ := x
    cases e with
    | none => exact ih h
    | ce b => exact ih ((h.memErr _ _ _ _).queueCorr _)
    | ue b => exact ih (h.memErr _ _ _ _)

/-- R334: a read of local memory does no more than count and log its errors. -/
theorem readLocal (h : s.EccLogged t) {u len : Nat} {w : State} {l : Option (List Byte)}
    (hl : t.readLocal u len = (w, l)) : s.EccLogged w := by
  have hw : (t.readLocal u len).1 = w := congrArg Prod.fst hl
  exact hw ▸ h.eccRead _

end State.EccLogged

end Sys2Proof.Machine
end

section
/-! Handle copies and chart entries (O36). -/

namespace Sys2Proof.Machine

/-! ### Handle copies -/

section
variable {s : State} {sigs : List SigRec} {sync : Bool} {c : Nat}

theorem State.startCopy_badSetup (h : s.handleSetupOk = false) : s.startCopy sigs sync = .reject s :=
  if_pos h

theorem State.startCopy_noCopy (h : s.handleSetupOk = true) (hc : s.freeCopy = none) :
    s.startCopy sigs sync = .wait := by
  simp only [State.startCopy, h, hc, Bool.true_eq_false, if_false]

/-- R549: an RE_HANDLE_SYNC holds the ring with the copy that it begins. -/
theorem State.startCopy_sync (h : s.handleSetupOk = true) (hc : s.freeCopy = some c) :
    s.startCopy sigs true = .hold { s with hcopy := some ⟨c,
      s.reg64 Reg.FE_HSHADOW_BASE + c * 32 * s.reg Reg.FE_HSHADOW_ENTRIES,
      s.reg Reg.FE_HTAB_COUNT, s.reg64 Reg.FE_HTAB_BASE, sigs, true⟩ } := by
  simp only [State.startCopy, h, hc, Bool.true_eq_false, if_false, if_true]

end

/-- R549, R550: the generation that the copy `h` of the table bytes `l` makes, out of the state `w`
that has read them. -/
def State.copied (w : State) (h : HandleCopy) (l : List Byte) : State :=
  let x := (w.writeLocal (h.base + 32) l).1
  { x with
    hcopy := none
    gens := (x.gens.filter fun g => x.genLive g.gen) ++
      [⟨x.genInForce + 1, h.copy, h.base, h.count⟩] }

section
variable {s w : State} {h : HandleCopy} {l : List Byte}

/-- R549, R559: a copy that meets an uncorrectable word is abandoned, and its entry rejected unless a
read error has cut it off. -/
theorem handleCopyDone_abandoned (hh : s.hcopy = some h) (hr : s.running = true)
    (hl : s.readLocal (h.src + 32) (32 * (h.count - 1)) = (w, none)) :
    (h.sync = true ∨ s.ring.halted = false → Rejects .handleCopyDone s { w with hcopy := none }) ∧
      (h.sync = false → s.ring.halted = true →
        exec .handleCopyDone s = .next (s.ringEdge { w with hcopy := none })) := by
  have hring : w.ring = s.ring := ((State.EccLogged.refl s).readLocal hl).ring
  have hx : exec .handleCopyDone s = .next (s.ringEdge
      (if h.sync || !s.ring.halted then ({ w with hcopy := none } : State).rejectFront.clearFront
       else { w with hcopy := none })) := by
    simp [exec, execHandleCopyDone, hh, hr, hl, hring]
  constructor
  · intro hc
    have hc' : (h.sync || !s.ring.halted) = true := by
      rcases hc with hc | hc <;> simp [hc]
    rw [Rejects, hx, if_pos hc']
  · intro hs hc
    simp [hx, hs, hc]

theorem handleCopyDone_copied (hh : s.hcopy = some h) (hr : s.running = true)
    (hl : s.readLocal (h.src + 32) (32 * (h.count - 1)) = (w, some l)) :
    (h.sync = true → Passes .handleCopyDone s
      ((w.copied h l).holdSigs (.gensRetired ((w.writeLocal (h.base + 32) l).1.genInForce + 1)) false
        h.sigs).checkPend) ∧
      (h.sync = false → exec .handleCopyDone s = .next (s.ringEdge (w.copied h l))) := by
  constructor <;> intro hs <;>
    simp only [Passes, exec, execHandleCopyDone, hh, hr, hl, hs, State.copied, Bool.true_eq_false,
      Bool.false_eq_true, if_false, if_true]

end

/-! ### Chart entries -/

section
variable {s : State} {r : Req}

theorem actChartLoad_badBody (hb : s.chartBodyOk .chartLoad r.raw = false) :
    actChartLoad s r = .reject s := if_pos hb

/-- R571: an ID that is not FREE. -/
theorem actChartLoad_exists (hb : s.chartBodyOk .chartLoad r.raw = true)
    (hu : (s.chart (leAt r.raw 8 2)).used = true) :
    actChartLoad s r = .done ((s.chartResult (leAt r.raw 0x18 8 % 2 ^ 48) 1
      (s.chart (leAt r.raw 8 2)).current 0).reSignals r true) := by
  simp [actChartLoad, hb, hu]

theorem actChartLoad_badImage {w : State} {code d : Nat}
    (hb : s.chartBodyOk .chartLoad r.raw = true) (hu : (s.chart (leAt r.raw 8 2)).used = false)
    (hi : s.readImage (leAt r.raw 0x10 8 % 2 ^ 48) (if leAt r.raw 10 2 = 0 then 1 else leAt r.raw 10 2) =
      .bad w code d) :
    actChartLoad s r =
      .done ((w.chartResult (leAt r.raw 0x18 8 % 2 ^ 48) code 0 d).reSignals r true) := by
  simp only [actChartLoad, hb, hu, hi, Bool.true_eq_false, Bool.false_eq_true, if_false]

theorem actChartLoad_goodImage {w : State} {c : ChartRec}
    (hb : s.chartBodyOk .chartLoad r.raw = true) (hu : (s.chart (leAt r.raw 8 2)).used = false)
    (hi : s.readImage (leAt r.raw 0x10 8 % 2 ^ 48) (if leAt r.raw 10 2 = 0 then 1 else leAt r.raw 10 2) =
      .good w c) :
    actChartLoad s r = .done (((w.setChart (leAt r.raw 8 2) c).chartResult (leAt r.raw 0x18 8 % 2 ^ 48) 0
      (if leAt r.raw 10 2 = 0 then 1 else leAt r.raw 10 2) 0).reSignals r false) := by
  simp only [actChartLoad, hb, hu, hi, Bool.true_eq_false, Bool.false_eq_true, if_false]

/-- R573: a chart that is FREE, or being dropped already. -/
theorem actChartDrop_absent (hb : s.chartBodyOk .chartDrop r.raw = true)
    (hu : (s.chart (leAt r.raw 8 2)).used = false ∨ (s.chart (leAt r.raw 8 2)).dropping = true) :
    actChartDrop s r =
      .done ((s.chartResult (leAt r.raw 0x18 8 % 2 ^ 48) 2 0 0).reSignals r true) := by
  simp [actChartDrop, hb, hu]

theorem actChartDrop_drops (hb : s.chartBodyOk .chartDrop r.raw = true)
    (hu : (s.chart (leAt r.raw 8 2)).used = true) (hd : (s.chart (leAt r.raw 8 2)).dropping = false) :
    actChartDrop s r = .done (((s.chartResult (leAt r.raw 0x18 8 % 2 ^ 48) 0 0 0).setChart (leAt r.raw 8 2)
      { s.chart (leAt r.raw 8 2) with
        dropping := true, current := 0, dropSigs := r.sigs }).freeVersions (leAt r.raw 8 2)) := by
  simp [actChartDrop, hb, hu, hd]

variable {v : View}

/-- R585: a patch of a chart that is FREE or being dropped. -/
theorem actPatchVersioned_absent (hb : s.chartBodyOk .patchVersioned r.raw = true)
    (hu : (s.chart (leAt r.raw 8 2)).used = false ∨ (s.chart (leAt r.raw 8 2)).dropping = true) :
    actPatchVersioned v s r = .done ((s.chartResult (leAt r.raw 0x18 8 % 2 ^ 48) 2
      (s.chart (leAt r.raw 8 2)).current 0).reSignals r true) := by
  simp [actPatchVersioned, hb, hu]

/-- R585: a patch of a version that is not the current one. -/
theorem actPatchVersioned_stale (hb : s.chartBodyOk .patchVersioned r.raw = true)
    (hu : (s.chart (leAt r.raw 8 2)).used = true) (hd : (s.chart (leAt r.raw 8 2)).dropping = false)
    (h0 : leAt r.raw 12 2 ≠ 0) (h1 : leAt r.raw 12 2 ≠ (s.chart (leAt r.raw 8 2)).current) :
    actPatchVersioned v s r = .done ((s.chartResult (leAt r.raw 0x18 8 % 2 ^ 48) 4
      (s.chart (leAt r.raw 8 2)).current 0).reSignals r true) := by
  simp [actPatchVersioned, hb, hu, hd, h0, h1]

/-- R586, R587: a VERSIONED patch whose entries, copy area and sources are good. -/
theorem actPatchVersioned_patches {cur : ChartVer} {q k x : Ctx} {h : List Byte} {es : List PatchEnt}
    {sizes : List (Nat × Nat)} {ls : List (List Byte)}
    (hb : s.chartBodyOk .patchVersioned r.raw = true) (hu : (s.chart (leAt r.raw 8 2)).used = true)
    (hd : (s.chart (leAt r.raw 8 2)).dropping = false)
    (hbase : leAt r.raw 12 2 = 0 ∨ leAt r.raw 12 2 = (s.chart (leAt r.raw 8 2)).current)
    (hcur : (s.chart (leAt r.raw 8 2)).version? (s.chart (leAt r.raw 8 2)).current = some cur)
    (hq : s.readPatch v (leAt r.raw 0x10 8 % 2 ^ 48) = (q, some (h, es))) (hst : q.stall = false)
    (hk : q.patchEntsOk (s.chart (leAt r.raw 8 2)) cur [] es 0 = (k, none, sizes))
    (ha : leAt h 8 8 % 2 ^ 48 % 64 = 0) (hin : k.s.inDram (leAt h 8 8 % 2 ^ 48) 0 = true)
    (hvers : ((s.chart (leAt r.raw 8 2)).vers.filter fun y =>
      y.ver != cur.ver || k.s.pinned (leAt r.raw 8 2) y.ver).length ≤ 3)
    (hover : pieceOver (leAt h 16 8) (patchPieces sizes (s.chart (leAt r.raw 8 2)) cur es) 0 = none)
    (hsize : k.s.inDram (leAt h 8 8 % 2 ^ 48) ((patchPieces sizes (s.chart (leAt r.raw 8 2)) cur es).foldl
      (fun n p => n + p.2.2.2) 0) = true)
    (hls : k.readPieces es (patchPieces sizes (s.chart (leAt r.raw 8 2)) cur es) = (x, .ok ls)) :
    let id := leAt r.raw 8 2
    let c := s.chart id
    let nv := if cur.ver = 65535 then 1 else cur.ver + 1
    let w := x.s.writePieces (List.zip ((patchPieces sizes c cur es).map (·.1)) ls)
      (leAt h 8 8 % 2 ^ 48) ⟨nv, cur.paramUda, cur.segUda, leAt h 24 8 % 2 ^ 48⟩
    actPatchVersioned v s r = .done ((((w.1.setChart id { c with
      current := nv, vers := c.vers ++ [w.2] }).freeVersions id).chartResult
        (leAt r.raw 0x18 8 % 2 ^ 48) 0 nv 0).reSignals r false) := by
  have hbase' : ¬ (leAt r.raw 12 2 ≠ 0 ∧ leAt r.raw 12 2 ≠ (s.chart (leAt r.raw 8 2)).current) := by
    tauto
  have hvers' := Nat.not_lt.2 (Nat.succ_le_succ hvers)
  simp only [actPatchVersioned, hb, hu, hd, hbase', hcur, hq, hst, hk, ha, hin, hvers', hover, hsize, hls,
    Bool.true_eq_false, Bool.false_eq_true, ne_eq, not_true_eq_false, or_self, if_false]

/-- R588: a HOT patch needs the permission of R12. -/
theorem actPatchHot_locked (hb : s.chartBodyOk .patchHot r.raw = true) (he : s.expert = false) :
    actPatchHot v s r = .done ((s.chartResult (leAt r.raw 0x18 8 % 2 ^ 48) 8
      (s.chart (leAt r.raw 8 2)).current 0).reSignals r true) := by
  simp [actPatchHot, hb, he]

/-- R588, R589: a HOT patch of patchable parameters writes them where they lie; of the state that it
leaves so, only the entries may differ, whose launches note the patch. -/
theorem actPatchHot_patches {cur : ChartVer} {q : Ctx} {h : List Byte} {es : List PatchEnt}
    (hb : s.chartBodyOk .patchHot r.raw = true) (he : s.expert = true)
    (hu : (s.chart (leAt r.raw 8 2)).used = true) (hd : (s.chart (leAt r.raw 8 2)).dropping = false)
    (hbase : leAt r.raw 12 2 = 0 ∨ leAt r.raw 12 2 = (s.chart (leAt r.raw 8 2)).current)
    (hcur : (s.chart (leAt r.raw 8 2)).version? (s.chart (leAt r.raw 8 2)).current = some cur)
    (hq : s.readPatch v (leAt r.raw 0x10 8 % 2 ^ 48) = (q, some (h, es))) (hst : q.stall = false)
    (hes : ∀ e ∈ es, e.etype = 0 ∧ (s.chart (leAt r.raw 8 2)).narg ≤ e.param ∧
      e.param < (s.chart (leAt r.raw 8 2)).nparam ∧
      nth false (s.chart (leAt r.raw 8 2)).patchable e.param = true) :
    ∃ y : State, actPatchHot v s r = .done (((y.bump Reg.FE_CHART_HOT 1).chartResult
        (leAt r.raw 0x18 8 % 2 ^ 48) 0 cur.ver 0).reSignals r false) ∧
      y = { es.foldl (fun w e =>
          (w.writeLocal (cur.paramUda + 16 * e.param) (leBytes 8 e.value)).1) q.s with
        entries := y.entries } := by
  have hbase' : ¬ (leAt r.raw 12 2 ≠ 0 ∧ leAt r.raw 12 2 ≠ (s.chart (leAt r.raw 8 2)).current) := by
    tauto
  have hidx : es.findIdx? (fun e => !(e.etype == 0 && decide ((s.chart (leAt r.raw 8 2)).narg ≤ e.param) &&
      decide (e.param < (s.chart (leAt r.raw 8 2)).nparam) &&
      nth false (s.chart (leAt r.raw 8 2)).patchable e.param)) = none :=
    List.findIdx?_eq_none_iff.2 fun e hx => by
      obtain ⟨h1, h2, h3, h4⟩ := hes e hx
      simp [h1, h2, h3, h4]
  refine ⟨?y, ?eq, ?rest⟩
  case eq =>
    simp only [actPatchHot, hb, he, hu, hd, hbase', hcur, hq, hst, hidx, Bool.true_eq_false,
      Bool.false_eq_true, or_self, if_false]
    rfl
  case rest => rfl

end

/-! ### The obligation -/

/-- Settles O36: each clause is an answer of its row's action, or of the end of the copy. -/
theorem handleAndChartEntriesAct : Obligations.HandleAndChartEntriesAct := by
  refine ⟨fun s u v r => ⟨fun h => ⟨?badSetup, ?noCopy, ?starts⟩, fun c hh hr => ⟨?abandoned, ?copied⟩⟩,
    fun s u v r => ⟨fun h => ⟨?loadBody, fun hb => ⟨?loadExists, ?loadBad, ?loadGood⟩⟩,
      fun h hb => ⟨?dropAbsent, ?drops⟩, fun h hb => ⟨?absent, ?stale, ?patched⟩,
      fun h hb => ⟨?hotLocked, ?hot⟩⟩⟩
  case badSetup => exact fun hs => rejects_of_reject rfl h (State.startCopy_badSetup hs)
  case noCopy => exact fun hs hc => exec_of_wait rfl h (State.startCopy_noCopy hs hc)
  case starts => exact fun c hs hc => exec_of_hold rfl h (State.startCopy_sync hs hc)
  case abandoned => exact fun w hl => handleCopyDone_abandoned hh hr hl
  case copied => exact fun w l hl => handleCopyDone_copied hh hr hl
  case loadBody => exact fun hb => rejects_of_reject rfl h (actChartLoad_badBody hb)
  case loadExists => exact fun hu => passes_of_done rfl h (actChartLoad_exists hb hu)
  case loadBad => exact fun w code d hu hi => passes_of_done rfl h (actChartLoad_badImage hb hu hi)
  case loadGood => exact fun w c hu hi => passes_of_done rfl h (actChartLoad_goodImage hb hu hi)
  case dropAbsent => exact fun hu => passes_of_done rfl h (actChartDrop_absent hb hu)
  case drops => exact fun hu hd => passes_of_done rfl h (actChartDrop_drops hb hu hd)
  case absent => exact fun hu => passes_of_done rfl h (actPatchVersioned_absent hb hu)
  case stale => exact fun hu hd h0 h1 => passes_of_done rfl h (actPatchVersioned_stale hb hu hd h0 h1)
  case patched =>
    intro cur q k x l es sizes ls hu hd hbase hcur hq hst hk area ps nv ha hdr hvers hover hsize hls w
    exact passes_of_done rfl h
      (actPatchVersioned_patches hb hu hd hbase hcur hq hst hk ha hdr hvers hover hsize hls)
  case hotLocked => exact fun he => passes_of_done rfl h (actPatchHot_locked hb he)
  case hot =>
    intro cur q l es he hu hd hbase hcur hq hst hes
    obtain ⟨y, hy, hrest⟩ := actPatchHot_patches hb he hu hd hbase hcur hq hst hes
    exact ⟨_, passes_of_done rfl h hy, y, rfl, _, rfl, hrest⟩
end Sys2Proof.Machine
end

section
/-! Entries without a slot (O33). -/

namespace Sys2Proof.Machine

/-! ### The front of the ring -/

@[simp] theorem State.ringEdge_ring (s t : State) : (s.ringEdge t).ring = t.ring := by
  unfold State.ringEdge; split_ifs <;> simp
@[simp] theorem State.ringEdge_entries (s t : State) : (s.ringEdge t).entries = t.entries := by
  unfold State.ringEdge; split_ifs <;> simp
@[simp] theorem State.ringEdge_streams (s t : State) : (s.ringEdge t).streams = t.streams := by
  unfold State.ringEdge; split_ifs <;> simp
@[simp] theorem State.ringEdge_dram (s t : State) : (s.ringEdge t).dram = t.dram := by
  unfold State.ringEdge; split_ifs <;> simp
@[simp] theorem State.ringEdge_plate (s t : State) : (s.ringEdge t).plate = t.plate := by
  unfold State.ringEdge; split_ifs <;> simp

theorem State.sameRegs_ringEdge (s : State) {t : State} (h : SMap.wf regReset t.regs = true)
    {l : List Nat} (hl : Reg.HI_NOTICE_STATUS ∈ l) : t.SameRegs (s.ringEdge t) l := by
  unfold State.ringEdge
  split
  · exact State.sameRegs_notice h 3 hl
  · exact .refl t l

/-- The entry at the front is the first of those that have arrived. -/
theorem State.arrived_of_front {s : State} {k : RowKind} {a : Nat} {raw : List Byte}
    (h : s.front k = some (a, raw)) : ∃ t, s.ring.arrived = (a, raw) :: t := by
  unfold State.front at h
  split at h
  · split at h
    · cases h
    next b l t ht =>
      split at h
      · cases h; exact ⟨t, ht⟩
      · cases h
  · cases h

/-- R519: an entry that is not reserved stays at the front. -/
theorem State.clearFront_of_notReserved {s : State}
    (h : ∀ x, s.ring.arrived.head? = some x → (rowKind x.2).isSome = true) : s.clearFront = s := by
  unfold State.clearFront
  split
  · cases ha : s.ring.arrived with
    | nil => rfl
    | cons x t =>
      have hx := h x (by rw [ha]; rfl)
      simp [State.skipReserved, ha, Option.isNone_eq_false_iff.2 hx]
  · rfl

/-- The entry at the front leaves, and the entries `t` stand behind it. -/
def State.popFront (s : State) (t : List (Nat × List Byte)) : State :=
  { s with ring := { s.ring with arrived := t, fetched := [], fetchBad := false } }

@[simp] theorem State.popFront_arrived (s : State) (t : List (Nat × List Byte)) :
    (s.popFront t).ring.arrived = t := rfl
@[simp] theorem State.popFront_errCount (s : State) (t : List (Nat × List Byte)) :
    (s.popFront t).ring.errCount = s.ring.errCount := rfl
@[simp] theorem State.popFront_regs (s : State) (t : List (Nat × List Byte)) :
    (s.popFront t).regs = s.regs := rfl
@[simp] theorem State.popFront_entries (s : State) (t : List (Nat × List Byte)) :
    (s.popFront t).entries = s.entries := rfl
@[simp] theorem State.popFront_streams (s : State) (t : List (Nat × List Byte)) :
    (s.popFront t).streams = s.streams := rfl
@[simp] theorem State.popFront_dram (s : State) (t : List (Nat × List Byte)) :
    (s.popFront t).dram = s.dram := rfl
@[simp] theorem State.popFront_plate (s : State) (t : List (Nat × List Byte)) :
    (s.popFront t).plate = s.plate := rfl

/-- R510: HEAD passes the entry at the front where no reserved entry stands behind it. -/
theorem State.passHead_of_notReserved {s : State} {a : Nat} {raw : List Byte}
    {t : List (Nat × List Byte)} (ha : s.ring.arrived = (a, raw) :: t) (hh : s.reg Reg.FE_RING_HEAD = a)
    (ht : ∀ x, t.head? = some x → (rowKind x.2).isSome = true) :
    s.passHead = (s.popFront t).setReg Reg.FE_RING_HEAD ((a + 1) % 2 ^ 32) := by
  have hr : (s.popFront t).reg Reg.FE_RING_HEAD = a := hh
  unfold State.popFront at hr ⊢
  simp only [State.passHead, ha, hr, if_true]
  exact State.clearFront_of_notReserved ht

/-! ### What the checks of an entry change -/

@[simp] theorem State.emitHost_ring (s : State) (o : Outbound) : (s.emitHost o).ring = s.ring := by
  unfold State.emitHost; split_ifs <;> rfl
@[simp] theorem State.emitHost_entries (s : State) (o : Outbound) :
    (s.emitHost o).entries = s.entries := by
  unfold State.emitHost; split_ifs <;> rfl
@[simp] theorem State.emitHost_streams (s : State) (o : Outbound) :
    (s.emitHost o).streams = s.streams := by
  unfold State.emitHost; split_ifs <;> rfl
@[simp] theorem State.emitHost_dram (s : State) (o : Outbound) : (s.emitHost o).dram = s.dram := by
  unfold State.emitHost; split_ifs <;> rfl
@[simp] theorem State.emitHost_plate (s : State) (o : Outbound) : (s.emitHost o).plate = s.plate := by
  unfold State.emitHost; split_ifs <;> rfl
@[simp] theorem State.emitHost_regs (s : State) (o : Outbound) : (s.emitHost o).regs = s.regs := by
  unfold State.emitHost; split_ifs <;> rfl

/-- A request towards host memory logs nothing. -/
theorem State.EccLogged.emitHost {s t : State} (h : s.EccLogged t) (o : Outbound) :
    s.EccLogged (t.emitHost o) where
  ring := by simp [h.ring]
  entries := by simp [h.entries]
  streams := by simp [h.streams]
  dram := by simp [h.dram]
  plate := by simp [h.plate]
  regs hs := by
    obtain ⟨hw, hr⟩ := h.regs hs
    exact ⟨by simpa using hw, hr.trans (State.sameRegs_of_regs (by simp) _)⟩

@[simp] theorem Ctx.noteRead_s (c : Ctx) (u len : Nat) : (c.noteRead u len).s = c.s := rfl

@[simp] theorem Ctx.fail_s (c : Ctx) (code : FaultCode) (u : Nat) : (c.fail code u).s = c.s := by
  unfold Ctx.fail; split <;> rfl

theorem Ctx.fail_err_ne_none (c : Ctx) (code : FaultCode) (u : Nat) : (c.fail code u).err ≠ none := by
  unfold Ctx.fail
  split
  next h => exact Option.isSome_iff_ne_none.1 h
  · exact Option.some_ne_none _

/-- An access of `s` that has met no error has logged no more than what a read of local memory does. -/
def State.GoodLogged (s : State) (p : Ctx × List Byte) : Prop := p.1.err = none → s.EccLogged p.1.s

theorem State.goodLogged_fail (s : State) (c : Ctx) (code : FaultCode) (u : Nat) (l : List Byte) :
    s.GoodLogged (c.fail code u, l) := fun he => absurd he (c.fail_err_ne_none code u)

theorem Ctx.read_goodLogged (c : Ctx) (fe : Bool) {u : Nat} (len : Nat)
    (hu : regionOf u = .host ∨ regionOf u = .dram) : c.s.GoodLogged (c.read fe u len) := by
  have hd : c.s.EccLogged (c.noteRead u len).s := .refl c.s
  unfold Ctx.read
  extract_lets zeros d
  have hd : c.s.EccLogged d.s := hd
  split
  · exact fun _ => hd
  split
  · exact c.s.goodLogged_fail _ _ _ _
  rcases hu with hu | hu
  case inr =>
    simp only [hu]
    split
    next heq => exact fun _ => hd.readLocal heq
    · exact c.s.goodLogged_fail _ _ _ _
  case inl =>
    simp only [hu]
    split
    · exact fun _ => hd
    split
    · split
      · exact fun _ => hd
      · exact c.s.goodLogged_fail _ _ _ _
    · exact fun _ => hd.emitHost _

@[simp] theorem State.sealRefresh_ring (s : State) : s.sealRefresh.ring = s.ring := by
  unfold State.sealRefresh; split_ifs <;> rfl
@[simp] theorem State.sealRefresh_entries (s : State) : s.sealRefresh.entries = s.entries := by
  unfold State.sealRefresh; split_ifs <;> rfl
@[simp] theorem State.sealRefresh_streams (s : State) : s.sealRefresh.streams = s.streams := by
  unfold State.sealRefresh; split_ifs <;> rfl
@[simp] theorem State.sealRefresh_regs (s : State) : s.sealRefresh.regs = s.regs := by
  unfold State.sealRefresh; split_ifs <;> rfl

/-! ### The checks of an entry -/

theorem regionOf_of_inHostOrDram {u al : Nat} (h : inHostOrDram u al = true) :
    regionOf u = .host ∨ regionOf u = .dram := by
  simp only [inHostOrDram, Bool.and_eq_true, Bool.or_eq_true, beq_iff_eq] at h
  exact h.2

/-- The checks of an entry log no more than the read of its extension block does, which they make where
the entry has one (R514). -/
theorem State.checkEntry_logged {s u : State} {v : View} {k : RowKind} {a : Nat} {raw : List Byte} {r : Req}
    (h : s.checkEntry v k a raw = .ok u r) :
    s.EccLogged u ∧ (bitOf (leAt raw 1 1) 2 = false → u = s) := by
  unfold State.checkEntry at h
  extract_lets flags nw ns finish ext q at h
  have hfin : ∀ {t ws gs n}, finish t ws gs n = .ok u r → u = t := by
    intro t ws gs n hf
    simp only [finish] at hf
    split at hf
    · cases hf; rfl
    · cases hf
  split at h
  · cases h
  split at h
  next hx =>
    refine ⟨?_, fun hx' => absurd hx (by simp [flags, hx'])⟩
    split at h
    · cases h
    next hin =>
      split at h
      · cases h
      split at h
      · split at h <;> cases h
      next hst herr =>
        have hu : regionOf ext = .host ∨ regionOf ext = .dram := by
          exact regionOf_of_inHostOrDram (Bool.of_not_eq_false fun e => hin (.inl e))
        rw [hfin h]
        exact (Ctx.start s v []).read_goodLogged true 320 hu (by simpa using herr)
  next hx => exact ⟨hfin h ▸ .refl s, fun _ => hfin h⟩

/-! ### The rows -/

/-- R510, R519: RE_NOP is admitted, and that is all. -/
theorem nop_admitted {s u : State} {v : View} {r : Req} {a : Nat} {raw : List Byte} (hs : s.Canonical)
    (hf : s.front .nop = some (a, raw)) (hc : s.sealRefresh.checkEntry v .nop a raw = .ok u r)
    (hh : s.reg Reg.FE_RING_HEAD = a)
    (hn : ∀ x, s.ring.arrived.tail.head? = some x → (rowKind x.2).isSome = true) :
    (bitOf (leAt raw 1 1) 2 = false → u = s.sealRefresh) ∧
    Does (.reNop v) s fun t =>
      t.ring.arrived = s.ring.arrived.tail ∧ t.reg Reg.FE_RING_HEAD = (a + 1) % 2 ^ 32 ∧
      u.SameRegs t [Reg.FE_RING_HEAD, Reg.HI_NOTICE_STATUS] ∧ u.SameBytes t ∧
      t.entries = s.entries ∧ t.streams = s.streams ∧ t.ring.errCount = s.ring.errCount := by
  obtain ⟨l, hl⟩ := State.arrived_of_front hf
  obtain ⟨hu, hsame⟩ := State.checkEntry_logged hc
  have hw : SMap.wf regReset s.sealRefresh.regs = true := by
    obtain ⟨-, -, hregs, -⟩ := hs
    simpa using hregs
  obtain ⟨hwu, hregs⟩ := hu.regs hw
  have hring : u.ring = s.ring := hu.ring.trans s.sealRefresh_ring
  have hhead : u.reg Reg.FE_RING_HEAD = a := by
    rw [hregs _ (by decide), ← hh]
    simp only [State.reg, State.sealRefresh_regs]
  rw [hl, List.tail_cons] at hn
  have hx : Passes (.reNop v) s u := passes_of_done rfl ⟨a, raw, hf, hc⟩ rfl
  rw [Passes, State.passHead_of_notReserved (hring ▸ hl) hhead hn] at hx
  have hwp : SMap.wf regReset (u.popFront l).regs = true := hwu
  have hedge := s.sameRegs_ringEdge (State.wf_setReg hwp Reg.FE_RING_HEAD ((a + 1) % 2 ^ 32))
    (List.mem_singleton_self Reg.HI_NOTICE_STATUS)
  refine ⟨hsame, _, hx, ?arrived, ?head, ?regs, ?bytes, ?entries, ?streams, ?errors⟩
  case arrived => simp [hl]
  case head => rw [hedge _ (by decide), State.reg_setReg_same hwp, Nat.mod_mod]
  case regs =>
    exact (State.sameRegs_setReg (s := u.popFront l) hwp _ (by simp)).trans (hedge.mono (by simp))
  case bytes => exact fun b => by simp
  case entries => simp [hu.entries]
  case streams => simp [hu.streams]
  case errors => simp [hring]

section
variable {s : State} {r : Req} {v : View}

/-- R620: a misplaced image. -/
theorem actSave_misplaced (h : inHostOrDram (leAt r.raw 8 8 % 2 ^ 48) 4096 = false ∨
    s.addrOk true (leAt r.raw 8 8 % 2 ^ 48) 4096 = false) : actSave s r = .reject s :=
  if_pos h

/-- R621: a save at the boundary of an entry. -/
theorem actSave_boundary (h1 : inHostOrDram (leAt r.raw 8 8 % 2 ^ 48) 4096 = true)
    (h2 : s.addrOk true (leAt r.raw 8 8 % 2 ^ 48) 4096 = true)
    (hcut : bitOf (leAt r.raw 0x1C 1 % 8) 0 = false) :
    actSave s r = .done (s.addEntry (newEntry r (.save (leAt r.raw 8 8 % 2 ^ 48)
      (leAt r.raw 16 8 % 2 ^ 48) (leAt r.raw 0x1C 1 % 8) none (s.stream r.stream).gen false))) := by
  simp only [actSave, h1, h2, hcut, Bool.true_eq_false, or_self, if_false, if_true]

/-- R622: a cut with room for it names the stream's last entry that takes a slot, and needs the permission
of R12. -/
theorem actSave_cut {j : Nat} {x : Entry} (h1 : inHostOrDram (leAt r.raw 8 8 % 2 ^ 48) 4096 = true)
    (h2 : s.addrOk true (leAt r.raw 8 8 % 2 ^ 48) 4096 = true)
    (hcut : bitOf (leAt r.raw 0x1C 1 % 8) 0 = true) (hj : (s.stream r.stream).lastIdx = some j)
    (hx : (s.entries.find? fun e => e.idx == j && e.stream == r.stream && e.takesSlot) = some x)
    (h3 : inHostOrDram (leAt r.raw 16 8 % 2 ^ 48) 64 = true)
    (h4 : s.addrOk true (leAt r.raw 16 8 % 2 ^ 48)
      (s.areaSize x (bitOf (leAt r.raw 0x1C 1 % 8) 2)) = true)
    (h5 : s.areaSize x (bitOf (leAt r.raw 0x1C 1 % 8) 2) ≤ leAt r.raw 0x18 4 * 1024) :
    let e := fun target => newEntry r (.save (leAt r.raw 8 8 % 2 ^ 48) (leAt r.raw 16 8 % 2 ^ 48)
      (leAt r.raw 0x1C 1 % 8) target (s.stream r.stream).gen false)
    (s.expert = true → actSave s r = .done (s.addEntry (e (some x.idx)))) ∧
      (s.expert = false → actSave s r = .done (s.addEntry { e none with
        fault := some (s.plainFault .expertLocked 0) })) := by
  have h5' := Nat.not_lt.2 h5
  constructor <;> intro he <;>
    simp only [actSave, h1, h2, hcut, hj, hx, h3, h4, h5', he, Option.bind_some, Bool.true_eq_false,
      or_self, if_false, if_true]

/-- R628: a misplaced image. -/
theorem actRestore_misplaced (h : inHostOrDram (leAt r.raw 8 8 % 2 ^ 48) 4096 = false) :
    actRestore v s r = .reject s := if_pos h

/-- R628: the image that a RE_RESTORE has read, good for its stream or not. -/
theorem actRestore_read {c : Ctx} {l : List Byte}
    (h : inHostOrDram (leAt r.raw 8 8 % 2 ^ 48) 4096 = true)
    (hc : (Ctx.start s v []).read true (leAt r.raw 8 8 % 2 ^ 48) 4096 = (c, l)) (hst : c.stall = false) :
    let e := newEntry r (.restore (leAt r.raw 8 8 % 2 ^ 48) (leAt r.raw 16 8 % 2 ^ 48) l)
    (c.err.isSome = true ∨ imageOk l (c.s.stream r.stream).domain = false →
      actRestore v s r = .done (c.s.addEntry { e with
        fault := some (c.s.plainFault .contextInvalid (leAt r.raw 8 8 % 2 ^ 48)) })) ∧
    (c.err = none → imageOk l (c.s.stream r.stream).domain = true →
      actRestore v s r = .done ((c.s.setStream r.stream { c.s.stream r.stream with
        gen := genOfBytes ((l.drop 0x18).take 40) }).addEntry
          { e with hgen := if leAt l 3 1 = 1 then c.s.genInForce else 0 })) := by
  refine ⟨fun hbad => ?bad, fun he hi => ?good⟩
  case bad =>
    simp only [actRestore, h, hc, hst, hbad, Bool.true_eq_false, Bool.false_eq_true, if_false, if_true]
  case good =>
    simp only [actRestore, h, hc, hst, he, hi, Option.isSome_none, Bool.true_eq_false,
      Bool.false_eq_true, or_self, if_false]
    rfl

/-- R628: a RE_RESTORE is taken in where none waits for its target. -/
theorem execReRestore_admits (h : s.restoreDue = none) :
    exec (.reRestore v) s = .next (s.admitRow .restore v (actRestore v)) := by
  simp only [exec, execReRestore, h]

/-- R628 step 2: the one whose turn as head has come loads its target. -/
theorem execReRestore_loads {e : Entry} {i b : Nat} {img : List Byte} (h : s.restoreDue = some e)
    (hk : e.kind = .restore i b img) (hr : s.running = true) :
    exec (.reRestore v) s = .next (s.restoreTarget v e b img) := by
  simp only [exec, execReRestore, h, hk, hr, if_true]

end

/-- Settles O33: RE_NOP by what its checks and HEAD change, every other row by its action's answer. -/
theorem slotlessEntriesAreAdmitted : Obligations.SlotlessEntriesAreAdmitted := by
  refine ⟨fun s u v r a raw hs hf hc hh hn => nop_admitted hs hf hc hh hn, fun s u v r =>
    ⟨?wait, ?signal, fun h => ⟨?saveMisplaced, fun h1 h2 => ⟨?boundary, ?cut⟩⟩,
      fun hd h => ⟨?restoreMisplaced, ?restored⟩, ?due⟩⟩
  case wait => exact fun h => passes_of_done rfl h rfl
  case signal => exact fun h => passes_of_done rfl h rfl
  case saveMisplaced => exact fun hm => rejects_of_reject rfl h (actSave_misplaced hm)
  case boundary => exact fun hcut => passes_of_done rfl h (actSave_boundary h1 h2 hcut)
  case cut =>
    intro j x hcut hj hx h3 h4 h5
    obtain ⟨hopen, hlocked⟩ := actSave_cut h1 h2 hcut hj hx h3 h4 h5
    exact ⟨fun he => passes_of_done rfl h (hopen he), fun he => passes_of_done rfl h (hlocked he)⟩
  case restoreMisplaced =>
    exact fun hm => rejects_of_reject (execReRestore_admits hd) h (actRestore_misplaced hm)
  case restored =>
    intro c l hin hc hst
    obtain ⟨hbad, hgood⟩ := actRestore_read hin hc hst
    exact ⟨fun hb => passes_of_done (execReRestore_admits hd) h (hbad hb),
      fun he hi => passes_of_done (execReRestore_admits hd) h (hgood he hi)⟩
  case due => exact fun e i b img he hk hr => execReRestore_loads he hk hr

end Sys2Proof.Machine
end

section
/-! Register writes (O39): what an access error logs, and what a write of a quiet register, one that sets
nothing off, stores. -/

namespace Sys2Proof.Machine

/-! ### Access errors -/

/-- The registers that log an access error (R925). -/
def dbgRegs : List Nat := [Reg.DBG_ACCESS_COUNT, Reg.DBG_ACCESS_STATUS, Reg.DBG_ACCESS_ADDR]

section
variable {s : State} {p : Path} {kind o be : Nat}

/-- What an access error does (R925): nothing before READY; else it counts, and the first one since the
status was cleared is logged, while a further one sets the overflow bit. -/
theorem State.accErr_cases (s : State) (p : Path) (kind o be : Nat) :
    (s.ready = false ∧ s.accErr p kind o be = s) ∨
    (s.ready = true ∧ bitOf ((s.bump Reg.DBG_ACCESS_COUNT 1).reg Reg.DBG_ACCESS_STATUS) 0 = true ∧
      s.accErr p kind o be = (s.bump Reg.DBG_ACCESS_COUNT 1).setFld Reg.DBG_ACCESS_STATUS 1 1 1) ∨
    (s.ready = true ∧ bitOf ((s.bump Reg.DBG_ACCESS_COUNT 1).reg Reg.DBG_ACCESS_STATUS) 0 = false ∧
      ∃ n, s.accErr p kind o be = ((((s.bump Reg.DBG_ACCESS_COUNT 1).setFld Reg.DBG_ACCESS_STATUS 0 0
        1).setFld Reg.DBG_ACCESS_STATUS 4 2 kind).setFld Reg.DBG_ACCESS_STATUS 6 5 n).setReg
          Reg.DBG_ACCESS_ADDR (o + be * 2 ^ 20)) := by
  unfold State.accErr
  split
  next h => exact .inl ⟨h, rfl⟩
  next h =>
    have hr : s.ready = true := Bool.of_not_eq_false h
    extract_lets t n
    split
    next hb => exact .inr (.inl ⟨hr, hb, rfl⟩)
    next hb => exact .inr (.inr ⟨hr, Bool.of_not_eq_true hb, n, rfl⟩)

/-- An access error changes registers alone. -/
theorem State.accErr_eq (s : State) (p : Path) (kind o be : Nat) :
    s.accErr p kind o be = { s with regs := (s.accErr p kind o be).regs } := by
  rcases s.accErr_cases p kind o be with ⟨-, h⟩ | ⟨-, -, h⟩ | ⟨-, -, n, h⟩ <;> rw [h] <;> rfl

theorem State.sameRegs_accErr (h : SMap.wf regReset s.regs = true) :
    s.SameRegs (s.accErr p kind o be) dbgRegs := by
  have h1 := State.wf_bump h Reg.DBG_ACCESS_COUNT 1
  have hcount := State.sameRegs_setReg h ((s.reg Reg.DBG_ACCESS_COUNT + 1) % 2 ^ 32)
    (show Reg.DBG_ACCESS_COUNT ∈ dbgRegs by decide)
  have hstatus : Reg.DBG_ACCESS_STATUS ∈ dbgRegs := by decide
  rcases s.accErr_cases p kind o be with ⟨-, e⟩ | ⟨-, -, e⟩ | ⟨-, -, n, e⟩ <;> rw [e]
  · exact .refl s _
  · exact hcount.trans (State.sameRegs_setReg h1 _ hstatus)
  · have h2 := State.wf_setFld h1 Reg.DBG_ACCESS_STATUS 0 0 1
    have h3 := State.wf_setFld h2 Reg.DBG_ACCESS_STATUS 4 2 kind
    have h4 := State.wf_setFld h3 Reg.DBG_ACCESS_STATUS 6 5 n
    exact (((hcount.trans (State.sameRegs_setReg h1 _ hstatus)).trans
      (State.sameRegs_setReg h2 _ hstatus)).trans (State.sameRegs_setReg h3 _ hstatus)).trans
        (State.sameRegs_setReg h4 _ (by decide))

/-- R925: after READY every access error counts; the first since the status was cleared is logged, and a
further one sets the overflow bit. -/
theorem State.accErr_logs (h : SMap.wf regReset s.regs = true) (hr : s.ready = true) :
    (s.accErr p kind o be).reg Reg.DBG_ACCESS_COUNT = (s.reg Reg.DBG_ACCESS_COUNT + 1) % 2 ^ 32 ∧
    (bitOf (s.reg Reg.DBG_ACCESS_STATUS) 0 = false →
      (s.accErr p kind o be).fld Reg.DBG_ACCESS_STATUS 4 2 = kind % 8 ∧
      (s.accErr p kind o be).fld Reg.DBG_ACCESS_STATUS 0 0 = 1 ∧
      (s.accErr p kind o be).reg Reg.DBG_ACCESS_ADDR = (o + be * 2 ^ 20) % 2 ^ 32) ∧
    (bitOf (s.reg Reg.DBG_ACCESS_STATUS) 0 = true →
      (s.accErr p kind o be).fld Reg.DBG_ACCESS_STATUS 1 1 = 1) := by
  have h1 := State.wf_bump h Reg.DBG_ACCESS_COUNT 1
  have hb : (s.bump Reg.DBG_ACCESS_COUNT 1).reg Reg.DBG_ACCESS_STATUS = s.reg Reg.DBG_ACCESS_STATUS :=
    State.reg_bump_other h 1 (by decide)
  have hcount := State.reg_bump_same h Reg.DBG_ACCESS_COUNT 1
  rcases s.accErr_cases p kind o be with ⟨e, -⟩ | ⟨-, hs, e⟩ | ⟨-, hs, n, e⟩
  case inl => exact absurd hr (by simp [e])
  case inr.inl =>
    rw [hb] at hs
    rw [e]
    refine ⟨?_, fun h0 => absurd hs (by simp [h0]), fun _ => ?_⟩
    · rw [State.reg_setFld_other h1 _ _ _ (by decide), hcount]
    · exact State.fld_setFld_same h1 _ (by decide) (by decide)
  case inr.inr =>
    rw [hb] at hs
    have h2 := State.wf_setFld h1 Reg.DBG_ACCESS_STATUS 0 0 1
    have h3 := State.wf_setFld h2 Reg.DBG_ACCESS_STATUS 4 2 kind
    have h4 := State.wf_setFld h3 Reg.DBG_ACCESS_STATUS 6 5 n
    have hother : Reg.DBG_ACCESS_COUNT ≠ Reg.DBG_ACCESS_STATUS := by decide
    rw [e]
    refine ⟨?_, fun _ => ⟨?_, ?_, State.reg_setReg_same h4 _ _⟩, fun h0 => absurd h0 (by simp [hs])⟩
    · rw [State.reg_setReg_other h4 _ (by decide), State.reg_setFld_other h3 _ _ _ hother,
        State.reg_setFld_other h2 _ _ _ hother, State.reg_setFld_other h1 _ _ _ hother, hcount]
    · rw [State.fld, State.reg_setReg_other h4 _ (by decide), ← State.fld,
        State.fld_setFld_disjoint h3 _ (by decide) (by decide) (by decide),
        State.fld_setFld_same h2 _ (by decide) (by decide)]
      rfl
    · rw [State.fld, State.reg_setReg_other h4 _ (by decide), ← State.fld,
        State.fld_setFld_disjoint h3 _ (by decide) (by decide) (by decide),
        State.fld_setFld_disjoint h2 _ (by decide) (by decide) (by decide),
        State.fld_setFld_same h1 _ (by decide) (by decide)]
      rfl

end

/-! ### Quiet registers -/

/-- The offsets whose writes set nothing off. -/
def Quiet (o : Nat) : Prop := (o < 0x2000 ∧ o ≠ Reg.HI_NOTICE_EN) ∨ (0x8000 ≤ o ∧ o < 0x20000)

section
variable {s t : State} {p : Path} {o be : Nat} {r : RegRow}

theorem not_mem_dbgRegs_of_lt (h : o < 0x20000) : o ∉ dbgRegs := by
  simp only [dbgRegs, Reg.DBG_ACCESS_COUNT, Reg.DBG_ACCESS_STATUS, Reg.DBG_ACCESS_ADDR,
    List.mem_cons, List.not_mem_nil, or_false]
  omega

theorem Quiet.lt (hq : Quiet o) : o < 0x20000 := by
  unfold Quiet at hq
  omega

theorem Quiet.not_mem_dbgRegs (hq : Quiet o) : o ∉ dbgRegs := not_mem_dbgRegs_of_lt hq.lt

theorem Quiet.writeEffect (hq : Quiet o) (t : State) (old w : Nat) : t.writeEffect o old w = t := by
  unfold State.writeEffect
  rcases hq with ⟨h1, h2⟩ | ⟨h1, h2⟩
  · rw [if_pos (by omega), if_neg h2]
  · rw [if_neg (by omega), if_neg (by omega), if_pos h2]

/-- The low half of a quiet dword's pair is none that the ring locks either. -/
theorem Quiet.ringLocked (hq : Quiet o) {base : Nat} (hb : base = o ∨ base + 4 = o) :
    ringLocked base = false := by
  unfold Quiet at hq
  simp only [Machine.ringLocked, Reg.FE_RING_BASE, Reg.FE_DB_ADDR, Reg.FE_STATUS_ADDR, Reg.FE_RING_START,
    Bool.or_eq_false_iff, beq_eq_false_iff_ne]
  omega

/-! ### What a write that reaches a quiet dword comes to -/

theorem State.writeDword_unmapped (hq : Quiet o) (hr : regAt o = none) (w : Nat) :
    s.writeDword p o be w = s.accErr p 2 o be := by
  unfold Quiet at hq
  rw [State.writeDword, if_neg (by omega), if_neg (by omega), hr]

variable {a b : Nat} {high : Bool}

/-- R922: a write of some bytes is dropped. -/
theorem State.writeDword_partial (hq : Quiet o) (hr : regAt o = some (r, a, b, high)) (hbe : be ≠ 15)
    (hb : byteWritable o = false) (w : Nat) : s.writeDword p o be w = s.accErr p 1 o be := by
  unfold Quiet at hq
  rw [State.writeDword, if_neg (by omega), if_neg (by omega), hr]
  exact if_pos ⟨hbe, hb⟩

theorem State.writeDword_single (hq : Quiet o) (hr : regAt o = some (r, a, b, high))
    (hp : r.pair = false) (w : Nat) :
    s.writeDword p o 15 w = s.storeReg p o 15 o r [(o, false, mergeBe 15 (s.reg o) w)] := by
  unfold Quiet at hq
  rw [State.writeDword, if_neg (by omega), if_neg (by omega), hr]
  simp [hp]

theorem State.writeDword_low (hq : Quiet o) (hr : regAt o = some (r, a, b, false))
    (hp : r.pair = true) (w : Nat) :
    s.writeDword p o 15 w = s.setPath p { s.path p with stage := some (o, BitVec.ofNat 32 w) } := by
  unfold Quiet at hq
  rw [State.writeDword, if_neg (by omega), if_neg (by omega), hr]
  simp [hp]

theorem State.writeDword_high (hq : Quiet o) (hr : regAt o = some (r, a, b, true))
    (hp : r.pair = true) (w : Nat) : s.writeDword p o 15 w = s.commitPair p (o - 4) w r := by
  unfold Quiet at hq
  rw [State.writeDword, if_neg (by omega), if_neg (by omega), hr]
  simp [hp]

end

/-! ### Bytes of a dword -/

/-- Bit `i` of a field. -/
theorem testBit_bits (v hi lo i : Nat) :
    (bits v hi lo).testBit i = (decide (i < hi + 1 - lo) && v.testBit (lo + i)) := by
  unfold bits
  rw [Nat.testBit_mod_two_pow, Nat.testBit_div_two_pow, Nat.add_comm i]

/-- Byte `i` of `w` in the place of that of `v`. -/
def mergeByte (w v i : Nat) : Nat := putBits v (8 * i + 7) (8 * i) (bits w (8 * i + 7) (8 * i))

theorem mergeBe_eq_foldl (old w : Nat) : mergeBe 15 old w = (upto 4).foldl (mergeByte w) old := rfl

theorem testBit_mergeByte (w v i j : Nat) : (mergeByte w v i).testBit j =
    if 8 * i ≤ j ∧ j ≤ 8 * i + 7 then w.testBit j else v.testBit j := by
  unfold mergeByte
  rw [testBit_putBits (by omega), testBit_bits]
  split
  next h =>
    have h1 : j - 8 * i < 8 * i + 7 + 1 - 8 * i := by omega
    rw [show 8 * i + (j - 8 * i) = j by omega]
    simp [h1]
  · rfl

/-- The first `n` bytes of `w` take the place of those of `old`. -/
theorem testBit_foldl_mergeByte (w old j n : Nat) : ((upto n).foldl (mergeByte w) old).testBit j =
    if j < 8 * n then w.testBit j else old.testBit j := by
  induction n with
  | zero => simp [upto]
  | succ n ih =>
    rw [show upto (n + 1) = upto n ++ [n] from List.range_succ, List.foldl_concat, testBit_mergeByte, ih]
    by_cases hn : 8 * n ≤ j ∧ j ≤ 8 * n + 7
    · rw [if_pos hn, if_pos (by omega)]
    · rw [if_neg hn]
      exact if_congr (by omega) rfl rfl

/-- With every byte enabled the written dword takes the place of the old one. -/
theorem mergeBe_all {old w : Nat} (ho : old < 2 ^ 32) (hw : w < 2 ^ 32) : mergeBe 15 old w = w := by
  refine Nat.eq_of_testBit_eq fun j => ?_
  rw [mergeBe_eq_foldl, testBit_foldl_mergeByte]
  split
  · rfl
  next hj =>
    have hp : 2 ^ 32 ≤ 2 ^ j := Nat.pow_le_pow_right (by decide) (by omega)
    rw [Nat.testBit_lt_two_pow (ho.trans_le hp), Nat.testBit_lt_two_pow (hw.trans_le hp)]

/-! ### The access paths -/

section
variable (s t : State) (p q : Path) (x : PathState) (base : Nat)

@[simp] theorem State.setPath_regs : (s.setPath p x).regs = s.regs := by cases p <;> rfl
@[simp] theorem State.setPath_dram : (s.setPath p x).dram = s.dram := by cases p <;> rfl
@[simp] theorem State.setPath_plate : (s.setPath p x).plate = s.plate := by cases p <;> rfl
@[simp] theorem State.setPath_path_same : (s.setPath p x).path p = x := by cases p <;> rfl

@[simp] theorem State.dropSnaps_regs : (s.dropSnaps base).regs = s.regs := rfl
@[simp] theorem State.dropSnaps_dram : (s.dropSnaps base).dram = s.dram := rfl
@[simp] theorem State.dropSnaps_plate : (s.dropSnaps base).plate = s.plate := rfl
@[simp] theorem State.dropSnaps_stage : ((s.dropSnaps base).path q).stage = (s.path q).stage := by
  cases q <;> simp only [State.dropSnaps, State.path] <;> (repeat' split) <;> rfl

/-- R927: no path keeps a snapshot of the pair. -/
theorem State.dropSnaps_snap {k : Nat} {w : Word32} (h : ((s.dropSnaps base).path q).snap = some (k, w)) :
    k ≠ base := by
  cases q
  all_goals
    simp only [State.dropSnaps, State.path] at h
    split at h
    · split at h
      · cases h
      next heq hb => rw [heq] at h; cases h; exact hb
    · simp_all

@[simp] theorem State.alertEdge_regs : (s.alertEdge t).regs = t.regs := by
  unfold State.alertEdge; split <;> rfl
@[simp] theorem State.alertEdge_dram : (s.alertEdge t).dram = t.dram := by
  unfold State.alertEdge; split <;> rfl
@[simp] theorem State.alertEdge_plate : (s.alertEdge t).plate = t.plate := by
  unfold State.alertEdge; split <;> rfl

end

/-! ### What the store of a quiet register leaves -/

/-- R944: an access error is logged where the write would have changed a locked Expert field. -/
def State.lockLogged (t : State) (bad : Bool) (p : Path) (o be : Nat) : State :=
  if bad then t.accErr p 3 o be else t

section
variable {s t : State} {bad : Bool} {p q : Path} {o be : Nat}

theorem State.lockLogged_eq :
    t.lockLogged bad p o be = { t with regs := (t.lockLogged bad p o be).regs } := by
  unfold State.lockLogged
  split
  · exact t.accErr_eq p 3 o be
  · rfl

@[simp] theorem State.lockLogged_dram : (t.lockLogged bad p o be).dram = t.dram := by
  rw [State.lockLogged_eq]
@[simp] theorem State.lockLogged_plate : (t.lockLogged bad p o be).plate = t.plate := by
  rw [State.lockLogged_eq]
@[simp] theorem State.lockLogged_path : (t.lockLogged bad p o be).path q = t.path q := by
  rw [State.lockLogged_eq]; cases q <;> rfl
@[simp] theorem State.setReg_path (v : Nat) : (t.setReg o v).path q = t.path q := by cases q <;> rfl

theorem State.sameRegs_lockLogged (h : SMap.wf regReset t.regs = true) :
    t.SameRegs (t.lockLogged bad p o be) dbgRegs := by
  unfold State.lockLogged
  split
  · exact State.sameRegs_accErr h
  · exact .refl t _

/-- Bytes are equal where both memories are. -/
theorem State.sameBytes_of_eq (hd : t.dram = s.dram) (hp : t.plate = s.plate) : s.SameBytes t :=
  fun a => by rw [hd, hp]; exact ⟨rfl, rfl⟩

variable {r : RegRow} {w : Nat}

/-- A quiet single register: its dword alone is stored. -/
theorem State.storeReg_single (hq : Quiet o) : s.storeReg p o be o r [(o, false, w)] =
    (s.alertEdge ((s.setReg o (writeFields (dwordFields r false) (!s.unlocked) (s.reg o) w)).lockLogged
      (!s.unlocked && expertChange (dwordFields r false) (s.reg o) w) p o be)).dropSnaps o := by
  have hr : ¬ (Machine.ringLocked o = true ∧ bitOf (s.reg Reg.FE_RING_CTRL) 0 = true) := by
    simp [hq.ringLocked (.inl rfl)]
  rw [State.storeReg, if_neg hr]
  simp only [List.foldl_cons, List.foldl_nil, List.any_cons, List.any_nil, Bool.or_false,
    hq.writeEffect, State.lockLogged]

/-- A quiet pair: both its dwords are stored. -/
theorem State.storeReg_pair {base v : Nat} (hl : Machine.ringLocked base = false) :
    s.storeReg p o be base r [(base, false, v), (base + 4, true, w)] =
    ((((s.setReg base (writeFields (dwordFields r false) (!s.unlocked) (s.reg base) v)).setReg (base + 4)
      (writeFields (dwordFields r true) (!s.unlocked)
        ((s.setReg base (writeFields (dwordFields r false) (!s.unlocked) (s.reg base) v)).reg (base + 4))
          w)).lockLogged
      (!s.unlocked && (expertChange (dwordFields r false) (s.reg base) v ||
        expertChange (dwordFields r true) (s.reg (base + 4)) w)) p o be)).dropSnaps base := by
  rw [State.storeReg, if_neg (by simp [hl])]
  simp only [List.foldl_cons, List.foldl_nil, List.any_cons, List.any_nil, Bool.or_false,
    State.lockLogged]

end

/-! ### Where a high half lies -/

theorem RegRow.four_le_of_locate {r : RegRow} {o a b : Nat} (h : r.locate o = some (a, b, true)) :
    4 ≤ o := by
  unfold RegRow.locate at h
  extract_lets d k d' i d'' at h
  have h1 : d'' ≤ d' := by simp only [d'']; split; exacts [le_rfl, Nat.mod_le _ _]
  have h2 : d' ≤ d := by simp only [d']; split; exacts [le_rfl, Nat.mod_le _ _]
  have h3 : d ≤ o := Nat.sub_le _ _
  split at h
  · cases h
  split at h
  · cases h
  split at h
  · simp at h
  split at h
  next h4 => omega
  · cases h

theorem locate_of_findRow {o : Nat} {l : List RegRow} {r : RegRow} {x : Nat × Nat × Bool}
    (h : findRow o l = some (r, x)) : r.locate o = some x := by
  induction l with
  | nil => cases h
  | cons r' l ih =>
    rw [findRow] at h
    split at h
    next hx => cases h; exact hx
    · exact ih h

/-- HI_BOOT has no Expert field. -/
theorem expertChange_hiBoot {r : RegRow} {a b : Nat} {high : Bool}
    (h : regAt Reg.HI_BOOT = some (r, a, b, high)) (old w : Nat) :
    expertChange (dwordFields r false) old w = false := by
  have hx : (regAt Reg.HI_BOOT).all fun x => (dwordFields x.1 false).all fun f => !f.expert := by decide
  rw [h, Option.all_some, List.all_eq_true] at hx
  rw [expertChange, List.any_eq_false]
  intro f hf
  have := hx f hf
  simp_all

/-! ### Register writes -/

section
variable {s : State} {p : Path} {ofs : BitVec 20} {be : BitVec 4} {value : Word32}

theorem State.dwordWrite_of_full {x b w : Nat} (h : s.reach p (x - x % 4) = .full) :
    s.dwordWrite p x b w = s.writeDword p (x - x % 4) b w := by
  simp only [State.dwordWrite, h]

theorem State.dwordWrite_of_no_effect {x b w : Nat} (h : s.reach p (x - x % 4) = .nobody ∨
    s.reach p (x - x % 4) = .blank ∨ s.reach p (x - x % 4) = .readOnly) : s.dwordWrite p x b w = s := by
  rcases h with h | h | h <;> simp only [State.dwordWrite, h]

theorem State.dwordWrite_of_unsupported {x b w : Nat} (h : s.reach p (x - x % 4) = .unsupported) :
    s.dwordWrite p x b w = s.aer 20 false := by
  simp only [State.dwordWrite, h, State.unsupported, if_true]

/-- The three rows write a dword alike. -/
theorem exec_dwordWrite {i : Instr} (hi : i = .registerWrite p ofs be value ∨
    i = .pairLowWrite p ofs be value ∨ i = .pairHighWrite p ofs be value) :
    exec i s = .next (s.dwordWrite p ofs.toNat be.toNat value.toNat) := by
  rcases hi with rfl | rfl | rfl <;> rfl

variable {o a b : Nat} {r : RegRow} {high : Bool}

/-- R932, R944: a quiet dword of its own, written whole. -/
theorem State.writeDword_single_stores (hw : SMap.wf regReset s.regs = true) (hq : Quiet o)
    (hr : regAt o = some (r, a, b, high)) (hp : r.pair = false) :
    let t := s.writeDword p o 15 value.toNat
    t.reg o = writeFields (dwordFields r false) (!s.unlocked) (s.reg o) value.toNat % 2 ^ 32 ∧
      s.SameRegs t (o :: dbgRegs) ∧ s.SameBytes t ∧
      (s.unlocked = true ∨ expertChange (dwordFields r false) (s.reg o) value.toNat = false →
        s.SameRegs t [o]) ∧
      (s.unlocked = false → expertChange (dwordFields r false) (s.reg o) value.toNat = true →
        s.ready = true →
        t.reg Reg.DBG_ACCESS_COUNT = (s.reg Reg.DBG_ACCESS_COUNT + 1) % 2 ^ 32) := by
  intro t
  let x := writeFields (dwordFields r false) (!s.unlocked) (s.reg o) value.toNat
  let bad := !s.unlocked && expertChange (dwordFields r false) (s.reg o) value.toNat
  let u := s.setReg o x
  have hu : SMap.wf regReset u.regs = true := State.wf_setReg hw o x
  have ht : t = (s.alertEdge (u.lockLogged bad p o 15)).dropSnaps o := by
    rw [← State.storeReg_single hq, ← mergeBe_all (s.reg_lt o) value.isLt]
    exact State.writeDword_single hq hr hp _
  have hregs : t.regs = (u.lockLogged bad p o 15).regs := by rw [ht]; simp
  have hsu : s.SameRegs u [o] := State.sameRegs_setReg hw x (List.mem_singleton_self o)
  have hut : u.SameRegs t dbgRegs :=
    (State.sameRegs_lockLogged hu).trans (State.sameRegs_of_regs hregs _)
  refine ⟨?_, ?_, State.sameBytes_of_eq (by rw [ht]; simp [u]) (by rw [ht]; simp [u]), fun hfree => ?_,
    fun hl hc hready => ?_⟩
  · rw [hut o hq.not_mem_dbgRegs, State.reg_setReg_same hw]
  · exact (hsu.mono (by simp)).trans (hut.mono (by simp))
  · have hbad : bad = false := by rcases hfree with h | h <;> simp [bad, h]
    exact hsu.trans (State.sameRegs_of_regs (by rw [hregs, hbad]; rfl) _)
  · have hbad : bad = true := by simp [bad, hl, hc]
    have hboot : Reg.HI_BOOT ≠ o := by
      rintro rfl
      rw [expertChange_hiBoot hr] at hc
      cases hc
    have hur : u.ready = true := by rw [State.ready, State.reg_setReg_other hw x hboot]; exact hready
    have hcount : Reg.DBG_ACCESS_COUNT ≠ o := by
      rintro rfl
      exact hq.not_mem_dbgRegs (by decide)
    rw [State.reg, hregs, hbad, ← State.reg_setReg_other hw x hcount]
    exact (State.accErr_logs hu hur).1

/-- R928: a high half commits its pair with the low half that is staged. -/
theorem State.commitPair_of_staged {base v : Nat} {w : Word32} (hs : (s.path p).stage = some (base, w)) :
    s.commitPair p base v r = (s.setPath p { s.path p with stage := none }).storeReg p (base + 4) 15 base r
      [(base, false, w.toNat), (base + 4, true, v)] := by
  simp [State.commitPair, hs]

/-- R928: the high half of a quiet pair, written when the low half is staged. -/
theorem State.writeDword_high_commits (hw : SMap.wf regReset s.regs = true) (hq : Quiet o)
    (hr : regAt o = some (r, a, b, true)) (hp : r.pair = true) {w : Word32}
    (hs : (s.path p).stage = some (o - 4, w)) :
    let t := s.writeDword p o 15 value.toNat
    t.reg (o - 4) = writeFields (dwordFields r false) (!s.unlocked) (s.reg (o - 4)) w.toNat % 2 ^ 32 ∧
      t.reg o = writeFields (dwordFields r true) (!s.unlocked) (s.reg o) value.toNat % 2 ^ 32 ∧
      (t.path p).stage = none ∧ s.SameRegs t ([o - 4, o] ++ dbgRegs) ∧ s.SameBytes t ∧
      ∀ q b x, (t.path q).snap = some (b, x) → b ≠ o - 4 := by
  intro t
  obtain ⟨base, rfl⟩ : ∃ base, o = base + 4 :=
    ⟨o - 4, (Nat.sub_add_cancel (RegRow.four_le_of_locate (locate_of_findRow hr))).symm⟩
  rw [Nat.add_sub_cancel] at hs ⊢
  let s' := s.setPath p { s.path p with stage := none }
  have hs' : s'.regs = s.regs := State.setPath_regs _ _ _
  have hreg (k : Nat) : s'.reg k = s.reg k := State.sameRegs_of_regs hs' [] k List.not_mem_nil
  have hlock : s'.unlocked = s.unlocked := by rw [State.unlocked, hreg]; rfl
  have hw' : SMap.wf regReset s'.regs = true := hs' ▸ hw
  let u := s'.setReg base (writeFields (dwordFields r false) (!s'.unlocked) (s'.reg base) w.toNat)
  have hu : SMap.wf regReset u.regs = true := State.wf_setReg hw' _ _
  let v := u.setReg (base + 4)
    (writeFields (dwordFields r true) (!s'.unlocked) (u.reg (base + 4)) value.toNat)
  have hv : SMap.wf regReset v.regs = true := State.wf_setReg hu _ _
  obtain ⟨bad, ht⟩ : ∃ bad, t = (v.lockLogged bad p (base + 4) 15).dropSnaps base :=
    ⟨_, (State.writeDword_high hq hr hp _).trans
      ((State.commitPair_of_staged hs).trans (State.storeReg_pair (hq.ringLocked (.inr rfl))))⟩
  have hvt : v.SameRegs t dbgRegs :=
    (State.sameRegs_lockLogged hv).trans (State.sameRegs_of_regs (by rw [ht]; rfl) _)
  have hsv : s.SameRegs v [base, base + 4] :=
    ((State.sameRegs_of_regs hs' _).trans (State.sameRegs_setReg hw' _ (by simp))).trans
      (State.sameRegs_setReg hu _ (by simp))
  have hne : base + 4 ≠ base := by omega
  have hbase : base ∉ dbgRegs := not_mem_dbgRegs_of_lt (by have := hq.lt; omega)
  refine ⟨?_, ?_, ?_, (hsv.mono (by simp)).trans (hvt.mono (by simp)),
    State.sameBytes_of_eq (by rw [ht]; simp [v, u, s']) (by rw [ht]; simp [v, u, s']), fun q k x h => ?_⟩
  · rw [hvt base hbase, State.reg_setReg_other hu _ hne.symm, State.reg_setReg_same hw', hlock, hreg]
  · rw [hvt _ hq.not_mem_dbgRegs, State.reg_setReg_same hu, State.reg_setReg_other hw' _ hne, hlock, hreg]
  · rw [ht]; simp [v, u, s']
  · rw [ht] at h
    exact State.dropSnaps_snap _ _ _ h

/-- What an access error after READY logs (R925), and that it changes nothing else. -/
theorem State.accErr_answer (hw : SMap.wf regReset s.regs = true) (hr : s.ready = true) (kind k m : Nat) :
    let t := s.accErr p kind k m
    t.reg Reg.DBG_ACCESS_COUNT = (s.reg Reg.DBG_ACCESS_COUNT + 1) % 2 ^ 32 ∧
      (bitOf (s.reg Reg.DBG_ACCESS_STATUS) 0 = false → t.fld Reg.DBG_ACCESS_STATUS 4 2 = kind % 8 ∧
        t.fld Reg.DBG_ACCESS_STATUS 0 0 = 1 ∧
        t.reg Reg.DBG_ACCESS_ADDR = (k + m * 2 ^ 20) % 2 ^ 32) ∧
      (bitOf (s.reg Reg.DBG_ACCESS_STATUS) 0 = true → t.fld Reg.DBG_ACCESS_STATUS 1 1 = 1) ∧
      s.SameRegs t dbgRegs ∧ t = { s with regs := t.regs } := by
  obtain ⟨hcount, hfirst, hfurther⟩ := State.accErr_logs (p := p) (kind := kind) (o := k) (be := m) hw hr
  exact ⟨hcount, hfirst, hfurther, State.sameRegs_accErr hw, s.accErr_eq p kind k m⟩

end

/-- Settles O39: each clause is what `State.writeDword` comes to for a quiet register. -/
theorem registerWritesStoreByFieldType : Obligations.RegisterWritesStoreByFieldType := by
  unfold Obligations.RegisterWritesStoreByFieldType
  intro s p ofs be value hs o quiet stored dbg
  obtain ⟨-, -, hw, -⟩ := hs
  refine ⟨fun i hi => ⟨fun h => ?dropped, fun h => ?unsupported, fun h hready hq hnone => ?unmapped⟩,
    fun hfull r a b high hr hq => ⟨fun hp => ⟨fun hbe => ?single, fun hbe hb hready => ?bytes⟩,
      fun hp hbe => ⟨fun hlow => ?low, fun hhigh w hst => ?high⟩⟩⟩
  case dropped => rw [exec_dwordWrite hi, State.dwordWrite_of_no_effect h]
  case unsupported => exact ⟨_, exec_dwordWrite hi, State.dwordWrite_of_unsupported h⟩
  case unmapped =>
    refine ⟨_, exec_dwordWrite hi, ?_⟩
    rw [State.dwordWrite_of_full h, State.writeDword_unmapped hq hnone]
    exact State.accErr_answer hw hready 2 o be.toNat
  case single =>
    refine ⟨_, exec_dwordWrite (.inl rfl), ?_⟩
    rw [State.dwordWrite_of_full hfull, hbe]
    exact State.writeDword_single_stores hw hq hr hp
  case bytes =>
    refine ⟨_, exec_dwordWrite (.inl rfl), ?_⟩
    rw [State.dwordWrite_of_full hfull, State.writeDword_partial hq hr hbe hb]
    obtain ⟨hcount, hfirst, -, hsame, heq⟩ :=
      State.accErr_answer (p := p) hw hready 1 o be.toNat
    exact ⟨hcount, fun h0 => (hfirst h0).1, hsame, heq⟩
  case low =>
    subst hlow
    refine ⟨_, exec_dwordWrite (.inr (.inl rfl)), ?_⟩
    rw [State.dwordWrite_of_full hfull, hbe, State.writeDword_low hq hr hp]
    exact ⟨by simp [o], by simp, State.setPath_regs _ _ _, State.sameBytes_of_eq (by simp) (by simp)⟩
  case high =>
    subst hhigh
    refine ⟨_, exec_dwordWrite (.inr (.inr rfl)), ?_⟩
    rw [State.dwordWrite_of_full hfull, hbe]
    exact State.writeDword_high_commits hw hq hr hp hst

end Sys2Proof.Machine
end

section
/-! Buffers and launches (O34). -/

namespace Sys2Proof.Machine

/-! ### Entries that wait for a copy or for bytes -/

section
variable {i : Instr} {s u : State} {v : View} {k : RowKind} {r : Req} {act : State → Req → Acted}

/-- R549: an entry that needs the first generation starts its copy and stays at the front. -/
theorem exec_of_copy {h : HandleCopy} (hi : exec i s = .next (s.admitRow k v act))
    (ha : s.Admits v k u r) (hc : act u r = .copy h) :
    exec i s = .next (s.ringEdge { s with hcopy := some h }) := by
  obtain ⟨a, raw, hf, hok⟩ := ha
  simp only [hi, State.admitRow, hf, hok, hc]

/-- R523: an entry that needs bytes of a remote device asks for them and stays at the front. -/
theorem exec_of_fetch {m : List (Nat × Nat)} (hi : exec i s = .next (s.admitRow k v act))
    (ha : s.Admits v k u r) (hm : act u r = .fetch m) :
    exec i s = .next (s.ringEdge (s.fetchMissing .front m)) := by
  obtain ⟨a, raw, hf, hok⟩ := ha
  simp only [hi, State.admitRow, hf, hok, hm]

end

/-! ### The generation in force -/

section
variable {s : State} {act : State → Acted}

theorem State.needGen_inForce (h : s.gens ≠ []) : s.needGen act = act s := by
  simp [State.needGen, h]

theorem State.needGen_first (h : s.gens = []) : s.needGen act = s.startCopy [] false := by
  simp [State.needGen, h]

/-- R549: the first copy is none of an RE_HANDLE_SYNC's, and has no signals. -/
theorem State.startCopy_first {c : Nat} (h : s.handleSetupOk = true) (hc : s.freeCopy = some c) :
    s.startCopy [] false = .copy ⟨c,
      s.reg64 Reg.FE_HSHADOW_BASE + c * 32 * s.reg Reg.FE_HSHADOW_ENTRIES,
      s.reg Reg.FE_HTAB_COUNT, s.reg64 Reg.FE_HTAB_BASE, [], false⟩ := by
  simp only [State.startCopy, h, hc, Bool.true_eq_false, Bool.false_eq_true, if_false]

end

/-- R549: what becomes of an entry that needs a generation where none is in force. -/
theorem firstCopy_starts {i : Instr} {s u : State} {v : View} {k : RowKind} {r : Req}
    {act : State → Req → Acted} (hi : exec i s = .next (s.admitRow k v act)) (h : s.Admits v k u r)
    (ha : act u r = u.startCopy [] false) :
    (u.handleSetupOk = false → Rejects i s u) ∧
      (u.handleSetupOk = true → ∀ c, u.freeCopy = some c → Does i s fun t =>
        ∃ x : HandleCopy, t = s.ringEdge { s with hcopy := some x } ∧ x.copy = c ∧ x.sync = false ∧
          x.sigs = []) := by
  refine ⟨fun hs => rejects_of_reject hi h (ha.trans (State.startCopy_badSetup hs)), fun hs c hc => ?_⟩
  exact ⟨_, exec_of_copy hi h (ha.trans (State.startCopy_first hs hc)), _, rfl, rfl, rfl, rfl⟩

/-! ### Buffers -/

section
variable {s w : State} {v : View} {r : Req} {e : Entry} {b b' : BufInfo} {f : FaultInfo}

/-- R419: an indirect buffer needs no sealing. -/
theorem State.finishSubmit_indirect (h : b.direct = false) :
    s.finishSubmit v e b = .done (s.addEntry { e with buf := some b }) := by
  simp [State.finishSubmit, h]

theorem State.finishSubmit_sealed (h : b.direct = true) (hx : s.sealBuf v e b = .done w b') :
    s.finishSubmit v e b = .done (w.addEntry { e with buf := some b' }) := by
  simp only [State.finishSubmit, h, hx, if_true]

theorem State.finishSubmit_fault (h : b.direct = true) (hx : s.sealBuf v e b = .fault w f) :
    s.finishSubmit v e b = .done (w.addEntry { e with buf := some b, fault := some f }) := by
  simp only [State.finishSubmit, h, hx, if_true]

/-- R422: a buffer without room in the seal area holds the ring. -/
theorem State.finishSubmit_noRoom (h : b.direct = true) (hx : s.sealBuf v e b = .noRoom) :
    s.finishSubmit v e b =
      .hold { s with ring := { s.ring with sealing := some { e with buf := some b } } } := by
  simp only [State.finishSubmit, h, hx, if_true]

theorem actSubmit_fault {bo : Option BufInfo} (hg : s.gens ≠ [])
    (hb : s.readBuf v { newEntry r .submit with hgen := s.genInForce } (leAt r.raw 8 8 % 2 ^ 48) =
      .fault w f bo) :
    actSubmit v s r = .done (w.addEntry { newEntry r .submit with
      hgen := s.genInForce, buf := bo, fault := some f }) := by
  simp only [actSubmit, State.needGen_inForce hg, hb]

/-- R131, R132, R527: a buffer that is read captures the stream's generator state, with its SEED_SETs
applied. -/
theorem actSubmit_ok {seeds : List Nat} (hg : s.gens ≠ [])
    (hb : s.readBuf v { newEntry r .submit with hgen := s.genInForce } (leAt r.raw 8 8 % 2 ^ 48) =
      .ok w b seeds) :
    let g := seeds.foldl Gen.seedSet (w.stream r.stream).gen
    actSubmit v s r = (w.capture r.stream g b.sampleAdvance).finishSubmit v
      { newEntry r .submit with hgen := s.genInForce, gen := g } b := by
  simp only [actSubmit, State.needGen_inForce hg, hb]

end

/-! ### Launches -/

section
variable {s u w : State} {v : View} {r : Req} {e : Entry} {l l' : Launch} {b : BufInfo}

theorem State.finishLaunch_bound (h : s.bindSeg v e l 0 (fun _ => none) = .done w b l') :
    s.finishLaunch v e l = .done (w.addEntry { e with kind := .launch l', buf := some b }) := by
  simp only [State.finishLaunch, h]

/-- The version of a chart that a launch names: the current one for 0 (R580). -/
def State.launchVer (s : State) (r : Req) : Nat :=
  if leAt r.raw 10 2 = 0 then (s.chart (leAt r.raw 8 2)).current else leAt r.raw 10 2

/-- R580: a launch that finds no chart, or no live version of it, joins its stream with a fault. -/
theorem launch_chartAbsent (h : s.Admits v .launch u r) (hg : u.gens ≠ [])
    (hb : launchBodyOk r.raw = true)
    (hc : (u.chart (leAt r.raw 8 2)).used = false ∨ (u.chart (leAt r.raw 8 2)).dropping = true ∨
      (u.chart (leAt r.raw 8 2)).version? (u.launchVer r) = none) :
    ∃ e : Entry, e.idx = r.idx ∧ e.stream = r.stream ∧ e.sigs = r.sigs ∧
      e.fault = some (u.plainFault .chartAbsent 0) ∧ Passes (.reLaunch v) s (u.addEntry e) := by
  rw [← Option.isNone_iff_eq_none] at hc
  unfold State.launchVer at hc
  refine ⟨?entry, ?idx, ?stream, ?sigs, ?fault, passes_of_done rfl h ?act⟩
  case act =>
    simp only [actLaunch, hb, State.needGen_inForce hg, hc, Bool.true_eq_false, if_false, if_true]
    rfl
  all_goals rfl

/-- R579, R580: a launch whose chart and arguments are good has its segment 0 bound, with the generator
state that its argument block gives or its stream's, whose counter it advances. -/
theorem actLaunch_finishes {q : Ctx} {a : ArgBlock} (hg : s.gens ≠ []) (hb : launchBodyOk r.raw = true)
    (hu : (s.chart (leAt r.raw 8 2)).used = true) (hd : (s.chart (leAt r.raw 8 2)).dropping = false)
    (hv : ((s.chart (leAt r.raw 8 2)).version? (s.launchVer r)).isSome = true)
    (hq : s.readArgs v (leAt r.raw 0x18 8 % 2 ^ 48) (s.chart (leAt r.raw 8 2)).narg = (q, some a))
    (hst : q.stall = false) :
    let c := s.chart (leAt r.raw 8 2)
    let g := a.seeds.getD (q.s.stream r.stream).gen
    let l : Launch := ⟨leAt r.raw 8 2, s.launchVer r, c.nseg, 0, a.args, [], [], [], c.lanes, c.nCl, c.nFe⟩
    actLaunch v s r =
      (if a.seeds.isSome then q.s else q.s.capture r.stream g a.adv).finishLaunch v
        { newEntry r (.launch l) with
          hgen := s.genInForce, gen := g,
          ext := r.ext + (if leAt r.raw 0x18 8 % 2 ^ 48 = 0 then 0 else 1) } l := by
  have hc : ¬ ((s.chart (leAt r.raw 8 2)).used = false ∨ (s.chart (leAt r.raw 8 2)).dropping = true ∨
      ((s.chart (leAt r.raw 8 2)).version? (s.launchVer r)).isNone = true) := by
    simp [hu, hd, Option.isSome_iff_ne_none.1 hv]
  unfold State.launchVer at hc ⊢
  simp only [actLaunch, hb, State.needGen_inForce hg, hc, hq, hst, Bool.true_eq_false,
    Bool.false_eq_true, if_false]
  cases a.seeds <;> rfl

end

/-! ### Seal space -/

section
variable {s w : State} {v : View} {e : Entry}

/-- R422: the buffer that waits for seal space. -/
theorem sealSpaceFreed_submit {b : BufInfo} (hr : s.running = true) (hs : s.ring.sealing = some e)
    (hk : e.kind = .submit) (hb : e.buf = some b)
    (hw : ({ s with ring := { s.ring with sealing := none } } : State).finishSubmit v e b = .done w) :
    Passes (.sealSpaceFreed v) s w := by
  simp only [Passes, exec, execSealSpaceFreed, hs, hr, hk, hb, hw, Bool.true_eq_false, if_false]

/-- R422: the launch that waits for seal space. -/
theorem sealSpaceFreed_launch {l : Launch} (hr : s.running = true) (hs : s.ring.sealing = some e)
    (hk : e.kind = .launch l)
    (hw : ({ s with ring := { s.ring with sealing := none } } : State).finishLaunch v e l = .done w) :
    Passes (.sealSpaceFreed v) s w := by
  simp only [Passes, exec, execSealSpaceFreed, hs, hr, hk, hw, Bool.true_eq_false, if_false]

end

/-- The commands of RE_SUBMIT's and RE_LAUNCH's rows. -/
theorem rowOf_submit_or_launch {i : Instr} {v : View} {k : RowKind} (h : rowOf i = some (v, k))
    (hk : k = .submit ∨ k = .launch) :
    i = .reSubmit v ∧ k = .submit ∨ i = .reLaunch v ∧ k = .launch := by
  unfold rowOf at h
  rcases hk with rfl | rfl <;> split at h <;> simp_all

/-- Settles O34: each clause is an answer of its row's action, or of the sealing that it waited for. -/
theorem buffersAndLaunchesAreAdmitted : Obligations.BuffersAndLaunchesAreAdmitted := by
  intro s u v r
  refine ⟨fun h hg => ⟨?fault, fun w b seeds hb => ⟨?indirect, ?sealed, ?sealFault, ?noRoom⟩⟩,
    fun h hg hb => ⟨?absent, ?bound⟩, ?first, ?submitFreed, ?launchFreed⟩
  case fault => exact fun w f b hb => passes_of_done rfl h (actSubmit_fault hg hb)
  case indirect =>
    exact fun hd => passes_of_done rfl h ((actSubmit_ok hg hb).trans (State.finishSubmit_indirect hd))
  case sealed =>
    exact fun x b' hd hx =>
      passes_of_done rfl h ((actSubmit_ok hg hb).trans (State.finishSubmit_sealed hd hx))
  case sealFault =>
    exact fun x f hd hx =>
      passes_of_done rfl h ((actSubmit_ok hg hb).trans (State.finishSubmit_fault hd hx))
  case noRoom =>
    exact fun hd hx => exec_of_hold rfl h ((actSubmit_ok hg hb).trans (State.finishSubmit_noRoom hd hx))
  case absent => exact fun hc => launch_chartAbsent h hg hb hc
  case bound =>
    intro q a x buf l' hu hd hv hq hst g l e c hx
    exact passes_of_done rfl h
      ((actLaunch_finishes hg hb hu hd hv hq hst).trans (State.finishLaunch_bound hx))
  case first =>
    intro i k hi hk h hg hb
    rcases rowOf_submit_or_launch hi hk with ⟨rfl, rfl⟩ | ⟨rfl, rfl⟩
    · exact firstCopy_starts rfl h (State.needGen_first hg)
    · refine firstCopy_starts rfl h ?_
      rw [actLaunch, if_neg (by simp [hb rfl]), State.needGen_first hg]
  case submitFreed => exact fun e b w hr hs hk hb hw => sealSpaceFreed_submit hr hs hk hb hw
  case launchFreed => exact fun e l w hr hs hk hw => sealSpaceFreed_launch hr hs hk hw

end Sys2Proof.Machine
end

section
/-! Stream and abort entries (O35). -/

namespace Sys2Proof.Machine

/-! ### What a read leaves of the streams -/

/-- A read that meets no error logs no more than a read of local memory does, wherever it goes. -/
theorem Ctx.read_goodLogged_all (c : Ctx) (fe : Bool) (u len : Nat) :
    c.s.GoodLogged (c.read fe u len) := by
  by_cases hu : regionOf u = .host ∨ regionOf u = .dram
  · exact c.read_goodLogged fe len hu
  have hd : c.s.EccLogged (c.noteRead u len).s := .refl c.s
  unfold Ctx.read
  extract_lets zeros d
  have hd : c.s.EccLogged d.s := hd
  split
  · exact fun _ => hd
  split
  · exact c.s.goodLogged_fail _ _ _ _
  cases hr : regionOf u
  case host => exact absurd (.inl hr) hu
  case dram => exact absurd (.inr hr) hu
  case plate =>
    dsimp only
    split
    next heq => exact fun _ => hd.readLocal heq
    · exact c.s.goodLogged_fail _ _ _ _
  case remote =>
    dsimp only
    split
    · exact fun _ => hd
    split
    · exact fun _ => hd
    · exact c.s.goodLogged_fail _ _ _ _
    · exact fun _ => hd
  case regs => exact fun _ => hd
  case reserved => exact c.s.goodLogged_fail _ _ _ _

/-- A read that meets no error changes no stream. -/
theorem Ctx.read_stream {c d : Ctx} {fe : Bool} {u len : Nat} {l : List Byte}
    (h : c.read fe u len = (d, l)) (he : d.err = none) (n : Nat) : d.s.stream n = c.s.stream n := by
  have hx := c.read_goodLogged_all fe u len
  rw [h] at hx
  rw [State.stream, (hx he).streams, State.stream]

/-! ### Streams -/

/-- A stream just written reads as written. -/
theorem State.stream_setStream_same {s : State} (h : SMap.wf State.streamD s.streams = true) (n : Nat)
    (x : StreamRec) : (s.setStream n x).stream n = x :=
  SMap.get_set_same (lo := none) h

/-! ### Seed blocks -/

section
variable {s : State} {v : View} {raw : List Byte} {g : Gen}

theorem State.seedBlock_absent (h : bitOf (leAt raw 0x0B 1) 0 = false) :
    s.seedBlock v raw g = (Ctx.start s v s.ring.fetched, some g) := by
  simp [State.seedBlock, h]

/-- R523: a block that is misaligned, or whose fetch has failed. -/
theorem State.seedBlock_bad (h : bitOf (leAt raw 0x0B 1) 0 = true)
    (hb : leAt raw 0x10 8 % 2 ^ 48 % 8 ≠ 0 ∨ s.ring.fetchBad = true) :
    s.seedBlock v raw g = (Ctx.start s v s.ring.fetched, none) := by
  simp only [State.seedBlock, h, if_true, if_pos hb]

theorem State.seedBlock_read {c : Ctx} {l : List Byte} (h : bitOf (leAt raw 0x0B 1) 0 = true)
    (ha : leAt raw 0x10 8 % 2 ^ 48 % 8 = 0) (hf : s.ring.fetchBad = false)
    (hc : (Ctx.start s v s.ring.fetched).read true (leAt raw 0x10 8 % 2 ^ 48) 40 = (c, l)) :
    s.seedBlock v raw g = (c, if c.err.isSome then none else some (genOfBytes l)) := by
  simp only [State.seedBlock, h, ha, hf, hc, ne_eq, not_true_eq_false, Bool.false_eq_true, or_self,
    if_true, if_false]
  split <;> rfl

end

/-- R523: an action that goes on with the generator state that a seed block has given. -/
def seedAct (b : Ctx × Option Gen) (go : State → Gen → State) : Acted :=
  if b.1.stall then .wait
  else if b.1.miss ≠ [] then .fetch b.1.miss
  else
    match b.2 with
    | none => .reject b.1.s
    | some g => .done (go b.1.s g)

section
variable {c : Ctx} {go : State → Gen → State}

theorem seedAct_given {g : Gen} (hst : c.stall = false) (hm : c.miss = []) :
    seedAct (c, some g) go = .done (go c.s g) := by
  simp [seedAct, hst, hm]

theorem seedAct_unreadable (hst : c.stall = false) (hm : c.miss = []) :
    seedAct (c, none) go = .reject c.s := by
  simp [seedAct, hst, hm]

theorem seedAct_missing {g : Option Gen} (hst : c.stall = false) (hm : c.miss ≠ []) :
    seedAct (c, g) go = .fetch c.miss := by
  simp [seedAct, hst, hm]

end

/-- R523, R663: an entry whose action goes by a seed block goes on with the generator state `g` without
SEEDS, is rejected where the block is misaligned or cannot be read, asks for one at a remote address, and
goes on with the seeds of one that it has read, which leaves the stream as it was. -/
theorem seeded_entry {i : Instr} {s u : State} {v : View} {k : RowKind} {r : Req} {g : Gen}
    {act : State → Req → Acted} {go : StreamRec → State → Gen → State}
    (hi : exec i s = .next (s.admitRow k v act)) (h : s.Admits v k u r)
    (ha : act u r = seedAct (u.seedBlock v r.raw g) (go (u.stream r.stream))) :
    (bitOf (leAt r.raw 0x0B 1) 0 = false → Passes i s (go (u.stream r.stream) u g)) ∧
    (bitOf (leAt r.raw 0x0B 1) 0 = true →
      leAt r.raw 0x10 8 % 2 ^ 48 % 8 ≠ 0 ∨ u.ring.fetchBad = true → Rejects i s u) ∧
    ∀ (c : Ctx) (l : List Byte), bitOf (leAt r.raw 0x0B 1) 0 = true →
      leAt r.raw 0x10 8 % 2 ^ 48 % 8 = 0 → u.ring.fetchBad = false →
      (Ctx.start u v u.ring.fetched).read true (leAt r.raw 0x10 8 % 2 ^ 48) 40 = (c, l) →
      c.stall = false →
      (c.miss ≠ [] → exec i s = .next (s.ringEdge (s.fetchMissing .front c.miss))) ∧
      (c.miss = [] → (c.err = none → Passes i s (go (c.s.stream r.stream) c.s (genOfBytes l))) ∧
        (c.err.isSome = true → Rejects i s c.s)) := by
  refine ⟨fun h0 => ?absent, fun h1 hb => ?bad, fun c l h1 ha8 hf hc hst =>
    ⟨fun hm => ?missing, fun hm => ⟨fun he => ?read, fun he => ?unreadable⟩⟩⟩
  case absent =>
    rw [State.seedBlock_absent h0] at ha
    exact passes_of_done hi h (ha.trans (seedAct_given rfl rfl))
  case bad =>
    rw [State.seedBlock_bad h1 hb] at ha
    exact rejects_of_reject hi h (ha.trans (seedAct_unreadable rfl rfl))
  all_goals rw [State.seedBlock_read h1 ha8 hf hc] at ha
  case missing => exact exec_of_fetch hi h (ha.trans (seedAct_missing hst hm))
  case read =>
    rw [he] at ha
    rw [Ctx.read_stream hc he]
    exact passes_of_done hi h (ha.trans (seedAct_given hst hm))
  case unreadable =>
    rw [if_pos he] at ha
    exact rejects_of_reject hi h (ha.trans (seedAct_unreadable hst hm))

/-! ### RE_STREAM -/

section
variable {s u : State} {v : View} {r : Req}

/-- R128, R523: CREATE makes its stream, which was `x`, with the generator state `g`. -/
def createStream (r : Req) (x : StreamRec) (w : State) (g : Gen) : State :=
  (w.setStream r.stream { StreamRec.free with
    created := true, prio := leAt r.raw 9 1 % 4, domain := leAt r.raw 10 1 % 16, gen := g,
    lastMap := x.lastMap }).reSignals r false

/-- R523: CONFIGURE gives its stream, which was `x`, the generator state `g`. -/
def configureStream (r : Req) (x : StreamRec) (w : State) (g : Gen) : State :=
  (w.setStream r.stream { x with prio := leAt r.raw 9 1 % 4, gen := g }).reSignals r false

theorem actCreate_eq_seedAct : actCreate v s r =
    seedAct (s.seedBlock v r.raw Gen.zero) (createStream r (s.stream r.stream)) := rfl

theorem actConfigure_eq_seedAct : actConfigure v s r =
    seedAct (s.seedBlock v r.raw (s.stream r.stream).gen) (configureStream r (s.stream r.stream)) := rfl

/-- R523: a DESTROY waits while its stream has an entry. -/
theorem State.checkDestroy_waits {n : Nat} (h : ∃ e ∈ s.entries, e.stream = n) :
    s.checkDestroy n = s := by
  have hx : (s.entries.any fun e => e.stream == n) = true := by simpa using h
  simp only [State.checkDestroy, hx, if_true]
  split <;> rfl

/-- R523: a DESTROY of a stream without entries frees it, but for its last_map, and issues the signals. -/
theorem State.checkDestroy_frees {n : Nat} {l : List SigRec} (hd : (s.stream n).destroy = some l)
    (h : ∀ e ∈ s.entries, e.stream ≠ n) :
    s.checkDestroy n =
      (s.setStream n { StreamRec.free with lastMap := (s.stream n).lastMap }).signals (.signal n) false l := by
  have hx : (s.entries.any fun e => e.stream == n) = false := by simpa using h
  simp only [State.checkDestroy, hd, hx, Bool.false_eq_true, if_false]

/-- R523: DESTROY. -/
theorem destroy_passes (h : s.Admits v .destroy u r) (hu : u.Canonical) :
    let w := u.setStream r.stream { u.stream r.stream with destroy := some r.sigs }
    ((∃ e ∈ u.entries, e.stream = r.stream) → Passes (.reStreamDestroy v) s w) ∧
      ((∀ e ∈ u.entries, e.stream ≠ r.stream) → Passes (.reStreamDestroy v) s
        ((w.setStream r.stream { StreamRec.free with lastMap := (u.stream r.stream).lastMap }).signals
          (.signal r.stream) false r.sigs)) := by
  intro w
  have hs : SMap.wf State.streamD u.streams = true := by
    obtain ⟨-, -, -, -, -, -, -, -, hs, -⟩ := hu
    exact hs
  have hw : w.stream r.stream = { u.stream r.stream with destroy := some r.sigs } :=
    State.stream_setStream_same hs _ _
  have hp : Passes (.reStreamDestroy v) s (w.checkDestroy r.stream) := passes_of_done rfl h rfl
  refine ⟨fun he => ?waits, fun he => ?frees⟩
  case waits => rwa [State.checkDestroy_waits (s := w) he] at hp
  case frees => rwa [State.checkDestroy_frees (s := w) (by rw [hw]) he, hw] at hp

/-- R603: RELEASE. -/
theorem release_passes (h : s.Admits v .release u r) (hi : (u.stream r.stream).isolated = true) :
    let fl := leAt r.raw 0x0B 1
    let w := u.setStream r.stream { u.stream r.stream with isolated := false }
    (bitOf fl 1 = false → Passes (.reStreamRelease v) s ((w.checkPend.heads).reSignals r false)) ∧
      (bitOf fl 1 = true → Passes (.reStreamRelease v) s
        ((((u.entries.filter fun e => e.stream == r.stream).foldl (fun w e => w.endAborted e (bitOf fl 2))
          w).checkPend.heads).reSignals r false)) := by
  refine ⟨fun hd => passes_of_done rfl h ?_, fun hd => passes_of_done rfl h ?_⟩ <;>
    simp [hi, hd]

end

/-! ### RE_ABORT -/

section
variable {s : State} {v : View} {r : Req} {e : Entry}

/-- R443: an entry that can be admitted has none in front of it that waits for seal space. -/
theorem State.abortsSealing_of_front {k : RowKind} {x : Nat × List Byte} (h : s.front k = some x) :
    s.abortsSealing = none := by
  unfold State.front at h
  split at h
  next ha =>
    have hs : s.ring.sealing = none := by
      simp only [State.admits, Bool.and_eq_true, Option.isNone_iff_eq_none] at ha
      obtain ⟨⟨-, hs⟩, -⟩ := ha
      exact hs
    simp [State.abortsSealing, hs]
  · cases h

theorem execReAbort_admits {u : State} (h : s.Admits v .abort u r) :
    exec (.reAbort v) s = .next (s.admitRow .abort v (actAbort v)) := by
  obtain ⟨a, raw, hf, -⟩ := h
  simp only [exec, execReAbort, State.abortsSealing_of_front hf]

/-- R524: the end of an RE_ABORT in a state in which what it aborts, `hit`, has been dealt with: the result
word, then the signals, which wait for `hit`. -/
def State.abortEnds (s : State) (r : Req) (code : Nat) (hit : List Nat) : State :=
  let q := s.resultWrite (leAt r.raw 16 8 % 2 ^ 48) (leBytes 8 code)
  (q.1.holdSigs (.aborted hit q.2) false r.sigs).afterEntry r.stream

/-- R615: a target that never was an entry of the stream. -/
theorem actAbort_invalid
    (hf : (s.entries.find? fun e => e.idx == leAt r.raw 8 4 && e.stream == r.stream) = none)
    (hp : SMap.get State.pastD s.past (leAt r.raw 8 4) = none) :
    actAbort v s r = .done (s.abortEnds r 2 []) := by
  simp [-Nat.reducePow, actAbort, State.abortEnds, hf, hp]

/-- R615: a target that has committed. -/
theorem actAbort_complete (hs : bitOf (leAt r.raw 12 1) 0 = false)
    (hf : (s.entries.find? fun e => e.idx == leAt r.raw 8 4 && e.stream == r.stream) = none)
    (hp : SMap.get State.pastD s.past (leAt r.raw 8 4) = some (r.stream, true)) :
    actAbort v s r = .done (s.abortEnds r 1 []) := by
  simp [-Nat.reducePow, actAbort, State.abortEnds, hs, hf, hp]

/-- R615: a target that is still there. -/
theorem actAbort_found (hs : bitOf (leAt r.raw 12 1) 0 = false)
    (hf : (s.entries.find? fun e => e.idx == leAt r.raw 8 4 && e.stream == r.stream) = some e) :
    actAbort v s r = .done ((s.abortEntry v e).abortEnds r 0 [e.idx]) := by
  simp [-Nat.reducePow, actAbort, State.abortEnds, hs, hf]

/-- R615: an entry without a slot is removed, its signals poisoned. -/
theorem State.abortEntry_waiting (hf : s.faulted e.idx = false) (hn : s.slotOf e.idx = none) :
    s.abortEntry v e = (s.signals (.signal e.stream) true e.sigs).dropEntry e false := by
  simp [State.abortEntry, State.endAborted, hf, hn]

/-- R615: a running entry is stopped. -/
theorem State.abortEntry_running {n : Nat} {x : ExecSlot} (hf : s.faulted e.idx = false)
    (hn : s.slotOf e.idx = some n) (hx : s.slot? n = some x) (hs : x.stop = none) :
    s.abortEntry v e = s.stopSlot v n .abort := by
  simp [State.abortEntry, hf, hn, hx, hs]

end

/-- Settles O35: RE_STREAM by the answers of its actions, the rows with a seed block alike; RE_ABORT by
what became of its target. -/
theorem streamAndAbortEntriesAct : Obligations.StreamAndAbortEntriesAct := by
  refine ⟨fun s u v r => ⟨fun h => ?create, fun h => ?configure, fun h hu => destroy_passes h hu,
    fun h => ⟨?notIsolated, fun hi => release_passes h hi⟩⟩,
    fun s u v r h hs => ?abort⟩
  case create => exact seeded_entry (i := .reStreamCreate v) rfl h actCreate_eq_seedAct
  case configure => exact seeded_entry (i := .reStreamConfigure v) rfl h actConfigure_eq_seedAct
  case notIsolated => exact fun hi => rejects_of_reject rfl h (if_pos hi)
  case abort =>
    have hi := execReAbort_admits h
    refine ⟨fun hn hp => passes_of_done hi h (actAbort_invalid hn hp),
      fun hn hp => passes_of_done hi h (actAbort_complete hs hn hp),
      fun e he hft => ⟨fun hn => ?waiting, fun n x hn hx hst => ?running⟩⟩
    case waiting =>
      exact passes_of_done hi h (State.abortEntry_waiting hft hn ▸ actAbort_found hs he)
    case running =>
      exact passes_of_done hi h (State.abortEntry_running hft hn hx hst ▸ actAbort_found hs he)

end Sys2Proof.Machine
end

section
/-! Command registers (O41): a notice whose vector is masked. -/

namespace Sys2Proof.Machine

/-- A device after READY, with Memory Space and MSI-X Enable set, that shows notice 7 with its EN bit 0.
The vector of notice 7 is masked, as every vector is after reset (R947). -/
def maskedNotice : State := { State.reset with
  perst := false
  regs := [(Reg.HI_BOOT, 1), (Reg.HI_NOTICE_STATUS, 0x80)]
  cfg := [(0x04, 2), (0x50, 0x80000000)] }

theorem maskedNotice_canonical : maskedNotice.Canonical := by
  refine ⟨rfl, rfl, ?regs, rfl, rfl, rfl, rfl, rfl, rfl, rfl, rfl, rfl, rfl, rfl, ?cfg, rfl, rfl, rfl, rfl,
    rfl⟩
  case regs => decide
  case cfg => decide

theorem maskedNotice_reach : maskedNotice.reach .bar0 Reg.HI_NOTICE_EN = .full := by decide

/-- R666, R667: the write that sets the EN bit leaves the message pending. -/
theorem maskedNotice_enabled :
    (maskedNotice.hostWriteReg Reg.HI_NOTICE_EN 15 0x80).msixReq = [] ∧
      (maskedNotice.hostWriteReg Reg.HI_NOTICE_EN 15 0x80).pba = 0x80 := by decide +kernel

/-- Refutes O41: where MSI-X is enabled, its clause on HI_NOTICE_EN has every EN bit that rises on a set
STATUS bit put a vector among those requested; on a masked vector the message stays pending (R667). -/
theorem not_commandRegistersAct : ¬ Obligations.CommandRegistersAct := by
  unfold Obligations.CommandRegistersAct
  intro h
  obtain ⟨-, hnotice, -⟩ := h maskedNotice 0x80 maskedNotice_canonical
  obtain ⟨t, ht, -, -, -, hrequested, -⟩ := hnotice maskedNotice_reach
  obtain rfl : maskedNotice.hostWriteReg Reg.HI_NOTICE_EN 15 0x80 = t := Host.Outcome.next.inj ht
  have hmem := hrequested (by decide) 7 (by decide) (by decide) (by decide) (by decide)
  obtain ⟨hnone, -⟩ := maskedNotice_enabled
  rw [hnone] at hmem
  exact List.not_mem_nil hmem

end Sys2Proof.Machine
end

section
/-! SUPPORT. What leaves the tiles as they are: the link layer, the pins and the notices, which a purge
sets off after it has cleared the tile files (R186, R617). -/

namespace Sys2Proof.Machine

/-- What every step of a fold keeps, the fold keeps. -/
theorem State.foldl_keeps {α β : Type} (g : State → β) {f : State → α → State}
    (hf : ∀ s x, g (f s x) = g s) (l : List α) (s : State) : g (l.foldl f s) = g s := by
  induction l generalizing s with
  | nil => rfl
  | cons x t ih => exact (ih _).trans (hf s x)

/-! ### Links -/

section
variable (s : State) (p : Nat)

@[simp] theorem State.linkEvent_tiles (n : Nat) : (s.linkEvent p n).tiles = s.tiles := rfl
@[simp] theorem State.txFrame_tiles (ftype vc seq : Nat) (l : List Byte) :
    (s.txFrame p ftype vc seq l).tiles = s.tiles := rfl
@[simp] theorem State.sendData_tiles (vc : Nat) (l : List Byte) :
    (s.sendData p vc l).tiles = s.tiles := rfl
@[simp] theorem State.resend_tiles (l : List RetryRec) : (s.resend p l).tiles = s.tiles :=
  State.foldl_keeps State.tiles (fun _ _ => by rfl) l s

@[simp] theorem State.pumpResend_tiles (n : Nat) : (s.pumpResend p n).tiles = s.tiles := by
  fun_induction State.pumpResend s p n with
  | case1 => rfl
  | case2 => rfl
  | case3 => rfl
  | case4 => rfl
  | case5 s n x hx r t hr c hc w ih => rw [ih, State.resend_tiles]; rfl

@[simp] theorem State.pumpMgt_tiles (l : List (List Byte)) : (s.pumpMgt p l).tiles = s.tiles := by
  fun_induction State.pumpMgt s p l with
  | case1 => rfl
  | case2 s m t hm ih => simpa using ih
  | case3 => rfl

@[simp] theorem State.pump_tiles : (s.pump p).tiles = s.tiles := by
  unfold State.pump; split <;> simp
@[simp] theorem State.sendMgt_tiles (l : List Byte) : (s.sendMgt p l).tiles = s.tiles := by
  unfold State.sendMgt; split <;> simp
@[simp] theorem State.settling_tiles : s.settling.tiles = s.tiles := by
  unfold State.settling; split <;> rfl
@[simp] theorem State.flood_tiles (skip : Option Nat) (a : Advert) :
    (s.flood skip a).tiles = s.tiles :=
  State.foldl_keeps State.tiles (fun s q => by split <;> simp) _ s
@[simp] theorem State.originate_tiles (skip : Option Nat) : (s.originate skip).tiles = s.tiles := by
  unfold State.originate; split <;> simp
@[simp] theorem State.advanceEpoch_tiles (skip : Option Nat) :
    (s.advanceEpoch skip).tiles = s.tiles := by
  unfold State.advanceEpoch; split <;> simp
@[simp] theorem State.linkDiscard_tiles : (s.linkDiscard p).tiles = s.tiles := rfl
@[simp] theorem State.enterDetect_tiles : (s.enterDetect p).tiles = s.tiles := rfl
@[simp] theorem State.linkDown_tiles (cause : Option Nat) : (s.linkDown p cause).tiles = s.tiles := by
  unfold State.linkDown
  split
  · rfl
  · cases cause <;> simp
@[simp] theorem State.goodbye_tiles (cause : Option Nat) : (s.goodbye p cause).tiles = s.tiles := by
  unfold State.goodbye; split <;> simp
@[simp] theorem State.linkCtrl_tiles (was : Bool) : (s.linkCtrl p was).tiles = s.tiles := by
  unfold State.linkCtrl; dsimp only; split_ifs <;> simp

end

/-! ### Notices, pins and the purge -/

section
variable (s : State)

@[simp] theorem State.requestMsix_tiles (n : Nat) : (s.requestMsix n).tiles = s.tiles := by
  unfold State.requestMsix; split_ifs <;> rfl
@[simp] theorem State.notice_tiles (n : Nat) : (s.notice n).tiles = s.tiles := by
  simp only [State.notice]; split_ifs <;> simp
@[simp] theorem State.startSwitch_tiles (n f : Nat) : (s.startSwitch n f).tiles = s.tiles := rfl
@[simp] theorem State.purgeMsix_tiles : s.purgeMsix.tiles = s.tiles := rfl

@[simp] theorem State.purgeRegs_tiles (fault : Bool) : (s.purgeRegs fault).tiles = s.tiles := by
  unfold State.purgeRegs
  split
  · rfl
  · exact State.foldl_keeps State.tiles (fun _ _ => by rfl) _ s

@[simp] theorem State.purgePins_tiles (was : State) : (s.purgePins was).tiles = s.tiles := by
  refine State.foldl_keeps State.tiles (fun t n => ?_) _ _
  dsimp only
  split
  · rfl
  · split_ifs <;> simp

@[simp] theorem State.rejoin_tiles (was : State) : (s.rejoin was).tiles = s.tiles := by
  unfold State.rejoin
  extract_lets s1 s2 en s3
  have h3 : s3.tiles = s.tiles := by
    unfold s3
    split
    · exact State.advanceEpoch_tiles _ _
    · rfl
  exact (State.foldl_keeps State.tiles (fun t p => t.linkCtrl_tiles p _) _ s3).trans h3

/-- R617: after the purge no tile is listed. -/
@[simp] theorem State.purgeState_tiles : s.purgeState.tiles = [] := rfl

end

end Sys2Proof.Machine
end

section
/-! The tiles after a reset (O9), and the state after it (O3). -/

namespace Sys2Proof.Machine

/-- Where no tile is listed, each is as after reset (R186). -/
theorem State.tile_of_tiles_nil {t : State} (h : t.tiles = []) (cl n : Nat) : t.tile cl n = Tile.init := by
  rw [State.tile, h]; rfl

theorem State.fundamental_tiles {s : State} (h : s.perst = false) : s.fundamental.tiles = [] := by
  simp only [State.fundamental, h, Bool.false_eq_true, if_false]
  split <;> rfl

/-- R617 steps 5 and 6: what follows the purge in RESET_PURGE lists no tile again. -/
theorem execResetPurge_tiles {s : State} {c : ResetCause} (hc : s.resetPend = some c)
    (ha : s.alive = true) : ∃ t, execResetPurge s = .next t ∧ t.tiles = [] := by
  refine ⟨_, rfl, ?_⟩
  simp only [hc, ha, Bool.true_eq_false, if_false]
  split_ifs <;> simp

/-- Settles O9: a fundamental reset and the purge both leave no tile listed. -/
theorem anyDeviceResetClearsTheTiles : Obligations.AnyDeviceResetClearsTheTiles := by
  unfold Obligations.AnyDeviceResetClearsTheTiles
  intro clear
  have hclear (t : State) (ht : t.tiles = []) : clear t := fun cl n => by
    rw [State.tile_of_tiles_nil ht]
    exact ⟨rfl, fun k => ⟨fun c => ⟨rfl, rfl, rfl⟩, rfl, rfl, rfl, rfl, rfl, rfl⟩⟩
  refine ⟨fun s us hs hus => ?perst, fun s hs => ?refclk, fun s hs => ?pwrGood, fun s c hc ha => ?purge⟩
  case perst => exact ⟨s.fundamental, if_neg (Nat.not_lt.2 hus), hclear _ (State.fundamental_tiles hs)⟩
  case refclk => exact ⟨s.fundamental, rfl, hclear _ (State.fundamental_tiles hs)⟩
  case pwrGood => exact ⟨s.fundamental, rfl, hclear _ (State.fundamental_tiles hs)⟩
  case purge =>
    obtain ⟨t, ht, htiles⟩ := execResetPurge_tiles hc ha
    exact ⟨t, ht, hclear t htiles⟩

/-- After reset a register holds the reset value of the register table. -/
theorem State.reset_reg (o : Nat) : State.reset.reg o = (regReset o).toNat := rfl

/-- Settles O3: each family is empty, so that each of its members is the default, and each register named is
that of the register table. -/
theorem resetStateHoldsResetValues : Obligations.ResetStateHoldsResetValues := by
  unfold Obligations.ResetStateHoldsResetValues
  intro s
  refine ⟨rfl, rfl, rfl, rfl, rfl, rfl, fun cl n => ⟨rfl, fun k => rfl⟩, fun n => ⟨rfl, rfl⟩,
    fun n => rfl, fun n => rfl, fun n => rfl, rfl, ?_, ?_, ?_, ?_, ?_, ?_, rfl⟩
  all_goals
    rw [State.reset_reg]
    decide +kernel

end Sys2Proof.Machine
end

section
/-! SUPPORT. Accesses of local memory whose words have no errors (R334, R335): what a read and a write of
it do, and that a write stores its bytes and no other. -/

namespace Sys2Proof.Machine

/-! ### Bytes of a memory -/

theorem length_readFrom (d : Nat → Byte) (m : SMap Byte) (a n : Nat) :
    (readFrom d m a n).length = n := by
  fun_induction readFrom d m a n <;> simp_all

theorem State.length_rawRead (s : State) (u n : Nat) : (s.rawRead u n).length = n := by
  unfold State.rawRead; split <;> exact length_readFrom _ _ _ _

section
variable (s : State) (u : Nat) (l : List Byte)

@[simp] theorem State.rawWrite_ops : (s.rawWrite u l).ops = s.ops := by
  unfold State.rawWrite; split <;> rfl
@[simp] theorem State.rawWrite_tiles : (s.rawWrite u l).tiles = s.tiles := by
  unfold State.rawWrite; split <;> rfl

end

theorem State.Canonical.wf_tiles {s : State} (h : s.Canonical) : SMap.wf State.tileD s.tiles = true :=
  (State.kept_iff.2 ⟨rfl, h⟩).tiles_ok

/-- A raw write stores its bytes and no other. -/
theorem State.storesOnly_rawWrite {s : State} (hs : s.Canonical) (u : Nat) (l : List Byte) :
    s.StoresOnly (s.rawWrite u l) u l := by
  obtain ⟨hd, hp, -⟩ := hs
  unfold State.StoresOnly State.rawWrite
  cases regionOf u with
  | plate => exact ⟨rfl, fun i b => Mem.read_writeN_same hp, fun a => Mem.read_writeN_other hp⟩
  | _ => exact ⟨rfl, fun i b => Mem.read_writeN_same hd, fun a => Mem.read_writeN_other hd⟩

/-- What a state stores is said of its two memories alone. -/
theorem State.StoresOnly.of_eq {s t w : State} {u : Nat} {l : List Byte} (h : s.StoresOnly w u l)
    (hd : t.dram = w.dram) (hp : t.plate = w.plate) : s.StoresOnly t u l := by
  unfold State.StoresOnly at h ⊢
  rwa [hd, hp]

/-! ### Checked accesses -/

/-- `n` bytes of local memory at `u` pass the checks of R305, and no word of theirs has wrong bits. -/
def State.Usable (s : State) (u n : Nat) : Prop :=
  isLocal u = true ∧ s.addrOk false u n = true ∧ s.EccFree u n

theorem regionOf_of_isLocal {u : Nat} (h : isLocal u = true) : regionOf u = .dram ∨ regionOf u = .plate := by
  unfold isLocal at h
  split at h
  case h_1 hr => exact .inl hr
  case h_2 hr => exact .inr hr
  case h_3 => cases h

namespace State.Usable
variable {s : State} {u n : Nat}

theorem localUda (h : s.Usable u n) : s.localUda u n = some u := by
  obtain ⟨hl, ha, -⟩ := h
  unfold State.localUda
  rcases regionOf_of_isLocal hl with hr | hr <;> simp only [hr] <;> exact if_pos ha

theorem eccHits (h : s.Usable u n) : s.eccHits u n = [] := by
  obtain ⟨-, -, he⟩ := h
  have hf : (s.ecc.filter fun e => decide (u / 8 ≤ e.1) && decide (e.1 * 8 < u + n)) = [] :=
    List.filter_eq_nil_iff.2 fun e hm hb => he e hm (by simpa using hb)
  rw [State.eccHits, hf, sortBy]

theorem readLocal (h : s.Usable u n) : s.readLocal u n = (s, some (s.rawRead u n)) := by
  rw [State.readLocal, h.eccHits]; rfl

theorem writeLocal {l : List Byte} (h : s.Usable u l.length) :
    s.writeLocal u l = (s.rawWrite u l, false) := by
  rw [State.writeLocal, h.eccHits]; rfl

end State.Usable

/-- The accesses of `c`, and then a read of `n` bytes of such memory. -/
def Ctx.didRead (c : Ctx) (u n : Nat) : Ctx := { c with moved := c.moved + n, reads := (u, n) :: c.reads }

/-- The accesses of `c`, and then a write of `l` to such memory. -/
def Ctx.didWrite (c : Ctx) (u : Nat) (l : List Byte) : Ctx :=
  { c with s := c.s.rawWrite u l, moved := c.moved + l.length, writes := (u, l.length) :: c.writes }

section
variable {c : Ctx} {u : Nat}

theorem Ctx.read_of_usable {n : Nat} (he : c.err = none) (h : c.s.Usable u n) :
    c.read false u n = (c.didRead u n, c.s.rawRead u n) := by
  have ⟨hl, ha, _⟩ := h
  rcases regionOf_of_isLocal hl with hr | hr <;>
    simp [Ctx.read, Ctx.noteRead, Ctx.didRead, he, ha, hr, h.localUda, h.readLocal]

theorem Ctx.write_of_usable {l : List Byte} (he : c.err = none) (hne : l ≠ [])
    (h : c.s.Usable u l.length) (relaxed : Bool) : c.write false relaxed u l = c.didWrite u l := by
  have ⟨hl, ha, _⟩ := h
  rcases regionOf_of_isLocal hl with hr | hr <;>
    simp [Ctx.write, Ctx.noteWrite, Ctx.didWrite, he, hne, ha, hr, h.localUda, h.writeLocal]

end

end Sys2Proof.Machine
end

section
/-! SUPPORT. A repetition that its unit performs in one body of accesses (R355, R360, R424): what it comes
to where the accesses meet nothing, and where they fault. -/

namespace Sys2Proof.Machine

/-! ### Operations of the unit queues -/

/-- What `opAt` looks for. -/
theorem State.of_opAt {s : State} {slot node ofs : Nat} {o : OpRec} (h : s.opAt slot node ofs = some o) :
    o.slot = slot ∧ o.node = node ∧ o.ofs = ofs := by
  have := List.find?_some h
  simpa [and_assoc] using this

/-- An operation that replaces the one it stands for is found in its place. -/
theorem State.opAt_setOp {s : State} {slot node ofs : Nat} {o p : OpRec} (h : s.opAt slot node ofs = some o)
    (hp : p.slot = slot ∧ p.node = node ∧ p.ofs = ofs) : (s.setOp p).opAt slot node ofs = some p := by
  obtain ⟨rfl, rfl, rfl⟩ := hp
  have hself : p.same p = true := by simp [OpRec.same]
  have hkey : (fun x : OpRec => x.same p) ∘ (fun x => if x.same p then p else x) = fun x => x.same p := by
    funext x
    by_cases hx : x.same p = true <;> simp [hx, hself]
  have hfind : s.ops.find? (fun x => x.same p) = some o := h
  have hsame : o.same p = true := List.find?_some (p := fun x : OpRec => x.same p) hfind
  show (s.ops.map fun x => if x.same p then p else x).find? (fun x => x.same p) = some p
  rw [List.find?_map, hkey, hfind, Option.map_some]
  exact congrArg some (if_pos hsame)

section
variable (s : State) (slot n : Nat)

@[simp] theorem State.countBytes_dram : (s.countBytes slot n).dram = s.dram := rfl
@[simp] theorem State.countBytes_plate : (s.countBytes slot n).plate = s.plate := rfl
@[simp] theorem State.countBytes_tiles : (s.countBytes slot n).tiles = s.tiles := rfl
@[simp] theorem State.countBytes_ops : (s.countBytes slot n).ops = s.ops := rfl

end

/-! ### Performing -/

/-- A claimed operation whose tiles are open is settled by its body. -/
theorem State.performOp_of_claim {s : State} {slot node ofs : Nat} {row : Nat → Bool} {o : OpRec}
    (hc : s.claim slot node ofs row = (s, some o)) (ht : s.tilesOpen o = true) (v : View)
    (body : OpRec → Ctx → Ctx) :
    s.performOp slot node ofs v row body = s.settleOp o (body o (Ctx.start s v o.fetched)) := by
  simp only [State.performOp, hc, ht, if_true]

/-- The accesses have met no error, wait for nothing, send nothing to another device, and do not overlap. -/
structure Ctx.Clean (c : Ctx) : Prop where
  err : c.err = none
  stall : c.stall = false
  miss : c.miss = []
  sends : c.sends = []
  apart : c.overlaps = false

namespace Ctx.Clean

theorem start (s : State) (v : View) (f : SMap (Option Byte)) : (Ctx.start s v f).Clean :=
  ⟨rfl, rfl, rfl, rfl, rfl⟩

variable {c : Ctx} {u : Nat}

/-- A read before any write. -/
theorem didRead (h : c.Clean) (hw : c.writes = []) (n : Nat) : (c.didRead u n).Clean :=
  ⟨h.err, h.stall, h.miss, h.sends, by simp [Ctx.overlaps, Ctx.didRead, hw, selfMeet]⟩

/-- The first write, of a range that no read has met. -/
theorem didWrite {l : List Byte} (h : c.Clean) (hw : c.writes = [])
    (hr : ∀ r ∈ c.reads, rangesMeet (u, l.length) r = false) : (c.didWrite u l).Clean :=
  ⟨h.err, h.stall, h.miss, h.sends, by simpa [Ctx.overlaps, Ctx.didWrite, hw, selfMeet] using hr⟩

end Ctx.Clean

/-- An operation whose repetition has been performed as `c`. -/
def OpRec.issuedAs (o : OpRec) (c : Ctx) : OpRec :=
  { o with
    begun := true, issued := true, hostWait := c.hostWait, owed := c.owed, fetched := [], after := c.after }

theorem State.settleOp_of_clean {c : Ctx} (h : c.Clean) (s : State) (o : OpRec) :
    s.settleOp o c = (c.s.countBytes o.slot c.moved).setOp (o.issuedAs c) := by
  have hblur (i j : Nat) : c.blur i j = c := by simp [Ctx.blur, h.apart]
  have hflush (use : RmtUse) : c.flush use = c.s := by rw [Ctx.flush, h.sends]; rfl
  simp [State.settleOp, h.err, h.stall, h.miss, hblur, hflush, OpRec.issuedAs]

/-- A fault of an entry that has none raised is the one that waits for its response (R632). -/
theorem State.unitFault_raises {s : State} {o : OpRec} {x : ExecSlot} (hx : s.slot? o.slot = some x)
    (hh : s.slotHalted x = false) (e : AccErr) :
    ∃ f, (x.entry, f) ∈ (s.unitFault o e).faults ∧ f.code = e.code := by
  have hnone : (s.faults.any fun f => f.1 == x.entry) = false := by
    rw [State.slotHalted, Bool.or_eq_false_iff] at hh; exact hh.2
  simp only [State.unitFault, hx, State.raise, State.bump, State.setReg_faults, hnone, Bool.false_eq_true,
    if_false]
  exact ⟨_, List.mem_append_right _ (List.mem_singleton.2 rfl), rfl⟩

theorem State.unitFault_sameBytes (s : State) (o : OpRec) (e : AccErr) :
    s.SameBytes (s.unitFault o e) := by
  unfold State.unitFault
  split <;> exact State.sameBytes_of_eq rfl rfl

section
variable {i : Instr} {s : State} {slot node ofs : Nat} {v : View} {row : Nat → Bool}
  {body : OpRec → Ctx → Ctx} {o : OpRec}

/-- A body that meets nothing: the operation stands as issued, and memory and tiles are what its accesses
left. -/
theorem does_of_clean {c : Ctx} {P : State → Prop}
    (hi : exec i s = .next (s.performOp slot node ofs v row body))
    (ho : s.opAt slot node ofs = some o) (ht : s.tilesOpen o = true)
    (hc : s.claim slot node ofs row = (s, some o)) (hb : body o (Ctx.start s v o.fetched) = c)
    (hclean : c.Clean) (hops : c.s.ops = s.ops)
    (hP : ∀ t : State, t.dram = c.s.dram → t.plate = c.s.plate → t.tiles = c.s.tiles → P t) :
    Does i s fun t => (∃ p, t.opAt slot node ofs = some p ∧ p.issued = true) ∧ P t := by
  have hat : (c.s.countBytes o.slot c.moved).opAt slot node ofs = some o := by
    rw [State.opAt, State.countBytes_ops, hops]; exact ho
  have hissued : ((c.s.countBytes o.slot c.moved).setOp (o.issuedAs c)).opAt slot node ofs =
      some (o.issuedAs c) := State.opAt_setOp hat (State.of_opAt (o := o) ho)
  refine ⟨_, hi.trans (congrArg _ ?_), ⟨_, hissued, rfl⟩, hP _ rfl rfl rfl⟩
  rw [State.performOp_of_claim hc ht, hb, State.settleOp_of_clean hclean]

/-- A body whose last access, and only write, is one of local memory. -/
theorem does_store {c : Ctx} {u : Nat} {l : List Byte} (hs : s.Canonical)
    (hi : exec i s = .next (s.performOp slot node ofs v row body))
    (ho : s.opAt slot node ofs = some o) (ht : s.tilesOpen o = true)
    (hc : s.claim slot node ofs row = (s, some o))
    (hb : body o (Ctx.start s v o.fetched) = c.didWrite u l)
    (hclean : (c.didWrite u l).Clean) (hcs : c.s = s) :
    Does i s fun t => (∃ p, t.opAt slot node ofs = some p ∧ p.issued = true) ∧
      s.StoresOnly t u l ∧ t.tiles = s.tiles := by
  have hw : (c.didWrite u l).s = s.rawWrite u l := congrArg (State.rawWrite · u l) hcs
  refine does_of_clean hi ho ht hc hb hclean (by rw [hw, State.rawWrite_ops]) fun t hd hp htiles => ⟨?_, ?_⟩
  · rw [hw] at hd hp
    exact (State.storesOnly_rawWrite hs u l).of_eq hd hp
  · rw [htiles, hw, State.rawWrite_tiles]

/-- A body that comes to a fault before any access: no byte of memory changes, and the entry has the fault
raised. -/
theorem does_of_bad {x : ExecSlot} {code : FaultCode}
    (hi : exec i s = .next (s.performOp slot node ofs v row body))
    (ho : s.opAt slot node ofs = some o) (ht : s.tilesOpen o = true)
    (hc : s.claim slot node ofs row = (s, some o))
    (hb : body o (Ctx.start s v o.fetched) = (Ctx.start s v o.fetched).bad code)
    (hx : s.slot? slot = some x) (hh : s.slotHalted x = false) :
    Does i s fun t => s.SameBytes t ∧ ∃ f, (x.entry, f) ∈ t.faults ∧ f.code = code := by
  obtain ⟨rfl, -, -⟩ := State.of_opAt ho
  have hrun : exec i s = .next
      ((s.countBytes o.slot 0).unitFault { o with begun := true } ⟨code, 0, 0, 0⟩) := by
    rw [hi, State.performOp_of_claim hc ht, hb]; rfl
  exact ⟨_, hrun, State.unitFault_sameBytes (s.countBytes o.slot 0) _ _,
    State.unitFault_raises (s := s.countBytes o.slot 0) (o := { o with begun := true }) hx hh _⟩

end

end Sys2Proof.Machine
end

section
/-! Copies, fills and tiles (O51). -/

namespace Sys2Proof.Machine

theorem Does.imp {i : Instr} {s : State} {P Q : State → Prop} (h : Does i s P) (hPQ : ∀ t, P t → Q t) :
    Does i s Q := Exists.imp (fun t => And.imp_right (hPQ t)) h

/-- Ranges of which one ends before the other begins do not meet. -/
theorem rangesMeet_of_apart {a b n : Nat} (h : a + n ≤ b ∨ b + n ≤ a) :
    rangesMeet (b, n) (a, n) = false := by
  simp only [rangesMeet, Bool.and_eq_false_iff, decide_eq_false_iff_not]; omega

/-! ### What the bodies come to -/

section
variable {o : OpRec} {c : Ctx} {cl : Nat}

/-- The read of a COPY: onto itself it is not told from the write (R326). -/
def Ctx.copyRead (c : Ctx) (src dst n : Nat) : Ctx :=
  if src = dst then (c.didRead src n).unnoted c else c.didRead src n

theorem moveCopyBody_of_usable {a b : DReg} (he : c.err = none) (hends : o.ends = some (a, b))
    (hpos : 0 < (moveWord o.word).bytes) (ha : c.s.Usable a.uda (moveWord o.word).bytes)
    (hb : c.s.Usable b.uda (moveWord o.word).bytes) :
    moveCopyBody o c = (c.copyRead a.uda b.uda (moveWord o.word).bytes).didWrite b.uda
      (c.s.rawRead a.uda (moveWord o.word).bytes) := by
  have hlen := c.s.length_rawRead a.uda (moveWord o.word).bytes
  have hne : c.s.rawRead a.uda (moveWord o.word).bytes ≠ [] :=
    List.ne_nil_of_length_pos (hlen.symm ▸ hpos)
  simp only [moveCopyBody, hends, Ctx.read_of_usable he ha, Ctx.copyRead]
  split
  · exact Ctx.write_of_usable (c := (c.didRead _ _).unnoted c) he hne (hlen.symm ▸ hb) true
  · exact Ctx.write_of_usable (c := c.didRead _ _) he hne (hlen.symm ▸ hb) true

/-- R326: a COPY onto itself, or between ranges that do not overlap, meets nothing that it has read. -/
theorem Ctx.Clean.copy {a b : Nat} {l : List Byte} (h : c.Clean) (hr : c.reads = []) (hw : c.writes = [])
    (hab : a = b ∨ a + l.length ≤ b ∨ b + l.length ≤ a) :
    ((c.copyRead a b l.length).didWrite b l).Clean := by
  unfold Ctx.copyRead
  split
  next =>
    have hun : ((c.didRead a l.length).unnoted c).Clean :=
      ⟨h.err, h.stall, h.miss, h.sends, h.apart⟩
    exact hun.didWrite hw (by simp [Ctx.unnoted, hr])
  next hne =>
    refine (h.didRead hw l.length).didWrite hw fun r hmem => ?_
    obtain rfl : r = (a, l.length) := by simpa [Ctx.didRead, hr] using hmem
    exact rangesMeet_of_apart (hab.resolve_left hne)

theorem moveFillBody_of_usable {b : DReg} {l : List Byte} (he : c.err = none)
    (hreg : o.reg (moveWord o.word).dst = some b)
    (hl : (List.replicate ((moveWord o.word).bytes / 8) (leBytes 8 (moveWord o.word).pattern)).flatten = l)
    (hne : l ≠ []) (hb : c.s.Usable b.uda l.length) : moveFillBody o c = c.didWrite b.uda l := by
  simp only [moveFillBody, hreg, hl]
  exact Ctx.write_of_usable he hne hb true

/-- R193: a TILE_READ of an allowed tile whose slot holds the format writes that slot's tile form. -/
theorem tileReadBody_of_usable {l : List Byte} (hcl : o.node = cl) (he : c.err = none)
    (hallow : c.s.tileAllowed cl (bits o.word 67 64) (c.s.domainOf o) = true)
    (hholds : (c.s.tile cl (bits o.word 67 64)).holds (bits o.word 69 68) (bitOf o.word 70) = true)
    (hshift : ((c.s.tile cl (bits o.word 67 64)).slot (bits o.word 69 68)).oneShift
      (bitOf o.word 70) = true)
    (hl : ((c.s.tile cl (bits o.word 67 64)).slot (bits o.word 69 68)).bytes (bitOf o.word 70) = l)
    (hne : l ≠ []) (hu : c.s.Usable o.uda l.length) : tileReadBody o c = c.didWrite o.uda l := by
  simp only [tileReadBody, hcl, hallow, hholds, hshift, hl, Bool.true_eq_false, if_false]
  exact Ctx.write_of_usable he hne hu true

/-- R487: a file of the other mode, or a slot of another format. -/
theorem tileReadBody_mismatch (hcl : o.node = cl)
    (hallow : c.s.tileAllowed cl (bits o.word 67 64) (c.s.domainOf o) = true)
    (hholds : (c.s.tile cl (bits o.word 67 64)).holds (bits o.word 69 68) (bitOf o.word 70) = false) :
    tileReadBody o c = c.bad .slotMismatch := by
  simp only [tileReadBody, hcl, hallow, hholds, Bool.true_eq_false, if_false, if_true]

/-- R190: a tile that the stream's domain may not use. -/
theorem tileReadBody_denied (hcl : o.node = cl)
    (hallow : c.s.tileAllowed cl (bits o.word 67 64) (c.s.domainOf o) = false) :
    tileReadBody o c = c.bad .tileDenied := if_pos (hcl ▸ hallow)

theorem State.switchTile_same {s : State} {t : Nat} {a16 : Bool} (h : (s.tile cl t).a16 = a16) :
    s.switchTile cl t a16 = s := if_pos h

/-- R194: the slot that a TILE_WRITE loads from bytes it has read. -/
def State.loadSlot (s : State) (cl t j : Nat) (l : List Byte) : State :=
  s.setTile cl t ((s.tile cl t).setSlot j (slotOfBytes l))

theorem tileWriteBody_of_usable {fmt : Nat} {l : List Byte} (hcl : o.node = cl) (he : c.err = none)
    (hfmt : (if bitOf o.word 70 then 0 else 1) = fmt)
    (hallow : c.s.tileAllowed cl (bits o.word 67 64) (c.s.domainOf o) = true)
    (hmode : (c.s.tile cl (bits o.word 67 64)).a16 = bitOf o.word 70)
    (hu : c.s.Usable o.uda (tileBytes fmt)) (hl : c.s.rawRead o.uda (tileBytes fmt) = l)
    (hok : (tileHdr l).ok [0, 1] = true) (hhdr : (tileHdr l).format = fmt) :
    tileWriteBody o c = { c.didRead o.uda (tileBytes fmt) with
      s := c.s.loadSlot cl (bits o.word 67 64) (bits o.word 69 68) l } := by
  have hsw : (c.didRead o.uda (tileBytes fmt)).s.switchTile cl (bits o.word 67 64) (bitOf o.word 70) =
      c.s := State.switchTile_same hmode
  have herr : (c.didRead o.uda (tileBytes fmt)).err.isSome = false := by
    rw [Option.isSome_eq_false_iff, Option.isNone_iff_eq_none]; exact he
  simp only [tileWriteBody, hcl, hfmt, hallow, Ctx.read_of_usable he hu, hl, hok, hhdr, herr, hsw, ne_eq,
    not_true_eq_false, or_self, Bool.true_eq_false, Bool.false_eq_true, if_false, State.loadSlot]

end

/-! ### The rows -/

/-- R194: loading a slot changes that slot of that tile alone. -/
theorem State.tile_loadSlot {s : State} (hs : SMap.wf State.tileD s.tiles = true) (cl t j : Nat)
    (l : List Byte) :
    (s.loadSlot cl t j l).tile cl t = (s.tile cl t).setSlot j (slotOfBytes l) ∧
      ∀ k n, k ≠ cl ∨ n ≠ t → n < 16 → t < 16 → (s.loadSlot cl t j l).tile k n = s.tile k n := by
  refine ⟨SMap.get_set_same (lo := none) hs, fun k n hkn hn ht => ?_⟩
  exact SMap.get_set_other (lo := none) hs (by omega)

section
variable {s : State} {slot : Fin 8} {node : Fin 9} {ofs : Nat} {v : View} {o : OpRec}

theorem moveCopy_stores {a b : DReg} (hs : s.Canonical) (ho : s.opAt slot node ofs = some o)
    (ht : s.tilesOpen o = true)
    (hc : s.claim slot node ofs (fun w => isMove 0 w || isMove 6 w || isMove 7 w) = (s, some o))
    (hends : o.ends = some (a, b)) (hpos : 0 < (moveWord o.word).bytes)
    (ha : s.Usable a.uda (moveWord o.word).bytes) (hb : s.Usable b.uda (moveWord o.word).bytes)
    (hab : a.uda = b.uda ∨ a.uda + (moveWord o.word).bytes ≤ b.uda ∨
      b.uda + (moveWord o.word).bytes ≤ a.uda) :
    Does (.moveCopy slot node (.perform ofs) v) s fun t =>
      (∃ p, t.opAt slot node ofs = some p ∧ p.issued = true) ∧
        s.StoresOnly t b.uda (s.rawRead a.uda (moveWord o.word).bytes) := by
  have hbody := moveCopyBody_of_usable (c := Ctx.start s v o.fetched) rfl hends hpos ha hb
  have hlen := s.length_rawRead a.uda (moveWord o.word).bytes
  have hclean := (Ctx.Clean.start s v o.fetched).copy (a := a.uda) (b := b.uda)
    (l := s.rawRead a.uda (moveWord o.word).bytes) rfl rfl (by rwa [hlen])
  rw [hlen] at hclean
  refine (does_store hs rfl ho ht hc hbody hclean ?_).imp fun t h => ⟨h.1, h.2.1⟩
  unfold Ctx.copyRead; split <;> rfl

end

/-- Settles O51: each row by what its body comes to, and how a unit settles that. -/
theorem copiesFillsAndTilesMoveBytes : Obligations.CopiesFillsAndTilesMoveBytes := by
  unfold Obligations.CopiesFillsAndTilesMoveBytes
  intro s slot node ofs v o hs ho ht issued usable
  obtain ⟨-, hnode, -⟩ := State.of_opAt ho
  refine ⟨?copy, ?fill, ?tiles⟩
  case copy =>
    exact fun a b hc hends hpos ha hb hab => moveCopy_stores hs ho ht hc hends hpos ha hb hab
  case fill =>
    intro b hc hreg l hne hu
    have hbody := moveFillBody_of_usable (c := Ctx.start s v o.fetched) rfl hreg rfl hne hu
    have hclean := (Ctx.Clean.start s v o.fetched).didWrite (u := b.uda) (l := l) rfl (fun _ h => nomatch h)
    exact (does_store hs rfl ho ht hc hbody hclean rfl).imp fun t h => ⟨h.1, h.2.1⟩
  case tiles =>
    intro tile j a16 size
    refine ⟨fun hc => ⟨?read, ?mismatch, ?denied⟩, ?write⟩
    case read =>
      intro hallow hholds hshift l hne hu
      have hbody := tileReadBody_of_usable (c := Ctx.start s v o.fetched) hnode rfl
        hallow hholds hshift rfl hne hu
      have hclean := (Ctx.Clean.start s v o.fetched).didWrite (u := o.uda) (l := l) rfl (fun _ h => nomatch h)
      exact does_store hs rfl ho ht hc hbody hclean rfl
    case mismatch =>
      exact fun hallow hholds x hx hh =>
        does_of_bad rfl ho ht hc (tileReadBody_mismatch hnode hallow hholds) hx hh
    case denied =>
      exact fun hallow x hx hh => does_of_bad rfl ho ht hc (tileReadBody_denied hnode hallow) hx hh
    case write =>
      intro hc hallow hmode hu l hok hhdr
      have hbody := tileWriteBody_of_usable (c := Ctx.start s v o.fetched) hnode rfl rfl
        hallow hmode hu rfl hok hhdr
      have hread := (Ctx.Clean.start s v o.fetched).didRead (u := o.uda) rfl size
      obtain ⟨hsame, hother⟩ := State.tile_loadSlot hs.wf_tiles node tile j l
      refine does_of_clean rfl ho ht hc hbody ⟨hread.err, hread.stall, hread.miss, hread.sends, hread.apart⟩
        rfl fun t hd hp htiles => ⟨State.sameBytes_of_eq hd hp, ?_, fun cl k hne hcl hk htile => ?_⟩
      · rw [State.tile, htiles]; exact hsame
      · rw [State.tile, htiles]; exact hother cl k hne hk htile

end Sys2Proof.Machine
end

section
/-! Matmul-type operations (O52). -/

namespace Sys2Proof.Machine

/-! ### MATMUL -/

section
variable {s w : State} {slot : Fin 8} {node : Fin 9} {ofs : Nat} {v : View} {o : OpRec}
  (hc : s.claim slot node ofs (fun x => opCode x == 0x02) = (w, some o))
include hc

theorem execMatmul_begins (hm : o.mat = none) :
    exec (.matmul slot node (.perform ofs) v) s = .next (w.startMat o) := by
  simp only [exec, execMatmul, hc, hm, Option.isSome_none, Bool.false_eq_true, if_false]

theorem execMatmul_begun (hm : o.mat.isSome = true) :
    exec (.matmul slot node (.perform ofs) v) s = .next w := by
  simp only [exec, execMatmul, hc, hm, if_true]

end

section
variable {s w : State} {cl : Fin 8} {tile : Fin 16} {o : OpRec} {c : MatCfg}

/-! ### Array steps -/

section
variable {idle : Nat} (h : s.matOn cl tile = some (o, c))
include h

theorem execArrayStep_waits (hw : s.gated = true ∨ s.groupReady o c = false ∨
      ∃ t ∈ c.together tile, s.tileOpen o t = false) :
    exec (.arrayStep cl tile idle) s = .next s := by
  have hstop : (s.gated || !s.groupReady o c || !((c.together tile).all fun t => s.tileOpen o t)) = true := by
    rcases hw with hg | hg | ⟨t, ht, hopen⟩
    · simp only [hg, Bool.true_or]
    · simp only [hg, Bool.not_false, Bool.or_true, Bool.true_or]
    · have hall : ((c.together tile).all fun t => s.tileOpen o t) = false :=
        List.all_eq_false.2 ⟨t, ht, by simp [hopen]⟩
      simp only [hall, Bool.not_false, Bool.or_true]
  simp only [exec, execArrayStep, h, hstop, if_true]

variable (hg : s.groupReady o c = true) (ht : ∀ t ∈ c.together tile, s.tileOpen o t = true)
  (hgate : s.gated = false)
include hg ht hgate

theorem execArrayStep_beginFault {e : AccErr} (hb : s.beginAll o c (c.together tile) = (w, some e)) :
    exec (.arrayStep cl tile idle) s = .next (w.unitFault o e) := by
  simp only [exec, execArrayStep, h, hgate, hg, List.all_eq_true.2 ht, hb, Bool.not_true, Bool.or_false,
    Bool.false_eq_true, if_false]

/-- R170, R225: the tiles that step together have nothing due, and step. -/
theorem execArrayStep_steps {x : State} (hb : s.beginAll o c (c.together tile) = (w, none))
    (hr : ∀ t ∈ c.together tile, ∃ r, w.run? o t = some r ∧ r.due = [] ∧ r.done = false)
    (hm : w.mustRewind o c (c.together tile) = false)
    (hx : w.stepAll o c (w.stepCycles cl + idle) (c.together tile) = (x, none)) :
    exec (.arrayStep cl tile idle) s = .next
      (((x.bump (clReg cl Reg.CL_FEED_STALL) (idle * (c.together tile).length)).clusterStep cl
        (w.stepCycles cl) (c.together tile)).afterRound o c (c.together tile)) := by
  have hfree : ((c.together tile).all fun t => match w.run? o t with
      | some r => r.due.isEmpty && !r.done
      | none => false) = true := by
    refine List.all_eq_true.2 fun t hmem => ?_
    obtain ⟨r, hrun, hdue, hdone⟩ := hr t hmem
    simp only [hrun, hdue, hdone, List.isEmpty_nil, Bool.not_false, Bool.and_self]
  simp only [exec, execArrayStep, h, hgate, hg, List.all_eq_true.2 ht, hb, Bool.not_true, Bool.or_false,
    Bool.false_eq_true, if_false]
  rw [if_pos (by rw [hm, Bool.not_false, Bool.and_true]; exact hfree), hx]

end

/-! ### Spills -/

/-- The accesses `x` of a spill of block `l`, which is then cleared and counted (R219). -/
def Ctx.cleared (x : Ctx) (o : OpRec) (c : MatCfg) (cl tile l : Nat) : Ctx :=
  let z := ((x.s.clearSlot o c tile l).bump (clReg cl Reg.CL_ACC_SPILLS) 1).bump
    (clReg cl Reg.CL_ACC_SPILL_CYC) 128
  { x with s := z }

@[simp] theorem Ctx.cleared_err (x : Ctx) (o : OpRec) (c : MatCfg) (cl tile l : Nat) :
    (x.cleared o c cl tile l).err = x.err := rfl

/-- A tile's run after the spill of block `l`, with the blocks `rest` still due. -/
def TileRun.spilt (r : TileRun) (l : Nat) (rest : List Nat) : TileRun :=
  { r with due := rest, spilled := l :: r.spilled.filter fun k => k != l }

section
variable (h : s.matOn cl tile = some (o, c)) (hg : s.groupReady o c = true)
  (ht : ∀ t ∈ c.together tile, s.tileOpen o t = true)
include h hg ht

theorem execBlockSpill_beginFault {e : AccErr} (hb : s.beginAll o c (c.together tile) = (w, some e)) :
    exec (.blockSpill cl tile) s = .next (w.unitFault o e) := by
  simp only [exec, execBlockSpill, h, hg, List.all_eq_true.2 ht, hb, Bool.not_true, Bool.or_false,
    Bool.false_eq_true, if_false]

variable {r : TileRun} {m : MatRun} {l : Nat} {rest : List Nat}
  (hb : s.beginAll o c (c.together tile) = (w, none)) (hr : w.run? o tile = some r) (hm : o.mat = some m)
  (hdue : r.due = l :: rest)
include hb hr hm hdue

/-- R288: a chunk spill waits for the decision of the boundary before it. -/
theorem execBlockSpill_heldBack (hh : c.heldBack r m.decided = true) :
    exec (.blockSpill cl tile) s = .next w := by
  simp only [exec, execBlockSpill, h, hg, List.all_eq_true.2 ht, hb, hr, hm, hdue, hh, Bool.not_true,
    Bool.or_false, Bool.false_eq_true, if_false, if_true]

variable (hh : c.heldBack r m.decided = false)
include hh

/-- R219: what a spill that is due comes to, by the accesses `x` of its block. -/
theorem execBlockSpill_due {x : Ctx} (hx : (Ctx.start w View.none []).spillTile o c tile l
      (!c.w.spillAdd && !r.spilled.contains l) = x) :
    exec (.blockSpill cl tile) s = .next (match x.err with
      | some e => x.s.unitFault o e
      | none =>
        let q := if rest = [] then
            (x.cleared o c cl tile l).afterSpill o c (r.spilt l rest) l (c.isInitial tile r l)
          else (x.cleared o c cl tile l, r.spilt l rest)
        match q.1.err with
        | some e => q.1.s.unitFault o e
        | none => ((q.1.s.countBytes o.slot q.1.moved).setRun o q.2).checkIssued o) := by
  subst hx
  simp only [exec, execBlockSpill, h, hg, List.all_eq_true.2 ht, hb, hr, hm, hdue, hh, Bool.not_true,
    Bool.or_false, Bool.false_eq_true, if_false]
  rfl

end

/-! ### Rewinds -/

section
variable (h : s.matOn cl tile = some (o, c))
include h

theorem execOverflowRewind_notDue (hm : s.mustRewind o c (c.together tile) = false) :
    exec (.overflowRewind cl tile) s = .next s := by
  simp only [exec, execOverflowRewind, h, hm, if_true]

variable (hm : s.mustRewind o c (c.together tile) = true)
include hm

/-- R229: without SPILL_EN the old contents of the slots cannot be had again. -/
theorem execOverflowRewind_overOld (hs : c.w.spillEn = false) (ha : c.w.add = true) :
    exec (.overflowRewind cl tile) s = .next (s.unitFault o ⟨.accOverflow, 0, 0,
      ((c.together tile).flatMap fun t => ((s.run? o t).map fun r => r.ovf.map (·.2)).getD []).headD 0⟩) := by
  simp only [exec, execOverflowRewind, h, hm, hs, ha, Bool.true_eq_false, if_false, and_self, if_true]

/-- A tile's run as it returns to its last checkpoint (R228). -/
def TileRun.rewound (r : TileRun) : TileRun :=
  { r with pos := r.ckpt, turn := 0, ovf := [], formed := 0, nextForm := 0 }

/-- R228 to R233: a tile that steps alone. -/
theorem execOverflowRewind_alone {r : TileRun} (hs : c.w.spillEn = true ∨ c.w.add = false)
    (ht : c.together tile = [tile.val]) (hr : s.run? o tile = some r) :
    exec (.overflowRewind cl tile) s = .next
      (match (s.rewindTile o c r).2 with
      | some e => s.unitFault o ⟨.accRange, 0, 0, e⟩
      | none => ((((s.rewindTile o c r).1.bump (clReg cl Reg.CL_ACC_REPLAYS) 1).bump
          (clReg cl Reg.CL_ACC_REPLAY_CYC) (r.formed + 13)).bump (clReg cl Reg.CL_ACC_RAISES)
            r.ovf.length).setRun o r.rewound) := by
  have hn : ¬ (c.w.spillEn = false ∧ c.w.add = true) := by
    rcases hs with hs | hs <;> simp [hs]
  have hm' : s.mustRewind o c [tile.val] = true := ht ▸ hm
  simp only [exec, execOverflowRewind, h, hm', hn, ht, hr, Bool.true_eq_false, if_false, List.foldl_cons,
    List.foldl_nil, Option.isSome_none, Bool.false_eq_true]
  rfl

end

end

/-! ### Margin decisions -/

section
variable {s : State} {slot : Fin 8} {id : BitVec 8} {n : Nat} {x : ExecSlot} {o : OpRec} {c : MatCfg}
  {os : List OpRec} {ms more : List (OpRec × MatCfg)} {t : Nat} {q : Ctx × List MarginRow}
  (hd : s.dueTurn slot id.toNat = some n) (hx : s.slot? slot = some x) (hr : s.running = true)
  (hh : s.slotHalted x = false) (hos : s.marginGroup slot id.toNat n = os)
  (hms : (os.filterMap fun o => (s.matNow o).map fun c => (o, c)) = ms) (hcons : ms = (o, c) :: more)
  (ht : min c.len ((o.decided + 1) * c.p) = t)
  (hq : (Ctx.start s View.none []).marginRows ms c.m t = q)
include hd hx hr hh hos hms hcons ht hq

theorem execMarginDecision_rowFault {e : AccErr} (he : q.1.err = some e) :
    exec (.marginDecision slot id) s = .next (q.1.s.unitFault o e) := by
  subst hos hcons ht hq
  simp only [exec, execMarginDecision, hd, hms, hx, hr, hh, he, Bool.not_false, Bool.and_self,
    Bool.true_eq_false, if_false]

variable (he : q.1.err = none)
include he

/-- R287: a row is not proven, and the stream has not ended: the group goes on. -/
theorem execMarginDecision_goesOn (hlt : t < c.len) (hp : ∃ r ∈ q.2, r.proven c.w.marginK = false) :
    exec (.marginDecision slot id) s = .next (os.foldl (fun (w : State) y =>
      match y.mat with
      | some m => w.setOp { y with mat := some { m with decided := o.decided + 1 } }
      | none => w) q.1.s) := by
  have hall : (q.2.all fun r => r.proven c.w.marginK) = false := by
    obtain ⟨r, hmem, hr⟩ := hp
    exact List.all_eq_false.2 ⟨r, hmem, by simp [hr]⟩
  subst hos hcons ht hq
  simp only [exec, execMarginDecision, hd, hms, hx, hr, hh, he, hall, hlt, Bool.not_false, Bool.and_self,
    Bool.true_eq_false, if_false, if_true, decide_true] <;> rfl

/-- R288, R289: the group stops at `t`, and the accesses `k` write its list. -/
theorem execMarginDecision_stops {k : Ctx} (hstop : t = c.len ∨ ∀ r ∈ q.2, r.proven c.w.marginK = true)
    (hk : (Ctx.start (ms.foldl (fun (w : State) y => w.stopMember y.1 y.2 t) q.1.s) View.none []).write
      false true (((drOf o.drs c.w.drTopk).map (·.uda)).getD 0)
      ((⟨c.w.marginK, 0, c.m, c.a.eRef + c.b.eRef, c.io, c.len, t⟩ : LHdr).bytes ++
        q.2.flatMap fun r => recordBytesOf (r.record c.w.marginK)) = k) :
    exec (.marginDecision slot id) s = .next (match k.err with
      | some e => k.s.unitFault o e
      | none =>
        if k.stall then s
        else
          let y := ((k.flush (.op o.slot o.node o.ofs)).countBytes slot k.moved).bump
            (clReg o.node Reg.CL_TOPK_ROWS) c.m
          match y.opAt o.slot o.node o.ofs with
          | some p => y.setOp { p with hostWait := k.hostWait, owed := k.owed }
          | none => y) := by
  have hgo : (decide (t < c.len) && !(q.2.all fun r => r.proven c.w.marginK)) = false := by
    rcases hstop with rfl | hall
    · simp
    · simp [List.all_eq_true.2 hall]
  subst hos hcons ht hq hk
  simp only [exec, execMarginDecision, hd, hms, hx, hr, hh, he, hgo, Bool.not_false, Bool.and_self,
    Bool.true_eq_false, Bool.false_eq_true, if_false] <;> rfl

end

/-! ### The obligation -/

/-- Settles O52: each clause is an answer of its row's function. -/
theorem matmulAdvancesStepByStep : Obligations.MatmulAdvancesStepByStep := by
  unfold Obligations.MatmulAdvancesStepByStep
  refine ⟨fun s w slot node ofs v o hc => ⟨execMatmul_begins hc, execMatmul_begun hc⟩, ?array, ?margin⟩
  case array =>
    intro s cl tile o c h ts
    refine ⟨fun idle => execArrayStep_waits h, fun hg ht => ⟨?fault, ?begun⟩, execOverflowRewind_notDue h,
      fun hm => ⟨execOverflowRewind_overOld h hm, ?rewind⟩⟩
    case fault =>
      exact fun w e hb => ⟨fun idle hgate => execArrayStep_beginFault h hg ht hgate hb,
        execBlockSpill_beginFault h hg ht hb⟩
    case begun =>
      refine fun w hb => ⟨fun idle x hgate => execArrayStep_steps h hg ht hgate hb, ?_⟩
      intro r m l rest hr hm hdue initial
      refine ⟨execBlockSpill_heldBack h hg ht hb hr hm hdue, fun hh => ?_⟩
      intro x z y p
      have hspill := execBlockSpill_due h hg ht hb hr hm hdue hh (x := x) rfl
      refine ⟨fun e hx => ?spillFault, fun hx hrest => ?more, fun hx hrest hy => ?last⟩
      case spillFault => simp only [hspill, hx]
      case more => simp only [hspill, hx, hrest, if_false, Ctx.cleared_err]; rfl
      case last =>
        have hnext : ((x.cleared o c cl tile l).afterSpill o c (r.spilt l rest) l
            (c.isInitial tile r l)).1.err = none := hy
        subst hrest
        simp only [hspill, hx, if_true, hnext]; rfl
    case rewind =>
      intro r hs hts hr x
      have hrewind := execOverflowRewind_alone h hm hs hts hr
      refine ⟨fun e hx => ⟨_, hrewind, s, ?_⟩, fun hx => ?_⟩
      · rw [show (s.rewindTile o c r).2 = some e from hx]
      · rw [hrewind, show (s.rewindTile o c r).2 = none from hx]; rfl
  case margin =>
    intro s slot id n x o c more hd hx hr hh os ms hcons t q
    refine ⟨fun e => execMarginDecision_rowFault hd hx hr hh rfl rfl hcons rfl rfl,
      fun he => execMarginDecision_goesOn hd hx hr hh rfl rfl hcons rfl rfl he, fun he hstop => ?_⟩
    intro w k
    have hlist := execMarginDecision_stops hd hx hr hh rfl rfl hcons rfl rfl he hstop (k := k) rfl
    refine ⟨fun e hk => ?_, fun hk hst => ?_⟩
    · rw [hlist, hk]
    · rw [hlist, hk, hst]; rfl

end Sys2Proof.Machine
end

section
/-! SUPPORT. The beginning of a reset (R617 steps 2 and 3, R670, R678): what the operations that are abandoned
and the links that are taken down leave as it is. -/

namespace Sys2Proof.Machine

/-! ### Bytes and tiles that become undefined -/

/-- Of `s`, at most the memories, the tiles and the serial of the next free value have changed. -/
def State.OnlyBytes (s t : State) : Prop :=
  t = { s with dram := t.dram, plate := t.plate, tiles := t.tiles, fresh := t.fresh }

namespace State.OnlyBytes
variable {s t u : State}

theorem refl (s : State) : s.OnlyBytes s := rfl

theorem trans (h : s.OnlyBytes t) (h' : t.OnlyBytes u) : s.OnlyBytes u :=
  Eq.trans h' (congrArg (fun x : State =>
    { x with dram := u.dram, plate := u.plate, tiles := u.tiles, fresh := u.fresh }) h)

theorem foldl {α : Type} {f : State → α → State} (hf : ∀ (s : State) x, s.OnlyBytes (f s x)) (l : List α) (s : State) :
    s.OnlyBytes (l.foldl f s) :=
  List.foldlRecOn l f (motive := s.OnlyBytes) (refl s) fun t h x _ => h.trans (hf t x)

section
variable (h : s.OnlyBytes t)
include h
theorem regs : t.regs = s.regs := (congrArg State.regs (h : t = _) :)
theorem cfg : t.cfg = s.cfg := (congrArg State.cfg (h : t = _) :)
theorem ring : t.ring = s.ring := (congrArg State.ring (h : t = _) :)
theorem perst : t.perst = s.perst := (congrArg State.perst (h : t = _) :)
theorem faults : t.faults = s.faults := (congrArg State.faults (h : t = _) :)
theorem slots : t.slots = s.slots := (congrArg State.slots (h : t = _) :)
end

theorem rawWrite (s : State) (u : Nat) (l : List Byte) : s.OnlyBytes (s.rawWrite u l) := by
  unfold State.rawWrite; split <;> rfl

theorem bumpFresh (s : State) : s.OnlyBytes s.bumpFresh := rfl

theorem havoc (s : State) (u len : Nat) : s.OnlyBytes (s.havoc u len) := by
  unfold State.havoc
  split
  · exact (rawWrite _ _ _).trans (bumpFresh _)
  · exact refl s

theorem junkTile (s : State) (cl t : Nat) (switched : Bool) (js : List Nat) :
    s.OnlyBytes (s.junkTile cl t switched js) := rfl

theorem forget (s : State) (node w rep u : Nat) (drs : SMap (Option DReg)) (mat : Option MatRun) :
    s.OnlyBytes (s.forget node w rep u drs mat) :=
  (foldl (fun s _ => havoc s _ _) _ s).trans (foldl (fun s _ => junkTile s _ _ _ _) _ _)

theorem abandon (s : State) (o : OpRec) : s.OnlyBytes (s.abandon o) := forget s _ _ _ _ _ _

theorem abandonOps (s : State) : s.OnlyBytes s.abandonOps := foldl abandon _ s

theorem spoilImage (s : State) (u : Nat) : s.OnlyBytes (s.spoilImage u) := by
  unfold State.spoilImage
  split
  · exact (rawWrite _ _ _).trans (bumpFresh _)
  · exact refl s

theorem spoilCuts (s : State) : s.OnlyBytes s.spoilCuts := by
  refine foldl (fun s c => ?_) _ s
  split
  · exact (spoilImage _ _).trans (havoc _ _ _)
  · exact refl s

end State.OnlyBytes

/-- R253, R638: no operation has begun, and no cut is being written. -/
def State.Tame (s : State) : Prop :=
  (∀ o ∈ s.ops, o.begun = false) ∧ ∀ m k, s.cut? m = some k → k.x.cutting ≠ some k.save.idx

/-- In a tame state a reset leaves nothing undefined. -/
theorem State.Tame.abandons_nothing {s : State} (h : s.Tame) : s.spoilCuts.abandonOps = s := by
  obtain ⟨hops, hcuts⟩ := h
  have hspoil : s.spoilCuts = s := by
    refine List.foldlRecOn _ _ (motive := fun t => t = s) rfl fun t ht c hc => ?_
    obtain ⟨m, -, hm⟩ := List.mem_filterMap.1 hc
    rw [if_neg (hcuts m c hm), ht]
  have hnone : (s.ops.filter fun o => o.begun) = [] :=
    List.filter_eq_nil_iff.2 fun o ho => by simp [hops o ho]
  rw [hspoil, State.abandonOps, hnone, List.foldl_nil]

/-! ### Links that go down -/

/-- Of `s`, at most the ports, the fabric, what has been sent, and registers from FAB_ on have changed. -/
structure State.OnlyLinks (s t : State) : Prop where
  rest : t = { s with regs := t.regs, ports := t.ports, fab := t.fab, out := t.out }
  regs : SMap.wf regReset s.regs = true →
    SMap.wf regReset t.regs = true ∧ ∀ o, o < 0x30000 → t.reg o = s.reg o

namespace State.OnlyLinks
variable {s t u : State}

theorem refl (s : State) : s.OnlyLinks s := ⟨rfl, fun h => ⟨h, fun _ _ => rfl⟩⟩

theorem trans (h : s.OnlyLinks t) (h' : t.OnlyLinks u) : s.OnlyLinks u where
  rest := Eq.trans h'.rest (congrArg (fun x : State =>
    { x with regs := u.regs, ports := u.ports, fab := u.fab, out := u.out }) h.rest)
  regs hs := by
    obtain ⟨ht, hst⟩ := h.regs hs
    obtain ⟨hu, htu⟩ := h'.regs ht
    exact ⟨hu, fun o ho => (htu o ho).trans (hst o ho)⟩

theorem foldl {α : Type} {f : State → α → State} (hf : ∀ (s : State) x, s.OnlyLinks (f s x)) (l : List α) (s : State) :
    s.OnlyLinks (l.foldl f s) :=
  List.foldlRecOn l f (motive := s.OnlyLinks) (refl s) fun t h x _ => h.trans (hf t x)

section
variable (h : s.OnlyLinks t)
include h
theorem held : t.held = s.held := (congrArg State.held h.rest :)
theorem cfg : t.cfg = s.cfg := (congrArg State.cfg h.rest :)
theorem ring : t.ring = s.ring := (congrArg State.ring h.rest :)
theorem perst : t.perst = s.perst := (congrArg State.perst h.rest :)
theorem dram : t.dram = s.dram := (congrArg State.dram h.rest :)
theorem plate : t.plate = s.plate := (congrArg State.plate h.rest :)
end

theorem setReg (s : State) {o : Nat} (v : Nat) (ho : 0x30000 ≤ o) : s.OnlyLinks (s.setReg o v) where
  rest := rfl
  regs hs := ⟨State.wf_setReg hs o v, fun k hk => State.reg_setReg_other hs v (by omega)⟩

theorem bump (s : State) {o : Nat} (n : Nat) (ho : 0x30000 ≤ o) : s.OnlyLinks (s.bump o n) := setReg s _ ho

theorem bump64 (s : State) {o : Nat} (n : Nat) (ho : 0x30000 ≤ o) : s.OnlyLinks (s.bump64 o n) :=
  (setReg s _ ho).trans (setReg _ _ (by omega))

theorem setPort (s : State) (p : Nat) (x : Port) : s.OnlyLinks (s.setPort p x) :=
  ⟨rfl, fun h => ⟨h, fun _ _ => rfl⟩⟩

theorem setFab (s : State) (f : Fabric) : s.OnlyLinks { s with fab := f } :=
  ⟨rfl, fun h => ⟨h, fun _ _ => rfl⟩⟩

theorem txFrame (s : State) (p ftype vc seq : Nat) (l : List Byte) : s.OnlyLinks (s.txFrame p ftype vc seq l) :=
  ⟨rfl, fun h => ⟨h, fun _ _ => rfl⟩⟩

theorem le_lk (p : Nat) {o : Nat} (h : 0x30000 ≤ o) : 0x30000 ≤ lk p o := by unfold lk; omega

theorem setLink (s : State) (p st rate width : Nat) : s.OnlyLinks (s.setLink p st rate width) :=
  have h : 0x30000 ≤ lk p Reg.FAB_LINK_STATE := le_lk p (by decide)
  ((setReg s _ h).trans (setReg _ _ h)).trans (setReg _ _ h)

theorem sendData (s : State) (p vc : Nat) (l : List Byte) : s.OnlyLinks (s.sendData p vc l) :=
  ((setPort s p _).trans (bump64 _ _ (le_lk p (by decide)))).trans (txFrame _ _ _ _ _ _)

theorem resend (s : State) (p : Nat) (l : List RetryRec) : s.OnlyLinks (s.resend p l) :=
  have h : 0x30000 ≤ lk p Reg.FAB_LINK_REPLAYS := le_lk p (by decide)
  foldl (fun s _ => (bump s _ h).trans (txFrame _ _ _ _ _ _)) l s

theorem pumpResend (s : State) (p n : Nat) : s.OnlyLinks (s.pumpResend p n) := by
  fun_induction State.pumpResend s p n with
  | case1 s => exact refl s
  | case2 s => exact refl s
  | case3 s => exact setPort s p _
  | case4 s => exact refl s
  | case5 s n x hx r t hr c hc w ih => exact ((setPort s p _).trans (resend _ _ _)).trans ih

theorem pumpMgt (s : State) (p : Nat) (l : List (List Byte)) : s.OnlyLinks (s.pumpMgt p l) := by
  fun_induction State.pumpMgt s p l with
  | case1 s => exact setPort s p _
  | case2 s m t hm ih => exact (sendData s p _ _).trans ih
  | case3 s => exact setPort s p _

theorem pump (s : State) (p : Nat) : s.OnlyLinks (s.pump p) := by
  unfold State.pump
  split
  · exact (pumpResend s p _).trans (pumpMgt _ _ _)
  · exact refl s

theorem sendMgt (s : State) (p : Nat) (l : List Byte) : s.OnlyLinks (s.sendMgt p l) := by
  unfold State.sendMgt
  split
  · exact (setPort s p _).trans (pump _ _)
  · exact refl s

theorem settling (s : State) : s.OnlyLinks s.settling := by
  unfold State.settling
  split
  · exact setReg s _ (by decide)
  · exact refl s

theorem flood (s : State) (skip : Option Nat) (a : Advert) : s.OnlyLinks (s.flood skip a) := by
  refine foldl (fun s p => ?_) _ s
  split
  · exact refl s
  · exact sendMgt s p _

theorem originate (s : State) (skip : Option Nat) : s.OnlyLinks (s.originate skip) := by
  unfold State.originate
  split
  · exact ((setFab s _).trans (setFab _ _)).trans (flood _ _ _)
  · exact refl s

theorem advanceEpoch (s : State) (skip : Option Nat) : s.OnlyLinks (s.advanceEpoch skip) := by
  unfold State.advanceEpoch
  split
  · exact ((setReg s _ (by decide)).trans (settling _)).trans (originate _ _)
  · exact refl s

theorem linkDown (s : State) (p : Nat) (cause : Option Nat) : s.OnlyLinks (s.linkDown p cause) := by
  have hreg {o : Nat} (h : 0x30000 ≤ o) (s : State) (v : Nat) : s.OnlyLinks (s.setReg (lk p o) v) :=
    setReg s v (le_lk p h)
  unfold State.linkDown
  extract_lets s1 s2 s3
  split
  · exact refl s
  · have h1 : s.OnlyLinks s1 := by
      unfold s1
      split
      · exact hreg (by decide) s _
      · exact refl s
    exact ((((h1.trans (hreg (by decide) _ _)).trans (hreg (by decide) _ _)).trans (setLink _ _ _ _ _)).trans
      (setPort _ _ _)).trans (advanceEpoch _ _)

theorem goodbye (s : State) (p : Nat) (cause : Option Nat) : s.OnlyLinks (s.goodbye p cause) := by
  unfold State.goodbye
  split
  · exact (txFrame s p _ _ _ _).trans (linkDown _ _ _)
  · exact refl s

theorem allGoodbye (s : State) : s.OnlyLinks s.allGoodbye := foldl (fun s p => goodbye s p none) _ s

end State.OnlyLinks

/-! ### The reset begins -/

section
variable (s : State)
@[simp] theorem State.abandonUpdate_held : s.abandonUpdate.held = s.held := by
  unfold State.abandonUpdate; split <;> rfl
@[simp] theorem State.abandonUpdate_cfg : s.abandonUpdate.cfg = s.cfg := by
  unfold State.abandonUpdate; split <;> rfl
@[simp] theorem State.abandonUpdate_ring : s.abandonUpdate.ring = s.ring := by
  unfold State.abandonUpdate; split <;> rfl
@[simp] theorem State.abandonUpdate_perst : s.abandonUpdate.perst = s.perst := by
  unfold State.abandonUpdate; split <;> rfl
@[simp] theorem State.abandonUpdate_dram : s.abandonUpdate.dram = s.dram := by
  unfold State.abandonUpdate; split <;> rfl
@[simp] theorem State.abandonUpdate_plate : s.abandonUpdate.plate = s.plate := by
  unfold State.abandonUpdate; split <;> rfl
end

/-- R679, R826: abandoning a flash update reaches no register below those of the almanac. -/
theorem State.abandonUpdate_regs {s : State} (h : SMap.wf regReset s.regs = true) :
    SMap.wf regReset s.abandonUpdate.regs = true ∧ ∀ o, o < 0x30000 → s.abandonUpdate.reg o = s.reg o := by
  unfold State.abandonUpdate
  split
  next u f =>
    generalize hw : ({ s with flash := _, update := _, rearm := _ } : State) = w
    have hreg : w.regs = s.regs := hw ▸ rfl
    have hwf : SMap.wf regReset w.regs = true := hreg ▸ h
    refine ⟨State.wf_setFld (State.wf_setFld hwf _ _ _ _) _ _ _ _, fun o ho => ?_⟩
    have hne : o ≠ Reg.ALM_UPDATE ∧ o ≠ Reg.ALM_RECOVERY := by
      constructor <;> rintro rfl <;> revert ho <;> decide
    rw [State.reg_setFld_other (State.wf_setFld hwf _ _ _ _) _ _ _ hne.2,
      State.reg_setFld_other hwf _ _ _ hne.1]
    simp only [State.reg, hreg]
  · exact ⟨h, fun _ _ => rfl⟩

/-- What `t` holds of `s` as a reset of cause `c` begins, none being in progress. -/
structure State.ResetBegun (s t : State) (c : ResetCause) : Prop where
  resetPend : t.resetPend = some c
  held : t.held = []
  perst : t.perst = s.perst
  cfg : t.cfg = s.cfg
  ring : t.ring = s.ring
  wf : SMap.wf regReset t.regs = true
  count : t.reg Reg.FE_RESET_COUNT = (s.reg Reg.FE_RESET_COUNT + 1) % 2 ^ 32
  regs : ∀ o, o < 0x30000 → o ≠ Reg.FE_RESET_COUNT → t.reg o = s.reg o
  bytes : s.Tame → s.SameBytes t

/-- A reset that has begun, but for its cause and its count. -/
def State.quelled (s : State) : State :=
  ({ s.spoilCuts.abandonOps with held := [] }).allGoodbye.abandonUpdate

theorem State.beginReset_of_none {s : State} (h : s.resetPend = none) (c : ResetCause) :
    s.beginReset c = { s.quelled.bump Reg.FE_RESET_COUNT 1 with resetPend := some c } := by
  simp only [State.beginReset, h]; rfl

/-- R678: a reset merges into the one in progress. -/
theorem State.beginReset_of_some {s : State} (h : s.resetPend.isSome = true) (c : ResetCause) :
    ∃ d, s.beginReset c = { s with resetPend := some d } := by
  obtain ⟨d, hd⟩ := Option.isSome_iff_exists.1 h
  have hself : s = { s with resetPend := some d } := by rw [← hd]
  cases d with
  | fault => exact ⟨c, by simp only [State.beginReset, hd]⟩
  | _ => exact ⟨_, Eq.trans (by simp only [State.beginReset, hd]) hself⟩

theorem State.resetBegun {s : State} (hs : SMap.wf regReset s.regs = true) (h : s.resetPend = none)
    (c : ResetCause) : s.ResetBegun (s.beginReset c) c := by
  have hbytes : s.OnlyBytes s.spoilCuts.abandonOps := (OnlyBytes.spoilCuts s).trans (.abandonOps _)
  have htame (ht : s.Tame) : s.spoilCuts.abandonOps = s := ht.abandons_nothing
  rw [State.beginReset_of_none h, State.quelled]
  generalize s.spoilCuts.abandonOps = w at hbytes htame
  have hlinks := OnlyLinks.allGoodbye { w with held := [] }
  generalize State.allGoodbye { w with held := [] } = u at hlinks
  obtain ⟨hu, hlow⟩ := hlinks.regs (hbytes.regs ▸ hs)
  obtain ⟨hx, hlow'⟩ := State.abandonUpdate_regs hu
  have hreg (o : Nat) (ho : o < 0x30000) : u.abandonUpdate.reg o = s.reg o :=
    (hlow' o ho).trans ((hlow o ho).trans (congrArg (fun m => (SMap.get regReset m o).toNat) hbytes.regs))
  exact {
    resetPend := rfl
    held := u.abandonUpdate_held.trans hlinks.held
    perst := u.abandonUpdate_perst.trans (hlinks.perst.trans hbytes.perst)
    cfg := u.abandonUpdate_cfg.trans (hlinks.cfg.trans hbytes.cfg)
    ring := u.abandonUpdate_ring.trans (hlinks.ring.trans hbytes.ring)
    wf := State.wf_bump hx _ _
    count := (State.reg_bump_same hx _ _).trans (by rw [hreg _ (by decide)])
    regs := fun o ho hne => (State.reg_bump_other hx _ hne).trans (hreg o ho)
    bytes := fun ht => State.sameBytes_of_eq
      (u.abandonUpdate_dram.trans (hlinks.dram.trans (congrArg State.dram (htame ht) :)))
      (u.abandonUpdate_plate.trans (hlinks.plate.trans (congrArg State.plate (htame ht) :))) }

theorem State.beginReset_pends (s : State) (c : ResetCause) : (s.beginReset c).resetPend.isSome = true := by
  by_cases h : s.resetPend.isSome = true
  · obtain ⟨d, hd⟩ := State.beginReset_of_some h c
    rw [hd]; rfl
  · rw [State.beginReset_of_none (by simpa using h)]; rfl

theorem State.Tame.sameBytes_beginReset {s : State} (ht : s.Tame) (hs : SMap.wf regReset s.regs = true)
    (c : ResetCause) : s.SameBytes (s.beginReset c) := by
  by_cases h : s.resetPend.isSome = true
  · obtain ⟨d, hd⟩ := State.beginReset_of_some h c
    rw [hd]; exact State.sameBytes_of_eq rfl rfl
  · exact (State.resetBegun hs (by simpa using h) c).bytes ht

/-- A reset that begins, or merges into one, reaches neither configuration space nor PERST_N. -/
theorem State.beginReset_cfg_perst {s : State} (hs : SMap.wf regReset s.regs = true) (c : ResetCause) :
    (s.beginReset c).cfg = s.cfg ∧ (s.beginReset c).perst = s.perst := by
  by_cases h : s.resetPend.isSome = true
  · obtain ⟨d, hd⟩ := State.beginReset_of_some h c
    rw [hd]; exact ⟨rfl, rfl⟩
  · have hb := State.resetBegun hs (by simpa using h) c
    exact ⟨hb.cfg, hb.perst⟩

end Sys2Proof.Machine
end

section
/-! Resets that the PCIe side starts (O18). -/

namespace Sys2Proof.Machine

/-! ### Configuration space -/

/-- What a part of a family, chosen by number, holds. -/
theorem SMap.get_filter {β : Type} [DecidableEq β] {d : Nat → β} {m : SMap β} (h : SMap.wf d m = true)
    (p : Nat → Bool) (k : Nat) :
    SMap.get d (m.filter fun x => p x.1) k = if p k then SMap.get d m k else d k := by
  have hm := (SMap.wf_iff.1 h).1
  split
  next hp => exact SMap.get_congr (hm.filter _) hm fun v => by simp [List.mem_filter, hp]
  next hp =>
    refine SMap.get_of_not_mem fun x hx e => hp ?_
    exact e ▸ (List.mem_filter.1 hx).2

section
variable {s : State} (h : SMap.wf cfgReset s.cfg = true) {flr : Bool} {o : Nat}
include h

theorem State.cfgD_cfgAfter (ho : o ≠ 0x78) :
    (s.cfgAfter flr).cfgD o = if cfgKept flr o then s.cfgD o else (cfgReset o).toNat := by
  have hfil : (SMap.get cfgReset (s.cfg.filter fun x => cfgKept flr x.1) o).toNat =
      if cfgKept flr o then s.cfgD o else (cfgReset o).toNat := by
    rw [SMap.get_filter h]; split <;> rfl
  have hwf : SMap.wf cfgReset (s.cfg.filter fun x => cfgKept flr x.1) = true := MapOk.filter (pq := []) h _
  unfold State.cfgAfter
  cases flr with
  | false => exact hfil
  | true => exact (congrArg BitVec.toNat (SMap.get_set_other (lo := none) hwf ho)).trans hfil

end

/-! ### What the PCIe side's resets do -/

/-- A reset that the PCIe side starts: it begins, configuration space resets, D3hot shows, or the link is
down (R670, R674, R684). -/
def State.resetFromHost (s : State) (c : ResetCause) : State :=
  let w := (s.beginReset c).cfgAfter (c == .flr || c == .d3hot)
  match c with
  | .d3hot => { w with cfg := SMap.set cfgReset w.cfg 0x44 3 }
  | .flr => w
  | _ => w.setReg Reg.HI_LINK 0

theorem State.cfgAfter_rest (s : State) (flr : Bool) : s.cfgAfter flr = { s with cfg := (s.cfgAfter flr).cfg } := by
  unfold State.cfgAfter; cases flr <;> rfl

theorem State.resetFromHost_rest (s : State) (c : ResetCause) : s.resetFromHost c =
    { s.beginReset c with cfg := (s.resetFromHost c).cfg, regs := (s.resetFromHost c).regs } := by
  have h := (s.beginReset c).cfgAfter_rest (c == .flr || c == .d3hot)
  unfold State.resetFromHost
  generalize (s.beginReset c).cfgAfter (c == .flr || c == .d3hot) = w at h
  cases c <;> rw [h] <;> rfl

section
variable {s : State} {c : ResetCause}

theorem exec_resetFromHost {i : Instr} (hs : s.Canonical) (hp : s.perst = false)
    (hi : (i = .flr ∧ c = .flr) ∨ (i = .hotReset ∧ c = .hotReset) ∨ (i = .linkDisable ∧ c = .linkDisable) ∨
      (i = .dlDown ∧ c = .dlDown) ∨ (i = .d3hotEntry ∧ c = .d3hot)) :
    exec i s = .next (s.resetFromHost c) := by
  have hperst (c : ResetCause) (flr : Bool) : ((s.beginReset c).cfgAfter flr).perst = false := by
    rw [State.cfgAfter_rest]
    exact (State.beginReset_cfg_perst (State.kept_iff.2 ⟨rfl, hs⟩).regs_ok c).2.trans hp
  have hp' : ¬ s.perst = true := by simp [hp]
  have hdown {t u : State} (h : t = u) (hu : u.perst = false) : t.hostLinkDown = u.setReg Reg.HI_LINK 0 := by
    simp only [h, State.hostLinkDown, hu, Bool.false_eq_true, if_false]
  rcases hi with ⟨rfl, rfl⟩ | ⟨rfl, rfl⟩ | ⟨rfl, rfl⟩ | ⟨rfl, rfl⟩ | ⟨rfl, rfl⟩
  · exact congrArg Host.Outcome.next (if_neg hp')
  · exact congrArg Host.Outcome.next (hdown (if_neg hp') (hperst _ _))
  · exact congrArg Host.Outcome.next (hdown (if_neg hp') (hperst _ _))
  · exact congrArg Host.Outcome.next (hdown (if_neg hp') (hperst _ _))
  · exact congrArg Host.Outcome.next (if_neg hp')

section
variable (hs : s.Canonical)
include hs

theorem State.cfgD_resetFromHost {o : Nat} (h44 : o ≠ 0x44) (h78 : o ≠ 0x78) : (s.resetFromHost c).cfgD o =
    if cfgKept (c == .flr || c == .d3hot) o then s.cfgD o else (cfgReset o).toNat := by
  have hk : (s.beginReset c).Kept s.pending := State.beginReset_kept s c (State.kept_iff.2 ⟨rfl, hs⟩)
  have hcfg := (State.beginReset_cfg_perst (State.kept_iff.2 ⟨rfl, hs⟩).regs_ok c).1
  have hw := State.cfgD_cfgAfter hk.cfg_ok (flr := c == .flr || c == .d3hot) h78
  have hwf := (State.cfgAfter_kept _ (c == .flr || c == .d3hot) hk).cfg_ok
  rw [show (s.beginReset c).cfgD o = s.cfgD o by simp only [State.cfgD, hcfg]] at hw
  rw [← hw]
  unfold State.resetFromHost
  cases c with
  | d3hot => exact congrArg BitVec.toNat (SMap.get_set_other (lo := none) hwf h44)
  | _ => rfl

theorem State.cfgD_resetFromHost_d3hot : (s.resetFromHost .d3hot).cfgD 0x44 = 3 :=
  have hk : (s.beginReset .d3hot).Kept s.pending := State.beginReset_kept s _ (State.kept_iff.2 ⟨rfl, hs⟩)
  congrArg BitVec.toNat (SMap.get_set_same (lo := none) (State.cfgAfter_kept _ true hk).cfg_ok)

/-- R684: of the registers, the link's alone differs from those of the reset that has begun. -/
theorem State.reg_resetFromHost : (∀ o, o ≠ Reg.HI_LINK → (s.resetFromHost c).reg o = (s.beginReset c).reg o) ∧
    (c ≠ .flr → c ≠ .d3hot → (s.resetFromHost c).reg Reg.HI_LINK = 0) := by
  have hk : (s.beginReset c).Kept s.pending := State.beginReset_kept s c (State.kept_iff.2 ⟨rfl, hs⟩)
  have hregs (flr : Bool) : ((s.beginReset c).cfgAfter flr).regs = (s.beginReset c).regs := by
    rw [State.cfgAfter_rest]
  have hwf (flr : Bool) : SMap.wf regReset ((s.beginReset c).cfgAfter flr).regs = true := hregs flr ▸ hk.regs_ok
  have hreg (flr : Bool) (o : Nat) : ((s.beginReset c).cfgAfter flr).reg o = (s.beginReset c).reg o := by
    simp only [State.reg, hregs]
  unfold State.resetFromHost
  cases c with
  | flr => exact ⟨fun o _ => hreg _ o, fun h => absurd rfl h⟩
  | d3hot => exact ⟨fun o _ => hreg _ o, fun _ h => absurd rfl h⟩
  | _ => exact ⟨fun o ho => (State.reg_setReg_other (hwf _) _ ho).trans (hreg _ o),
      fun _ _ => State.reg_setReg_same (hwf _) _ _⟩

end

end

/-! ### The obligation -/

/-- Settles O18: the state that each of the five commands answers is `State.resetFromHost`. -/
theorem pcieResetsStartTheSequence : Obligations.PcieResetsStartTheSequence := by
  unfold Obligations.PcieResetsStartTheSequence
  intro s i c hs hp hi
  have hregs := (State.kept_iff.2 ⟨rfl, hs⟩).regs_ok
  have hrest := s.resetFromHost_rest c
  have hpend : (s.resetFromHost c).resetPend = (s.beginReset c).resetPend := (congrArg State.resetPend hrest :)
  have hheld : (s.resetFromHost c).held = (s.beginReset c).held := (congrArg State.held hrest :)
  have hdram : (s.resetFromHost c).dram = (s.beginReset c).dram := (congrArg State.dram hrest :)
  have hplate : (s.resetFromHost c).plate = (s.beginReset c).plate := (congrArg State.plate hrest :)
  obtain ⟨hreg, hlink⟩ := State.reg_resetFromHost (c := c) hs
  have hcount := hreg Reg.FE_RESET_COUNT (by decide)
  have hnone (flr : Bool) {o : Nat} (ho : cfgKept flr o = true) : o ≠ 0x44 ∧ o ≠ 0x78 := by
    constructor <;> rintro rfl <;> revert ho <;> cases flr <;> decide
  refine ⟨_, exec_resetFromHost hs hp hi, ?_⟩
  dsimp only
  rw [hpend, hheld, hcount]
  refine ⟨s.beginReset_pends c, fun h => ?begins, fun h => ?merges, fun o ho => ?kept, fun o ho h44 h78 => ?reset, ?d3hot,
    hlink, fun hops hcuts a => ?bytes⟩
  case begins =>
    have hb := State.resetBegun hregs h c
    exact ⟨hb.resetPend, hb.held, hb.count⟩
  case merges =>
    obtain ⟨d, hd⟩ := State.beginReset_of_some h c
    rw [hd]; rfl
  case kept =>
    obtain ⟨h44, h78⟩ := hnone _ ho
    rw [State.cfgD_resetFromHost hs h44 h78, if_pos ho]
  case reset => rw [State.cfgD_resetFromHost hs h44 h78, if_neg (by simp [ho])]
  case d3hot => rintro rfl; exact State.cfgD_resetFromHost_d3hot hs
  case bytes =>
    rw [hdram, hplate]
    exact State.Tame.sameBytes_beginReset ⟨hops, hcuts⟩ hregs c a

end Sys2Proof.Machine
end

section
/-! SUPPORT. The response to a fault by a reset (R604), and the stop of a slot (R613, R614). -/

namespace Sys2Proof.Machine

/-! ### Fault records -/

/-- Of `s`, at most what has been sent to the host, or waits to be, has changed. -/
def State.OnlyHost (s t : State) : Prop := t = { s with out := t.out, held := t.held }

theorem State.OnlyHost.emitHost (s : State) (o : Outbound) : s.OnlyHost (s.emitHost o) := by
  unfold State.emitHost; split_ifs <;> rfl

theorem State.OnlyHost.trans {s t u : State} (h : s.OnlyHost t) (h' : t.OnlyHost u) : s.OnlyHost u :=
  Eq.trans h' (congrArg (fun x : State => { x with out := u.out, held := u.held }) h)

/-- Of `s`, a record has been written as FAULT_SEQ `n`: the requests are on their way, or it is lost. -/
structure State.Recorded (s t : State) : Prop where
  rest : t = { s with regs := t.regs, out := t.out, held := t.held, ring := t.ring }
  seq : t.ring.faultSeq = (s.ring.faultSeq + 1) % 2 ^ 32
  regs : SMap.wf regReset s.regs = true →
    SMap.wf regReset t.regs = true ∧ s.SameRegs t [Reg.FE_FAULT_LOST]

theorem State.Recorded.of_ring {s w : State} (hrest : w = { s with regs := w.regs, out := w.out, held := w.held })
    (hregs : SMap.wf regReset s.regs = true →
      SMap.wf regReset w.regs = true ∧ s.SameRegs w [Reg.FE_FAULT_LOST])
    {r : Ring} (hr : r.faultSeq = (s.ring.faultSeq + 1) % 2 ^ 32) : s.Recorded { w with ring := r } :=
  ⟨congrArg (fun x : State => { x with ring := r }) hrest, hr, hregs⟩

theorem State.recorded_writeRecord (s : State) (which : Nat) (f : FaultInfo) (c : RecordCtx) :
    s.Recorded (s.writeRecord which f c) := by
  unfold State.writeRecord
  extract_lets seq base l w
  have hw : w = { s with regs := w.regs, out := w.out, held := w.held } ∧
      (SMap.wf regReset s.regs = true → SMap.wf regReset w.regs = true ∧ s.SameRegs w [Reg.FE_FAULT_LOST]) := by
    unfold w
    split
    · exact ⟨rfl, fun h => ⟨State.wf_bump h _ _, State.sameRegs_setReg h _ (by decide)⟩⟩
    · have hh : s.OnlyHost ((upto 4).foldl (fun s i =>
          s.emitHost (.write (base + 256 * which + 64 * i) false ((l.drop (64 * i)).take 64))) s) :=
        List.foldlRecOn _ _ (motive := s.OnlyHost) rfl fun t h i _ => h.trans (.emitHost t _)
      generalize (upto 4).foldl _ s = t at hh
      have hregs : t.regs = s.regs := (congrArg State.regs (hh : t = _) :)
      exact ⟨by rw [hregs]; exact hh, fun h => ⟨hregs ▸ h, State.sameRegs_of_regs hregs _⟩⟩
  exact .of_ring hw.1 hw.2 rfl

/-! ### A reset as the response -/

theorem State.Tame.of_eq {s t : State} (h : s.Tame) (hops : t.ops = s.ops) (hent : t.entries = s.entries)
    (hslots : t.slots = s.slots) : t.Tame := by
  have hcut (m : Nat) : t.cut? m = s.cut? m := by
    simp only [State.cut?, State.entry?, State.slotOf, State.slot?, hent, hslots]
  exact ⟨fun o ho => h.1 o (hops ▸ ho), fun m k hk => h.2 m k (hcut m ▸ hk)⟩

/-- What `t` holds of `s` once a fault has been recorded and a reset has begun (R604). -/
structure State.ResetByFault (s t : State) : Prop where
  resetPend : t.resetPend = some .fault
  held : t.held = []
  seq : t.ring.faultSeq = (s.ring.faultSeq + 1) % 2 ^ 32
  count : t.reg Reg.FE_RESET_COUNT = (s.reg Reg.FE_RESET_COUNT + 1) % 2 ^ 32
  faults : t.reg Reg.FE_FAULT_COUNT = s.reg Reg.FE_FAULT_COUNT
  bytes : s.Tame → s.SameBytes t

theorem State.resetByFault {s : State} (hs : SMap.wf regReset s.regs = true) (h : s.resetPend = none)
    (f : FaultInfo) (c : RecordCtx) : s.ResetByFault (s.resetResponse f c) := by
  have hrec := s.recorded_writeRecord 512 f c
  unfold State.resetResponse
  generalize s.writeRecord 512 f c = w at hrec
  obtain ⟨hwf, hsame⟩ := hrec.regs hs
  have hb := State.resetBegun hwf ((congrArg State.resetPend hrec.rest :).trans h) .fault
  exact {
    resetPend := hb.resetPend
    held := hb.held
    seq := by rw [hb.ring, hrec.seq]
    count := by rw [hb.count, hsame _ (by decide)]
    faults := (hb.regs _ (by decide) (by decide)).trans (hsame _ (by decide))
    bytes := fun ht a => by
      have hd : w.dram = s.dram := (congrArg State.dram hrec.rest :)
      have hp : w.plate = s.plate := (congrArg State.plate hrec.rest :)
      rw [← hd, ← hp]
      exact hb.bytes (ht.of_eq (congrArg State.ops hrec.rest :) (congrArg State.entries hrec.rest :)
        (congrArg State.slots hrec.rest :)) a }

/-! ### The stop of a slot -/

theorem State.OnlyBytes.forgetLane (s : State) (e : OpEnv) (c : Ctx) (l : Lane) (n ofs : Nat)
    (drs : SMap (Option DReg)) : s.OnlyBytes (s.forgetLane e c l n ofs drs) := by
  fun_induction State.forgetLane s e c l n ofs drs with
  | case1 => exact .refl _
  | case2 => exact .refl _
  | case3 => exact .refl _
  | case4 => assumption
  | case5 => exact (forget _ _ _ _ _ _ _).trans (by assumption)

theorem State.OnlyBytes.forgetFrom (s : State) (v : View) (e : OpEnv) (l : Lane) :
    s.OnlyBytes (s.forgetFrom v e l) :=
  (foldl (fun s r => forget s e.node r.word 0 r.uda r.drs none) l.ahead s).trans (forgetLane _ _ _ _ _ _ _)

/-- R614: what a stopped slot had not issued reaches nothing but bytes and tiles. -/
theorem State.OnlyBytes.forgetRest (s : State) (v : View) (x : ExecSlot) : s.OnlyBytes (s.forgetRest v x) := by
  unfold State.forgetRest
  split
  · exact refl s
  · split
    · exact refl s
    · exact (foldl (fun s l => forgetFrom s _ _ _) _ s).trans
        (foldl (fun s b => foldl (fun s n => forgetFrom s _ _ _) _ s) _ _)

/-- A slot that is stopped, for `why` (R613). -/
def ExecSlot.stoppedFor (x : ExecSlot) (why : StopWhy) : ExecSlot :=
  { x with
    stop := some why
    lanes := x.lanes.map fun (l : Nat × Lane) => (l.1, { l.2 with block := none, piece := none, ahead := [] }) }

theorem State.stopSlot_stops {s : State} {n : Nat} {x : ExecSlot} (hs : SMap.wf State.slotD s.slots = true)
    (hx : s.slot? n = some x) (hstop : x.stop = none) (v : View) (why : StopWhy) :
    (s.stopSlot v n why).slot? n = some (x.stoppedFor why) ∧ (s.stopSlot v n why).faults = s.faults ∧
      ∀ o ∈ (s.stopSlot v n why).ops, o.slot ≠ n := by
  simp -zeta only [State.stopSlot, hx, hstop, Option.isSome_none, Bool.false_eq_true, if_false]
  extract_lets mine t u
  have hu : s.OnlyBytes u := (State.OnlyBytes.foldl State.OnlyBytes.abandon mine s).trans (.forgetRest _ v x)
  refine ⟨SMap.get_set_same (lo := none) (hu.slots ▸ hs), hu.faults, fun o ho => ?_⟩
  simpa using (List.mem_filter.1 ho).2

end Sys2Proof.Machine
end

section
/-! SUPPORT. What signals and activation leave to the queues: no entry comes or goes, no stream changes, and
no notice is taken back. -/

namespace Sys2Proof.Machine

/-- From `s` to `t` the queues hold the same entries, the streams stand, and every notice of `s` stands. -/
structure State.NoneEnds (s t : State) : Prop where
  streams : t.streams = s.streams
  past : t.past = s.past
  idxs : t.entries.map (·.idx) = s.entries.map (·.idx)
  notices : SMap.wf regReset s.regs = true → SMap.wf regReset t.regs = true ∧
    ∀ n, bitOf (s.reg Reg.HI_NOTICE_STATUS) n = true → bitOf (t.reg Reg.HI_NOTICE_STATUS) n = true

namespace State.NoneEnds
variable {s t : State}

theorem refl (s : State) : s.NoneEnds s := ⟨rfl, rfl, rfl, fun h => ⟨h, fun _ hn => hn⟩⟩

/-- A step that leaves these four fields. -/
theorem same (h : s.NoneEnds t) {u : State} (hst : u.streams = t.streams) (hp : u.past = t.past)
    (he : u.entries = t.entries) (hr : u.regs = t.regs) : s.NoneEnds u where
  streams := hst.trans h.streams
  past := hp.trans h.past
  idxs := by rw [he, h.idxs]
  notices := by simpa only [State.reg, hr] using h.notices

theorem foldl {β : Type} {f : State → β → State} (hf : ∀ t x, s.NoneEnds t → s.NoneEnds (f t x))
    (h : s.NoneEnds t) (l : List β) : s.NoneEnds (l.foldl f t) :=
  List.foldlRecOn l f h fun t ht x _ => hf t x ht

/-! ### Registers -/

theorem setReg (h : s.NoneEnds t) {o : Nat} (v : Nat) (ho : Reg.HI_NOTICE_STATUS ≠ o) :
    s.NoneEnds (t.setReg o v) where
  streams := h.streams
  past := h.past
  idxs := h.idxs
  notices hs := by
    obtain ⟨hw, hn⟩ := h.notices hs
    exact ⟨State.wf_setReg hw o v, State.reg_setReg_other hw v ho ▸ hn⟩

theorem bump (h : s.NoneEnds t) {o : Nat} (n : Nat) (ho : Reg.HI_NOTICE_STATUS ≠ o) :
    s.NoneEnds (t.bump o n) := h.setReg _ ho

theorem setReg64 (h : s.NoneEnds t) {o : Nat} (v : Nat) (ho : Reg.HI_NOTICE_STATUS ≠ o)
    (ho' : Reg.HI_NOTICE_STATUS ≠ o + 4) : s.NoneEnds (t.setReg64 o v) := (h.setReg _ ho).setReg _ ho'

theorem requestMsix (h : s.NoneEnds t) (n : Nat) : s.NoneEnds (t.requestMsix n) := by
  unfold State.requestMsix; split_ifs <;> exact h.same rfl rfl rfl rfl

end State.NoneEnds

/-- R665: a notice sets its own bit, and takes none back. -/
theorem State.bitOf_setReg_notice {s : State} (hs : SMap.wf regReset s.regs = true) {n : Nat} (hn : n < 32)
    (i : Nat) : bitOf ((s.setReg Reg.HI_NOTICE_STATUS (s.reg Reg.HI_NOTICE_STATUS ||| 2 ^ n)).reg
      Reg.HI_NOTICE_STATUS) i = (bitOf (s.reg Reg.HI_NOTICE_STATUS) i || decide (i = n)) := by
  have hlt : s.reg Reg.HI_NOTICE_STATUS < 2 ^ 32 := by unfold State.reg; exact BitVec.isLt _
  rw [State.reg_setReg_same hs, Nat.mod_eq_of_lt (Nat.or_lt_two_pow hlt (Nat.pow_lt_pow_right (by decide) hn))]
  simp only [bitOf, Nat.testBit_or, Nat.testBit_two_pow, eq_comm]

namespace State.NoneEnds
variable {s t : State}

theorem notice (h : s.NoneEnds t) {n : Nat} (hn : n < 32) : s.NoneEnds (t.notice n) := by
  have hset : s.NoneEnds (t.setReg Reg.HI_NOTICE_STATUS (t.reg Reg.HI_NOTICE_STATUS ||| 2 ^ n)) :=
    { streams := h.streams
      past := h.past
      idxs := h.idxs
      notices := fun hs => by
        obtain ⟨hw, hb⟩ := h.notices hs
        exact ⟨State.wf_setReg hw _ _, fun i hi => by rw [State.bitOf_setReg_notice hw hn, hb i hi]; rfl⟩ }
  unfold State.notice
  extract_lets was w
  split
  · exact hset.requestMsix _
  · exact hset

end State.NoneEnds

/-- R665. -/
theorem State.bitOf_notice {s : State} (hs : SMap.wf regReset s.regs = true) {n : Nat} (hn : n < 32) :
    bitOf ((s.notice n).reg Reg.HI_NOTICE_STATUS) n = true := by
  unfold State.notice
  extract_lets was w
  have hset : bitOf (w.reg Reg.HI_NOTICE_STATUS) n = true := by
    rw [State.bitOf_setReg_notice hs hn, decide_eq_true rfl, Bool.or_true]
  split
  · rwa [State.reg, State.requestMsix_regs]
  · exact hset

namespace State.NoneEnds
variable {s t : State}

/-! ### Local memory -/

theorem memErr (h : s.NoneEnds t) (u : Nat) (ue byScrub : Bool) (bit : Nat) :
    s.NoneEnds (t.memErr u ue byScrub bit) := by
  unfold State.memErr
  extract_lets cnt t1 st hadCe hadUe capture t2 rose t3
  have h1 : s.NoneEnds t1 := h.bump 1 (by unfold cnt; split <;> decide)
  have h2 : s.NoneEnds t2 := by
    unfold t2
    split
    · exact (h1.setReg64 _ (by decide) (by decide)).setReg _ (by decide)
    · exact h1.setReg _ (by decide)
  have h3 : s.NoneEnds t3 := h2.setReg _ (by decide)
  split
  · exact h3.notice (by decide)
  · exact h3

theorem eccRead (h : s.NoneEnds t) (l : List (Nat × EccErr)) : s.NoneEnds (t.eccRead l).1 := by
  induction l generalizing t with
  | nil => exact h
  | cons x l ih =>
    obtain ⟨w, e⟩ := x
    cases e with
    | none => exact ih h
    | ce b =>
      refine ih ?_
      unfold State.queueCorr
      split
      · exact h.memErr _ _ _ _
      · exact (h.memErr _ _ _ _).same rfl rfl rfl rfl
    | ue b => exact ih (h.memErr _ _ _ _)

theorem eccWrite (h : s.NoneEnds t) (u len : Nat) (l : List (Nat × EccErr)) :
    s.NoneEnds (t.eccWrite u len l).1 := by
  fun_induction State.eccWrite t u len l with
  | case1 => exact h
  | case2 _ _ _ _ _ ih => exact ih (h.same rfl rfl rfl rfl)
  | case3 _ _ _ _ ih => exact ih h
  | case4 _ _ _ _ _ ih => exact ih ((h.memErr _ _ _ _).same rfl rfl rfl rfl)
  | case5 _ _ _ _ _ _ ih => exact ih (h.memErr _ _ _ _)

theorem rawWrite (h : s.NoneEnds t) (u : Nat) (l : List Byte) : s.NoneEnds (t.rawWrite u l) := by
  unfold State.rawWrite; split <;> exact h.same rfl rfl rfl rfl

theorem readLocal (h : s.NoneEnds t) {u len : Nat} {w : State} {l : Option (List Byte)}
    (hl : t.readLocal u len = (w, l)) : s.NoneEnds w := by
  have hw : (t.readLocal u len).1 = w := congrArg Prod.fst hl
  exact hw ▸ h.eccRead _

theorem writeLocal (h : s.NoneEnds t) (u : Nat) (l : List Byte) : s.NoneEnds (t.writeLocal u l).1 := by
  unfold State.writeLocal
  extract_lets r
  have hr : s.NoneEnds r.1 := h.eccWrite _ _ _
  split <;> exact hr.rawWrite _ _

/-! ### Requests to the host and to other devices -/

theorem emitHost (h : s.NoneEnds t) (o : Outbound) : s.NoneEnds (t.emitHost o) := by
  unfold State.emitHost; split_ifs <;> exact h.same rfl rfl rfl rfl

theorem rmtSend (h : s.NoneEnds t) (use : RmtUse) (k : RmtKind) (u len : Nat) (l : List Byte) (p : Bool) :
    s.NoneEnds (t.rmtSend use k u len l p) := by
  unfold State.rmtSend
  refine foldl (fun w c hw => ?_) h _
  exact hw.same rfl rfl rfl rfl

theorem rmtFail (h : s.NoneEnds t) (u c : Nat) : s.NoneEnds (t.rmtFail u c) :=
  ((h.bump _ (by decide)).setReg64 _ (by decide) (by decide)).setReg _ (by decide)

theorem ownWrite (h : s.NoneEnds t) (u : Nat) (l : List Byte) : s.NoneEnds (t.ownWrite u l).1 := by
  unfold State.ownWrite
  split
  · exact h.emitHost _
  · split
    · exact h.writeLocal u l
    · exact h
  · split
    · exact h.writeLocal u l
    · exact h
  · split
    · exact h
    · split
      · exact h.rmtFail _ _
      · exact h.rmtSend _ _ _ _ _ _
  · exact h
  · exact h

/-! ### Records and signals -/

theorem writeRecord (h : s.NoneEnds t) (n : Nat) (f : FaultInfo) (c : RecordCtx) :
    s.NoneEnds (t.writeRecord n f c) := by
  have hr := t.recorded_writeRecord n f c
  exact {
    streams := (congrArg State.streams hr.rest :).trans h.streams
    past := (congrArg State.past hr.rest :).trans h.past
    idxs := (congrArg (fun u : State => u.entries.map (·.idx)) hr.rest :).trans h.idxs
    notices := fun hs => by
      obtain ⟨hw, hn⟩ := h.notices hs
      obtain ⟨hw', hsame⟩ := hr.regs hw
      exact ⟨hw', hsame Reg.HI_NOTICE_STATUS (by decide) ▸ hn⟩ }

theorem writeDump (h : s.NoneEnds t) (st : Nat) (l : List Byte) : s.NoneEnds (t.writeDump st l) := by
  unfold State.writeDump
  split
  · exact h
  · exact h.ownWrite _ _

theorem recordOnly (h : s.NoneEnds t) (n st i : Nat) (f : FaultInfo) : s.NoneEnds (t.recordOnly n st i f) := by
  unfold State.recordOnly
  extract_lets d w
  have hw : s.NoneEnds w := by
    unfold w
    split
    · exact h.writeDump _ _
    · exact h
  exact hw.writeRecord _ _ _

theorem signalFailed (h : s.NoneEnds t) (use : RmtUse) (c : FaultCode) (u : Nat) :
    s.NoneEnds (t.signalFailed use c u) := by
  unfold State.signalFailed
  split
  · exact (h.bump 1 (by decide)).recordOnly _ _ _ _
  · exact h

theorem signalLost (h : s.NoneEnds t) (use : RmtUse) (u : Nat) : s.NoneEnds (t.signalLost use u) := by
  unfold State.signalLost
  have hf := h.rmtFail u 4
  split
  · exact ((hf.bump 1 (by decide)).bump 1 (by decide)).recordOnly _ _ _ _
  · exact hf

theorem signal (h : s.NoneEnds t) (use : RmtUse) (p : Bool) (g : SigRec) :
    s.NoneEnds (t.signal use p g) := by
  have hlocal : s.NoneEnds (if t.addrOk true g.addr 8 = false then t.signalFailed use .addrInvalid g.addr
      else if g.max then
        match t.readLocal g.addr 8 with
        | (s, none) => s.signalFailed use .eccUncorr g.addr
        | (s, some l) => (s.writeLocal g.addr (leBytes 8 (pennantAfter (ofLeBytes l) g p))).1
      else (t.writeLocal g.addr (leBytes 8 (pennantAfter 0 g p))).1) := by
    split
    · exact h.signalFailed _ _ _
    · split
      · split
        case h_1 _ hm => exact (h.readLocal hm).signalFailed _ _ _
        case h_2 _ _ hm => exact (h.readLocal hm).writeLocal _ _
      · exact h.writeLocal _ _
  unfold State.signal
  split
  · exact h.emitHost _
  · split
    · exact h.signalLost _ _
    · exact h.rmtSend _ _ _ _ _ _
  · exact hlocal
  · exact hlocal
  · exact h
  · exact h

theorem signals (h : s.NoneEnds t) (use : RmtUse) (p : Bool) (l : List SigRec) :
    s.NoneEnds (t.signals use p l) := foldl (fun _ g h => h.signal use p g) h l

theorem signalWrite (h : s.NoneEnds t) (u v : Nat) : s.NoneEnds (t.signalWrite u v) := by
  unfold State.signalWrite
  split
  · exact h
  · exact h.signal _ _ _

theorem firePend (h : s.NoneEnds t) (p : SigWhen → Bool) : s.NoneEnds (t.firePend p) := by
  unfold State.firePend
  refine foldl (fun w x hw => ?_) ?_ _
  · exact hw.signals _ _ _
  · exact h.same rfl rfl rfl rfl

theorem freeVersions (h : s.NoneEnds t) (id : Nat) : s.NoneEnds (t.freeVersions id) := by
  unfold State.freeVersions
  extract_lets c keep gone d w w'
  have hc : s.NoneEnds w := h.same rfl rfl rfl rfl
  have hw : s.NoneEnds w' := foldl (fun w _ hw => hw.signalWrite _ _) hc _
  split
  · exact h
  · split
    · exact hw.signals _ _ _
    · exact hw

/-! ### Faults and what stands at the head of a queue -/

theorem setEntry (h : s.NoneEnds t) (e : Entry) : s.NoneEnds (t.setEntry e) where
  streams := h.streams
  past := h.past
  idxs := by
    rw [← h.idxs, State.setEntry, List.map_map]
    exact List.map_congr_left fun x _ => by simp only [Function.comp]; split <;> simp [*]
  notices := h.notices

theorem raise (h : s.NoneEnds t) (i : Nat) (f : FaultInfo) : s.NoneEnds (t.raise i f) :=
  (h.bump 1 (by decide)).same rfl rfl rfl rfl

theorem faultAt (h : s.NoneEnds t) (n node ofs : Nat) (c : FaultCode) (u : Nat) :
    s.NoneEnds (t.faultAt n node ofs c u) := by
  unfold State.faultAt State.faultOp
  split
  · exact h
  · split
    · exact h
    · exact h.raise _ _

theorem setSlot (h : s.NoneEnds t) (n : Nat) (x : Option ExecSlot) : s.NoneEnds (t.setSlot n x) :=
  h.same rfl rfl rfl rfl

theorem freeToks (h : s.NoneEnds t) (n : Nat) : s.NoneEnds (t.freeToks n) := h.same rfl rfl rfl rfl

theorem setProg (h : s.NoneEnds t) (n : Nat) (p : Prog) : s.NoneEnds (t.setProg n p) :=
  h.same rfl rfl rfl rfl

theorem headerPost (h : s.NoneEnds t) (n node ofs w rep : Nat) :
    s.NoneEnds (t.headerPost n node ofs w rep) := by
  unfold State.headerPost
  split
  · exact h.same rfl rfl rfl rfl
  · exact h

theorem laneDone (h : s.NoneEnds t) (n node : Nat) : s.NoneEnds (t.laneDone n node) := by
  unfold State.laneDone
  split
  · exact h
  · split
    · exact h
    · exact ((h.setSlot _ _).setProg _ _).headerPost _ _ _ _ _

theorem observe (h : s.NoneEnds t) (u x : Nat) (p : Bool → Bool) : s.NoneEnds (t.observe u x p) := by
  refine foldl (fun w y hw => ?_) (foldl (fun w e hw => ?_) h _) _
  · unfold State.observeLane
    split
    · split
      · split
        · exact hw.faultAt _ _ _ _ _
        · exact hw.laneDone _ _
      · exact hw
    · exact hw
  · unfold State.observeEntry
    split
    · extract_lets v
      split
      · exact (hw.setEntry _).raise _ _
      · exact hw.setEntry _
    · exact hw

theorem waitFault (h : s.NoneEnds t) (u : Nat) (p : Bool → Bool) (c : FaultCode) :
    s.NoneEnds (t.waitFault u p c) := by
  refine foldl (fun w y hw => ?_) (foldl (fun w e hw => ?_) h _) _
  · split
    · exact hw.faultAt _ _ _ _ _
    · exact hw
  · split
    · exact hw.raise _ _
    · exact hw

theorem readPennant (h : s.NoneEnds t) (u : Nat) (p : Bool → Bool) : s.NoneEnds (t.readPennant u p) := by
  unfold State.readPennant
  split
  · exact h.waitFault _ _ _
  · split
    case h_1 _ _ hm => exact (h.readLocal hm).observe _ _ _
    case h_2 _ hm => exact (h.readLocal hm).waitFault _ _ _

theorem askPennant (h : s.NoneEnds t) (u : Nat) (poll : Bool) : s.NoneEnds (t.askPennant u poll) := by
  unfold State.askPennant
  split
  · exact h.readPennant _ _
  · exact h.readPennant _ _
  · split
    · exact h
    · exact (h.emitHost _).same rfl rfl rfl rfl
  · split
    · exact h
    · split
      · exact foldl (fun _ _ h => h.faultAt _ _ _ _ _) (h.rmtFail _ _) _
      · exact h.rmtSend _ _ _ _ _ _
  · exact h
  · exact h

theorem takeWatch (h : s.NoneEnds t) (u : Nat) : s.NoneEnds (t.takeWatch u).1 := by
  unfold State.takeWatch
  split
  · split
    · exact h
    · exact h.bump 1 (by decide)
  · exact h

theorem activate (h : s.NoneEnds t) (e : Entry) : s.NoneEnds (t.activate e) := by
  unfold State.activate
  extract_lets now w w'
  have hw : s.NoneEnds w := h.setEntry _
  have hw' : s.NoneEnds w' := foldl (fun v i hv => by
    split
    · exact hv
    · split
      · exact hv
      · split
        · exact hv
        · exact (hv.takeWatch _).setEntry _) hw _
  split
  · exact hw.raise _ _
  · split
    · exact hw.raise _ _
    · exact foldl (fun v y hv => by
        split
        · exact hv
        · exact hv.askPennant _ _) hw' _

theorem heads (h : s.NoneEnds t) : s.NoneEnds t.heads :=
  foldl (fun w e hw => by
    split
    · split
      · exact hw.activate _
      · exact hw
    · exact hw) h _

/-- R519: a stream that no RE_STREAM_DESTROY waits for stays. -/
theorem afterEntry (h : s.NoneEnds t) {st : Nat} (hd : (t.stream st).destroy = none) :
    s.NoneEnds (t.afterEntry st) := by
  have hc : s.NoneEnds t.checkPend := h.firePend _
  have hst : t.checkPend.streams = t.streams := ((refl t).firePend _).streams
  have hd' : (t.checkPend.stream st).destroy = none := by rwa [State.stream, hst]
  have hid : t.checkPend.checkDestroy st = t.checkPend := by simp only [State.checkDestroy, hd']
  unfold State.afterEntry
  exact (hid.symm ▸ hc).heads

end State.NoneEnds

/-! ### The end of an entry -/

/-- Entry `e` is in no queue of `s`, which remembers how it ended. -/
structure State.Gone (s : State) (e : Entry) (committed : Bool) : Prop where
  idxs : e.idx ∉ s.entries.map (·.idx)
  past : SMap.get State.pastD s.past e.idx = some (e.stream, committed)

theorem State.NoneEnds.gone {s t : State} {e : Entry} {c : Bool} (h : s.NoneEnds t) (hg : s.Gone e c) :
    t.Gone e c := ⟨h.idxs ▸ hg.idxs, h.past ▸ hg.past⟩

theorem State.NoneEnds.uncut {s t : State} (h : s.NoneEnds t) (i : Nat) : s.NoneEnds (t.uncut i) := by
  refine State.NoneEnds.foldl (fun w n hw => ?_) h _
  split
  · split
    · exact hw.setSlot _ _
    · exact hw
  · exact hw

theorem State.gone_dropEntry {s : State} (hs : SMap.wf State.pastD s.past = true) (e : Entry) (c : Bool) :
    (s.dropEntry e c).Gone e c ∧ (s.dropEntry e c).streams = s.streams := by
  unfold State.dropEntry
  extract_lets v w ring x
  have hv : s.NoneEnds v := by
    unfold v
    split
    next n _ =>
      have hfree : s.NoneEnds ((s.setSlot n none).freeToks n) := ((State.NoneEnds.refl s).setSlot _ _).freeToks _
      exact hfree.same rfl rfl rfl rfl
    next => exact .refl s
  have hw : s.NoneEnds w := hv.uncut e.idx
  have hpast : SMap.wf State.pastD w.past = true := by rw [hw.past]; exact hs
  clear_value w
  have hx : x.Gone e c ∧ x.streams = s.streams := by
    refine ⟨⟨?_, ?_⟩, hw.streams⟩
    · simp only [x, List.map_map, List.mem_map, not_exists, not_and]
      intro y hy
      have hne : y.idx ≠ e.idx := by simpa using (List.mem_filter.1 hy).2
      simp only [Function.comp]
      split
      · split <;> exact hne
      · exact hne
    · exact SMap.get_set_same (lo := none) hpast
  clear_value x
  cases e.kind
  case launch l =>
    have hf := (State.NoneEnds.refl x).freeVersions l.chart
    exact ⟨hf.gone hx.1, hf.streams.trans hx.2⟩
  all_goals exact hx

theorem State.gone_endAborted {s : State} (hs : SMap.wf State.pastD s.past = true) (e : Entry) (silent : Bool) :
    (s.endAborted e silent).Gone e false ∧ (s.endAborted e silent).streams = s.streams := by
  unfold State.endAborted
  extract_lets w
  have hw : s.NoneEnds w := by
    unfold w
    split
    · exact .refl s
    · exact (State.NoneEnds.refl s).signals _ _ _
  obtain ⟨hg, hst⟩ := State.gone_dropEntry (s := w) (hw.past ▸ hs) e false
  exact ⟨hg, hst.trans hw.streams⟩

/-- R602, R604: a contained fault ends its entry, isolates its stream and raises the fault notice. -/
theorem State.contain_ends {s : State} (hs : s.Canonical) (e : Entry) (f : FaultInfo) (eng : List Nat) (age : Nat)
    (dump : List Byte) (hd : (s.stream e.stream).destroy = none) :
    (s.contain e f eng age dump).Gone e false ∧
      ((s.contain e f eng age dump).stream e.stream).isolated = true ∧
      bitOf ((s.contain e f eng age dump).reg Reg.HI_NOTICE_STATUS) 0 = true := by
  unfold State.contain
  extract_lets d v w u old x
  have hk : s.Kept s.pending := State.kept_iff.2 ⟨rfl, hs⟩
  have hv : s.NoneEnds v ∧ v.Kept s.pending := by
    unfold v
    split
    · exact ⟨(State.NoneEnds.refl s).writeDump _ _, State.writeDump_kept _ _ _ hk⟩
    · exact ⟨.refl s, hk⟩
  have hw : s.NoneEnds w := hv.1.writeRecord _ _ _
  have hku : u.Kept s.pending := State.endAborted_kept _ _ _ (State.writeRecord_kept _ _ _ _ hv.2)
  obtain ⟨hg, hst⟩ := State.gone_endAborted (s := w) (hw.past ▸ hk.past_ok) e false
  have hold : old = s.stream e.stream := by simp only [old, u, State.stream, hst, hw.streams]
  have hiso : x.stream e.stream = { old with isolated := true } :=
    State.stream_setStream_same hku.streams_ok _ _
  have hx : x.NoneEnds (x.notice 0) := (State.NoneEnds.refl x).notice (by decide)
  have hstr : (x.notice 0).stream e.stream = x.stream e.stream := by simp [State.stream]
  have hreg : SMap.wf regReset x.regs = true := hku.regs_ok
  have ht : (x.notice 0).NoneEnds ((x.notice 0).afterEntry e.stream) :=
    (State.NoneEnds.refl _).afterEntry (by rw [hstr, hiso]; exact hold ▸ hd)
  refine ⟨ht.gone (hx.gone ⟨hg.idxs, hg.past⟩), ?_, ?_⟩
  · rw [State.stream, ht.streams, ← State.stream, hstr, hiso]
  · exact (ht.notices (hx.notices hreg).1).2 0 (State.bitOf_notice hreg (by decide))

end Sys2Proof.Machine
end

section
/-! Stream faults and cuts (O45). -/

namespace Sys2Proof.Machine

/-- A running device has no reset in progress. -/
theorem State.resetPend_of_running {s : State} (h : s.running = true) : s.resetPend = none := by
  simp only [State.running, Bool.and_eq_true, Option.isNone_iff_eq_none] at h
  exact h.2

/-! ### Stream faults -/

section
variable {s : State} {v : View} {idx : Nat} {f : FaultInfo} {rest : List (Nat × FaultInfo)} {e : Entry}

/-- R604: a response of Reset records the fault and begins the reset. -/
theorem streamFault_reset (hs : s.Canonical) (hr : s.running = true) (hf : s.faults = (idx, f) :: rest)
    (he : s.entry? idx = some e) (hreset : f.reset = true) : Does (.streamFault v) s fun t =>
      t.resetPend = some .fault ∧ t.held = [] ∧ t.ring.faultSeq = (s.ring.faultSeq + 1) % 2 ^ 32 ∧
      t.reg Reg.FE_RESET_COUNT = (s.reg Reg.FE_RESET_COUNT + 1) % 2 ^ 32 ∧ (s.Tame → s.SameBytes t) := by
  have hb := State.resetByFault (s := s.dropFault idx) (State.kept_iff.2 ⟨rfl, hs⟩).regs_ok
    (State.resetPend_of_running hr) f (s.entryCtx e 3 0 [] 0)
  exact ⟨_, by simp only [exec, execStreamFault, hf, hr, he, hreset, Bool.true_eq_false, if_false, if_true],
    hb.resetPend, hb.held, hb.seq, hb.count, fun ht => hb.bytes (ht.of_eq rfl rfl rfl)⟩

/-- R602: an entry that holds no slot ends at once. -/
theorem streamFault_atOnce (hr : s.running = true) (hf : s.faults = (idx, f) :: rest)
    (he : s.entry? idx = some e) (hreset : f.reset = false) (hn : s.slotOf idx = none) :
    exec (.streamFault v) s = .next ((s.dropFault idx).contain e f [] (s.entryWaitAge e)
      (s.dumpBytes e f.lane)) := by
  simp only [exec, execStreamFault, hf, hr, he, hreset, hn, Bool.true_eq_false, Bool.false_eq_true, if_false]

/-- R613: an entry that holds a slot stops there. -/
theorem streamFault_stops (hs : s.Canonical) (hr : s.running = true) (hf : s.faults = (idx, f) :: rest)
    (he : s.entry? idx = some e) (hreset : f.reset = false) {n : Nat} {x : ExecSlot}
    (hn : s.slotOf idx = some n) (hx : s.slot? n = some x) (hstop : x.stop = none) :
    Does (.streamFault v) s fun t =>
      (∀ o ∈ t.ops, o.slot ≠ n) ∧ t.faults = s.faults.filter (fun y => y.1 != idx) ∧
      ∃ y why, t.slot? n = some y ∧ y.stop = some why ∧ y.entry = x.entry ∧ ∀ l ∈ y.lanes, l.2.block = none := by
  let why : StopWhy :=
    .fault f ((upto 8).map fun cl => s.engineSummary x e.buf cl) (s.slotWaitAge x) (s.dumpBytes e f.lane)
  obtain ⟨hslot, hfaults, hops⟩ := State.stopSlot_stops (s := s.dropFault idx)
    (State.kept_iff.2 ⟨rfl, hs⟩).slots_ok hx hstop v why
  refine ⟨(s.dropFault idx).stopSlot v n why, ?_, hops, hfaults, x.stoppedFor why, why, hslot, rfl, rfl, ?_⟩
  · simp only [exec, execStreamFault, hf, hr, he, hreset, hn, hx, Bool.true_eq_false, Bool.false_eq_true,
      if_false]
    rfl
  · intro l hl
    obtain ⟨y, -, rfl⟩ := List.mem_map.1 hl
    rfl

end

section
variable {s : State} {st : Fin 512} {n : Nat} {x : ExecSlot} {e : Entry}

/-- R613, R615: what a stopped slot comes to once it is quiet. -/
theorem entryQuiesced_ends (hr : s.running = true) (hn : s.slotOfStream st = some (n, x))
    (he : s.entry? x.entry = some e) (hq : s.quiet n = true) :
    (x.stop = some .abort → exec (.entryQuiesced st) s = .next ((s.endAborted e false).afterEntry e.stream)) ∧
      ∀ f eng age dump, x.stop = some (.fault f eng age dump) →
        exec (.entryQuiesced st) s = .next (s.contain e f eng age dump) := by
  have hgo : ¬ (s.running = false ∨ s.quiet n = false) := by simp [hr, hq]
  constructor
  · intro hx
    simp only [exec, execEntryQuiesced, hn, hx, he, if_neg hgo]
  · intro f eng age dump hx
    simp only [exec, execEntryQuiesced, hn, hx, he, if_neg hgo]

end

/-- R600, R604: an internal fault is counted, recorded and answered by a reset. -/
theorem deviceInternalFault_resets {s : State} (hs : s.Canonical) (hr : s.running = true) :
    Does .deviceInternalFault s fun t =>
      t.resetPend = some .fault ∧ t.held = [] ∧
      t.reg Reg.FE_FAULT_COUNT = (s.reg Reg.FE_FAULT_COUNT + 1) % 2 ^ 32 ∧
      t.reg Reg.FE_RESET_COUNT = (s.reg Reg.FE_RESET_COUNT + 1) % 2 ^ 32 ∧
      t.ring.faultSeq = (s.ring.faultSeq + 1) % 2 ^ 32 ∧ (s.Tame → s.SameBytes t) := by
  have hreg : SMap.wf regReset s.regs = true := (State.kept_iff.2 ⟨rfl, hs⟩).regs_ok
  have hpend := State.resetPend_of_running hr
  have hb := State.resetByFault (s := s.bump Reg.FE_FAULT_COUNT 1) (State.wf_bump hreg _ _) hpend (s.plainFault .deviceInternal 0) (plainCtx 3 0 0xFFFF)
  refine ⟨_, by simp only [exec, execDeviceInternalFault, hr, if_true], hb.resetPend, hb.held, ?_, ?_, hb.seq,
    fun ht => hb.bytes (ht.of_eq rfl rfl rfl)⟩
  · rw [hb.faults, State.bump, State.reg_setReg_same hreg]
    simp
  · rw [hb.count, State.bump, State.reg_setReg_other hreg _ (by decide)]

/-! ### Cuts -/

/-- R622: the SAVE of a cut stands in its queue. -/
theorem State.save_mem_of_cut {s : State} {st : Nat} {c : Cut} (h : s.cut? st = some c) : c.save ∈ s.entries := by
  obtain ⟨v, hv, hc⟩ := List.exists_of_findSome?_eq_some h
  split at hc
  · split at hc
    · split at hc
      · split at hc
        · cases hc
          exact hv
        · cases hc
      · cases hc
    · cases hc
  · cases hc

section
variable {s : State} {st : Fin 512} {c : Cut} {cp lanes : Nat} {more : List (Nat × Nat)}

/-- R623: CHECKPOINTs that differ. -/
theorem cutTaken_mismatch (hr : s.running = true) (hc : s.cut? st = some c) (hh : s.slotHalted c.x = false)
    (hcut : c.x.cutting = none) (hst : c.x.stopped = (cp, lanes) :: more) (hne : ∃ y ∈ more, y ≠ (cp, lanes)) :
    Does (.cutTaken st) s fun t => t = s.raise c.e.idx (s.plainFault .cutMismatch 0) := by
  have hany : more.any (fun y => y != (cp, lanes)) = true := by simpa using hne
  exact ⟨_, by simp [exec, execCutTaken, hc, hr, hh, hcut, hst, hany], rfl⟩

/-- R622, R624: the image and the state area are written, and the cut waits for its writes. -/
theorem cutTaken_writes (hr : s.running = true) (hc : s.cut? st = some c) (hh : s.slotHalted c.x = false)
    (hcut : c.x.cutting = none) (hst : c.x.stopped = (cp, lanes) :: more) (heq : ∀ y ∈ more, y = (cp, lanes))
    (hready : s.cutReady c lanes = true) {w : State} {l : List Byte}
    (hl : s.stateArea c.x c.e c.b (bitOf c.cflags 2) = (w, some l)) :
    exec (.cutTaken st) s = .next (((w.ownWrite c.image
      (w.cutImage c.slot c.e c.b c.save.stream c.area c.cflags cp lanes c.gen l)).1.ownWrite c.area
        l).1.setSlot c.slot (some { c.x with cutting := some c.save.idx })) := by
  have hany : more.any (fun y => y != (cp, lanes)) = false := by simpa using heq
  simp [exec, execCutTaken, hc, hr, hh, hcut, hst, hany, hready, hl]

end

theorem State.headerPost_slots (s : State) (n node ofs w rep : Nat) :
    (s.headerPost n node ofs w rep).slots = s.slots := by
  unfold State.headerPost; split <;> rfl

theorem State.headerPost_entries (s : State) (n node ofs w rep : Nat) :
    (s.headerPost n node ofs w rep).entries = s.entries := by
  unfold State.headerPost; split <;> rfl

/-- In `s` slot `n` runs `i`, and no cut of it is being written. -/
structure State.Uncut (s : State) (n i : Nat) : Prop where
  wf : SMap.wf State.slotD s.slots = true
  slot : ∃ y, s.slot? n = some y ∧ y.cutting = none ∧ y.entry = i

theorem State.Uncut.laneDone {s : State} {n i : Nat} (h : s.Uncut n i) (node : Nat) :
    (s.laneDone n node).Uncut n i := by
  obtain ⟨hwf, y, hy, hcut, hi⟩ := h
  unfold State.laneDone
  simp -zeta only [hy]
  split
  · exact ⟨hwf, y, hy, hcut, hi⟩
  · extract_lets w
    have hw : w.Uncut n i := ⟨SMap.wf_set hwf, _, SMap.get_set_same (lo := none) hwf, hcut, hi⟩
    constructor
    · rw [State.headerPost_slots]
      exact hw.wf
    · rw [State.slot?, State.headerPost_slots]
      exact hw.slot

theorem State.laneDone_entries (s : State) (n node : Nat) : (s.laneDone n node).entries = s.entries := by
  unfold State.laneDone
  split
  · rfl
  · split
    · rfl
    · exact State.headerPost_entries _ _ _ _ _ _

theorem State.mem_setEntry {s : State} {e e' : Entry} (h : e ∈ s.entries) (hi : e'.idx = e.idx) :
    e' ∈ (s.setEntry e').entries :=
  List.mem_map.2 ⟨e, h, if_pos hi.symm⟩

section
variable {s : State} {st : Fin 512} {c : Cut}

theorem State.imageWritten_goes (hr : s.running = true) (hh : s.slotHalted c.x = false)
    (hcut : c.x.cutting = some c.save.idx) (hq : s.held = [] ∨ s.bme = true) :
    ¬ (s.running = false ∨ s.slotHalted c.x = true ∨ c.x.cutting ≠ some c.save.idx ∨
      (s.held.isEmpty || s.bme) = false) := by
  simpa [hr, hh, hcut, or_iff_not_imp_left] using hq

/-- R622: a target that is to vacate its slot. -/
theorem contextImageWritten_vacates (hr : s.running = true) (hc : s.cut? st = some c)
    (hh : s.slotHalted c.x = false) (hcut : c.x.cutting = some c.save.idx) (hq : s.held = [] ∨ s.bme = true)
    (hv : bitOf c.cflags 1 = true) :
    let w := s.setSlot c.slot (some { c.x with cutting := none })
    exec (.contextImageWritten st) s = .next
      (((w.dropEntry c.e false).setStream c.e.stream
        { (w.dropEntry c.e false).stream c.e.stream with isolated := true }).endCommitted c.save) := by
  have hgo := State.imageWritten_goes hr hh hcut hq
  intro w
  simp only [exec, execContextImageWritten, hc, if_neg hgo, hv, if_true] <;> rfl

/-- R622: a target that goes on. -/
theorem contextImageWritten_goesOn (hs : s.Canonical) (hr : s.running = true) (hc : s.cut? st = some c)
    (hh : s.slotHalted c.x = false) (hcut : c.x.cutting = some c.save.idx) (hq : s.held = [] ∨ s.bme = true)
    (hv : bitOf c.cflags 1 = false) : Does (.contextImageWritten st) s fun t =>
      (∃ y ∈ t.entries, y.idx = c.save.idx ∧ y.kind = .save c.image c.area c.cflags (some c.e.idx) c.gen true) ∧
      ∃ y, t.slot? c.slot = some y ∧ y.cutting = none ∧ y.entry = c.x.entry := by
  have hgo := State.imageWritten_goes hr hh hcut hq
  have hsave : c.save ∈ s.entries := State.save_mem_of_cut hc
  have hslots : SMap.wf State.slotD s.slots = true := (State.kept_iff.2 ⟨rfl, hs⟩).slots_ok
  refine ⟨_, by
    simp only [exec, execContextImageWritten, hc, if_neg hgo, hv, Bool.false_eq_true, if_false] <;> rfl, ?_⟩
  generalize c.x.lanes.filter _ = l
  generalize hu : State.setEntry _ _ = u
  have hmem : ∃ y ∈ u.entries, y.idx = c.save.idx ∧
      y.kind = .save c.image c.area c.cflags (some c.e.idx) c.gen true :=
    hu ▸ ⟨_, State.mem_setEntry (s := s.setSlot c.slot _) hsave rfl, rfl, rfl⟩
  have huncut : u.Uncut c.slot c.x.entry :=
    hu ▸ ⟨SMap.wf_set hslots, _, SMap.get_set_same (lo := none) hslots, rfl, rfl⟩
  have hfold : (l.foldl (fun s (l : Nat × Lane) => s.laneDone c.slot l.1) u).entries = u.entries ∧
      (l.foldl (fun s (l : Nat × Lane) => s.laneDone c.slot l.1) u).Uncut c.slot c.x.entry :=
    List.foldlRecOn l _ (motive := fun t : State => t.entries = u.entries ∧ t.Uncut c.slot c.x.entry) ⟨rfl, huncut⟩
      fun t ht y _ => ⟨(t.laneDone_entries _ _).trans ht.1, ht.2.laneDone _⟩
  exact ⟨hfold.1 ▸ hmem, hfold.2.slot⟩

end

/-- Settles O45: a stream fault by the response it has and the slot its entry holds, its end by
`State.contain_ends`, and a cut by what its lanes have stopped at. -/
theorem faultsStopAndCutsSave : Obligations.FaultsStopAndCutsSave := by
  intro s v st hs hr
  refine ⟨fun idx f rest e hf he => ⟨fun h => streamFault_reset hs hr hf he h,
    fun h hn => streamFault_atOnce hr hf he h hn,
    fun n x h hn hx hstop => streamFault_stops hs hr hf he h hn hx hstop⟩, ?_, ?_, ?_, ?_⟩
  · intro e f eng age dump hd
    obtain ⟨hgone, hiso, hnotice⟩ := State.contain_ends hs e f eng age dump hd
    exact ⟨fun x hx hi => hgone.idxs (List.mem_map.2 ⟨x, hx, hi⟩), hiso, hnotice, hgone.past⟩
  · exact fun n x e hn he hq => entryQuiesced_ends hr hn he hq
  · exact deviceInternalFault_resets hs hr
  · intro c hc hh
    refine ⟨fun cp lanes more hcut hst => ⟨fun hne => cutTaken_mismatch hr hc hh hcut hst hne,
      fun w l heq hready hl => cutTaken_writes hr hc hh hcut hst heq hready hl⟩, fun hcut hq => ⟨?_, ?_⟩⟩
    · exact fun hv => contextImageWritten_vacates hr hc hh hcut hq hv
    · exact fun hv => contextImageWritten_goesOn hs hr hc hh hcut hq hv

end Sys2Proof.Machine
end

section
/-! SUPPORT. What the actions of admission keep: the queue of waiting commands and the canonical form of the
memories and of the families by number. Each of the answers that an action or one of its readings gives
holds at most one state, and that state keeps. -/

namespace Sys2Proof.Machine

/-! ### Answers -/

section
variable (pq : List Instr)

/-- What the checks of an entry answer keeps. -/
def Checked.Kept : Checked → Prop
  | .stall => True
  | .readErr s | .reject s | .ok s _ => s.Kept pq

/-- What the action of a row answers keeps. -/
def Acted.Kept : Acted → Prop
  | .wait | .copy _ | .fetch _ => True
  | .reject s | .hold s | .done s => s.Kept pq

/-- What sealing answers keeps. -/
def Sealed.Kept : Sealed → Prop
  | .noRoom | .stall => True
  | .fault s _ | .done s _ => s.Kept pq

/-- What binding a segment answers keeps. -/
def Bound.Kept : Bound → Prop
  | .wait => True
  | .fault s _ | .done s _ _ => s.Kept pq

/-- What reading a buffer answers keeps. -/
def BufRead.Kept : BufRead → Prop
  | .stall => True
  | .fault s _ _ | .ok s _ _ => s.Kept pq

/-- What reading a chart's image answers keeps. -/
def Image.Kept : Image → Prop
  | .bad s _ _ | .good s _ => s.Kept pq

/-- What fetching a restored target's buffer answers keeps. -/
def Refetched.Kept : Refetched → Prop
  | .wait => True
  | .fault s _ | .ok s _ _ => s.Kept pq

end

section
variable {pq : List Instr} {s : State}

@[simp] theorem Checked.kept_stall : Checked.stall.Kept pq := trivial
@[simp] theorem Checked.kept_readErr : (Checked.readErr s).Kept pq ↔ s.Kept pq := Iff.rfl
@[simp] theorem Checked.kept_reject : (Checked.reject s).Kept pq ↔ s.Kept pq := Iff.rfl
@[simp] theorem Checked.kept_ok {r : Req} : (Checked.ok s r).Kept pq ↔ s.Kept pq := Iff.rfl
@[simp] theorem Acted.kept_wait : Acted.wait.Kept pq := trivial
@[simp] theorem Acted.kept_copy {h : HandleCopy} : (Acted.copy h).Kept pq := trivial
@[simp] theorem Acted.kept_fetch {l : List (Nat × Nat)} : (Acted.fetch l).Kept pq := trivial
@[simp] theorem Acted.kept_reject : (Acted.reject s).Kept pq ↔ s.Kept pq := Iff.rfl
@[simp] theorem Acted.kept_hold : (Acted.hold s).Kept pq ↔ s.Kept pq := Iff.rfl
@[simp] theorem Acted.kept_done : (Acted.done s).Kept pq ↔ s.Kept pq := Iff.rfl
@[simp] theorem Sealed.kept_noRoom : Sealed.noRoom.Kept pq := trivial
@[simp] theorem Sealed.kept_stall : Sealed.stall.Kept pq := trivial
@[simp] theorem Sealed.kept_fault {f : FaultInfo} : (Sealed.fault s f).Kept pq ↔ s.Kept pq := Iff.rfl
@[simp] theorem Sealed.kept_done {b : BufInfo} : (Sealed.done s b).Kept pq ↔ s.Kept pq := Iff.rfl
@[simp] theorem Bound.kept_wait : Bound.wait.Kept pq := trivial
@[simp] theorem Bound.kept_fault {f : FaultInfo} : (Bound.fault s f).Kept pq ↔ s.Kept pq := Iff.rfl
@[simp] theorem Bound.kept_done {b : BufInfo} {l : Launch} : (Bound.done s b l).Kept pq ↔ s.Kept pq :=
  Iff.rfl
@[simp] theorem BufRead.kept_stall : BufRead.stall.Kept pq := trivial
@[simp] theorem BufRead.kept_fault {f : FaultInfo} {b : Option BufInfo} :
    (BufRead.fault s f b).Kept pq ↔ s.Kept pq := Iff.rfl
@[simp] theorem BufRead.kept_ok {b : BufInfo} {l : List Nat} : (BufRead.ok s b l).Kept pq ↔ s.Kept pq :=
  Iff.rfl
@[simp] theorem Image.kept_bad {c d : Nat} : (Image.bad s c d).Kept pq ↔ s.Kept pq := Iff.rfl
@[simp] theorem Image.kept_good {c : ChartRec} : (Image.good s c).Kept pq ↔ s.Kept pq := Iff.rfl
@[simp] theorem Refetched.kept_wait : Refetched.wait.Kept pq := trivial
@[simp] theorem Refetched.kept_fault {f : FaultInfo} : (Refetched.fault s f).Kept pq ↔ s.Kept pq := Iff.rfl
@[simp] theorem Refetched.kept_ok {e : Entry} {b : BufInfo} : (Refetched.ok s e b).Kept pq ↔ s.Kept pq :=
  Iff.rfl

end

section
variable {pq : List Instr} {s : State}

theorem Acted.kept_ite {p : Prop} [Decidable p] {a b : Acted} (ha : p → a.Kept pq)
    (hb : ¬ p → b.Kept pq) : (if p then a else b).Kept pq := by
  split
  · exact ha ‹_›
  · exact hb ‹_›

/-! ### Checks of an entry -/

theorem State.checkEntry_kept (v : View) (k : RowKind) (idx : Nat) (raw : List Byte) (hs : s.Kept pq) :
    (s.checkEntry v k idx raw).Kept pq := by
  unfold State.checkEntry
  extract_lets flags nw ns finish u r
  have hr : r.1.s.Kept pq := by simp [r, hs]
  have hf (t : State) (ws : List WaitRec) (gs : List SigRec) (x : Nat) (ht : t.Kept pq) :
      (finish t ws gs x).Kept pq := by
    simp only [finish]; split <;> exact ht
  clear_value finish r
  split_ifs
  all_goals first | exact hs | exact hr | exact trivial | exact hf _ _ _ _ hs | exact hf _ _ _ _ hr

/-- A row whose action keeps, keeps. -/
theorem State.admitRow_kept (k : RowKind) (v : View) {act : State → Req → Acted}
    (ha : ∀ t r, t.Kept pq → (act t r).Kept pq) (hs : s.Kept pq) : (s.admitRow k v act).Kept pq := by
  refine State.ringEdge_kept _ _ hs ?_
  split
  · exact hs
  rename_i a raw _
  have hc := State.checkEntry_kept v k a raw (State.sealRefresh_kept _ hs)
  split <;> rename_i heq <;> rw [heq] at hc
  · exact hs
  · exact State.ringReadErr_kept _ hc
  · exact State.clearFront_kept _ (State.rejectFront_kept _ hc)
  rename_i t r
  have ht := ha t r hc
  split <;> rename_i heq <;> rw [heq] at ht
  · exact State.clearFront_kept _ (State.rejectFront_kept _ ht)
  · exact hs
  · exact ht
  · simp [hs]
  · simp [hs]
  · exact State.passHead_kept _ ht

/-! ### Sealing and binding -/

theorem SealRun.lane_kept (a : SealRun) (e : OpEnv) (base : Nat) (l : List Nat) (i : Nat)
    (drs : SMap (Option DReg)) (ha : a.c.s.Kept pq) : (a.lane e base l i drs).c.s.Kept pq := by
  induction l generalizing a i drs with
  | nil => exact ha
  | cons w t ih =>
    have hp := Ctx.prepOp_kept a.c e w drs ha
    unfold SealRun.lane
    dsimp only
    split
    · exact hp
    · exact ih _ _ _ hp

/-- The check of a descriptor is passed over, or loads it. -/
theorem SealRun.desc_cases (a : SealRun) (e : OpEnv) (i : Nat) (d : List Byte) :
    a.desc e i d = a ∨
      ∃ r f, a.c.loadDesc e 0 d = r ∧ a.desc e i d = { a with c := r.1, fault := f } := by
  unfold SealRun.desc
  split
  · exact .inl rfl
  · dsimp only
    split <;> exact .inr ⟨_, _, rfl, rfl⟩

theorem SealRun.desc_kept (a : SealRun) (e : OpEnv) (i : Nat) (d : List Byte) (ha : a.c.s.Kept pq) :
    (a.desc e i d).c.s.Kept pq := by
  have hd := Ctx.loadDesc_kept a.c e 0 d ha
  obtain h | ⟨r, f, hr, h⟩ := a.desc_cases e i d <;> rw [h]
  · exact ha
  · rw [hr] at hd
    exact hd

/-- A fold that keeps the state of a run of sealing. -/
theorem SealRun.foldl_kept {α : Type} {f : SealRun → α → SealRun}
    (hf : ∀ a x, a.c.s.Kept pq → (f a x).c.s.Kept pq) (l : List α) {a : SealRun} (ha : a.c.s.Kept pq) :
    (l.foldl f a).c.s.Kept pq := by
  induction l generalizing a with
  | nil => exact ha
  | cons x t ih => exact ih (hf _ _ ha)

theorem State.sealBuf_kept {v : View} {e : Entry} {b : BufInfo} {x : Sealed}
    (hx : s.sealBuf v e b = x) (hs : s.Kept pq) : x.Kept pq := by
  subst hx
  unfold State.sealBuf
  extract_lets n r desc
  have hr : r.1.s.Kept pq := Ctx.bufRead_kept _ _ _ _ (Ctx.start_kept _ _ _ hs)
  clear_value r desc
  split
  · exact hs
  split
  · trivial
  extract_lets whole env k k' h img
  have hk : k'.c.s.Kept pq := by
    refine SealRun.foldl_kept (fun a i ha => SealRun.desc_kept _ _ _ _ ha) _ ?_
    refine SealRun.foldl_kept (fun a node ha => ?_) _ hr
    split
    · exact ha
    · exact SealRun.lane_kept _ _ _ _ _ _ ha
  have hh : h.1.s.Kept pq := by
    unfold h; split
    · exact Ctx.readHandles_kept _ _ _ hk
    · exact hk
  clear_value img h k'
  split
  · trivial
  split
  · exact hr
  split
  · exact hk
  split
  · exact hh
  · exact State.writeLocal_kept _ _ _ hh

theorem State.bindSeg_kept {v : View} {e : Entry} {l : Launch} {seg : Nat}
    {saved : Nat → Option Word64} {x : Bound} (hx : s.bindSeg v e l seg saved = x) (hs : s.Kept pq) :
    x.Kept pq := by
  subst hx
  unfold State.bindSeg
  extract_lets c
  split
  · exact hs
  rename_i ver _
  have hh := Ctx.segInfo_kept (Ctx.start s v []) c l ver seg saved (Ctx.start_kept _ _ _ hs)
  generalize (Ctx.start s v []).segInfo c l ver seg saved = h at hh
  dsimp only
  split
  · exact hh
  split
  · exact hh
  have h2 (n : Nat) := State.bump_kept _ Reg.FE_CHART_HOT_SPLIT n
    (State.bump_kept _ Reg.FE_CHART_BINDS 1 (State.captureElastic_kept _ e.stream hh))
  split
  · split
    · trivial
    · trivial
    · exact State.sealBuf_kept ‹_› (h2 _)
    · exact State.sealBuf_kept ‹_› (h2 _)
  · exact h2 _

/-! ### Reading -/

theorem State.readBuf_kept {v : View} {e : Entry} {u : Nat} {x : BufRead} (hx : s.readBuf v e u = x)
    (hs : s.Kept pq) : x.Kept pq := by
  subst hx
  unfold State.readBuf
  split
  · exact hs
  extract_lets h b r q w
  have hh : h.1.s.Kept pq := Ctx.read_kept _ _ _ _ (Ctx.start_kept _ _ _ hs)
  have hq : q.1.s.Kept pq := Ctx.readFront_kept _ _ _ (Ctx.read_kept _ _ _ _ hh)
  clear_value w q r b h
  repeat' split
  all_goals first | exact trivial | exact hh | exact hq

theorem State.readImage_kept {u ver : Nat} {x : Image} (hx : s.readImage u ver = x) (hs : s.Kept pq) :
    x.Kept pq := by
  subst hx
  unfold State.readImage
  extract_lets c0 h g nseg nparam nreloc narg size fits seg ofs hdrs segs badSeg par rel
  have hh : h.1.s.Kept pq := Ctx.read_kept _ _ _ _ (Ctx.start_kept _ _ _ hs)
  have hhdrs : hdrs.1.s.Kept pq := by
    refine kept_foldl_cfst (fun a o ha => ?_) ofs (Ctx.readWords_kept _ _ _ _ _ hh)
    exact Ctx.read_kept _ _ _ _ ha
  have hrel : rel.1.s.Kept pq := Ctx.readWords_kept _ _ _ _ _ (Ctx.read_kept _ _ _ _ hhdrs)
  clear_value rel par badSeg segs hdrs ofs seg fits size g h
  repeat' split
  all_goals first | exact hh | exact hrel

/-! ### Actions -/

theorem actChartLoad_kept (r : Req) (hs : s.Kept pq) : (actChartLoad s r).Kept pq := by
  have hend (t : State) (code ver d : Nat) (poison : Bool) (ht : t.Kept pq) :
      ((t.chartResult (leAt r.raw 0x18 8 % 2 ^ 48) code ver d).reSignals r poison).Kept pq :=
    State.reSignals_kept _ _ _ (State.chartResult_kept _ _ _ _ _ ht)
  unfold actChartLoad
  split
  · exact hs
  dsimp only
  split
  · exact hend _ _ _ _ _ hs
  split <;> rename_i heq
  · exact hend _ _ _ _ _ (State.readImage_kept heq hs)
  · exact hend _ _ _ _ _ (State.setChart_kept _ _ _ (State.readImage_kept heq hs))

theorem actChartDrop_kept (r : Req) (hs : s.Kept pq) : (actChartDrop s r).Kept pq := by
  have hres := State.chartResult_kept s (leAt r.raw 0x18 8 % 2 ^ 48) 0 0 0 hs
  unfold actChartDrop
  split
  · exact hs
  dsimp only
  split
  · exact State.reSignals_kept _ _ _ (State.chartResult_kept _ _ _ _ _ hs)
  · exact State.freeVersions_kept _ _ (State.setChart_kept _ _ _ hres)

theorem actPatchVersioned_kept (v : View) (r : Req) (hs : s.Kept pq) :
    (actPatchVersioned v s r).Kept pq := by
  have hend (t : State) (code ver d : Nat) (poison : Bool) (ht : t.Kept pq) :
      ((t.chartResult (leAt r.raw 0x18 8 % 2 ^ 48) code ver d).reSignals r poison).Kept pq :=
    State.reSignals_kept _ _ _ (State.chartResult_kept _ _ _ _ _ ht)
  have hq := State.readPatch_kept s v (leAt r.raw 0x10 8 % 2 ^ 48) hs
  unfold actPatchVersioned
  generalize s.readPatch v (leAt r.raw 0x10 8 % 2 ^ 48) = q at hq
  split
  · exact hs
  dsimp only
  split
  · exact hend _ _ _ _ _ hs
  split
  · exact hend _ _ _ _ _ hs
  split
  · exact hend _ _ _ _ _ hs
  rename_i cur _
  split
  · trivial
  split
  · exact hend _ _ _ _ _ hq
  rename_i h es _
  have hk := Ctx.patchEntsOk_kept q.1 (s.chart (leAt r.raw 8 2)) cur [] es 0 hq
  generalize q.1.patchEntsOk (s.chart (leAt r.raw 8 2)) cur [] es 0 = k at hk
  have hp {ps x q} (h : k.1.readPieces es ps = (x, q)) : x.s.Kept pq := by
    have := Ctx.readPieces_kept k.1 es ps hk
    rwa [h] at this
  split
  · exact hend _ _ _ _ _ hk
  split
  · exact hend _ _ _ _ _ hk
  split
  · exact hend _ _ _ _ _ hk
  split
  · exact hend _ _ _ _ _ hk
  split
  · exact hend _ _ _ _ _ hk
  split
  · exact hend _ _ _ _ _ (hp ‹_›)
  · exact hend _ _ _ _ _ (State.freeVersions_kept _ _ (State.setChart_kept _ _ _
      (State.writePieces_kept _ _ _ _ (hp ‹_›))))

theorem actPatchHot_kept (v : View) (r : Req) (hs : s.Kept pq) : (actPatchHot v s r).Kept pq := by
  have hend (t : State) (code ver d : Nat) (poison : Bool) (ht : t.Kept pq) :
      ((t.chartResult (leAt r.raw 0x18 8 % 2 ^ 48) code ver d).reSignals r poison).Kept pq :=
    State.reSignals_kept _ _ _ (State.chartResult_kept _ _ _ _ _ ht)
  have hq := State.readPatch_kept s v (leAt r.raw 0x10 8 % 2 ^ 48) hs
  unfold actPatchHot
  generalize s.readPatch v (leAt r.raw 0x10 8 % 2 ^ 48) = q at hq
  split
  · exact hs
  dsimp only
  split
  · exact hend _ _ _ _ _ hs
  split
  · exact hend _ _ _ _ _ hs
  split
  · exact hend _ _ _ _ _ hs
  split
  · exact hend _ _ _ _ _ hs
  rename_i cur _
  split
  · trivial
  split
  · exact hend _ _ _ _ _ hq
  split
  · exact hend _ _ _ _ _ hq
  rename_i es _ _ _
  have hw : (es.foldl (fun s e =>
      (s.writeLocal (cur.paramUda + 16 * e.param) (leBytes 8 e.value)).1) q.1.s).Kept pq :=
    kept_foldl (fun _ _ h => State.writeLocal_kept _ _ _ h) _ hq
  exact hend _ _ _ _ _ (State.bump_kept _ _ _ hw)

theorem State.startCopy_kept (sigs : List SigRec) (sync : Bool) (hs : s.Kept pq) :
    (s.startCopy sigs sync).Kept pq := by
  unfold State.startCopy
  dsimp only
  repeat' split
  all_goals simp [hs]

theorem State.needGen_kept {act : State → Acted} (ha : (act s).Kept pq) (hs : s.Kept pq) :
    (s.needGen act).Kept pq := by
  unfold State.needGen
  split
  · exact State.startCopy_kept _ _ hs
  · exact ha

theorem State.finishSubmit_kept (v : View) (e : Entry) (b : BufInfo) (hs : s.Kept pq) :
    (s.finishSubmit v e b).Kept pq := by
  unfold State.finishSubmit
  split
  · split <;> rename_i heq
    · simp [hs]
    · simp [hs]
    · exact State.addEntry_kept _ _ (State.sealBuf_kept heq hs)
    · exact State.addEntry_kept _ _ (State.sealBuf_kept heq hs)
  · exact State.addEntry_kept _ _ hs

theorem actSubmit_kept (v : View) (r : Req) (hs : s.Kept pq) : (actSubmit v s r).Kept pq := by
  refine State.needGen_kept ?_ hs
  dsimp only
  split <;> rename_i heq
  · trivial
  · exact State.addEntry_kept _ _ (State.readBuf_kept heq hs)
  · exact State.finishSubmit_kept _ _ _ (State.capture_kept _ _ _ _ (State.readBuf_kept heq hs))

theorem State.finishLaunch_kept (v : View) (e : Entry) (l : Launch) (hs : s.Kept pq) :
    (s.finishLaunch v e l).Kept pq := by
  unfold State.finishLaunch
  split <;> rename_i heq
  · simp [hs]
  · exact State.addEntry_kept _ _ (State.bindSeg_kept heq hs)
  · exact State.addEntry_kept _ _ (State.bindSeg_kept heq hs)

theorem actLaunch_kept (v : View) (r : Req) (hs : s.Kept pq) : (actLaunch v s r).Kept pq := by
  unfold actLaunch
  split
  · exact hs
  refine State.needGen_kept ?_ hs
  dsimp only
  have ht := State.readArgs_kept s v (leAt r.raw 0x18 8 % 2 ^ 48) (s.chart (leAt r.raw 8 2)).narg hs
  generalize s.readArgs v (leAt r.raw 0x18 8 % 2 ^ 48) (s.chart (leAt r.raw 8 2)).narg = a at ht
  refine Acted.kept_ite (fun _ => State.addEntry_kept _ _ hs) (fun _ => Acted.kept_ite (fun _ => trivial) fun _ => ?_)
  split
  · exact State.addEntry_kept _ _ ht
  split
  · exact State.finishLaunch_kept _ _ _ ht
  · exact State.finishLaunch_kept _ _ _ (State.capture_kept _ _ _ _ ht)

theorem actCreate_kept (v : View) (r : Req) (hs : s.Kept pq) : (actCreate v s r).Kept pq := by
  have hb := State.seedBlock_kept s v r.raw Gen.zero hs
  unfold actCreate
  dsimp only
  repeat' split
  all_goals simp [hb]

theorem actConfigure_kept (v : View) (r : Req) (hs : s.Kept pq) : (actConfigure v s r).Kept pq := by
  have hb := State.seedBlock_kept s v r.raw (s.stream r.stream).gen hs
  unfold actConfigure
  dsimp only
  repeat' split
  all_goals simp [hb]

theorem actAbort_kept (v : View) (r : Req) (hs : s.Kept pq) : (actAbort v s r).Kept pq := by
  have hw (l : List Entry) (res : Nat) (bs : List Byte) :
      ((l.foldl (fun s e => s.abortEntry v e) s).resultWrite res bs).1.Kept pq :=
    State.resultWrite_kept _ _ _ (kept_foldl (fun _ _ h => State.abortEntry_kept _ _ _ h) _ hs)
  exact State.afterEntry_kept _ _ (State.holdSigs_kept _ _ _ _ (hw _ _ _))

theorem actSave_kept (r : Req) (hs : s.Kept pq) : (actSave s r).Kept pq := by
  unfold actSave
  dsimp only
  repeat' split
  all_goals simp [hs]

theorem actRestore_kept (v : View) (r : Req) (hs : s.Kept pq) : (actRestore v s r).Kept pq := by
  have hq := Ctx.read_kept _ true (leAt r.raw 8 8 % 2 ^ 48) 4096 (Ctx.start_kept s v [] hs)
  unfold actRestore
  dsimp only
  generalize (Ctx.start s v []).read true (leAt r.raw 8 8 % 2 ^ 48) 4096 = q at hq
  split
  · exact hs
  split
  · trivial
  split
  · exact State.addEntry_kept _ _ hq
  · exact State.addEntry_kept _ _ (State.setStream_kept _ _ _ hq)

theorem actUpdate_kept (v : View) (cap : Nat) {go : State → List Byte → Nat → List SigRec → State}
    (hg : ∀ t l n g, t.Kept pq → (go t l n g).Kept pq) (r : Req) (hs : s.Kept pq) :
    (actUpdate v cap go s r).Kept pq := by
  unfold actUpdate
  split
  · exact hs
  extract_lets res q
  have hq : q.1.s.Kept pq := Ctx.read_kept _ _ _ _ (Ctx.start_kept _ _ _ hs)
  clear_value q
  split_ifs
  · exact hg _ _ _ _ hs
  · trivial
  · exact State.flashResult_kept _ _ _ _ _ _ (State.setFld_kept _ _ _ _ _ hq)
  · exact hg _ _ _ _ hq

end

end Sys2Proof.Machine
end

section
/-! SUPPORT. What the operations of the sequencers, the units, the slots, the resets and the failed reads
keep that the Laws leave out: those whose answer is taken apart before it is used. -/

namespace Sys2Proof.Machine

section
variable {pq : List Instr} {s : State}

/-! ### Sequencers and units -/

@[simp] theorem State.laneSignal_kept (f : Fetch) (drs : SMap (Option DReg)) (u : Nat) (hs : s.Kept pq) :
    (s.laneSignal f drs u).Kept pq := by
  have hc : (Ctx.start s View.none []).s.Kept pq := Ctx.start_kept _ _ _ hs
  unfold State.laneSignal
  extract_lets c sg done r
  have hdone (c : Ctx) (h : c.s.Kept pq) : (done c).Kept pq := by
    unfold done; split <;> simp [h]
  have hc : c.s.Kept pq := hc
  have hr : r.1.s.Kept pq := Ctx.read_kept _ _ _ _ hc
  clear_value r done c
  split
  · split
    · exact hs
    · exact State.issueFault_kept _ _ _ (State.rmtFail_kept _ _ _ hs)
    · exact State.blockAt_kept _ _ _ _ (State.rmtSend_kept _ _ _ _ _ _ _ hs)
  · split
    · exact hdone _ (Ctx.write_kept _ _ _ _ _ hc)
    · exact hs
  · split
    · exact hdone _ (Ctx.write_kept _ _ _ _ _ hr)
    · exact hdone _ (Ctx.write_kept _ _ _ _ _ hc)

theorem State.pennantSignal_kept (slot : Fin 8) (node : Fin 9) (st : SeqStep) (max : Bool)
    (hs : s.Kept pq) : (s.pennantSignal slot node st max).Kept pq := by
  refine State.step2_kept _ _ _ _ _ _ (fun f t drs u ht => ?_) hs
  split
  · exact State.laneSignal_kept _ _ _ ht
  · exact ht

/-- The steps of an operation keep where its body does. -/
theorem State.unitOp_kept (slot : Fin 8) (node : Fin 9) (ph : Phase) (v : View) (row : Nat → Bool)
    {body : OpRec → Ctx → Ctx} (hb : ∀ o c, c.s.Kept pq → (body o c).s.Kept pq) (hs : s.Kept pq) :
    (s.unitOp slot node ph v row body).Kept pq := by
  cases ph with
  | relocate => exact State.relocate_kept _ _ _ _ _ hs
  | issue => exact State.enqueue_kept _ _ _ _ _ hs
  | perform ofs => exact State.performOp_kept _ _ _ _ _ _ _ hs hb
  | idle ofs n => exact State.idleOp_kept _ _ _ _ _ _ hs

theorem noiseBody_kept (o : OpRec) (c : Ctx) (hc : c.s.Kept pq) : (noiseBody o c).s.Kept pq := by
  unfold noiseBody
  dsimp only
  split
  · exact kept_foldl_ctx (fun c b h => State.bump_kept _ _ _ (Ctx.write_kept _ _ _ _ _ h)) _ hc
  · exact Ctx.bad_kept _ _ hc

theorem egressBody_kept (o : OpRec) (c : Ctx) (hc : c.s.Kept pq) : (egressBody o c).s.Kept pq := by
  unfold egressBody
  extract_lets f src sh tab c1 lu
  split
  swap
  · exact Ctx.bad_kept _ _ hc
  extract_lets len' h old er ec g r c2 t c3
  have hsh : sh.1.s.Kept pq := Ctx.vector_kept _ _ _ _ (Ctx.egSources_kept _ _ _ hc)
  have hc1 : c1.s.Kept pq := by
    unfold c1; split
    · exact Ctx.bad_kept _ _ hsh
    · exact hsh
  have hold : old.1.s.Kept pq := by
    unfold old; split
    · exact Ctx.listIn_kept _ _ _ hc1
    · exact hc1
  have hec : ec.1.s.Kept pq := Ctx.vector_kept _ _ _ _ (Ctx.vector_kept _ _ _ _ hold)
  have hr : r.1.s.Kept pq := EgEnv.blocks_kept _ _ _ hec
  have hc2 : c2.s.Kept pq := by
    unfold c2; split
    · split
      · exact hr
      · exact Ctx.listOut_kept _ _ _ _ _ _ hr
    · exact hr
  have hc3 : c3.s.Kept pq := State.bump_kept _ _ _ (State.bump64_kept _ _ _ hc2)
  clear_value c3 ec
  split
  · exact hec
  split
  · split
    · exact Ctx.writeLast_kept _ _ _ hc3
    · exact Ctx.bad_kept _ _ hc3
  · exact hc3

/-! ### Restored targets -/

theorem Ctx.loadRegs_kept (c : Ctx) (e : OpEnv) (sec : List Byte) (hc : c.s.Kept pq) :
    (c.loadRegs e sec).1.s.Kept pq := by
  unfold Ctx.loadRegs
  refine kept_foldl_cfst (fun a i ha => ?_) _ hc
  have hr := Ctx.loadDesc_kept a.1 e 0 ((sec.drop (64 + 64 * i)).take 64) ha
  generalize a.1.loadDesc e 0 ((sec.drop (64 + 64 * i)).take 64) = r at hr ⊢
  obtain ⟨d, x⟩ := r
  split
  · exact ha
  · exact (hr : State.Kept pq d.s)

theorem Ctx.loadLane_kept (c : Ctx) (e : OpEnv) (b : BufInfo) (sec : List Byte) (cp lanes : Nat)
    (hc : c.s.Kept pq) : (c.loadLane e b sec cp lanes).1.s.Kept pq := by
  unfold Ctx.loadLane
  have hr := Ctx.loadRegs_kept c e sec hc
  generalize c.loadRegs e sec = r at hr ⊢
  have hw (pc : Nat) := Ctx.bufRead_kept r.1 b pc 32 hr
  dsimp only
  split
  · exact hw _
  · exact hr

theorem State.rebind_kept {v : View} {e : Entry} {r : Restored} {secs : List (Nat × Nat × Nat)}
    {segs : List Nat} {l : Launch} {done : List BufInfo} {x : Refetched}
    (hx : s.rebind v e r secs segs l done = x) (hs : s.Kept pq) : x.Kept pq := by
  subst hx
  induction segs generalizing s l done with
  | nil => cases done <;> simp [State.rebind, hs]
  | cons seg t ih =>
    unfold State.rebind
    dsimp only
    split <;> rename_i heq
    · trivial
    · exact State.bindSeg_kept heq hs
    · exact ih (State.bindSeg_kept heq hs)

theorem State.refetch_kept {v : View} {e : Entry} {r : Restored} {x : Refetched}
    (hx : s.refetch v e r = x) (hs : s.Kept pq) : x.Kept pq := by
  subst hx
  unfold State.refetch
  split
  · exact State.rebind_kept rfl hs
  split <;> rename_i heq
  · trivial
  · exact State.readBuf_kept heq hs
  have hk := State.captureElastic_kept _ e.stream (State.readBuf_kept heq hs)
  dsimp only
  split
  · split <;> rename_i heq
    · trivial
    · trivial
    · exact State.sealBuf_kept heq hk
    · exact State.sealBuf_kept heq hk
  · exact hk

theorem State.loadRestored_kept (v : View) (n : Nat) (e : Entry) (r : Restored) (hs : s.Kept pq) :
    (s.loadRestored v n e r).Kept pq := by
  unfold State.loadRestored
  extract_lets lanes secs was
  split
  · exact hs
  split <;> rename_i heq
  · exact hs
  · exact State.raise_kept _ _ _ (State.refetch_kept heq hs)
  rename_i w e' b
  have hw : w.Kept pq := State.refetch_kept heq hs
  extract_lets t q stopped z
  have ht : t.Kept pq := by
    refine kept_foldl (fun _ _ h => ?_) _ hw
    split
    · exact State.loadCluster_kept _ _ _ _ h
    · exact h
  have hq : q.1.s.Kept pq := by
    refine kept_foldl_cfst (fun a node ha => ?_) _ (Ctx.start_kept _ _ _ ht)
    split
    · exact Ctx.loadLane_kept _ _ _ _ _ _ ha
    · exact ha
  have hz : z.Kept pq := State.setEntry_kept _ _ hq
  clear_value z q
  split
  · exact hs
  split
  · exact hz
  · exact State.raise_kept _ _ _ hz
  · exact kept_foldl (fun _ _ h => State.laneDone_kept _ _ _ h) _ (State.setSlot_kept _ _ _ hz)

theorem State.loadOne_kept (v : View) (n : Nat) (hs : s.Kept pq) : (s.loadOne v n).Kept pq := by
  unfold State.loadOne
  split
  · split
    · exact State.loadRestored_kept _ _ _ _ hs
    · exact hs
  · exact hs

theorem State.mapOne_kept (v : View) (st : Nat) (hs : s.Kept pq) : (s.mapOne v st).Kept pq := by
  unfold State.mapOne
  split
  · split
    · exact hs
    split
    · exact State.loadOne_kept _ _ (State.mapRestored_kept _ _ _ _ hs)
    · exact State.mapPlain_kept _ _ _ _ hs
    · exact hs
  · exact hs

/-! ### Resets -/

/-- The state after reset is in canonical form. -/
theorem State.reset_canonical : State.reset.Canonical := by
  unfold State.Canonical
  exact ⟨rfl, rfl, rfl, rfl, rfl, rfl, rfl, rfl, rfl, rfl, rfl, rfl, rfl, rfl, rfl, rfl, rfl, rfl, rfl, rfl⟩

theorem State.fundamental_kept (hs : s.Kept pq) : s.fundamental.Kept pq := by
  obtain ⟨hq, -⟩ := State.kept_iff.1 hs
  unfold State.fundamental
  extract_lets r x t
  have ht : t.Kept pq := State.kept_iff.2 ⟨hq, State.reset_canonical⟩
  clear_value t
  split
  · exact hs
  split
  · exact State.emit_kept _ _ ht
  · exact ht

theorem State.purgePins_kept (was : State) (hs : s.Kept pq) : (s.purgePins was).Kept pq := by
  refine kept_foldl (fun t n ht => ?_) _ (by simp [hs])
  have hr := State.setReg_kept t (muxReg n) (was.reg (muxReg n)) ht
  dsimp only
  generalize t.setReg (muxReg n) (was.reg (muxReg n)) = r at hr
  split
  · simp [hr]
  split
  · exact hr
  · exact State.startSwitch_kept _ _ _ hr

/-- The ports purged are listed only where they are not as after reset. -/
theorem MapOk.portsPurged {l : SMap Port} (h : MapOk pq State.portD l) :
    MapOk pq State.portD (portsPurged l) := by
  unfold MapOk at h ⊢
  rw [SMap.wf_iff] at h ⊢
  refine ⟨List.Pairwise.filter _ (List.pairwise_map.2 h.1), fun x hx => ?_⟩
  exact of_decide_eq_true (List.mem_filter.1 hx).2

theorem State.purgeState_kept (hs : s.Kept pq) : s.purgeState.Kept pq := by
  unfold State.purgeState
  simp [hs, MapOk.portsPurged]

/-! ### Host reads that fail -/

theorem State.blockFails_kept (v : View) (x : ReadFail) (hs : s.Kept pq) :
    (s.blockFails v x).Kept pq := by
  unfold State.blockFails
  split
  · split
    · exact State.restoreTarget_kept _ _ _ _ _ hs
    · exact hs
  split
  · exact hs
  dsimp only
  split
  · exact State.admitRow_kept _ _ (fun _ _ h => actLaunch_kept _ _ h) hs
  · exact State.admitRow_kept _ _ (fun _ _ h => actCreate_kept _ _ h) hs
  · exact State.admitRow_kept _ _ (fun _ _ h => actConfigure_kept _ _ h) hs
  · exact State.admitRow_kept _ _ (fun _ _ h => actRestore_kept _ _ h) hs
  · exact State.admitRow_kept _ _ (fun _ _ h => actPatchVersioned_kept _ _ h) hs
  · exact State.admitRow_kept _ _ (fun _ _ h => actPatchHot_kept _ _ h) hs
  · exact hs

theorem State.bufferFails_kept (st u : Nat) (v : View) (x : ReadFail) (hs : s.Kept pq) :
    (s.bufferFails st u v x).Kept pq := by
  have he : (State.bufferFails.entryFails s st u x).Kept pq := by
    unfold State.bufferFails.entryFails
    split
    · split
      · exact hs
      · exact State.entryFault_kept _ _ _ (State.hostErr_kept _ _ _ hs)
    · exact hs
  unfold State.bufferFails
  split
  · split
    · exact State.admitRow_kept _ _ (fun _ _ h => actSubmit_kept _ _ h) hs
    · exact he
  · exact he

theorem State.readFails_kept (i : HostIssuer) (x : ReadFail) (hs : s.Kept pq) :
    (s.readFails i x).Kept pq := by
  have hh (c a : Nat) : (s.hostErr c a).Kept pq := State.hostErr_kept _ _ _ hs
  cases i with
  | operation slot node ofs uda =>
    unfold State.readFails
    dsimp only
    split
    · split
      · exact hs
      split
      · exact hh _ _
      · exact State.unitFault_kept _ _ _ (hh _ _)
    · exact hs
  | doorbell =>
    unfold State.readFails
    dsimp only
    split
    · exact State.pollEnd_kept _ (State.ringReadErr_kept _ (State.hostErr_kept _ _ _ (by simp [hs])))
    · exact hs
  | entry =>
    unfold State.readFails
    dsimp only
    split
    · exact State.ringReadErr_kept _ (hh _ _)
    · exact hs
  | pennant uda =>
    unfold State.readFails
    dsimp only
    split
    · exact State.pollEnd_kept _ (State.hostErr_kept _ _ _ (State.dropPenRead_kept _ _ hs))
    · exact hs
  | block v => exact State.blockFails_kept _ _ hs
  | buffer st uda v => exact State.bufferFails_kept _ _ _ _ hs
  | record => exact hs

end

end Sys2Proof.Machine
end

section
/-! SUPPORT. What each command keeps: the queue of waiting commands and the canonical form of the memories
and of the families by number. -/

namespace Sys2Proof.Machine

section
variable {pq : List Instr} {s : State}

/-- Either branch keeps. -/
theorem State.Kept.ite {p : Prop} [Decidable p] {a b : State} (ha : a.Kept pq) (hb : b.Kept pq) :
    (if p then a else b).Kept pq := by split <;> assumption

/-! ### The TAP, power and pins -/

theorem execTapSamplePreload_kept (captured preload : Nat) (hs : s.Kept pq) :
    Kept.out pq (execTapSamplePreload captured preload s) := by
  refine State.emit_kept _ _ ?_
  have ht := State.tapSelect_kept s 0x02 0 false hs
  exact ht

theorem execTapDbgSelect_kept (hs : s.Kept pq) : Kept.out pq (execTapDbgSelect s) := by
  have ht := State.tapSelect_kept s 0x20 0 true hs
  exact .ite (.ite ht (State.setFld_kept _ _ _ _ _ ht)) (State.tapBypassed_kept _ hs)

theorem execPmbusTransactionDone_kept (good : Bool) (word : Word16) (hs : s.Kept pq) :
    Kept.out pq (execPmbusTransactionDone good word s) := by
  unfold execPmbusTransactionDone
  simp only [Kept.out_next]
  split
  · exact hs
  rename_i t _
  have hw (b : Bool) : (if b then s.setFld Reg.PWR_PMB_STATUS 15 0 word.toNat else s).Kept pq :=
    .ite (State.setFld_kept _ _ _ _ _ hs) hs
  have hp (f : Power → Power) (b : Bool) := State.setPwr_kept _ f (hw b)
  refine .ite hs (.ite (hp _ _) (.ite (State.muxRelease_kept _ (hp _ _)) (.ite (.ite ?_ ?_) (.ite ?_ ?_))))
  · exact State.emit_kept _ _ (hp _ _)
  · exact State.pmbFail_kept _ (hw _)
  · exact State.pmbFail_kept _ (hw _)
  · exact State.pmbNext_kept _ _ (hw _)

theorem execPllLocked_kept (hs : s.Kept pq) : Kept.out pq (execPllLocked s) := by
  unfold execPllLocked
  simp only [Kept.out_next]
  split
  · exact .ite (State.setPwr_kept _ _ hs) hs
  · exact hs

theorem execVoutSettleExpiry_kept (hs : s.Kept pq) : Kept.out pq (execVoutSettleExpiry s) := by
  unfold execVoutSettleExpiry
  simp only [Kept.out_next]
  split
  · exact .ite (State.pmbStart_kept _ _ _ (State.setPwr_kept _ _ hs)) hs
  · exact hs

theorem execOpSwitch_kept (hs : s.Kept pq) : Kept.out pq (execOpSwitch s) := by
  unfold execOpSwitch
  simp only [Kept.out_next]
  split
  · exact .ite (State.opSwitch_kept _ _ hs) hs
  · exact hs

theorem execGovernorPeriod_kept (ev : List GovEvents) (hs : s.Kept pq) :
    Kept.out pq (execGovernorPeriod ev s) := by
  have hf : (if s.estWord 0 = 0 then s.bumpFresh else s).Kept pq := .ite (State.bumpFresh_kept _ hs) hs
  exact .ite (State.govern_kept _ _ (State.wmTest_kept _ _ _ (State.setPwr_kept _ _
    (State.setReg_kept _ _ _ (State.setReg_kept _ _ _ hf))))) hs

theorem execThermalSample_kept (temps : List Word16) (hs : s.Kept pq) :
    Kept.out pq (execThermalSample temps s) :=
  .ite hs (State.wmTest_kept _ _ _ (State.setPwr_kept _ _ (State.setFld_kept _ _ _ _ _
    (kept_foldl (fun _ _ h => State.setReg_kept _ _ _ h) _ hs))))

theorem execThermalCeilingStep_kept (hs : s.Kept pq) : Kept.out pq (execThermalCeilingStep s) := by
  have hp (f : Power → Power) := State.setPwr_kept s f hs
  exact .ite (State.throttleEdge_kept _ (State.setFld_kept _ _ _ _ _
    (.ite (State.setFld_kept _ _ _ _ _ (hp _)) (hp _)))) hs

theorem execThermalTrip_kept (hs : s.Kept pq) : Kept.out pq (execThermalTrip s) :=
  .ite (State.emit_kept _ _ (State.emit_kept _ _ (State.setPwr_kept _ _ (State.setFld_kept _ _ _ _ _
    (State.setFld_kept _ _ _ _ _ (State.setFld_kept _ _ _ _ _ hs)))))) hs

theorem execBrakeApply_kept (hs : s.Kept pq) : Kept.out pq (execBrakeApply s) := by
  have hb : State.Kept pq { s with balls := putBits s.balls 4 4 0 } := hs
  unfold execBrakeApply
  simp only [Kept.out_next]
  generalize ({ s with balls := putBits s.balls 4 4 0 } : State) = t at hb ⊢
  have hw (n : Nat) := State.setFld_kept _ Reg.PWR_BRAKE 31 16 n (State.setFld_kept _ Reg.PWR_GOV 3 0 14
    (State.setFld_kept _ Reg.PWR_GOV 6 6 1 hb))
  refine .ite (.ite hb ?_) hs
  split
  · exact .ite (State.startChange_kept _ _ (hw _)) (hw _)
  · have hp (f : Power → Power) (n : Nat) := State.setPwr_kept _ f (hw n)
    exact .ite (State.brakeNext_kept _ (State.endChange_kept _ (hp _ _))) (hp _ _)

theorem execBrakeRelease_kept (hs : s.Kept pq) : Kept.out pq (execBrakeRelease s) := by
  have hb : State.Kept pq (if s.pinFn 4 = some 8 then { s with balls := putBits s.balls 4 4 1 } else s) :=
    .ite hs hs
  exact .ite (State.setPwr_kept _ _ (State.setFld_kept _ _ _ _ _ hb)) hs

theorem execTelemetrySnapshot_kept (hs : s.Kept pq) : Kept.out pq (execTelemetrySnapshot s) := by
  have hp (f : Power → Power) := State.setPwr_kept s f hs
  exact .ite (.ite (State.setPwr_kept _ _ (hp _)) (hp _)) hs

theorem execTelemetryDrop_kept (hs : s.Kept pq) : Kept.out pq (execTelemetryDrop s) := by
  unfold execTelemetryDrop
  simp only [Kept.out_next]
  split
  · exact hs
  · exact .ite (State.bump_kept _ _ _ (State.setPwr_kept _ _ hs)) hs

theorem execPinSwitchComplete_kept (pin : Fin 12) (hs : s.Kept pq) :
    Kept.out pq (execPinSwitchComplete pin s) := by
  have hk : State.Kept pq { s with parks := SMap.set State.parkD s.parks pin none } := by simp [hs]
  have hp := State.pmbPins_kept _ pin (State.bump_kept _ Reg.PIN_SWITCHES 1
    (State.setFld_kept _ Reg.PIN_STATUS pin pin 0 hk))
  unfold execPinSwitchComplete
  simp only [Kept.out_next]
  split
  · exact hs
  refine .ite ?_ hs
  split
  · exact State.muxWrite_kept _ _ _ hp
  · exact hp

/-! ### The fabric -/

theorem execHelloReceived_kept (port : Fin 6) (hs : s.Kept pq) :
    Kept.out pq (execHelloReceived port s) := by
  unfold execHelloReceived
  show State.Kept pq _
  refine .ite ?_ hs
  split
  · exact hs
  rename_i k rest _
  extract_lets t l h t1 src t2 t3
  have ht : t.Kept pq := State.releasePkt_kept _ _ hs
  have h2 : t2.Kept pq := State.setPort_kept _ _ _ (State.adoptEpoch_kept _ _ ht)
  have h3 : t3.Kept pq := .ite (State.advanceEpoch_kept _ _ (State.setReg_kept _ _ _ h2)) h2
  clear_value t3
  refine .ite (State.setReg_kept _ _ _ (State.setReg_kept _ _ _ h3)) ?_
  split
  · exact State.setUnsync_kept _ _ _ (State.setReg_kept _ _ _ h3)
  · exact .ite (State.setReg_kept _ _ _ h3) (State.exchange_kept _ _ _ (State.setReg_kept _ _ _ h3))

theorem execParentTimeout_kept (hs : s.Kept pq) : Kept.out pq (execParentTimeout s) :=
  .ite (State.setUnsync_kept _ _ _ hs) hs

theorem execAdvertReceived_kept (port : Fin 6) (hs : s.Kept pq) :
    Kept.out pq (execAdvertReceived port s) := by
  unfold execAdvertReceived
  show State.Kept pq _
  refine .ite ?_ hs
  split
  · exact hs
  rename_i k rest _
  extract_lets t a t1 r
  have hr : r.1.Kept pq := State.storeAdvert_kept _ _ (State.adoptEpoch_kept _ _
    (State.releasePkt_kept _ _ hs))
  clear_value r
  exact .ite (State.flood_kept _ _ _ (State.settling_kept _ hr)) hr

theorem execPacketForward_kept (hs : s.Kept pq) : Kept.out pq (execPacketForward s) := by
  unfold execPacketForward
  simp only [Kept.out_next]
  refine .ite ?_ hs
  split
  · exact State.hop_kept _ _ _ hs
  · exact hs

theorem execProbe_kept (hs : s.Kept pq) : Kept.out pq (execProbe s) := by
  unfold execProbe
  simp only [Kept.out_next]
  refine .ite ?_ hs
  split
  · exact hs
  · exact State.answer_kept _ _ _ _ _ _ (State.setPair_kept _ _ _ (State.releasePkt_kept _ _ hs))

/-- The state behind a packet taken from the answers keeps. -/
theorem State.Kept.of_takeAnswer {p : Nat → Bool} {t : State} {k : Option Pkt}
    (h : s.takeAnswer p = some (t, k)) (hs : s.Kept pq) : t.Kept pq :=
  State.takeAnswer_kept s p hs _ h

theorem execProbeRspReceived_kept (hs : s.Kept pq) : Kept.out pq (execProbeRspReceived s) := by
  unfold execProbeRspReceived
  simp only [Kept.out_next]
  refine .ite ?_ hs
  split <;> rename_i heq
  · exact hs
  · exact .of_takeAnswer heq hs
  · exact .ite (State.resendPair_kept _ _ _ (.of_takeAnswer heq hs)) (.of_takeAnswer heq hs)

theorem execRemoteNackReceived_kept (hs : s.Kept pq) : Kept.out pq (execRemoteNackReceived s) := by
  unfold execRemoteNackReceived
  simp only [Kept.out_next]
  refine .ite ?_ hs
  split <;> rename_i heq
  · exact hs
  · exact .of_takeAnswer heq hs
  have ht := State.Kept.of_takeAnswer heq hs
  split
  · exact ht
  refine .ite ht (.ite ?_ (State.endRmt_kept _ _ (State.rmtFailed_kept _ _ _ ht)))
  exact kept_foldl (fun _ _ h => State.endRmt_kept _ _ (State.rmtFailed_kept _ _ _ h)) _ ht

theorem execRemoteResponse_kept (hs : s.Kept pq) : Kept.out pq (execRemoteResponse s) := by
  unfold execRemoteResponse
  simp only [Kept.out_next]
  refine .ite ?_ hs
  split <;> rename_i heq
  · exact hs
  · exact .of_takeAnswer heq hs
  have ht := State.Kept.of_takeAnswer heq hs
  split
  · exact ht
  · exact .ite (State.endRmt_kept _ _ (State.rmtDone_kept _ _ _ ht))
      (State.endRmt_kept _ _ (State.rmtFailed_kept _ _ _ ht))

/-! ### The ports -/

theorem execTrainLanesFixed_kept (port : Fin 6) (lanes : BitVec 8) (hs : s.Kept pq) :
    Kept.out pq (execTrainLanesFixed port lanes s) := by
  have hf := State.setFld_kept s (lk port Reg.FAB_LINK_STATE) 17 10 lanes.toNat hs
  unfold execTrainLanesFixed
  simp only [Kept.out_next]
  refine .ite ?_ hs
  split
  · exact State.enterInit_kept _ _ _ _ (State.trainUs_kept _ _ hf)
  · exact .ite (State.speedFallback_kept _ _ hf) (State.enterDetect_kept _ _ (State.linkEvent_kept _ _ _ hf))

theorem execInitSend_kept (port : Fin 6) (hs : s.Kept pq) : Kept.out pq (execInitSend port s) := by
  have hp (x : Port) := State.setPort_kept _ port x
    (State.txFrame_kept s port 4 0 0 (s.initPayload port) hs)
  unfold execInitSend
  simp only [Kept.out_next]
  refine .ite ?_ hs
  split
  · exact State.initEnd_kept _ _ _ (hp _)
  · exact hp _

/-- The five commands that receive a frame: what a good frame does, and what a bad one. -/
theorem State.kept_frame {p : Nat} {f : List Byte} {c : FrameCheck} {t : State} {d : Prop} [Decidable d]
    (ht : t.Kept pq) (hs : s.Kept pq) : State.Kept pq (if d then
      match c with
      | .good => t
      | c => s.badFrame p f c
    else s) := by
  refine .ite ?_ hs
  split
  · exact ht
  · exact State.badFrame_kept _ _ _ _ hs

theorem execInitReceived_kept (port : Fin 6) (frame : List Byte) (coding : Bool) (hs : s.Kept pq) :
    Kept.out pq (execInitReceived port frame coding s) :=
  State.kept_frame (.ite (State.setPort_kept _ _ _ hs) hs) hs

theorem execDataFrameReceived_kept (port : Fin 6) (frame : List Byte) (coding : Bool) (hs : s.Kept pq) :
    Kept.out pq (execDataFrameReceived port frame coding s) :=
  State.kept_frame (.ite (State.dataFrame_kept _ _ _ (State.noteFrame_kept _ _ _ hs)) hs) hs

theorem execCtrlFrameReceived_kept (port : Fin 6) (frame : List Byte) (coding : Bool) (hs : s.Kept pq) :
    Kept.out pq (execCtrlFrameReceived port frame coding s) :=
  State.kept_frame (.ite (State.noteFrame_kept _ _ _ hs) hs) hs

theorem execNackReceived_kept (port : Fin 6) (frame : List Byte) (coding : Bool) (hs : s.Kept pq) :
    Kept.out pq (execNackReceived port frame coding s) :=
  State.kept_frame (.ite (State.resend_kept _ _ _ (State.noteFrame_kept _ _ _ hs)) hs) hs

theorem execGoodbyeReceived_kept (port : Fin 6) (frame : List Byte) (coding : Bool) (hs : s.Kept pq) :
    Kept.out pq (execGoodbyeReceived port frame coding s) :=
  State.kept_frame (.ite (State.linkDown_kept _ _ _ hs) hs) hs

theorem execCheckInterval_kept (port : Fin 6) (hs : s.Kept pq) :
    Kept.out pq (execCheckInterval port s) := by
  unfold execCheckInterval
  extract_lets p x miss m t1 t2 src t3
  have h1 : t1.Kept pq := .ite (State.bump_kept _ _ _ hs) hs
  have h2 : t2.Kept pq := .ite (State.resend_kept _ _ _ h1) h1
  have h3 : t3.Kept pq := State.setPort_kept _ _ _ h2
  exact .ite (.ite (State.linkDown_kept _ _ _ h3) h3) hs

theorem execDownIdleExpiry_kept (port : Fin 6) (hs : s.Kept pq) :
    Kept.out pq (execDownIdleExpiry port s) :=
  .ite (.ite (State.setLink_kept _ _ _ _ _ hs)
    (State.setPort_kept _ _ _ (State.linkDiscard_kept _ _ (State.setLink_kept _ _ _ _ _ hs)))) hs

theorem execFastTrainDeadline_kept (port : Fin 6) (hs : s.Kept pq) :
    Kept.out pq (execFastTrainDeadline port s) :=
  .ite (State.enterDetect_kept _ _ (State.linkDiscard_kept _ _ (State.linkEvent_kept _ _ _ hs))) hs

/-! ### Boot, the flash and the fuses -/

theorem execBootStart_kept (flash : Option FlashPart) (hs : s.Kept pq) :
    Kept.out pq (execBootStart flash s) := by
  unfold execBootStart
  extract_lets tap t1 t2 f t3 t4 t5
  have h2 : t2.Kept pq := State.emit_kept _ _ hs
  have h3 : t3.Kept pq := h2
  have h4 : t4.Kept pq := State.applyFuses_kept _ (State.flashHello_kept _ h3)
  have h5 : t5.Kept pq := by
    unfold t5; clear_value f t4; split
    · exact State.flashInfo_kept _ _ (State.applyIdent_kept _ _ h4)
    · exact h4
  exact .ite (State.setStep_kept _ _ (State.applyCopy_kept _ _ h5)) hs

theorem execDramTrainingDone_kept (rate : Option (Fin 3)) (chOk : BitVec 16) (big : Bool)
    (hs : s.Kept pq) : Kept.out pq (execDramTrainingDone rate chOk big s) := by
  unfold execDramTrainingDone
  extract_lets set r t1 t2 t3
  have h1 : t1.Kept pq := State.setReg_kept _ _ _ hs
  have h2 : t2.Kept pq := State.setFld_kept _ _ _ _ _ (State.setFld_kept _ _ _ _ _
    (State.setFld_kept _ _ _ _ _ h1))
  have h3 : t3.Kept pq := by
    clear_value t2
    exact State.bumpFresh_kept _ (by simp [h2])
  exact .ite (State.setStep_kept _ _ h3) hs

/-- The end of the firmware check keeps: an image starts, or none does. -/
theorem State.kept_fwFound {t : State} (o : Option Nat) (im : Nat → List Byte) (ht : t.Kept pq)
    (hs : s.Kept pq) : State.Kept pq (match o with
      | some n => s.startFw n (im n)
      | none => t) := by
  split
  · exact State.startFw_kept _ _ _ hs
  · exact ht

/-- A flash part there or not: what follows keeps where it keeps in either case. -/
theorem State.kept_flash {t : State} {g : FlashPart → State} (o : Option FlashPart) (ht : t.Kept pq)
    (hg : ∀ f, (g f).Kept pq) : State.Kept pq (match o with
      | none => t
      | some f => g f) := by
  split
  · exact ht
  · exact hg _

theorem execFirmwareCheckDone_kept (hs : s.Kept pq) : Kept.out pq (execFirmwareCheckDone s) := by
  have hn := State.setFld_kept s Reg.ALM_BOOT_STATUS 8 8 1 hs
  have hf (f : FlashPart) (o : Option Nat) := State.kept_fwFound o (fwImage f) hn hs
  unfold execFirmwareCheckDone
  exact State.Kept.ite (State.setStep_kept _ _ (State.kept_flash _ hn fun f => hf f _)) hs

/-- Taking the registers as the post-almanac state keeps. -/
theorem State.postAlm_kept {t : State} (ht : t.Kept pq) : State.Kept pq { t with postAlm := t.regs } := by
  simp [ht]

theorem execBootReady_kept (hs : s.Kept pq) : Kept.out pq (execBootReady s) :=
  .ite (State.postAlm_kept (State.setReg_kept _ _ _ (State.setReg_kept _ _ _ (State.startFabric_kept _
    (State.setFld_kept _ _ _ _ _ (State.setReg_kept _ _ _ (State.setStep_kept _ _ hs))))))) hs

theorem execFlashCommandDone_kept (res : FlashResult) (hs : s.Kept pq) :
    Kept.out pq (execFlashCommandDone res s) := by
  have hf (f : Option FlashPart) : State.Kept pq { s with flash := f } := hs
  have hu (f : Option FlashPart) (u : Option Update) :
      State.Kept pq { s with flash := f, update := u } := hs
  unfold execFlashCommandDone
  simp only [Kept.out_next]
  split
  swap
  · exact hs
  split
  · exact hs
  split
  · exact State.endUpdate_kept _ _ _ (hf _)
  · refine .ite ?_ (State.endUpdate_kept _ _ _ (hf _))
    split
    · exact State.endUpdate_kept _ _ _ (hf _)
    · exact State.issueFlash_kept _ (hu _ _)
  · exact State.issueFlash_kept _ (hu _ _)

theorem execFlashDeadline_kept (hs : s.Kept pq) : Kept.out pq (execFlashDeadline s) := by
  unfold execFlashDeadline
  simp only [Kept.out_next]
  split
  · split
    · exact State.endUpdate_kept _ _ _ hs
    · exact State.endUpdate_kept _ _ _ hs
    · exact hs
  · exact hs

theorem execSvnCommitDone_kept (hs : s.Kept pq) : Kept.out pq (execSvnCommitDone s) := by
  unfold execSvnCommitDone
  extract_lets n r
  have hr : r.1.Kept pq := State.rearmed_kept _ _ hs
  clear_value r
  exact .ite (State.setFld_kept _ _ _ _ _ (State.setFld_kept _ _ _ _ _ hr)) hs

end

end Sys2Proof.Machine
end

section
/-! SUPPORT. What each command of the ring, of admission, of the slots and of faults keeps. -/

namespace Sys2Proof.Machine

section
variable {pq : List Instr} {s : State}

/-! ### The ring -/

theorem execPoll_kept (hs : s.Kept pq) : Kept.out pq (execPoll s) := by
  have hp (r : Ring) : State.Kept pq { (s.pollPeriod.bump Reg.FE_POLLS 1).emitHost
      (.read ((s.pollPeriod.bump Reg.FE_POLLS 1).reg64 Reg.FE_DB_ADDR) 64) with ring := r } :=
    State.emitHost_kept _ _ (State.bump_kept _ _ _ (State.pollPeriod_kept _ hs))
  refine .ite (kept_foldl (fun t u ht => ?_) _
    (kept_foldl (fun t u ht => State.askPennant_kept _ _ _ ht) _ (hp _))) hs
  split
  · exact State.askPennant_kept _ _ _ ht
  · exact State.readPennant_kept _ _ _ ht
  · exact State.readPennant_kept _ _ _ ht
  · exact ht

theorem execDoorbellReadReturn_kept (tail : Word32) (fail : Option ReadFail) (hs : s.Kept pq) :
    Kept.out pq (execDoorbellReadReturn tail fail s) := by
  have hr (r : Ring) : State.Kept pq { s with ring := r } := hs
  refine State.ringEdge_kept _ _ hs (.ite ?_ hs)
  split
  · exact State.flushHeld_kept _ (State.pollEnd_kept _ (State.ringReadErr_kept _
      (State.hostErr_kept _ _ _ (hr _))))
  · refine State.flushHeld_kept _ (State.pollEnd_kept _ (State.readEntries_kept _ ?_))
    exact .ite (State.setReg_kept _ _ _ (.ite (hr _) (hr _))) (State.ringFlag_kept _ _ (hr _))

theorem execEntryReadReturn_kept (bytes : List Byte) (fail : Option ReadFail) (hs : s.Kept pq) :
    Kept.out pq (execEntryReadReturn bytes fail s) := by
  have hr (r : Ring) : State.Kept pq { s with ring := r } := hs
  refine State.ringEdge_kept _ _ hs (.ite ?_ hs)
  split
  · exact State.flushHeld_kept _ (State.ringReadErr_kept _ (State.hostErr_kept _ _ _ hs))
  · have ht := State.clearFront_kept _ (State.takeEntries_kept _
      ((upto s.ring.reading).map fun i => (bytes.drop (64 * i)).take 64)
      (hr { s.ring with reading := 0, stalled := false }))
    exact State.flushHeld_kept _ (.ite ht (State.readEntries_kept _ ht))

/-! ### Admission -/

theorem execHandleCopyDone_kept (hs : s.Kept pq) : Kept.out pq (execHandleCopyDone s) := by
  refine State.ringEdge_kept _ _ hs ?_
  split
  · exact hs
  rename_i h _
  refine .ite hs ?_
  have hr := State.readLocal_kept s (h.src + 32) (32 * (h.count - 1)) hs
  split <;> rename_i heq <;> rw [heq] at hr
  · exact .ite (State.clearFront_kept _ (State.rejectFront_kept _ hr)) hr
  · rename_i t l
    have hw (c : Option HandleCopy) (g : List HandleGen) :
        State.Kept pq { (t.writeLocal (h.base + 32) l).1 with hcopy := c, gens := g } :=
      State.writeLocal_kept _ _ _ hr
    exact .ite (State.passHead_kept _ (State.checkPend_kept _ (State.holdSigs_kept _ _ _ _ (hw _ _)))) (hw _ _)

theorem execSealSpaceFreed_kept (v : View) (hs : s.Kept pq) : Kept.out pq (execSealSpaceFreed v s) := by
  refine State.ringEdge_kept _ _ hs ?_
  split
  · exact hs
  refine .ite hs ?_
  have hr (r : Ring) : State.Kept pq { s with ring := r } := hs
  extract_lets r t a
  have ht : t.Kept pq := hr _
  have ha : a.Kept pq := by
    unfold a; clear_value t
    split
    · exact State.finishLaunch_kept _ _ _ ht
    · exact State.finishSubmit_kept _ _ _ ht
    · trivial
  clear_value a
  split
  · exact State.passHead_kept _ ha
  · exact hs

theorem execReStreamDestroy_kept (v : View) (hs : s.Kept pq) :
    Kept.out pq (execReStreamDestroy v s) :=
  State.admitRow_kept _ _ (fun _ _ ht => State.checkDestroy_kept _ _ (State.setStream_kept _ _ _ ht)) hs

theorem execReStreamRelease_kept (v : View) (hs : s.Kept pq) :
    Kept.out pq (execReStreamRelease v s) := by
  refine State.admitRow_kept _ _ (fun t r ht => Acted.kept_ite (fun _ => ht) fun _ => ?_) hs
  have hx (x : StreamRec) := State.setStream_kept t r.stream x ht
  exact State.reSignals_kept _ _ _ (State.heads_kept _ (State.checkPend_kept _
    (.ite (kept_foldl (fun _ _ h => State.endAborted_kept _ _ _ h) _ (hx _)) (hx _))))

theorem execReAbort_kept (v : View) (hs : s.Kept pq) : Kept.out pq (execReAbort v s) := by
  refine State.admitRow_kept _ _ (fun _ _ ht => actAbort_kept _ _ ht) ?_
  split
  · exact State.dropSealing_kept _ _ hs
  · exact hs

theorem execReRestore_kept (v : View) (hs : s.Kept pq) : Kept.out pq (execReRestore v s) := by
  unfold execReRestore
  simp only [Kept.out_next]
  split
  · split
    · exact .ite (State.restoreTarget_kept _ _ _ _ _ hs) hs
    · exact hs
  · exact State.admitRow_kept _ _ (fun _ _ ht => actRestore_kept _ _ ht) hs

theorem execReAlmanacUpdateRead_kept (v : View) (hs : s.Kept pq) :
    Kept.out pq (execReAlmanacUpdateRead v s) := by
  refine State.admitRow_kept _ _ (fun t r ht => Acted.kept_ite (fun _ => ht) fun _ => ?_) hs
  have hd {t : State} (c : Nat) (q : Option Nat) (ht : t.Kept pq) := State.flashResult_kept _ c q none
    (leAt r.raw 24 8 % 2 ^ 48) r.sigs (State.setFld_kept t Reg.ALM_UPDATE 11 4 c ht)
  refine Acted.kept_ite (fun _ => State.flashResult_kept _ _ _ _ _ _ ht) fun _ => Acted.kept_ite
    (fun _ => hd _ _ ht) fun _ => Acted.kept_ite (fun _ => hd _ _ ht) fun _ => Acted.kept_ite
    (fun _ => hd _ _ ht) fun _ => ?_
  have hw := State.ownWrite_kept t (leAt r.raw 16 8 % 2 ^ 48) t.copy ht
  exact Acted.kept_ite (fun _ => hd _ _ hw) fun _ => hd _ _ hw

theorem execReFabricRediscover_kept (v : View) (hs : s.Kept pq) :
    Kept.out pq (execReFabricRediscover v s) :=
  State.admitRow_kept _ _ (fun _ _ ht => State.holdSigs_kept _ _ _ _ (State.advanceEpoch_kept _ _ ht)) hs

theorem execReFabricRemap_kept (v : View) (hs : s.Kept pq) : Kept.out pq (execReFabricRemap v s) := by
  refine State.admitRow_kept _ _ (fun t r ht => Acted.kept_ite (fun _ => ht) fun _ => ?_) hs
  have hf (f : Fabric) : State.Kept pq { t with fab := f } := ht
  exact State.holdSigs_kept _ _ _ _ (State.advanceEpoch_kept _ _ (hf _))

theorem execReFabricFence_kept (v : View) (hs : s.Kept pq) : Kept.out pq (execReFabricFence v s) :=
  State.admitRow_kept _ _ (fun _ _ ht => State.checkPend_kept _ (State.holdSigs_kept _ _ _ _ ht)) hs

/-! ### The slots -/

theorem execSlotMap_kept (v : View) (hs : s.Kept pq) : Kept.out pq (execSlotMap v s) :=
  .ite (kept_foldl (fun _ _ h => State.mapOne_kept _ _ h) _
    (kept_foldl (fun _ _ h => State.loadOne_kept _ _ h) _ hs)) hs

theorem execPrefetch_kept (stream : Fin 512) (v : View) (hs : s.Kept pq) :
    Kept.out pq (execPrefetch stream s v) :=
  .ite (kept_foldl (fun _ _ h => State.prefetchBuf_kept _ _ _ h) _ hs) hs

theorem execNotBeforeReached_kept (stream : Fin 512) (hs : s.Kept pq) :
    Kept.out pq (execNotBeforeReached stream s) := by
  unfold execNotBeforeReached
  simp only [Kept.out_next]
  split
  · split
    · exact .ite (State.setEntry_kept _ _ hs) hs
    · exact hs
  · exact hs

theorem execHostPennantReadReturn_kept (uda : BitVec 48) (word : Word64) (fail : Option ReadFail)
    (hs : s.Kept pq) : Kept.out pq (execHostPennantReadReturn uda word fail s) := by
  have hd := State.dropPenRead_kept s uda.toNat hs
  have hr (r : Ring) : State.Kept pq { s.dropPenRead uda.toNat with ring := r } := hd
  unfold execHostPennantReadReturn
  simp only [Kept.out_next]
  split
  · exact hs
  refine .ite hs ?_
  split
  · exact State.flushHeld_kept _ (State.pollEnd_kept _ (State.hostErr_kept _ _ _ hd))
  · exact State.flushHeld_kept _ (State.pollEnd_kept _ (State.observe_kept _ _ _ _ (hr _)))

theorem execSegmentBind_kept (stream : Fin 512) (v : View) (hs : s.Kept pq) :
    Kept.out pq (execSegmentBind stream v s) := by
  unfold execSegmentBind
  simp only [Kept.out_next]
  split
  · exact hs
  refine .ite ?_ hs
  split <;> rename_i heq
  · exact hs
  · exact State.raise_kept _ _ _ (State.bindSeg_kept heq hs)
  · exact State.setEntry_kept _ _ (State.bindSeg_kept heq hs)

/-- A slot's token with its value set to 0. -/
def Tok.zeroed (n : Nat) (y : Nat × Tok) : Nat × Tok :=
  if y.2.alloc = true ∧ y.2.slot = n then (y.1, { y.2 with value := 0 }) else y

theorem Tok.zeroed_fst (n : Nat) (y : Nat × Tok) : (Tok.zeroed n y).1 = y.1 := by
  unfold Tok.zeroed; split <;> rfl

/-- An allocated token is not the free one, whatever its value. -/
theorem Tok.zeroed_ne_free {n : Nat} {y : Nat × Tok} (h : y.2 ≠ Tok.free) :
    (Tok.zeroed n y).2 ≠ Tok.free := by
  unfold Tok.zeroed
  split
  · rename_i ha
    intro he
    have : false = true := (congrArg Tok.alloc he).symm.trans ha.1
    cases this
  · exact h

theorem MapOk.toksZeroed {l : SMap Tok} (h : MapOk pq State.tokD l) (n : Nat) :
    MapOk pq State.tokD (l.map (Tok.zeroed n)) := by
  unfold MapOk at h ⊢
  rw [SMap.wf_iff] at h ⊢
  refine ⟨List.pairwise_map.2 (h.1.imp fun hxy => ?_), fun x hx => ?_⟩
  · simpa only [Tok.zeroed_fst] using hxy
  · obtain ⟨y, hy, rfl⟩ := List.mem_map.1 hx
    exact Tok.zeroed_ne_free (h.2 y hy)

/-- Setting the values of a slot's tokens to 0 keeps. -/
theorem State.toksZeroed_kept (n : Nat) (hs : s.Kept pq) :
    State.Kept pq { s with toks := s.toks.map (Tok.zeroed n) } := by
  simp [hs, MapOk.toksZeroed hs.toks_ok]

theorem execSegmentAdvance_kept (slot : Fin 8) (hs : s.Kept pq) :
    Kept.out pq (execSegmentAdvance slot s) := by
  unfold execSegmentAdvance
  simp only [Kept.out_next]
  split
  · exact hs
  split
  · exact .ite (State.toksZeroed_kept _ (State.setSlot_kept _ _ _ (State.setEntry_kept _ _ hs))) hs
  · exact hs

theorem execCommit_kept (stream : Fin 512) (hs : s.Kept pq) : Kept.out pq (execCommit stream s) := by
  have hc (e : Entry) := State.endCommitted_kept s e hs
  unfold execCommit
  simp only [Kept.out_next]
  split
  · exact hs
  refine .ite hs ?_
  split
  · split
    · exact .ite (hc _) hs
    · exact hs
  refine .ite hs ?_
  split
  · exact hc _
  · exact hc _
  · exact .ite (hc _) (State.endCommitted_kept _ _ (State.ownWrite_kept _ _ _ hs))
  · exact .ite hs (hc _)
  · exact hs

theorem execCutTaken_kept (stream : Fin 512) (hs : s.Kept pq) :
    Kept.out pq (execCutTaken stream s) := by
  unfold execCutTaken
  simp only [Kept.out_next]
  split
  · exact hs
  rename_i c _
  refine .ite hs ?_
  split
  · exact hs
  refine .ite (State.raise_kept _ _ _ hs) (.ite hs ?_)
  have ha := State.stateArea_kept s c.x c.e c.b (bitOf c.cflags 2) hs
  split <;> rename_i heq <;> rw [heq] at ha
  · exact State.raise_kept _ _ _ ha
  · exact State.setSlot_kept _ _ _ (State.ownWrite_kept _ _ _ (State.ownWrite_kept _ _ _ ha))

theorem execContextImageWritten_kept (stream : Fin 512) (hs : s.Kept pq) :
    Kept.out pq (execContextImageWritten stream s) := by
  unfold execContextImageWritten
  simp only [Kept.out_next]
  split
  · exact hs
  rename_i c _
  have hx := State.setSlot_kept s c.slot (some { c.x with cutting := none }) hs
  refine .ite hs (.ite ?_ ?_)
  · exact State.endCommitted_kept _ _ (State.setStream_kept _ _ _ (State.dropEntry_kept _ _ _ hx))
  · exact kept_foldl (fun _ _ h => State.laneDone_kept _ _ _ h) _ (State.setEntry_kept _ _ hx)

/-! ### Resets and faults -/

theorem execResetPurge_kept (hs : s.Kept pq) : Kept.out pq (execResetPurge s) := by
  unfold execResetPurge
  simp only [Kept.out_next]
  split
  · exact hs
  rename_i c _
  refine .ite hs ?_
  have hp := State.purgePins_kept s (State.purgeRegs_kept _ (decide (c = .fault)) (State.purgeState_kept hs))
  generalize (s.purgeState.purgeRegs (decide (c = .fault))).purgePins s = t at hp ⊢
  have hm : (if decide (c = .fault) = true then t else t.purgeMsix).Kept pq :=
    .ite hp (State.purgeMsix_kept _ hp)
  generalize (if decide (c = .fault) = true then t else t.purgeMsix) = t' at hm ⊢
  have hr (r : Option ResetCause) : State.Kept pq { t' with resetPend := r } := hm
  have hj : State.Kept pq (if t'.ready = true then ({ t' with resetPend := none } : State).rejoin s
      else { t' with resetPend := none }) := .ite (State.rejoin_kept _ _ (hr _) hs) (hr _)
  exact .ite (State.notice_kept _ _ hj) hj

theorem execPerstN_kept (us : Nat) (hs : s.Kept pq) : Kept.out pq (execPerstN us s) := by
  unfold execPerstN
  split
  · trivial
  · exact State.fundamental_kept hs

theorem execStreamFault_kept (v : View) (hs : s.Kept pq) : Kept.out pq (execStreamFault s v) := by
  unfold execStreamFault
  simp only [Kept.out_next]
  split
  · exact hs
  rename_i idx _ _ _
  have hd := State.dropFault_kept s idx hs
  refine .ite hs ?_
  split
  · exact hd
  refine .ite (State.resetResponse_kept _ _ _ hd) ?_
  split
  · exact State.contain_kept _ _ _ _ _ _ hd
  split
  · exact hs
  · exact State.stopSlot_kept _ _ _ _ hd

theorem execEntryQuiesced_kept (stream : Fin 512) (hs : s.Kept pq) :
    Kept.out pq (execEntryQuiesced stream s) := by
  unfold execEntryQuiesced
  simp only [Kept.out_next]
  split
  · exact hs
  split
  · refine .ite hs ?_
    split
    · exact State.contain_kept _ _ _ _ _ _ hs
    · exact State.afterEntry_kept _ _ (State.endAborted_kept _ _ _ hs)
  · exact hs

theorem execHostReadCompletion_kept (i : HostIssuer) (status : CplStatus) (hs : s.Kept pq) :
    Kept.out pq (execHostReadCompletion i status s) := by
  unfold execHostReadCompletion
  simp only [Kept.out_next]
  refine .ite (State.recordDone_kept _ _ hs) ?_
  split
  · exact .ite (State.flushHeld_kept _ (State.ringEdge_kept _ _ hs (State.readFails_kept _ _ hs))) hs
  · exact hs

theorem execCompletionTimeout_kept (i : HostIssuer) (hs : s.Kept pq) :
    Kept.out pq (execCompletionTimeout i s) :=
  .ite (State.flushHeld_kept _ (State.ringEdge_kept _ _ hs (State.readFails_kept _ _ hs))) hs

end

end Sys2Proof.Machine
end

section
/-! SUPPORT. What each command of the sequencer, of the units and of the host's links keeps. -/

namespace Sys2Proof.Machine

section
variable {pq : List Instr} {s : State}

/-! ### The sequencer -/

theorem execCheckpoint_kept (slot : Fin 8) (node : Fin 9) (st : SeqStep) (hs : s.Kept pq) :
    Kept.out pq (execCheckpoint slot node st s) := by
  have h2 : State.Kept pq (s.step2 slot node st (fun w => opCode w == 0x0F) fun f s drs _ =>
      let f := { f with l := { f.l with cp := bits f.w 79 64 } }
      if s.cutPending f.x.entry then
        s.blockAt f drs (.checkpoint (bits f.w 79 64) (bits f.w 88 80))
      else s.finishLane f drs) :=
    State.step2_kept _ _ _ _ _ _ (fun _ _ _ _ ht => .ite (State.blockAt_kept _ _ _ _ ht)
      (State.finishLane_kept _ _ _ ht)) hs
  unfold execCheckpoint
  simp only [Kept.out_next]
  split
  · split
    · exact .ite (State.laneDone_kept _ _ _ hs) hs
    · exact h2
  · exact hs

theorem execBarrier_kept (slot : Fin 8) (node : Fin 9) (st : SeqStep) (hs : s.Kept pq) :
    Kept.out pq (execBarrier slot node st s) :=
  State.step2_kept _ _ _ _ _ _ (fun _ _ _ _ ht => .ite (State.testWaits_kept _ _ _ _
    (State.blockAt_kept _ _ _ _ (kept_foldl (fun _ _ h => State.makePost_kept _ _ h) _ ht))) ht) hs

theorem execOpComplete_kept (slot : Fin 8) (node : Fin 9) (ofs : Nat) (hs : s.Kept pq) :
    Kept.out pq (execOpComplete slot node ofs s) := by
  have hops {t : State} (l : List OpRec) (ht : t.Kept pq) : State.Kept pq { t with ops := l } := ht
  unfold execOpComplete
  simp only [Kept.out_next]
  split
  swap
  · exact hs
  rename_i o x _ _
  have ht := State.countBytes_kept s slot o.owed hs
  refine .ite (.ite ?_ ?_) hs
  · have hc := kept_foldl_ctx (fun c (x : Nat × List Byte) h => Ctx.write_kept c false true x.1 x.2 h)
      o.after (Ctx.start_kept _ View.none [] ht)
    generalize o.after.foldl (fun (c : Ctx) x => c.write false true x.1 x.2)
      (Ctx.start (s.countBytes slot o.owed) View.none []) = c at hc ⊢
    refine .ite hs ?_
    split
    · exact State.unitFault_kept _ _ _ hc
    · exact State.setOp_kept _ _ (State.countBytes_kept _ _ _ (Ctx.flush_kept _ _ hc))
  · have hh := State.headerPost_kept _ slot node ofs o.word o.rep (State.countOp_kept _ slot ht)
    exact .ite (State.setOp_kept _ _ hh) (hops _ hh)

theorem execPostApply_kept (slot : Fin 8) (node : Fin 9) (tok : Fin 64) (srcs : List (Fin 9))
    (hs : s.Kept pq) : Kept.out pq (execPostApply slot node tok srcs s) := by
  have hp (l : List Post) : State.Kept pq { s with posts := l } := hs
  refine .ite hs ?_
  split
  · exact hp _
  · exact .ite (hp _) (State.testWaits_kept _ _ _ _ (State.applyPosts_kept _ _ _ (hp _)))

/-! ### The array -/

theorem execMatmul_kept (slot : Fin 8) (node : Fin 9) (ph : Phase) (v : View) (hs : s.Kept pq) :
    Kept.out pq (execMatmul slot node ph v s) := by
  unfold execMatmul
  cases ph with
  | relocate => exact State.relocate_kept _ _ _ _ _ hs
  | issue => exact State.enqueue_kept _ _ _ _ _ hs
  | idle _ _ => exact hs
  | perform ofs =>
    have hc := State.claim_kept s slot node ofs (fun w => opCode w == 0x02) hs
    simp only [Kept.out_next]
    split <;> rename_i heq <;> rw [heq] at hc
    · exact hc
    · exact .ite hc (State.startMat_kept _ _ hc)

theorem execArrayStep_kept (cl : Fin 8) (tile : Fin 16) (idle : Nat) (hs : s.Kept pq) :
    Kept.out pq (execArrayStep cl tile idle s) := by
  unfold execArrayStep
  simp only [Kept.out_next]
  split
  · exact hs
  rename_i o c _
  refine .ite hs ?_
  have hb := State.beginAll_kept s o c (c.together tile) hs
  split <;> rename_i heq <;> rw [heq] at hb
  · exact State.unitFault_kept _ _ _ hb
  rename_i t
  refine .ite ?_ hb
  have hp := State.stepAll_kept t o c (t.stepCycles cl + idle) (c.together tile) hb
  split <;> rename_i heq <;> rw [heq] at hp
  · exact State.unitFault_kept _ _ _ hp
  · exact State.afterRound_kept _ _ _ _ (State.clusterStep_kept _ _ _ _ (State.bump_kept _ _ _ hp))

theorem execBlockSpill_kept (cl : Fin 8) (tile : Fin 16) (hs : s.Kept pq) :
    Kept.out pq (execBlockSpill cl tile s) := by
  unfold execBlockSpill
  show State.Kept pq _
  split
  · exact hs
  rename_i o c _
  refine .ite hs ?_
  have hb := State.beginAll_kept s o c (c.together tile) hs
  split <;> rename_i heq <;> rw [heq] at hb
  · exact State.unitFault_kept _ _ _ hb
  rename_i t
  split
  swap
  · exact hb
  rename_i r m _ _
  split
  · exact hb
  rename_i l rest _
  refine .ite hb ?_
  have hx := Ctx.spillTile_kept _ o c tile l (!c.w.spillAdd && !r.spilled.contains l)
    (Ctx.start_kept _ View.none [] hb)
  extract_lets x s1 s2 r' x' q
  have h1 : x'.s.Kept pq := State.bump_kept _ _ _ (State.bump_kept _ _ _ (State.clearSlot_kept _ _ _ _ _ hx))
  have hq : q.1.s.Kept pq := by
    unfold q
    clear_value x'
    split
    · exact Ctx.afterSpill_kept _ _ _ _ _ _ h1
    · exact h1
  clear_value q
  split
  · exact State.unitFault_kept _ _ _ hx
  split
  · exact State.unitFault_kept _ _ _ hq
  · exact State.checkIssued_kept _ _ (State.setRun_kept _ _ _ (State.countBytes_kept _ _ _ hq))

theorem execOverflowRewind_kept (cl : Fin 8) (tile : Fin 16) (hs : s.Kept pq) :
    Kept.out pq (execOverflowRewind cl tile s) := by
  unfold execOverflowRewind
  show State.Kept pq _
  split
  · exact hs
  rename_i o c _
  refine .ite hs (.ite (State.unitFault_kept _ _ _ hs) ?_)
  extract_lets q
  have hq : q.1.Kept pq := by
    refine kept_foldl_fst (fun y t hy => ?_) _ hs
    split
    · exact hy
    · exact State.setRun_kept _ _ _ (State.bump_kept _ _ _ (State.bump_kept _ _ _
        (State.bump_kept _ _ _ (State.rewindTile_kept _ _ _ _ hy))))
  clear_value q
  split
  · exact State.unitFault_kept _ _ _ hs
  · exact hq

theorem execMarginDecision_kept (slot : Fin 8) (id : BitVec 8) (hs : s.Kept pq) :
    Kept.out pq (execMarginDecision slot id s) := by
  unfold execMarginDecision
  show State.Kept pq _
  extract_lets os ms
  split
  swap
  · exact hs
  refine .ite hs ?_
  extract_lets t q s1 h u w s2
  have hq : q.1.s.Kept pq := Ctx.marginRows_kept _ _ _ _ (Ctx.start_kept _ _ _ hs)
  have h1 : s1.Kept pq := kept_foldl (fun _ _ h => State.stopMember_kept _ _ _ _ h) _ hq
  have hw : w.s.Kept pq := Ctx.write_kept _ _ _ _ _ (Ctx.start_kept _ _ _ h1)
  have h2 : s2.Kept pq := State.bump_kept _ _ _ (State.countBytes_kept _ _ _ (Ctx.flush_kept _ _ hw))
  clear_value s2 w q
  split
  · exact State.unitFault_kept _ _ _ hq
  refine .ite (kept_foldl (fun y z hy => ?_) _ hq) ?_
  · split
    · exact State.setOp_kept _ _ hy
    · exact hy
  split
  · exact State.unitFault_kept _ _ _ hw
  refine .ite hs ?_
  split
  · exact State.setOp_kept _ _ h2
  · exact h2

/-! ### The host's links -/

theorem execPatrolScrubVisit_kept (unit : Fin 400) (flips : List (Nat × BitVec 7)) (hs : s.Kept pq) :
    Kept.out pq (execPatrolScrubVisit unit flips s) := by
  have hf := kept_foldl (fun t (x : Nat × BitVec 7) h => State.upset_kept t x.1 x.2.toNat h) flips hs
  exact .ite (.ite (State.scrubBank_kept _ _ hf) (State.scrubChannel_kept _ _ hf)) hs

theorem execCorrectionWriteback_kept (hs : s.Kept pq) : Kept.out pq (execCorrectionWriteback s) := by
  unfold execCorrectionWriteback
  simp only [Kept.out_next]
  refine .ite ?_ hs
  split
  · exact hs
  · simp [hs]

theorem execBar2Read_kept (ofs : BitVec 28) (len : Nat) (hs : s.Kept pq) :
    Kept.out pq (execBar2Read ofs len s) :=
  .ite hs (.ite (State.unsupported_kept _ _ hs) (.ite (State.emit_kept _ _ hs)
    (.ite (State.emit_kept _ _ (State.bump_kept _ _ _ hs)) (State.winRead_kept _ _ _ hs))))

theorem execBar2Write_kept (ofs : BitVec 28) (bytes : List (Option Byte)) (hs : s.Kept pq) :
    Kept.out pq (execBar2Write ofs bytes s) :=
  .ite hs (.ite (State.unsupported_kept _ _ hs) (.ite hs (.ite (State.bump_kept _ _ _ hs)
    (State.winWrite_kept _ _ _ hs))))

theorem execConfigRequest_kept (write : Bool) (dword : BitVec 10) (be : BitVec 4) (value : Word32)
    (hs : s.Kept pq) : Kept.out pq (execConfigRequest write dword be value s) :=
  .ite hs (.ite (State.emit_kept _ _ hs) (.ite (State.emit_kept _ _ (State.cfgWrite_kept _ _ _ _ hs))
    (State.emit_kept _ _ hs)))

theorem execMsixMessageSend_kept (hs : s.Kept pq) : Kept.out pq (execMsixMessageSend s) := by
  have hm (l : List Nat) (n : Nat) : State.Kept pq { s with msixReq := l, pba := n } := hs
  unfold execMsixMessageSend
  simp only [Kept.out_next]
  split
  · exact hs
  · exact .ite hs (.ite (hm _ _) (.ite hs (State.emit_kept _ _ (hm _ _))))

theorem execPcieLinkUp_kept (speed : Fin 6) (width : Fin 4) (hs : s.Kept pq) :
    Kept.out pq (execPcieLinkUp speed width s) := by
  have hc (w : Word32) : State.Kept pq { s with cfg := SMap.set cfgReset s.cfg 0x80 w } := by simp [hs]
  exact .ite hs (State.setReg_kept _ _ _ (hc _))

theorem execSmbSnap_kept (inc pecOk : Bool) (hs : s.Kept pq) :
    Kept.out pq (execSmbSnap inc pecOk s) := by
  refine State.smbWrite_kept _ _ _ hs fun t ht => ?_
  extract_lets r src
  have hr : r.1.Kept pq := by
    unfold r
    split
    · exact State.readDword_kept _ _ _ _ ht
    · exact State.readDword_kept _ _ _ _ ht
    · exact ht
  exact hr

theorem execSmbCommit_kept (inc pecOk : Bool) (hs : s.Kept pq) :
    Kept.out pq (execSmbCommit inc pecOk s) := by
  refine State.smbWrite_kept _ _ _ hs fun t ht => ?_
  have hw : (if (inPwr t.smb.addr && t.ready) = true then t.dwordWrite .smbus t.smb.addr 15 t.smb.data
      else t).Kept pq := .ite (State.dwordWrite_kept _ _ _ _ _ ht) ht
  exact hw

/-- The state behind a re-arm keeps. -/
theorem State.Kept.of_rearmed {t t' : State} {n : Nat} {b : Bool} (h : t.rearmed n = (t', b))
    (ht : t.Kept pq) : t'.Kept pq := by
  have hr := State.rearmed_kept t n ht
  rwa [h] at hr

theorem execEphSelftestDone_kept (hs : s.Kept pq) : Kept.out pq (execEphSelftestDone s) := by
  unfold execEphSelftestDone
  simp only [Kept.out_next]
  split
  · exact hs
  rename_i f k x _
  refine .ite hs ?_
  generalize ephSelfTest f k x = e
  have he {t : State} (h : t.Kept pq) : State.Kept pq { t with ephRun := none } := h
  split <;> rename_i heq
  · refine State.ephBegin_kept _ (.of_rearmed heq ?_)
    split
    · exact State.setReg64_kept _ _ _ (State.setFld_kept _ _ _ _ _ hs)
    · exact State.setFld_kept _ _ _ _ _ hs
  · refine State.setFld_kept _ _ _ _ _ (he (.of_rearmed heq ?_))
    split
    · exact State.setReg64_kept _ _ _ (State.setFld_kept _ _ _ _ _ hs)
    · exact State.setFld_kept _ _ _ _ _ hs

end

end Sys2Proof.Machine
end

section
/-! OBLIGATION O5. Every step keeps the canonical form: each command keeps it, and so does a cycle. -/

namespace Sys2Proof.Machine

section
variable {pq : List Instr} {s : State}

/-- Every command keeps the queue of waiting commands and the canonical form. -/
theorem exec_kept (i : Instr) (hs : s.Kept pq) : Kept.out pq (exec i s) := by
  cases i with
  | poll => exact execPoll_kept hs
  | doorbellReadReturn => exact execDoorbellReadReturn_kept _ _ hs
  | entryReadReturn => exact execEntryReadReturn_kept _ _ hs
  | ringStatusWrite => exact .ite (State.writeLine_kept _ hs) hs
  | ringEnable => exact State.hostWriteReg_kept _ _ _ _ hs
  | ringDisable => exact State.hostWriteReg_kept _ _ _ _ hs
  | reNop => exact State.admitRow_kept _ _ (fun _ _ ht => ht) hs
  | reSubmit => exact State.admitRow_kept _ _ (fun _ _ ht => actSubmit_kept _ _ ht) hs
  | sealSpaceFreed => exact execSealSpaceFreed_kept _ hs
  | reLaunch => exact State.admitRow_kept _ _ (fun _ _ ht => actLaunch_kept _ _ ht) hs
  | reStreamCreate => exact State.admitRow_kept _ _ (fun _ _ ht => actCreate_kept _ _ ht) hs
  | reStreamConfigure => exact State.admitRow_kept _ _ (fun _ _ ht => actConfigure_kept _ _ ht) hs
  | reStreamDestroy => exact execReStreamDestroy_kept _ hs
  | reStreamRelease => exact execReStreamRelease_kept _ hs
  | reWaitOnly => exact State.admitRow_kept _ _ (fun _ _ ht => State.addEntry_kept _ _ ht) hs
  | reSignalOnly => exact State.admitRow_kept _ _ (fun _ _ ht => State.addEntry_kept _ _ ht) hs
  | reAbort => exact execReAbort_kept _ hs
  | reSave => exact State.admitRow_kept _ _ (fun _ _ ht => actSave_kept _ ht) hs
  | reRestore => exact execReRestore_kept _ hs
  | reChartLoad => exact State.admitRow_kept _ _ (fun _ _ ht => actChartLoad_kept _ ht) hs
  | reChartPatchVersioned => exact State.admitRow_kept _ _ (fun _ _ ht => actPatchVersioned_kept _ _ ht) hs
  | reChartPatchHot => exact State.admitRow_kept _ _ (fun _ _ ht => actPatchHot_kept _ _ ht) hs
  | reChartDrop => exact State.admitRow_kept _ _ (fun _ _ ht => actChartDrop_kept _ ht) hs
  | reHandleSync => exact State.admitRow_kept _ _ (fun _ _ ht => State.startCopy_kept _ _ ht) hs
  | handleCopyDone => exact execHandleCopyDone_kept hs
  | reAlmanacUpdateAlmanac => exact State.admitRow_kept _ _ (fun _ _ ht => actUpdate_kept _ _
      (fun _ _ _ _ h => State.almanacUpdate_kept _ _ _ _ h) _ ht) hs
  | reAlmanacUpdateFirmware => exact State.admitRow_kept _ _ (fun _ _ ht => actUpdate_kept _ _
      (fun _ _ _ _ h => State.firmwareUpdate_kept _ _ _ _ h) _ ht) hs
  | reAlmanacUpdateRead => exact execReAlmanacUpdateRead_kept _ hs
  | flashCommandDone => exact execFlashCommandDone_kept _ hs
  | reFabricRediscover => exact execReFabricRediscover_kept _ hs
  | reFabricRemap => exact execReFabricRemap_kept _ hs
  | reFabricFence => exact execReFabricFence_kept _ hs
  | slotMap => exact execSlotMap_kept _ hs
  | prefetch => exact execPrefetch_kept _ _ hs
  | notBeforeReached => exact execNotBeforeReached_kept _ hs
  | watchReread => exact .ite (State.readPennant_kept _ _ _ hs) hs
  | hostPennantReadReturn => exact execHostPennantReadReturn_kept _ _ _ hs
  | commit => exact execCommit_kept _ hs
  | segmentBind => exact execSegmentBind_kept _ _ hs
  | segmentAdvance => exact execSegmentAdvance_kept _ hs
  | nop => exact State.step2_kept _ _ _ _ _ _ (fun _ _ _ _ ht =>
      State.finishLane_kept _ _ _ ht) hs
  | tensorDesc => exact State.step2_kept _ _ _ _ _ _ (fun _ _ _ _ ht =>
      State.finishLane_kept _ _ _ ht) hs
  | matmul => exact execMatmul_kept _ _ _ _ hs
  | arrayStep => exact execArrayStep_kept _ _ _ hs
  | blockSpill => exact execBlockSpill_kept _ _ hs
  | marginDecision => exact execMarginDecision_kept _ _ hs
  | overflowRewind => exact execOverflowRewind_kept _ _ hs
  | moveCopy => exact State.unitOp_kept _ _ _ _ _ moveCopyBody_kept hs
  | moveStrided => exact State.unitOp_kept _ _ _ _ _ moveStridedBody_kept hs
  | moveTranspose => exact State.unitOp_kept _ _ _ _ _ moveTransposeBody_kept hs
  | moveGather => exact State.unitOp_kept _ _ _ _ _ moveGatherBody_kept hs
  | moveFill => exact State.unitOp_kept _ _ _ _ _ moveFillBody_kept hs
  | moveA48Add => exact State.unitOp_kept _ _ _ _ _ moveA48AddBody_kept hs
  | egress => exact State.unitOp_kept _ _ _ _ _ egressBody_kept hs
  | topk => exact State.unitOp_kept _ _ _ _ _ topkBody_kept hs
  | topkMerge => exact State.unitOp_kept _ _ _ _ _ mergeBody_kept hs
  | maskGenMask => exact State.unitOp_kept _ _ _ _ _ maskBody_kept hs
  | maskGenNoiseTile => exact State.unitOp_kept _ _ _ _ _ noiseBody_kept hs
  | tileRead => exact State.unitOp_kept _ _ _ _ _ tileReadBody_kept hs
  | tileWrite => exact State.unitOp_kept _ _ _ _ _ tileWriteBody_kept hs
  | tokenPost => exact State.step2_kept _ _ _ _ _ _ (fun _ _ _ _ ht =>
      .ite (State.finishLane_kept _ _ _ ht) ht) hs
  | tokenWait => exact State.step2_kept _ _ _ _ _ _ (fun _ _ _ _ ht =>
      State.testWaits_kept _ _ _ _ (State.blockAt_kept _ _ _ _ ht)) hs
  | pennantSignalWrite => exact State.pennantSignal_kept _ _ _ _ hs
  | pennantSignalMax => exact State.pennantSignal_kept _ _ _ _ hs
  | pennantWait => exact State.step2_kept _ _ _ _ _ _ (fun _ _ _ _ ht =>
      State.askPennant_kept _ _ _ (State.blockAt_kept _ _ _ _ (State.takeWatch_kept _ _ ht))) hs
  | checkpoint => exact execCheckpoint_kept _ _ _ hs
  | barrier => exact execBarrier_kept _ _ _ hs
  | opComplete => exact execOpComplete_kept _ _ _ hs
  | postApply => exact execPostApply_kept _ _ _ _ hs
  | streamFault => exact execStreamFault_kept _ hs
  | entryQuiesced => exact execEntryQuiesced_kept _ hs
  | deviceInternalFault => exact .ite (State.resetResponse_kept _ _ _ (State.bump_kept _ _ _ hs)) hs
  | resetPurge => exact execResetPurge_kept hs
  | progressSample => exact .ite (kept_foldl (fun _ _ h => State.sampleSlot_kept _ _ h) _ hs) hs
  | cutTaken => exact execCutTaken_kept _ hs
  | hostReadCompletion => exact execHostReadCompletion_kept _ _ hs
  | completionTimeout => exact execCompletionTimeout_kept _ hs
  | registerWrite => exact State.dwordWrite_kept _ _ _ _ _ hs
  | pairLowRead => exact State.dwordRead_kept _ _ _ _ hs
  | pairLowWrite => exact State.dwordWrite_kept _ _ _ _ _ hs
  | pairHighWrite => exact State.dwordWrite_kept _ _ _ _ _ hs
  | expertUnlockWrite => exact State.hostWriteReg_kept _ _ _ _ hs
  | noticeEnableWrite => exact State.hostWriteReg_kept _ _ _ _ hs
  | msixMessageSend => exact execMsixMessageSend_kept hs
  | ephSelftestStart => exact State.hostWriteReg_kept _ _ _ _ hs
  | ephSelftestDone => exact execEphSelftestDone_kept hs
  | svnCommit => exact State.hostWriteReg_kept _ _ _ _ hs
  | svnCommitDone => exact execSvnCommitDone_kept hs
  | recoveryStart => exact State.hostWriteReg_kept _ _ _ _ hs
  | linkRetrainWrite => exact State.hostWriteReg_kept _ _ _ _ hs
  | linkEnableWrite => exact State.hostWriteReg_kept _ _ _ _ hs
  | linkDisableWrite => exact State.hostWriteReg_kept _ _ _ _ hs
  | pinMuxWrite => exact State.hostWriteReg_kept _ _ _ _ hs
  | pinSwitchComplete => exact execPinSwitchComplete_kept _ hs
  | bar2Read => exact execBar2Read_kept _ _ hs
  | bar2Write => exact execBar2Write_kept _ _ hs
  | configRequest => exact execConfigRequest_kept _ _ _ _ hs
  | flr => exact State.pcieResetBy_kept _ _ hs
  | hotReset => exact State.hostLinkDown_kept _ (State.pcieResetBy_kept _ _ hs)
  | linkDisable => exact State.hostLinkDown_kept _ (State.pcieResetBy_kept _ _ hs)
  | dlDown => exact State.hostLinkDown_kept _ (State.pcieResetBy_kept _ _ hs)
  | d3hotEntry => exact State.pcieResetBy_kept _ _ hs
  | l1Entry => exact .ite (State.setFld_kept _ _ _ _ _ hs) hs
  | linkRecovery => exact .ite (State.bump_kept _ _ _ hs) hs
  | perstN => exact execPerstN_kept _ hs
  | refclkLoss => exact State.fundamental_kept hs
  | pwrGoodFall => exact State.fundamental_kept hs
  | bootStart => exact execBootStart_kept _ hs
  | dramTrainingDone => exact execDramTrainingDone_kept _ _ _ hs
  | firmwareCheckDone => exact execFirmwareCheckDone_kept hs
  | bootReady => exact execBootReady_kept hs
  | patrolScrubVisit => exact execPatrolScrubVisit_kept _ _ hs
  | correctionWriteback => exact execCorrectionWriteback_kept hs
  | dramRefresh => exact .ite (State.emit_kept _ _ hs) hs
  | mr4Read => exact .ite (State.setFld_kept _ _ _ _ _ hs) hs
  | wck2dqiTracking => exact .ite (State.emit_kept _ _ hs) hs
  | telemetrySnapshot => exact execTelemetrySnapshot_kept hs
  | telemetryDrop => exact execTelemetryDrop_kept hs
  | governorPeriod => exact execGovernorPeriod_kept _ hs
  | pllLocked => exact execPllLocked_kept hs
  | voutSettleExpiry => exact execVoutSettleExpiry_kept hs
  | pmbusTransactionDone => exact execPmbusTransactionDone_kept _ _ hs
  | opSwitch => exact execOpSwitch_kept hs
  | thermalSample => exact execThermalSample_kept _ hs
  | thermalCeilingStep => exact execThermalCeilingStep_kept hs
  | thermalTrip => exact execThermalTrip_kept hs
  | brakeApply => exact execBrakeApply_kept hs
  | brakeRelease => exact execBrakeRelease_kept hs
  | smbAddrWrite => exact State.smbWrite_kept _ _ _ hs fun _ ht => ht
  | smbAddrRead => exact .ite (State.emit_kept _ _ hs) hs
  | smbDataWrite => exact State.smbWrite_kept _ _ _ hs fun _ ht => ht
  | smbDataRead => exact .ite (State.emit_kept _ _ hs) hs
  | smbSnap => exact execSmbSnap_kept _ _ hs
  | smbCommit => exact execSmbCommit_kept _ _ hs
  | smbWindowDone => exact .ite hs hs
  | smbStatusRead => exact .ite (State.emit_kept _ _ hs) hs
  | smbSnapshotRead => exact .ite (State.emit_kept _ _ hs) hs
  | smbAlertResponse => exact .ite (State.emit_kept _ _ hs) hs
  | tsBurst => exact .ite (State.emit_kept _ _ hs) hs
  | tsReceived => exact .ite (State.setPort_kept _ _ _ (State.setLink_kept _ _ _ _ _ hs)) hs
  | trainLanesFixed => exact execTrainLanesFixed_kept _ _ hs
  | trainDeadline => exact .ite (State.enterDetect_kept _ _ (State.linkEvent_kept _ _ _ hs)) hs
  | speedDeadline => exact .ite (State.speedFallback_kept _ _ hs) hs
  | initSend => exact execInitSend_kept _ hs
  | initReceived => exact execInitReceived_kept _ _ _ hs
  | dataFrameReceived => exact execDataFrameReceived_kept _ _ _ hs
  | ctrlFrameReceived => exact execCtrlFrameReceived_kept _ _ _ hs
  | nackReceived => exact execNackReceived_kept _ _ _ hs
  | goodbyeReceived => exact execGoodbyeReceived_kept _ _ _ hs
  | heartbeat => exact .ite (State.txFrame_kept _ _ _ _ _ _ hs) hs
  | checkInterval => exact execCheckInterval_kept _ hs
  | laneLockLoss => exact .ite (State.linkDown_kept _ _ _ hs) hs
  | electricalIdleDetected => exact .ite (State.linkDown_kept _ _ _ hs) hs
  | downIdleExpiry => exact execDownIdleExpiry_kept _ hs
  | fastTrainLocked => exact .ite (State.enterInit_kept _ _ _ _ (State.trainUs_kept _ _ hs)) hs
  | fastTrainDeadline => exact execFastTrainDeadline_kept _ hs
  | helloSend => exact .ite (State.sendMgt_kept _ _ _ hs) hs
  | helloReceived => exact execHelloReceived_kept _ hs
  | parentTimeout => exact execParentTimeout_kept hs
  | advertReceived => exact execAdvertReceived_kept _ hs
  | fabricSettle => exact .ite (State.settle_kept _ hs) hs
  | packetForward => exact execPacketForward_kept hs
  | remoteRead => exact State.serveType_kept _ _ hs
  | remoteWrite => exact State.serveType_kept _ _ hs
  | remoteA48Add => exact State.serveType_kept _ _ hs
  | halyard => exact State.serveType_kept _ _ hs
  | probe => exact execProbe_kept hs
  | remoteResponse => exact execRemoteResponse_kept hs
  | probeRspReceived => exact execProbeRspReceived_kept hs
  | remoteNackReceived => exact execRemoteNackReceived_kept hs
  | fsbSyncPulse => exact .ite (State.emit_kept _ _ hs) hs
  | tapReset => exact State.tapSelect_kept _ _ _ _ hs
  | tapIdcode => exact State.emit_kept _ _ (State.tapSelect_kept _ _ _ _ hs)
  | tapSamplePreload => exact execTapSamplePreload_kept _ _ hs
  | tapExtest => exact .ite (State.tapSelect_kept _ _ _ _ hs) (State.tapBypassed_kept _ hs)
  | tapClamp => exact .ite (State.emit_kept _ _ (State.tapSelect_kept _ _ _ _ hs)) (State.tapBypassed_kept _ hs)
  | tapHighz => exact .ite (State.emit_kept _ _ (State.tapSelect_kept _ _ _ _ hs)) (State.tapBypassed_kept _ hs)
  | tapDbgSelect => exact execTapDbgSelect_kept hs
  | tapBypass => exact State.tapBypassed_kept _ hs
  | flashDeadline => exact execFlashDeadline_kept hs
  | pcieLinkUp => exact execPcieLinkUp_kept _ _ hs
  | l1Exit => exact .ite (State.setFld_kept _ _ _ _ _ hs) hs
  | contextImageWritten => exact execContextImageWritten_kept _ hs

end

/-- A step keeps the canonical form, and leaves the queue without its front. -/
theorem step_kept {s : State} (hs : s.Canonical) : Kept.out s.pending.tail (step s) := by
  unfold step
  split <;> rename_i heq
  · exact State.tick_kept _ (State.kept_iff.2 ⟨by rw [heq]; rfl, hs⟩)
  · exact exec_kept _ (State.kept_iff.2 ⟨by rw [heq]; rfl, hs⟩)

/-- Settles O5: each of the commands, and a cycle of an empty queue, is built of operations that keep the
canonical form (`exec_kept`, `State.tick_kept`). -/
theorem everyStepKeepsCanonicalForm : Obligations.EveryStepKeepsCanonicalForm := by
  intro s t hs ht
  have hk := step_kept hs
  rw [ht] at hk
  exact (State.kept_iff.1 hk).2

end Sys2Proof.Machine
end

section
/-! SUPPORT. The purge of a reset (R617 steps 5 and 6): what the registers hold after it, and what the pins,
the ports and the notice that follow leave as it is. -/

namespace Sys2Proof.Machine

/-! ### The registers -/

/-- Registers written one by one, each with a value of its own, hold those values; the others are as before. -/
theorem State.reg_foldl_setReg (v : Nat → Nat) (l : List Nat) {s : State}
    (h : SMap.wf regReset s.regs = true) (o : Nat) :
    (l.foldl (fun (t : State) k => t.setReg k (v k)) s).reg o =
      if o ∈ l then v o % 2 ^ 32 else s.reg o := by
  induction l generalizing s with
  | nil => simp
  | cons k l ih =>
    rw [List.foldl_cons, ih (State.wf_setReg h k (v k))]
    by_cases hl : o ∈ l
    · rw [if_pos hl, if_pos (List.mem_cons_of_mem _ hl)]
    · rw [if_neg hl]
      by_cases hk : o = k
      · rw [hk, State.reg_setReg_same h, if_pos List.mem_cons_self]
      · rw [State.reg_setReg_other h _ hk, if_neg (by simp [hk, hl])]

/-- The registers written one by one stay canonical. -/
theorem State.wf_foldl_setReg (v : Nat → Nat) (l : List Nat) {s : State}
    (h : SMap.wf regReset s.regs = true) :
    SMap.wf regReset (l.foldl (fun (t : State) k => t.setReg k (v k)) s).regs = true :=
  List.foldlRecOn l _ (motive := fun t : State => SMap.wf regReset t.regs = true) h
    fun _ ht _ _ => State.wf_setReg ht _ _

/-- A dword listed neither in the registers nor in their post-almanac values is the same in both. -/
theorem State.reg_eq_postAlm {s : State} {o : Nat} (h : o ∉ (s.regs ++ s.postAlm).map fun x => x.1) :
    s.reg o = (SMap.get regReset s.postAlm o).toNat := by
  have hn (l : SMap Word32) (hl : ∀ x ∈ l, x ∈ s.regs ++ s.postAlm) : SMap.get regReset l o = regReset o :=
    SMap.get_of_not_mem fun x hx hxo => h (List.mem_map.2 ⟨x, hl x hx, hxo⟩)
  rw [State.reg, hn s.regs fun x hx => List.mem_append_left _ hx,
    hn s.postAlm fun x hx => List.mem_append_right _ hx]

/-- A register that is kept holds its value after the purge, and one that shows no live state its
post-almanac value (R936). -/
theorem State.reg_purgeRegs {s : State} (h : SMap.wf regReset s.regs = true) (hr : s.ready = true)
    (fault : Bool) (o : Nat) :
    (keptReg fault o = true → (s.purgeRegs fault).reg o = s.reg o) ∧
    (keptReg fault o = false → liveReg o = false →
      (s.purgeRegs fault).reg o = (SMap.get regReset s.postAlm o).toNat) := by
  have hreg : (s.purgeRegs fault).reg o =
      if o ∈ (s.regs ++ s.postAlm).map (fun x => x.1) then s.purgedDword fault o % 2 ^ 32 else s.reg o := by
    rw [State.purgeRegs, if_neg (by simp [hr])]
    exact State.reg_foldl_setReg (s.purgedDword fault) _ h o
  rw [hreg]
  refine ⟨fun hk => ?_, fun hk hl => ?_⟩
  · rw [State.purgedDword, if_pos hk, Nat.mod_eq_of_lt (s.reg_lt o), ite_self]
  · have hv : s.purgedDword fault o = (SMap.get regReset s.postAlm o).toNat := by
      simp [State.purgedDword, hk, hl]
    rw [hv, Nat.mod_eq_of_lt (BitVec.isLt _)]
    split
    · rfl
    · exact State.reg_eq_postAlm ‹_›

/-- The purge of the registers changes nothing else, and leaves them canonical. -/
theorem State.purgeRegs_rest (s : State) (fault : Bool) :
    s.purgeRegs fault = { s with regs := (s.purgeRegs fault).regs } := by
  unfold State.purgeRegs
  split
  · rfl
  · exact List.foldlRecOn _ _ (motive := fun t : State => t = { s with regs := t.regs }) rfl
      fun t ht k _ => congrArg (fun x : State => x.setReg k (s.purgedDword fault k)) ht

theorem State.wf_purgeRegs {s : State} (h : SMap.wf regReset s.regs = true) (fault : Bool) :
    SMap.wf regReset (s.purgeRegs fault).regs = true := by
  unfold State.purgeRegs
  split
  · exact h
  · exact State.wf_foldl_setReg _ _ h

/-! ### The ports -/

namespace State.OnlyLinks

theorem linkDiscard (s : State) (p : Nat) : s.OnlyLinks (s.linkDiscard p) :=
  (bump s _ (le_lk p (by decide))).trans (setPort _ _ _)

theorem enterDetect (s : State) (p : Nat) : s.OnlyLinks (s.enterDetect p) :=
  ((setLink s p _ _ _).trans (setReg _ _ (le_lk p (by decide)))).trans (setPort _ _ _)

theorem linkCtrl (s : State) (p : Nat) (was : Bool) : s.OnlyLinks (s.linkCtrl p was) := by
  have h := setReg s (s.reg (lk p Reg.FAB_LINK_CTRL) % 2) (le_lk p (o := Reg.FAB_LINK_CTRL) (by decide))
  unfold State.linkCtrl
  dsimp only
  split
  · split
    · exact h.trans (goodbye _ _ _)
    · split
      · exact h.trans ((setLink _ _ _ _ _).trans (linkDiscard _ _))
      · exact h
  · split
    · exact h.trans (enterDetect _ _)
    · split
      · exact h.trans (goodbye _ _ _)
      · exact h

theorem rejoin (s was : State) : s.OnlyLinks (s.rejoin was) := by
  unfold State.rejoin
  extract_lets s1 s2 en s3
  have h2 : s.OnlyLinks s2 := (((setReg s _ (by decide)).trans (setFab _ _)).trans
    (setReg _ _ (by decide))).trans (setReg _ _ (by decide))
  have h3 : s.OnlyLinks s3 := by
    unfold s3
    split
    · exact h2.trans ((setReg _ _ (by decide)).trans (advanceEpoch _ _))
    · exact h2.trans (setReg _ _ (by decide))
  exact h3.trans (foldl (fun t p => linkCtrl t p _) _ s3)

end State.OnlyLinks

/-! ### The pins and the notice -/

/-- Of `s`, at most the pins' parks, the messages waiting, HI_NOTICE_STATUS and registers from FAB_ on have
changed. -/
structure State.OnlyPins (s t : State) : Prop where
  rest : t = { s with
    regs := t.regs, parks := t.parks, muxWait := t.muxWait
    msixTab := t.msixTab, pba := t.pba, msixReq := t.msixReq }
  regs : SMap.wf regReset s.regs = true → SMap.wf regReset t.regs = true ∧
    ∀ o, o < 0x30000 → o ≠ Reg.HI_NOTICE_STATUS → t.reg o = s.reg o

namespace State.OnlyPins
variable {s t u : State}

theorem refl (s : State) : s.OnlyPins s := ⟨rfl, fun h => ⟨h, fun _ _ _ => rfl⟩⟩

theorem trans (h : s.OnlyPins t) (h' : t.OnlyPins u) : s.OnlyPins u where
  rest := Eq.trans h'.rest (congrArg (fun x : State =>
    { x with
      regs := u.regs, parks := u.parks, muxWait := u.muxWait
      msixTab := u.msixTab, pba := u.pba, msixReq := u.msixReq }) h.rest)
  regs hs := by
    obtain ⟨ht, hst⟩ := h.regs hs
    obtain ⟨hu, htu⟩ := h'.regs ht
    exact ⟨hu, fun o ho hn => (htu o ho hn).trans (hst o ho hn)⟩

theorem foldl {α : Type} {f : State → α → State} (hf : ∀ (s : State) x, s.OnlyPins (f s x)) (l : List α)
    (s : State) : s.OnlyPins (l.foldl f s) :=
  List.foldlRecOn l f (motive := s.OnlyPins) (refl s) fun t h x _ => h.trans (hf t x)

theorem setReg (s : State) {o : Nat} (v : Nat) (ho : 0x30000 ≤ o) : s.OnlyPins (s.setReg o v) where
  rest := rfl
  regs hs := ⟨State.wf_setReg hs o v, fun k hk _ => State.reg_setReg_other hs v (by omega)⟩

theorem setPark (s : State) (n : Nat) (k : Option Park) :
    s.OnlyPins { s with parks := SMap.set State.parkD s.parks n k } :=
  ⟨rfl, fun h => ⟨h, fun _ _ _ => rfl⟩⟩

theorem le_muxReg (n : Nat) : 0x30000 ≤ muxReg n := by unfold muxReg Reg.PIN_MUX; omega

theorem startSwitch (s : State) (n f : Nat) : s.OnlyPins (s.startSwitch n f) :=
  ((setPark s n _).trans (setReg _ _ (le_muxReg n))).trans (setReg _ _ (by decide))

theorem purgePins (s was : State) : s.OnlyPins (s.purgePins was) := by
  refine trans (t := { s with muxWait := none }) ⟨rfl, fun h => ⟨h, fun _ _ _ => rfl⟩⟩
    (foldl (fun t n => ?_) _ _)
  have h := setReg t (was.reg (muxReg n)) (le_muxReg n)
  dsimp only
  split
  · exact h.trans (setPark _ _ _)
  · split
    · exact h
    · exact h.trans (startSwitch _ _ _)

theorem purgeMsix (s : State) : s.OnlyPins s.purgeMsix := ⟨rfl, fun h => ⟨h, fun _ _ _ => rfl⟩⟩

theorem requestMsix (s : State) (n : Nat) : s.OnlyPins (s.requestMsix n) := by
  unfold State.requestMsix
  split
  · exact refl s
  split
  · exact ⟨rfl, fun h => ⟨h, fun _ _ _ => rfl⟩⟩
  split
  · exact refl s
  · exact ⟨rfl, fun h => ⟨h, fun _ _ _ => rfl⟩⟩

theorem notice (s : State) (n : Nat) : s.OnlyPins (s.notice n) := by
  have h : s.OnlyPins (s.setReg Reg.HI_NOTICE_STATUS (s.reg Reg.HI_NOTICE_STATUS ||| 2 ^ n)) :=
    ⟨rfl, fun hs => ⟨State.wf_setReg hs _ _, fun k _ hn => State.reg_setReg_other hs _ hn⟩⟩
  unfold State.notice
  dsimp only
  split
  · exact h.trans (requestMsix _ _)
  · exact h

end State.OnlyPins

/-! ### The purge -/

/-- The memories and the engines: what the purge clears, and the DRAM, which it keeps. -/
def State.engines (s : State) :=
  (s.plate, s.dram, s.streams, s.charts, s.gens, s.entries, s.ops, s.slots, s.mapSeq)

theorem State.OnlyPins.engines {s t : State} (h : s.OnlyPins t) : t.engines = s.engines :=
  (congrArg State.engines h.rest :)

theorem State.OnlyLinks.engines {s t : State} (h : s.OnlyLinks t) : t.engines = s.engines :=
  (congrArg State.engines h.rest :)

theorem State.purgeRegs_engines (s : State) (fault : Bool) : (s.purgeRegs fault).engines = s.engines :=
  (congrArg State.engines (s.purgeRegs_rest fault) :)

theorem State.purgeState_engines (s : State) :
    s.purgeState.engines = (Mem.zero, s.dram, [], [], [], [], [], [], 1) := rfl

/-- RESET_PURGE clears the state and the registers; then come the pins and, where the fabric is rejoined, the
ports; the reset is over, and a fault's reset raises notice 1. -/
theorem execResetPurge_parts {s : State} {c : ResetCause} (hc : s.resetPend = some c) (ha : s.alive = true) :
    ∃ p q, (s.purgeState.purgeRegs (c == .fault)).OnlyPins p ∧
      State.OnlyLinks { p with resetPend := none } q ∧
      execResetPurge s = .next (if c = .fault then q.notice 1 else q) := by
  have hp := State.OnlyPins.purgePins (s.purgeState.purgeRegs (decide (c = .fault))) s
  have hm : ((s.purgeState.purgeRegs (decide (c = .fault)))).OnlyPins
      (if decide (c = .fault) = true then (s.purgeState.purgeRegs (decide (c = .fault))).purgePins s
        else ((s.purgeState.purgeRegs (decide (c = .fault))).purgePins s).purgeMsix) := by
    split
    · exact hp
    · exact hp.trans (.purgeMsix _)
  have hdec : (c == .fault) = decide (c = .fault) := rfl
  rw [hdec]
  simp only [execResetPurge, hc, ha, Bool.true_eq_false, if_false]
  generalize (if decide (c = .fault) = true then (s.purgeState.purgeRegs (decide (c = .fault))).purgePins s
        else ((s.purgeState.purgeRegs (decide (c = .fault))).purgePins s).purgeMsix) = p at hm ⊢
  refine ⟨p, if p.ready = true then ({ p with resetPend := none } : State).rejoin s
    else { p with resetPend := none }, hm, ?_, by simp only [decide_eq_true_eq]⟩
  split
  · exact .rejoin _ _
  · exact .refl _

/-- Settles O19: the purge clears the engines (`State.purgeState_engines`) and puts each register at its value
(`State.reg_purgeRegs`); the pins, the ports and the notice leave both (`State.OnlyPins`, `State.OnlyLinks`). -/
theorem resetPurgeClearsTheEngines : Obligations.ResetPurgeClearsTheEngines := by
  intro s c hs hc ha hr
  obtain ⟨-, -, hregs, -⟩ := hs
  have hwf : SMap.wf regReset s.purgeState.regs = true := hregs
  have hready : s.purgeState.ready = true := hr
  obtain ⟨p, q, hp, hq, hex⟩ := execResetPurge_parts hc ha
  have hn : q.OnlyPins (if c = .fault then q.notice 1 else q) := by
    split
    · exact .notice q 1
    · exact .refl q
  obtain ⟨hwp, hrp⟩ := hp.regs (State.wf_purgeRegs hwf _)
  obtain ⟨hwq, hrq⟩ := hq.regs hwp
  obtain ⟨-, hrt⟩ := hn.regs hwq
  have hfault (h : c = .fault) : bitOf (State.reg (if c = .fault then q.notice 1 else q)
      Reg.HI_NOTICE_STATUS) 1 = true := by
    rw [if_pos h]
    exact State.bitOf_notice hwq (by decide)
  generalize (if c = .fault then q.notice 1 else q) = t at hex hn hrt hfault
  have heng : t.engines = (Mem.zero, s.dram, [], [], [], [], [], [], 1) := by
    rw [hn.engines, hq.engines]
    exact hp.engines.trans ((State.purgeRegs_engines _ _).trans s.purgeState_engines)
  simp only [State.engines, Prod.mk.injEq] at heng
  obtain ⟨hplate, hdram, hstreams, hcharts, hgens, hentries, hops, hslots, hmap⟩ := heng
  have hpend : t.resetPend = none :=
    ((congrArg State.resetPend hn.rest :) : t.resetPend = q.resetPend).trans
      (congrArg State.resetPend hq.rest :)
  have hreg {o : Nat} (ho : o < 0x30000) (hne : o ≠ Reg.HI_NOTICE_STATUS) :
      t.reg o = (s.purgeState.purgeRegs (c == .fault)).reg o :=
    ((hrt o ho hne).trans (hrq o ho)).trans (hrp o ho hne)
  refine ⟨t, hex, hpend, fun a => by rw [hplate]; rfl, hdram, fun n => ?_, fun n => ?_, hgens, hentries,
    hops, fun n => ?_, hmap, fun o ho hne => ?_, hfault⟩
  · rw [State.stream, hstreams]; rfl
  · rw [State.chart, hcharts]; rfl
  · rw [State.slot?, hslots]; rfl
  · rw [hreg ho hne]
    exact State.reg_purgeRegs hwf hready _ o

end Sys2Proof.Machine
end

section
/-! SUPPORT. Requests at their target (R307, R767 to R769): what taking one from the router leaves, and what
applying one in memory without errors stores and answers. -/

namespace Sys2Proof.Machine

/-! ### Taking a request -/

/-- The state in which a target has taken `k` from its router, with the pair state `p` of its source. -/
def State.taken (s : State) (k : Pkt) (rest : List Pkt) (p : PairSeq) : State :=
  (({ s with router := rest }).releasePkt k).setPair k.src p

/-- Taking a packet changes the router, the ports and the pair states alone. -/
theorem State.taken_rest (s : State) (k : Pkt) (rest : List Pkt) (p : PairSeq) :
    s.taken k rest p = { s with
      router := rest, ports := (s.taken k rest p).ports, tgts := SMap.set State.pairD s.tgts k.src p } := by
  unfold State.taken State.releasePkt
  split <;> rfl

/-- An answer carries the device's address, epoch and incarnation, and nothing else of its state (R764). -/
theorem State.answerPkt_of_regs {s t : State}
    (h : ∀ o ∈ [Reg.FAB_ADDR, Reg.FAB_EPOCH, Reg.FAB_INCARNATION], t.reg o = s.reg o) :
    t.answerPkt = s.answerPkt := by
  funext k ptype status pseq data
  simp only [State.answerPkt, State.ownAddr, State.incarnation, State.fld, h _ (by simp : Reg.FAB_ADDR ∈ _),
    h _ (by simp : Reg.FAB_EPOCH ∈ _), h _ (by simp : Reg.FAB_INCARNATION ∈ _)]

theorem State.answerPkt_congr {s t : State} (h : t.regs = s.regs) : t.answerPkt = s.answerPkt :=
  State.answerPkt_of_regs fun o _ => by rw [State.reg, h]; rfl

/-- Releasing a packet changes the ports alone. -/
theorem State.releasePkt_rest (s : State) (k : Pkt) :
    s.releasePkt k = { s with ports := (s.releasePkt k).ports } := by
  unfold State.releasePkt
  split <;> rfl

/-- The first request of a source has the type asked for. -/
theorem firstOfSrc_some {seen : List Nat} {mine p : Pkt → Bool} {l rest : List Pkt} {k : Pkt}
    (h : firstOfSrc seen mine p l = some (k, rest)) : k.isReq = true ∧ p k = true := by
  fun_induction firstOfSrc seen mine p l generalizing rest with
  | case1 => cases h
  | case2 seen x t hx =>
    obtain ⟨rfl, rfl⟩ := Prod.mk.inj (Option.some.inj h)
    simp only [Bool.and_eq_true] at hx
    exact ⟨hx.1.1.2, hx.2⟩
  | case3 seen x t hx y r hy ih =>
    obtain ⟨rfl, rfl⟩ := Prod.mk.inj (Option.some.inj h)
    exact ih hy
  | case4 => cases h

/-! ### Memory -/

theorem State.StoresOnly.refl (s : State) (u : Nat) : s.StoresOnly s u [] := by
  unfold State.StoresOnly
  split <;> exact ⟨rfl, by simp, fun _ _ => rfl⟩

/-- UDAs below 2^44 are DRAM, and those of the next 2^44 the plate store (R305). -/
theorem regionOf_dram {u : Nat} (h : u < 2 ^ 44) : regionOf u = .dram := by
  have h47 : bitOf u 47 = false := Nat.testBit_lt_two_pow (by omega)
  have hb : bits u 46 44 = 0 := by unfold bits; omega
  rw [regionOf, h47, hb]
  rfl

theorem regionOf_plate {x : Nat} (h : x < 2 ^ 44) : regionOf (2 ^ 44 + x) = .plate := by
  have h47 : bitOf (2 ^ 44 + x) 47 = false := Nat.testBit_lt_two_pow (by omega)
  have hb : bits (2 ^ 44 + x) 46 44 = 1 := by unfold bits; omega
  rw [regionOf, h47, hb]
  rfl

/-- A UDA that remote offsets map to lies in local memory (R307). -/
theorem State.isLocal_of_targetUda {s : State} {o u : Nat} (h : s.targetUda o = some u) :
    isLocal u = true := by
  have hw : s.fld Reg.MEM_REMOTE_CTRL 13 8 < 64 := Nat.mod_lt _ (by decide)
  unfold State.targetUda at h
  split at h
  · obtain rfl := Option.some.inj h
    rw [isLocal, regionOf_dram (by omega)]
  split at h
  · obtain rfl := Option.some.inj h
    rw [isLocal, regionOf_plate (by omega)]
  · cases h

/-- What a target does not refuse, and whose words have no errors, is usable. -/
theorem State.usable_of_targetOk {s : State} {o n u : Nat} (h : s.targetOk o n = some u)
    (he : s.EccFree u n) : s.Usable u n := by
  unfold State.targetOk at h
  split at h
  · cases h
  split at h
  · cases h
  rename_i v hv
  split at h
  · rename_i ha
    obtain rfl := Option.some.inj h
    exact ⟨State.isLocal_of_targetUda hv, ha, he⟩
  · cases h

/-- Words put back where none had errors are a plain write. -/
theorem State.storeBack_of_free {s : State} {u n : Nat} {l : List Byte} (h : s.EccFree u n)
    (hl : l.length ≤ n) : s.storeBack u l = s.rawWrite u l := by
  have hf : (s.rawWrite u l).ecc = s.ecc := by unfold State.rawWrite; split <;> rfl
  have hall : (s.rawWrite u l).ecc.filter (fun e => decide (e.1 < u / 8) || decide (u + l.length ≤ 8 * e.1)) =
      (s.rawWrite u l).ecc := by
    rw [hf]
    refine List.filter_eq_self.2 fun e he => ?_
    have := h e he
    simp only [Bool.or_eq_true, decide_eq_true_eq]
    omega
  simp only [State.storeBack, hall]

/-! ### Words -/

theorem length_chunks_mul_le {β : Type} {n : Nat} (f : Nat) (l : List β) (h : l.length % n = 0) :
    n * (chunks n f l).length ≤ l.length := by
  fun_induction chunks n f l with
  | case1 => simp
  | case2 => simp
  | case3 f l hl ih =>
    have hpos : 0 < l.length := List.length_pos_iff.2 hl
    have hle : n ≤ l.length := Nat.le_of_dvd hpos (Nat.dvd_of_mod_eq_zero h)
    have hd : (l.drop n).length = l.length - n := List.length_drop
    have := ih (by rw [hd, ← Nat.mod_eq_sub_mod hle, h])
    rw [List.length_cons, Nat.mul_add]
    omega

theorem length_leBytes (n v : Nat) : (leBytes n v).length = n := by
  fun_induction leBytes n v <;> simp_all

theorem length_sp16Words_le (a b : List Nat) : (sp16Words a b).1.length ≤ b.length := by
  fun_induction sp16Words a b with
  | case1 x xs y ys r t ih => simpa [t] using ih
  | case2 => simp

theorem length_a48Words_le (a b : List Nat) : (a48Words a b).1.length ≤ b.length := by
  fun_induction a48Words a b with
  | case1 x xs y ys r t ih => simpa [t] using ih
  | case2 => simp

theorem length_flatMap_leBytes (n : Nat) (l : List Nat) : (l.flatMap (leBytes n)).length = n * l.length := by
  simp [List.length_flatMap, length_leBytes, Nat.mul_comm]

/-- The words of a sum take no more bytes than the data added. -/
theorem length_sum_le {n : Nat} {words : List Nat} {data : List Byte}
    (h : data.length % n = 0) (hw : words.length ≤ (wordsOf n data).length) :
    (words.flatMap (leBytes n)).length ≤ data.length := by
  rw [wordsOf, List.length_map] at hw
  rw [length_flatMap_leBytes]
  exact (Nat.mul_le_mul_left n hw).trans (length_chunks_mul_le _ _ h)

/-! ### Applying a request -/

/-- Applied in usable memory, a request answers `data` with STATUS 0 and stores `new` at `u`, and no more. -/
def State.Applies (s : State) (k : Pkt) (u : Nat) (new data : List Byte) (sat : Nat) : Prop :=
  ∃ w, s.applyReq k = ⟨w, 0, data, sat⟩ ∧ s.StoresOnly w u new ∧
    w = { s with dram := w.dram, plate := w.plate }

section
variable {s : State} {k : Pkt} {u : Nat}

theorem State.rawWrite_rest (s : State) (u : Nat) (l : List Byte) :
    s.rawWrite u l = { s with dram := (s.rawWrite u l).dram, plate := (s.rawWrite u l).plate } := by
  unfold State.rawWrite; split <;> rfl

theorem State.Applies.of_rawWrite {new data : List Byte} {sat : Nat} (hs : s.Canonical)
    (h : s.applyReq k = ⟨s.rawWrite u new, 0, data, sat⟩) : s.Applies k u new data sat :=
  ⟨_, h, State.storesOnly_rawWrite hs u new, s.rawWrite_rest u new⟩

/-- READ. -/
theorem State.applies_read (hk : k.ptype = 1) (ho : s.targetOk k.off k.dlen = some u)
    (he : s.EccFree u k.dlen) : s.Applies k u [] (s.rawRead u k.dlen) 0 := by
  refine ⟨s, ?_, .refl s u, rfl⟩
  simp [State.applyReq, hk, ho, (State.usable_of_targetOk ho he).readLocal]

/-- WRITE. -/
theorem State.applies_write (hs : s.Canonical) (hk : k.ptype = 2)
    (ho : s.targetOk k.off k.data.length = some u) (he : s.EccFree u k.data.length) :
    s.Applies k u k.data [] 0 := by
  refine .of_rawWrite hs ?_
  simp [State.applyReq, hk, ho, (State.usable_of_targetOk ho he).writeLocal]

/-- An add. -/
theorem State.applyAdd_of_free {n : Nat} {data : List Byte} {f : List Nat → List Nat → List Nat × Nat}
    (hf : ∀ a b, (f a b).1.length ≤ b.length) (hu : s.Usable u data.length)
    (ha : u % n = 0 ∧ data.length % n = 0) :
    let r := f (wordsOf n (s.rawRead u data.length)) (wordsOf n data)
    s.applyAdd u n data f = ⟨s.rawWrite u (r.1.flatMap (leBytes n)), 0, [], r.2⟩ := by
  obtain ⟨hau, hal⟩ := ha
  have ⟨_, _, he⟩ := hu
  simp only [State.applyAdd, hau, hal, ne_eq, not_true_eq_false, or_self, if_false, hu.readLocal]
  rw [State.storeBack_of_free he (length_sum_le hal (hf _ _))]

theorem State.applies_add (hs : s.Canonical) (hk : k.ptype = 3)
    (ho : s.targetOk k.off k.data.length = some u) (he : s.EccFree u k.data.length)
    (ha : u % (if k.sp16 then 2 else 8) = 0 ∧ k.data.length % (if k.sp16 then 2 else 8) = 0) :
    let n := if k.sp16 then 2 else 8
    let old := s.rawRead u k.data.length
    let sum := if k.sp16 then sp16Words (wordsOf 2 old) (wordsOf 2 k.data)
      else a48Words (wordsOf 8 old) (wordsOf 8 k.data)
    s.Applies k u (sum.1.flatMap (leBytes n)) [] sum.2 := by
  have hu := State.usable_of_targetOk ho he
  refine .of_rawWrite hs ?_
  simp only [State.applyReq, hk, Nat.reduceEqDiff, if_false, if_true, ho]
  cases hsp : k.sp16 <;> simp only [hsp, Bool.false_eq_true, if_true, if_false] at ha ⊢
  · exact State.applyAdd_of_free length_a48Words_le hu ha
  · exact State.applyAdd_of_free length_sp16Words_le hu ha

/-- HALYARD. -/
theorem State.applies_halyard (hs : s.Canonical) (hk : k.ptype = 4)
    (ho : s.targetOk k.off k.data.length = some u) (he : s.EccFree u k.data.length)
    (hl : k.data.length = 8) :
    let old := s.rawRead u k.data.length
    let v := ofLeBytes (k.data.take 8)
    s.Applies k u (leBytes 8 (if bitOf k.nflags 4 then
        max (ofLeBytes old % 2 ^ 63) (v % 2 ^ 63) + 2 ^ 63 * b2n (bitOf (ofLeBytes old) 63 || bitOf v 63)
      else v % 2 ^ 63 + 2 ^ 63 * b2n (bitOf v 63))) [] 0 := by
  have hu := State.usable_of_targetOk ho he
  refine .of_rawWrite hs ?_
  rw [hl] at hu he ho
  simp only [State.applyReq, hk, Nat.reduceEqDiff, if_false, ho, hl]
  cases hm : bitOf k.nflags 4
  · have hw (x : Nat) : s.Usable u (leBytes 8 x).length := by rwa [length_leBytes]
    simp [(hw _).writeLocal, pennantAfter]
  · simp [hu.readLocal, pennantAfter, State.storeBack_of_free he (length_leBytes 8 _).le]

end

/-! ### Serving a request -/

section
variable {s : State} {k : Pkt} {rest : List Pkt}

/-- What the target does with the first request of its type. -/
theorem State.serveType_of_first {ty : Nat} (hr : s.running = true)
    (hf : firstOfSrc [] s.isMine (fun k => k.ptype == ty && (s.stalePkt k || s.actsNow k)) s.router =
      some (k, rest)) :
    s.serveType ty = if s.stalePkt k then ({ s with router := rest } : State).dropStale k
      else ({ s with router := rest } : State).serve k := by
  rw [State.serveType, if_pos hr, hf]
  rfl

/-- The pair state of a source after its request `k` has been applied (R768). -/
def Pkt.passed (k : Pkt) : PairSeq := ⟨(k.pseq + 1) % 2 ^ 32, k.inc⟩

/-- The pair state of a packet is that of its source's incarnation (R768). -/
theorem State.pairOf_inc (s : State) (k : Pkt) : (s.pairOf k).inc = k.inc := by
  unfold State.pairOf
  dsimp only
  split
  · assumption
  · rfl

/-- A request whose turn has come is applied (R768). -/
theorem State.serve_in_order (hn : k.pseq = (s.pairOf k).next) (hr : bitOf k.nflags 3 = false) :
    ({ s with router := rest } : State).serve k =
      ((s.taken k rest k.passed).applyReq k).answer k
        (if k.ptype = 1 then 0x81 else 0x82) := by
  have hp : k.passed = { s.pairOf k with next := ((s.pairOf k).next + 1) % 2 ^ 32 } := by
    rw [Pkt.passed, ← s.pairOf_inc k, hn]
  rw [hp]
  exact if_pos ⟨hn, hr⟩

/-- One after NEXT is dropped and counted (R768). -/
theorem State.serve_gap (hn : k.pseq ≠ (s.pairOf k).next) (hb : pairBefore k.pseq (s.pairOf k).next = false) :
    ({ s with router := rest } : State).serve k =
      (s.taken k rest (s.pairOf k)).bump Reg.FAB_GAP_DROP 1 :=
  (if_neg fun h => hn h.1).trans (if_pos ⟨hn, hb⟩)

/-- One before NEXT, or a replayed one, is acknowledged again and not applied (R768), but for a READ. -/
theorem State.serve_again (ht : k.ptype ≠ 1) (h : pairBefore k.pseq (s.pairOf k).next = true ∨
      (k.pseq = (s.pairOf k).next ∧ bitOf k.nflags 3 = true)) :
    ({ s with router := rest } : State).serve k =
      (s.taken k rest (s.pairOf k)).answer k 0x82 0 k.pseq [] := by
  have hself (n : Nat) : pairBefore n n = false := by
    have hd : (n + 2 ^ 32 - n % 2 ^ 32) % 2 ^ 32 = 0 := by omega
    unfold pairBefore
    rw [hd]
    rfl
  have h1 : ¬ (k.pseq = (s.pairOf k).next ∧ bitOf k.nflags 3 = false) := by
    rintro ⟨hn, hr⟩
    rcases h with hb | ⟨-, hr'⟩
    · rw [hn, hself] at hb; cases hb
    · rw [hr] at hr'; cases hr'
  have h2 : ¬ (k.pseq ≠ (s.pairOf k).next ∧ pairBefore k.pseq (s.pairOf k).next = false) := by
    rintro ⟨hn, hb'⟩
    rcases h with hb | ⟨hn', -⟩
    · rw [hb'] at hb; cases hb
    · exact hn hn'
  refine (if_neg h1).trans ((if_neg h2).trans ((if_neg ht).trans ?_))
  rw [if_neg ht]
  rfl

/-- The frame of a packet taken: the registers, the memories and the words in error are as before. -/
theorem State.taken_frame (s : State) (k : Pkt) (rest : List Pkt) (p : PairSeq) :
    (s.taken k rest p).regs = s.regs ∧ (s.taken k rest p).dram = s.dram ∧
      (s.taken k rest p).plate = s.plate ∧ (s.taken k rest p).ecc = s.ecc ∧
      (s.taken k rest p).router = rest ∧
      (s.taken k rest p).tgts = SMap.set State.pairD s.tgts k.src p := by
  rw [State.taken_rest]
  exact ⟨rfl, rfl, rfl, rfl, rfl, rfl⟩

theorem State.taken_canonical (hs : s.Canonical) (p : PairSeq) : (s.taken k rest p).Canonical :=
  have hr : State.Kept s.pending { s with router := rest } := State.kept_iff.2 ⟨rfl, hs⟩
  (State.kept_iff.1 (State.setPair_kept _ _ _ (State.releasePkt_kept _ _ hr))).2

/-- Its accesses of memory are those of the state before. -/
theorem State.taken_access (s : State) (k : Pkt) (rest : List Pkt) (p : PairSeq) :
    (s.taken k rest p).targetOk = s.targetOk ∧ (s.taken k rest p).rawRead = s.rawRead ∧
      (s.taken k rest p).EccFree = s.EccFree := by
  rw [State.taken_rest]
  exact ⟨rfl, rfl, rfl⟩

/-- A request in its turn that is applied: its answer joins the router, NEXT advances, and its bytes are
stored. -/
theorem State.served {ty u sat : Nat} {new data : List Byte} (hs : s.Canonical) (hr : s.running = true)
    (hf : firstOfSrc [] s.isMine (fun k => k.ptype == ty && (s.stalePkt k || s.actsNow k)) s.router =
      some (k, rest)) (hst : s.stalePkt k = false) (hn : k.pseq = (s.pairOf k).next)
    (hrep : bitOf k.nflags 3 = false)
    (h : (s.taken k rest k.passed).Applies k u new data sat) :
    (s.serveType ty).router = rest ++
        [{ s.answerPkt k (if k.ptype = 1 then 0x81 else 0x82) 0 k.pseq data with sat := sat }] ∧
      SMap.get State.pairD (s.serveType ty).tgts k.src = ⟨(k.pseq + 1) % 2 ^ 32, k.inc⟩ ∧
      s.StoresOnly (s.serveType ty) u new ∧ (s.serveType ty).regs = s.regs ∧
      (s.serveType ty).ecc = s.ecc := by
  have hserve : s.serveType ty = _ :=
    (State.serveType_of_first hr hf).trans ((if_neg (by simp [hst])).trans (State.serve_in_order hn hrep))
  obtain ⟨w, hw, hstores, hrest⟩ := h
  obtain ⟨hregs, hdram, hplate, hecc, hrouter, htgts⟩ :=
    s.taken_frame k rest k.passed
  generalize s.taken k rest k.passed = t at *
  have hwregs : w.regs = s.regs := ((congrArg State.regs hrest :) : w.regs = t.regs).trans hregs
  rw [hserve, hw]
  refine ⟨?_, ?_, ?_, hwregs, ((congrArg State.ecc hrest :) : w.ecc = t.ecc).trans hecc⟩
  · have hwr : w.router = rest := ((congrArg State.router hrest :) : w.router = t.router).trans hrouter
    simp only [Applied.answer, hwr, State.answerPkt_congr hwregs]
  · have hwt : w.tgts = SMap.set State.pairD s.tgts k.src k.passed :=
      ((congrArg State.tgts hrest :) : w.tgts = t.tgts).trans htgts
    obtain ⟨-, -, -, -, -, -, -, -, -, -, -, -, -, htg, -⟩ := hs
    show SMap.get State.pairD w.tgts k.src = _
    rw [hwt, SMap.get_set_same htg]
    rfl
  · unfold State.StoresOnly at hstores ⊢
    rw [hdram, hplate] at hstores
    exact hstores

end

/-- The four commands of a target serve requests of their types. -/
theorem exec_serveType {s : State} {i : Instr} {ty : Nat}
    (h : (i = .remoteRead ∧ ty = 1) ∨ (i = .remoteWrite ∧ ty = 2) ∨ (i = .remoteA48Add ∧ ty = 3) ∨
      (i = .halyard ∧ ty = 4)) : exec i s = .next (s.serveType ty) := by
  obtain ⟨rfl, rfl⟩ | ⟨rfl, rfl⟩ | ⟨rfl, rfl⟩ | ⟨rfl, rfl⟩ := h <;> rfl

/-- A stale request is counted, and answered by a NACK (R750). -/
theorem State.dropStale_request {s : State} {k : Pkt} (hs : s.Canonical) (hk : k.isReq = true) :
    (s.dropStale k).router = s.router ++ [s.answerPkt k 0x8F 2 k.pseq []] ∧ s.SameBytes (s.dropStale k) ∧
      (s.dropStale k).reg Reg.FAB_RMT_STALE = (s.reg Reg.FAB_RMT_STALE + 1) % 2 ^ 32 := by
  obtain ⟨-, -, hregs, -⟩ := hs
  have hdrop : s.dropStale k = ((s.bump Reg.FAB_RMT_STALE 1).releasePkt k).answer k 0x8F 2 k.pseq [] :=
    if_pos hk
  have hpkt : ((s.bump Reg.FAB_RMT_STALE 1).releasePkt k).answerPkt = s.answerPkt := by
    rw [State.releasePkt_rest]
    exact State.answerPkt_of_regs fun o ho => State.reg_bump_other hregs 1 (by
      rintro rfl; revert ho; decide)
  rw [hdrop, State.answer, hpkt, State.releasePkt_rest]
  exact ⟨rfl, fun _ => ⟨rfl, rfl⟩, State.reg_bump_same hregs _ 1⟩

/-- Settles O27: a request in its turn is applied by its type (`State.applies_read` and those after it) and
answered (`State.served`); the others are answered or dropped without an access of memory. -/
theorem remoteRequestsAreAppliedOnce : Obligations.RemoteRequestsAreAppliedOnce := by
  refine ⟨?applied, ?others⟩
  case applied =>
    intro s k rest i ty hs hr hi hf hst hn hrep u ho he n halign hlen old sum v new
    obtain ⟨-, hp⟩ := firstOfSrc_some hf
    have hk : k.ptype = ty := by
      simp only [Bool.and_eq_true, beq_iff_eq] at hp
      exact hp.1
    refine ⟨_, exec_serveType hi, ?_⟩
    have ht := State.taken_canonical (k := k) (rest := rest) hs k.passed
    obtain ⟨hok, hraw, hfree⟩ := s.taken_access k rest k.passed
    rw [← hok] at ho
    rw [← hfree] at he
    have h {data : List Byte} {sat : Nat} :=
      State.served (new := new) (data := data) (sat := sat) (u := u) hs hr hf hst hn hrep
    simp only [hk] at h
    obtain ⟨-, rfl⟩ | ⟨-, rfl⟩ | ⟨-, rfl⟩ | ⟨-, rfl⟩ := hi
    · have ha := State.applies_read hk ho he
      rw [hraw] at ha
      exact h ha
    · exact h (State.applies_write ht hk ho he)
    · have ha := State.applies_add ht hk ho he (halign rfl)
      rw [hraw] at ha
      exact h ha
    · have ha := State.applies_halyard ht hk ho he (hlen rfl)
      rw [hraw] at ha
      exact h ha
  case others =>
    intro s k rest i ty hs hr hi hf next rsp
    obtain ⟨hreq, hp⟩ := firstOfSrc_some hf
    have hk : k.ptype = ty := by
      simp only [Bool.and_eq_true, beq_iff_eq] at hp
      exact hp.1
    have hserve := State.serveType_of_first hr hf
    have hframe (p : PairSeq) := s.taken_frame k rest p
    have hexec := exec_serveType (s := s) hi
    rw [hserve] at hexec
    refine ⟨fun hst => ⟨_, hexec, ?_⟩, fun hst hn hb => ⟨_, hexec, ?_⟩, fun hst hty hb => ⟨_, hexec, ?_⟩,
      fun hst hn hrep ho => ⟨_, hexec, ?_⟩⟩
    · rw [if_pos hst]
      exact State.dropStale_request (s := { s with router := rest }) hs hreq
    · obtain ⟨hregs, hdram, hplate, -, hrouter, -⟩ := hframe (s.pairOf k)
      obtain ⟨-, -, hwf, -⟩ := hs
      rw [if_neg (by simp [hst]), State.serve_gap hn hb]
      refine ⟨hrouter, fun a => ⟨congrArg (·.read a) hdram, congrArg (·.read a) hplate⟩, ?_⟩
      rw [State.reg_bump_same (by rwa [hregs]), State.reg, hregs]
      rfl
    · obtain ⟨hregs, hdram, hplate, -, hrouter, -⟩ := hframe (s.pairOf k)
      have hrsp : rsp = 0x82 := if_neg hty
      rw [if_neg (by simp [hst]), State.serve_again (by rwa [hk]) hb, hrsp, State.answer,
        State.answerPkt_congr hregs, hrouter]
      exact ⟨rfl, fun a => ⟨congrArg (·.read a) hdram, congrArg (·.read a) hplate⟩, hregs⟩
    · obtain ⟨hregs, hdram, hplate, -, hrouter, -⟩ := hframe k.passed
      have hnone : (s.taken k rest k.passed).applyReq k = ⟨s.taken k rest k.passed, 1, [], 0⟩ := by
        obtain ⟨hok, -, -⟩ := s.taken_access k rest k.passed
        rw [State.applyReq, hok, hk, ho]
      rw [if_neg (by simp [hst]), State.serve_in_order hn hrep, hnone, Applied.answer]
      dsimp only
      rw [State.answerPkt_congr hregs, hrouter, hk]
      exact ⟨rfl, fun a => ⟨congrArg (·.read a) hdram, congrArg (·.read a) hplate⟩, hregs⟩

end Sys2Proof.Machine
end

section
/-! SUPPORT. A visit of the patrol scrub (R332, R333, R336, R337): what it counts and logs, and which words it
corrects. -/

namespace Sys2Proof.Machine

/-! ### Sorting -/

theorem perm_insertBy {β : Type} (lt : β → β → Bool) (x : β) (l : List β) : (insertBy lt x l).Perm (x :: l) := by
  fun_induction insertBy lt x l with
  | case1 => exact .refl _
  | case2 => exact .refl _
  | case3 y t h ih => exact (ih.cons y).trans (.swap x y t)

theorem perm_sortBy {β : Type} (lt : β → β → Bool) (l : List β) : (sortBy lt l).Perm l := by
  fun_induction sortBy lt l with
  | case1 => exact .refl _
  | case2 x t ih => exact (perm_insertBy _ _ _).trans (ih.cons x)

/-! ### Counting and logging -/

/-- The registers that log an error (R337), with the notice (R665). -/
def logRegs : List Nat :=
  [Reg.MEM_ERR_STATUS, Reg.MEM_ERR_ADDR, Reg.MEM_ERR_ADDR + 4, Reg.MEM_ERR_INFO, Reg.HI_NOTICE_STATUS]

/-- The counter of the errors of a memory (R337). -/
def errReg (plate ue : Bool) : Nat :=
  match plate, ue with
  | true, false => Reg.MEM_CE_PS
  | true, true => Reg.MEM_UE_PS
  | false, false => Reg.MEM_CE_DRAM
  | false, true => Reg.MEM_UE_DRAM

/-- `t` is `s` with `nce` corrected and `nue` uncorrectable errors of a memory counted and logged; the words in
error are left open. -/
structure State.Counts (plate : Bool) (nce nue : Nat) (s t : State) : Prop where
  rest : t = { s with regs := t.regs, msixReq := t.msixReq, pba := t.pba, ecc := t.ecc }
  regs : SMap.wf regReset s.regs = true → SMap.wf regReset t.regs = true ∧
    t.reg (errReg plate false) = (s.reg (errReg plate false) + nce) % 2 ^ 32 ∧
    t.reg (errReg plate true) = (s.reg (errReg plate true) + nue) % 2 ^ 32 ∧
    s.SameRegs t (errReg plate false :: errReg plate true :: logRegs)

theorem errReg_not_logged (plate ue : Bool) : errReg plate ue ∉ logRegs := by
  revert plate ue; decide

theorem errReg_not_passes (plate ue : Bool) : errReg plate ue ∉ [Reg.MEM_SCRUB_PASSES] := by
  revert plate ue; decide

theorem errReg_ne (plate : Bool) : errReg plate false ≠ errReg plate true := by
  revert plate; decide

namespace State.Counts
variable {plate : Bool} {n n' m m' : Nat} {s t u : State}

theorem trans (h : State.Counts plate n m s t) (h' : State.Counts plate n' m' t u) :
    State.Counts plate (n + n') (m + m') s u where
  rest := Eq.trans h'.rest (congrArg (fun x : State =>
    { x with regs := u.regs, msixReq := u.msixReq, pba := u.pba, ecc := u.ecc }) h.rest)
  regs hs := by
    obtain ⟨ht, hce, hue, hsame⟩ := h.regs hs
    obtain ⟨hu, hce', hue', hsame'⟩ := h'.regs ht
    rw [hce, Nat.mod_add_mod, Nat.add_assoc] at hce'
    rw [hue, Nat.mod_add_mod, Nat.add_assoc] at hue'
    exact ⟨hu, hce', hue', hsame.trans hsame'⟩

/-- What leaves the registers as they are counts nothing. -/
theorem of_setEcc (s : State) (w : Nat) (e : EccErr) : State.Counts plate 0 0 s (s.setEcc w e) :=
  ⟨rfl, fun h => ⟨h, (Nat.mod_eq_of_lt (s.reg_lt _)).symm, (Nat.mod_eq_of_lt (s.reg_lt _)).symm, .refl s _⟩⟩

theorem refl (s : State) : State.Counts plate 0 0 s s :=
  ⟨rfl, fun h => ⟨h, (Nat.mod_eq_of_lt (s.reg_lt _)).symm, (Nat.mod_eq_of_lt (s.reg_lt _)).symm, .refl s _⟩⟩

/-- A write of the log counts nothing. -/
theorem setReg (s : State) {o : Nat} (v : Nat) (ho : o ∈ logRegs) : State.Counts plate 0 0 s (s.setReg o v) where
  rest := rfl
  regs hs := by
    have hne (ue : Bool) : errReg plate ue ≠ o := fun h => errReg_not_logged plate ue (h ▸ ho)
    refine ⟨State.wf_setReg hs o v, ?_, ?_,
      State.sameRegs_setReg hs v (List.mem_cons_of_mem _ (List.mem_cons_of_mem _ ho))⟩
    · rw [State.reg_setReg_other hs v (hne false)]
      exact (Nat.mod_eq_of_lt (s.reg_lt _)).symm
    · rw [State.reg_setReg_other hs v (hne true)]
      exact (Nat.mod_eq_of_lt (s.reg_lt _)).symm

theorem notice (s : State) (n : Nat) : State.Counts plate 0 0 s (s.notice n) := by
  have h := setReg (plate := plate) s (o := Reg.HI_NOTICE_STATUS) (s.reg Reg.HI_NOTICE_STATUS ||| 2 ^ n) (by decide)
  have hm (t : State) (k : Nat) : State.Counts plate 0 0 t (t.requestMsix k) := by
    unfold State.requestMsix
    split
    · exact refl t
    split
    · exact ⟨rfl, (refl t).regs⟩
    split
    · exact refl t
    · exact ⟨rfl, (refl t).regs⟩
  unfold State.notice
  dsimp only
  split
  · exact h.trans (hm _ _)
  · exact h

/-- The counter of an error. -/
theorem bump (s : State) (ue : Bool) :
    State.Counts plate (b2n !ue) (b2n ue) s (s.bump (errReg plate ue) 1) where
  rest := rfl
  regs hs := by
    have hself (o : Nat) : s.reg o = (s.reg o + 0) % 2 ^ 32 := (Nat.mod_eq_of_lt (s.reg_lt _)).symm
    cases ue
    · exact ⟨State.wf_bump hs _ _, State.reg_bump_same hs _ _,
        (State.reg_bump_other hs 1 (errReg_ne plate).symm).trans (hself _), State.sameRegs_setReg hs _ (by simp)⟩
    · exact ⟨State.wf_bump hs _ _, (State.reg_bump_other hs 1 (errReg_ne plate)).trans (hself _),
        State.reg_bump_same hs _ _, State.sameRegs_setReg hs _ (by simp)⟩

/-- R337: one error. -/
theorem memErr (s : State) (u : Nat) (ue byScrub : Bool) (bit : Nat) (hu : plate = (regionOf u == .plate)) :
    State.Counts plate (b2n !ue) (b2n ue) s (s.memErr u ue byScrub bit) := by
  have hcnt : (match regionOf u, ue with
      | .plate, false => Reg.MEM_CE_PS
      | .plate, true => Reg.MEM_UE_PS
      | _, false => Reg.MEM_CE_DRAM
      | _, true => Reg.MEM_UE_DRAM) = errReg plate ue := by
    rw [hu]
    cases regionOf u <;> cases ue <;> rfl
  unfold State.memErr
  extract_lets cnt t1 st hadCe hadUe capture t2 rose t3
  have hcnt' : cnt = errReg plate ue := hcnt
  have h1 : State.Counts plate (b2n !ue) (b2n ue) s t1 := by
    unfold t1
    rw [hcnt']
    exact bump s ue
  have h2 : State.Counts plate 0 0 t1 t2 := by
    unfold t2
    split
    · exact ((setReg _ _ (by decide)).trans (setReg _ _ (by decide))).trans (setReg _ _ (by decide))
    · exact setReg _ _ (by decide)
  have h3 : State.Counts plate (b2n !ue) (b2n ue) s t3 :=
    (h1.trans h2).trans (setReg _ _ (by decide))
  split
  · exact h3.trans (notice _ 2)
  · exact h3

end State.Counts

@[simp] theorem State.requestMsix_ecc (s : State) (n : Nat) : (s.requestMsix n).ecc = s.ecc := by
  unfold State.requestMsix; split_ifs <;> rfl
@[simp] theorem State.notice_ecc (s : State) (n : Nat) : (s.notice n).ecc = s.ecc := by
  simp only [State.notice]; split_ifs <;> simp
@[simp] theorem State.memErr_ecc (s : State) (u : Nat) (ue byScrub : Bool) (bit : Nat) :
    (s.memErr u ue byScrub bit).ecc = s.ecc := by
  unfold State.memErr
  extract_lets cnt t1 st hadCe hadUe capture t2 rose t3
  have h2 : t2.ecc = s.ecc := by unfold t2; split <;> rfl
  split
  · exact (State.notice_ecc _ _).trans h2
  · exact h2

/-! ### A line -/

/-- What a scrub does with one word in error of its line; `dirty`: a word of the line is uncorrectable. -/
def State.scrubWord (dirty : Bool) (s : State) (x : Nat × EccErr) : State :=
  match x.2 with
  | .none => s
  | .ce b =>
    let s := s.memErr (8 * x.1) false true b
    if dirty then s else s.setEcc x.1 .none
  | .ue _ => s.memErr (8 * x.1) true true 0

theorem State.scrubLine_eq (s : State) (u : Nat) : s.scrubLine u =
    (s.eccHits u 64).foldl (State.scrubWord ((s.eccHits u 64).any fun x => x.2.isUe)) s := rfl

/-- A scrub counts each word it finds in error. -/
theorem State.scrubWord_counts (dirty plate : Bool) (s : State) (x : Nat × EccErr) (hx : x.2 ≠ .none)
    (hp : plate = (regionOf (8 * x.1) == .plate)) :
    State.Counts plate (b2n !x.2.isUe) (b2n x.2.isUe) s (s.scrubWord dirty x) := by
  unfold State.scrubWord
  split
  next h => exact absurd h hx
  next b h =>
    rw [h]
    have hm := State.Counts.memErr s (8 * x.1) false true b hp
    dsimp only
    split
    · exact hm
    · exact hm.trans (.of_setEcc _ _ _)
  next l h =>
    rw [h]
    exact State.Counts.memErr s (8 * x.1) true true 0 hp

theorem State.foldl_scrubWord_counts (dirty plate : Bool) (l : List (Nat × EccErr)) (s : State)
    (hl : ∀ x ∈ l, x.2 ≠ .none ∧ plate = (regionOf (8 * x.1) == .plate)) :
    State.Counts plate (l.countP fun x => !x.2.isUe) (l.countP fun x => x.2.isUe) s
      (l.foldl (State.scrubWord dirty) s) := by
  induction l generalizing s with
  | nil => exact .refl s
  | cons x l ih =>
    obtain ⟨hx, hp⟩ := hl x List.mem_cons_self
    have h := (State.scrubWord_counts dirty plate s x hx hp).trans
      (ih _ fun y hy => hl y (List.mem_cons_of_mem _ hy))
    rw [List.countP_cons, List.countP_cons, Nat.add_comm, Nat.add_comm (l.countP fun x => x.2.isUe)]
    exact h

/-- In a line with an uncorrectable word nothing is corrected. -/
theorem State.foldl_scrubWord_dirty (l : List (Nat × EccErr)) (s : State) :
    (l.foldl (State.scrubWord true) s).ecc = s.ecc := by
  induction l generalizing s with
  | nil => rfl
  | cons x l ih =>
    refine (ih _).trans ?_
    unfold State.scrubWord
    split <;> simp

/-- In a line without one every word found is corrected, and no other. -/
theorem State.foldl_scrubWord_clean (l : List (Nat × EccErr)) (s : State)
    (hs : SMap.wf State.eccD s.ecc = true) (hl : ∀ x ∈ l, x.2 ≠ .none ∧ x.2.isUe = false) :
    SMap.wf State.eccD (l.foldl (State.scrubWord false) s).ecc = true ∧
    ∀ w, SMap.get State.eccD (l.foldl (State.scrubWord false) s).ecc w =
      if ∃ x ∈ l, x.1 = w then .none else SMap.get State.eccD s.ecc w := by
  induction l generalizing s with
  | nil => exact ⟨hs, fun w => by simp⟩
  | cons x l ih =>
    have hx := hl x List.mem_cons_self
    have hw : (s.scrubWord false x).ecc = SMap.set State.eccD s.ecc x.1 .none := by
      unfold State.scrubWord
      split
      next h => exact absurd h hx.1
      next b h => simp [State.setEcc]
      next k h => rw [h] at hx; cases hx.2
    have hwf : SMap.wf State.eccD (s.scrubWord false x).ecc = true := by rw [hw]; exact SMap.wf_set hs
    obtain ⟨hl', hget⟩ := ih (s.scrubWord false x) hwf fun y hy => hl y (List.mem_cons_of_mem _ hy)
    refine ⟨hl', fun w => ?_⟩
    rw [List.foldl_cons, hget, hw]
    by_cases hm : ∃ y ∈ l, y.1 = w
    · rw [if_pos hm, if_pos (hm.imp fun y hy => ⟨List.mem_cons_of_mem _ hy.1, hy.2⟩)]
    · rw [if_neg hm]
      by_cases hxw : x.1 = w
      · rw [← hxw, SMap.get_set_same (lo := none) hs, if_pos ⟨x, List.mem_cons_self, rfl⟩]
      · rw [SMap.get_set_other (lo := none) hs (Ne.symm hxw), if_neg]
        rintro ⟨y, hy, rfl⟩
        rcases List.mem_cons.1 hy with rfl | hy
        · exact hxw rfl
        · exact hm ⟨y, hy, rfl⟩

/-! ### The line of a visit -/

/-- A canonical list of words in error lists no sound word. -/
theorem State.ecc_ne_none {s : State} (hs : SMap.wf State.eccD s.ecc = true) {x : Nat × EccErr} (hx : x ∈ s.ecc) :
    x.2 ≠ .none := (SMap.wf_iff.1 hs).2 x hx

/-- The words in error of a line of 64 bytes. -/
def State.lineErrs (s : State) (u : Nat) : List (Nat × EccErr) :=
  s.ecc.filter fun e => decide (e.1 / 8 = u / 64)

/-- Those of them that cannot be corrected. -/
def State.lineUes (s : State) (u : Nat) : Nat := (s.lineErrs u).countP fun e => e.2.isUe

theorem State.mem_lineErrs {s : State} {u : Nat} {x : Nat × EccErr} :
    x ∈ s.lineErrs u ↔ x ∈ s.ecc ∧ x.1 / 8 = u / 64 := by
  rw [State.lineErrs, List.mem_filter, decide_eq_true_eq]

theorem State.perm_eccHits_line (s : State) {u : Nat} (hu : u % 64 = 0) :
    (s.eccHits u 64).Perm (s.lineErrs u) := by
  have hf : (fun e : Nat × EccErr => decide (u / 8 ≤ e.1) && decide (e.1 * 8 < u + 64)) =
      fun e => decide (e.1 / 8 = u / 64) := by
    funext e
    rw [Bool.eq_iff_iff]
    simp only [Bool.and_eq_true, decide_eq_true_eq]
    omega
  rw [State.eccHits, hf]
  exact perm_sortBy _ _

/-- What a scrub of a line leaves: its counts; and its words, corrected unless one is uncorrectable. -/
structure State.LineScrubbed (plate : Bool) (u : Nat) (s t : State) : Prop where
  counts : State.Counts plate ((s.lineErrs u).length - s.lineUes u) (s.lineUes u) s t
  clean : s.lineUes u = 0 → t.EccFree u 64
  dirty : 0 < s.lineUes u → t.ecc = s.ecc
  others : ∀ w, w / 8 ≠ u / 64 → SMap.get State.eccD t.ecc w = SMap.get State.eccD s.ecc w

/-- A line without an uncorrectable word is free of errors after its scrub. -/
theorem State.eccFree_of_corrected {s t : State} {u : Nat} (ht : SMap.wf State.eccD t.ecc = true)
    (hu : u % 64 = 0) (hget : ∀ w, SMap.get State.eccD t.ecc w =
      if ∃ x ∈ s.lineErrs u, x.1 = w then .none else SMap.get State.eccD s.ecc w) : t.EccFree u 64 := by
  obtain ⟨hpair, hne⟩ := SMap.wf_iff.1 ht
  intro e he hline
  have hw : e.1 / 8 = u / 64 := by omega
  have hval : SMap.get State.eccD t.ecc e.1 = e.2 := SMap.get_of_mem hpair he
  have hnone : SMap.get State.eccD t.ecc e.1 = .none := by
    rw [hget]
    split
    · rfl
    next hn =>
      exact SMap.get_of_not_mem fun x hx hxe => hn ⟨x, State.mem_lineErrs.2 ⟨hx, by rw [hxe]; exact hw⟩, hxe⟩
  exact hne e he (hval.symm.trans hnone)

theorem State.scrubLine_scrubs {s : State} {plate : Bool} {u : Nat} (hs : SMap.wf State.eccD s.ecc = true)
    (hu : u % 64 = 0) (hp : ∀ w, w / 8 = u / 64 → plate = (regionOf (8 * w) == .plate)) :
    s.LineScrubbed plate u (s.scrubLine u) := by
  have hperm := s.perm_eccHits_line hu
  have hne {x : Nat × EccErr} (hx : x ∈ s.eccHits u 64) : x.2 ≠ .none :=
    State.ecc_ne_none hs (State.mem_lineErrs.1 (hperm.mem_iff.1 hx)).1
  have hues : s.lineUes u = (s.eccHits u 64).countP fun x => x.2.isUe := (hperm.countP_eq _).symm
  have hces : (s.lineErrs u).length - s.lineUes u = (s.eccHits u 64).countP fun x => !x.2.isUe := by
    have h := List.length_eq_countP_add_countP (fun x : Nat × EccErr => x.2.isUe) (l := s.eccHits u 64)
    simp only [Bool.not_eq_true, Bool.decide_eq_false] at h
    rw [hues, ← hperm.length_eq, h, Nat.add_sub_cancel_left]
  have hcounts := State.foldl_scrubWord_counts ((s.eccHits u 64).any fun x => x.2.isUe) plate (s.eccHits u 64) s
    fun x hx => ⟨hne hx, hp x.1 (State.mem_lineErrs.1 (hperm.mem_iff.1 hx)).2⟩
  rw [← hces, ← hues] at hcounts
  rw [State.scrubLine_eq]
  cases hany : (s.eccHits u 64).any fun x => x.2.isUe
  · have hnoUe : ∀ x ∈ s.eccHits u 64, x.2.isUe = false := by simpa using hany
    obtain ⟨hwf, hget⟩ := State.foldl_scrubWord_clean (s.eccHits u 64) s hs fun x hx => ⟨hne hx, hnoUe x hx⟩
    have hzero : s.lineUes u = 0 := by
      rw [hues, List.countP_eq_zero]
      exact fun x hx => by simp [hnoUe x hx]
    simp only [hperm.mem_iff] at hget
    refine ⟨hany ▸ hcounts, fun _ => State.eccFree_of_corrected hwf hu hget, fun h => by omega, fun w hw => ?_⟩
    rw [hget, if_neg]
    rintro ⟨x, hx, rfl⟩
    exact hw (State.mem_lineErrs.1 hx).2
  · have hpos : 0 < s.lineUes u := by
      rw [hues, List.countP_pos_iff]
      simpa using hany
    have hsame := State.foldl_scrubWord_dirty (s.eccHits u 64) s
    exact ⟨hany ▸ hcounts, fun h => by omega, fun _ => hsame, fun w _ => by rw [hsame]⟩

/-! ### Where a visit goes -/

theorem nextData_le (c blocks f : Nat) {q : Nat} (hq : q ≤ blocks + 1) : nextData c blocks f q ≤ blocks + 1 := by
  fun_induction nextData c blocks f q with
  | case1 q => exact hq
  | case2 f q q' h ih => exact ih (by unfold q'; split <;> omega)
  | case3 f q q' h => unfold q'; split <;> omega

/-- From any block on, the next data line of a channel lies in the DRAM (R333). -/
theorem nextData_succ_le (c blocks f q : Nat) : nextData c blocks (f + 1) q ≤ blocks + 1 := by
  have hq : (if blocks ≤ q then 0 else q) ≤ blocks := by split <;> omega
  rw [nextData]
  generalize (if blocks ≤ q then 0 else q) = r at hq ⊢
  split
  · exact nextData_le _ _ _ (by omega)
  · omega

theorem channelLine_lt {c : Nat} (hc : c < 16) (q : Nat) : channelLine c q < 16 * q + 16 := by
  have h : c ^^^ (q / 16 % 16) ^^^ (q / 4096 % 16) < 2 ^ 4 :=
    Nat.xor_lt_two_pow (Nat.xor_lt_two_pow hc (Nat.mod_lt _ (by decide))) (Nat.mod_lt _ (by decide))
  unfold channelLine
  omega

/-! ### The visit -/

/-- What a visit of a unit leaves, whose line stands at `u` and whose next row is `next`. -/
structure State.Visited (ps : Bool) (unit u next : Nat) (s t : State) : Prop where
  dram : t.dram = s.dram
  plate : t.plate = s.plate
  corrQ : t.corrQ = s.corrQ
  row : SMap.get State.natD t.scrubRow unit = next
  clean : s.lineUes u = 0 → t.EccFree u 64
  dirty : 0 < s.lineUes u → t.ecc = s.ecc
  others : ∀ w, w / 8 ≠ u / 64 → SMap.get State.eccD t.ecc w = SMap.get State.eccD s.ecc w
  ces : t.reg (errReg ps false) =
    (s.reg (errReg ps false) + ((s.lineErrs u).length - s.lineUes u)) % 2 ^ 32
  ues : t.reg (errReg ps true) = (s.reg (errReg ps true) + s.lineUes u) % 2 ^ 32
  same : s.SameRegs t (errReg ps false :: errReg ps true :: (logRegs ++ [Reg.MEM_SCRUB_PASSES]))

/-- After the scrub of its line a visit moves on: it sets the next row, and may count a pass. -/
theorem State.LineScrubbed.visited {plate : Bool} {unit u next : Nat} {s w t : State} (hs : s.Canonical)
    (h : s.LineScrubbed plate u w)
    (ht : t = { w with
      regs := t.regs, scrubDone := t.scrubDone, scrubRow := SMap.set State.natD w.scrubRow unit next })
    (hregs : SMap.wf regReset w.regs = true → w.SameRegs t [Reg.MEM_SCRUB_PASSES]) :
    State.Visited plate unit u next s t := by
  obtain ⟨-, -, hwf, -, -, hrow, -⟩ := hs
  have hrest := h.counts.rest
  obtain ⟨hw, hce, hue, hsame⟩ := h.counts.regs hwf
  have hsame' := hregs hw
  have hpass (ue : Bool) : errReg plate ue ∉ [Reg.MEM_SCRUB_PASSES] := errReg_not_passes plate ue
  have hecc : t.ecc = w.ecc := (congrArg State.ecc ht :)
  have hrows : w.scrubRow = s.scrubRow := (congrArg State.scrubRow hrest :)
  refine ⟨((congrArg State.dram ht :) : t.dram = w.dram).trans (congrArg State.dram hrest :),
    ((congrArg State.plate ht :) : t.plate = w.plate).trans (congrArg State.plate hrest :),
    ((congrArg State.corrQ ht :) : t.corrQ = w.corrQ).trans (congrArg State.corrQ hrest :), ?_,
    fun hn => ?_, fun hn => hecc.trans (h.dirty hn), fun x hx => by rw [hecc]; exact h.others x hx,
    (hsame' _ (hpass false)).trans hce, (hsame' _ (hpass true)).trans hue, ?_⟩
  · rw [(congrArg State.scrubRow ht : t.scrubRow = SMap.set State.natD w.scrubRow unit next), hrows,
      SMap.get_set_same (lo := none) hrow]
  · unfold State.EccFree
    rw [hecc]
    exact h.clean hn
  · exact (hsame.mono (List.cons_subset_cons _ (List.cons_subset_cons _ (List.subset_append_left _ _)))).trans
      (hsame'.mono fun o ho => by simp [List.mem_singleton.1 ho])

/-- The row that a unit visits next. -/
def State.visitRow (s : State) (unit : Nat) : Nat := SMap.get State.natD s.scrubRow unit

/-- R332: a visit of a plate-store bank. -/
theorem State.scrubBank_visits {s : State} (hs : s.Canonical) {unit : Nat} (hu : unit < 384)
    (hrow : s.visitRow unit < 4096) :
    State.Visited true unit (2 ^ 44 + unit / 48 * 2 ^ 24 + (s.visitRow unit * 48 + unit % 48) * 64)
      ((s.visitRow unit + 1) % 4096) s (s.scrubBank unit) := by
  have ⟨_, _, _, _, hecc, _⟩ := hs
  have hline := State.scrubLine_scrubs (plate := true) hecc
    (u := 2 ^ 44 + unit / 48 * 2 ^ 24 + (s.visitRow unit * 48 + unit % 48) * 64) (by omega) fun w hw => by
      have h8 : 8 * w = 2 ^ 44 + (8 * w - 2 ^ 44) := by omega
      rw [h8, regionOf_plate (by omega)]
      rfl
  unfold State.scrubBank
  extract_lets row line w t done
  split
  · split
    · exact hline.visited hs rfl fun hw => State.sameRegs_setReg hw _ (by simp)
    · exact hline.visited hs rfl fun _ => .refl _ _
  · exact hline.visited hs rfl fun _ => .refl _ _

/-- R333: a visit of a DRAM channel. -/
theorem State.scrubChannel_visits {s : State} (hs : s.Canonical) {c : Nat} (hc : c < 16)
    (hon : s.dramOn = true ∧ s.iecc = true) :
    let q := nextData c (s.fld Reg.MEM_ID 7 0 * 2 ^ 20) 32 (s.visitRow (384 + c))
    State.Visited false (384 + c) (64 * (channelLine c q / 8 * 7 + channelLine c q % 8)) (q + 1) s
      (s.scrubChannel c) := by
  intro q
  have hblocks : s.fld Reg.MEM_ID 7 0 < 256 := Nat.mod_lt _ (by decide)
  have hq : q ≤ s.fld Reg.MEM_ID 7 0 * 2 ^ 20 + 1 := nextData_succ_le _ _ _ _
  have hp := channelLine_lt hc q
  have ⟨_, _, _, _, hecc, _⟩ := hs
  have hline := State.scrubLine_scrubs (plate := false) hecc
    (u := 64 * (channelLine c q / 8 * 7 + channelLine c q % 8)) (by omega) fun w hw => by
      rw [regionOf_dram (by omega)]
      rfl
  unfold State.scrubChannel
  rw [if_pos hon]
  exact hline.visited hs rfl fun _ => .refl _ _

/-- The next data line of a channel, by its number (R333). -/
def State.visitData (s : State) (unit : Nat) : Nat :=
  nextData (unit - 384) (s.fld Reg.MEM_ID 7 0 * 2 ^ 20) 32 (s.visitRow unit)

/-- Where the line of a unit's visit stands (R332, R333). -/
def State.visitUda (s : State) (unit : Nat) : Nat :=
  if unit < 384 then 2 ^ 44 + unit / 48 * 2 ^ 24 + (s.visitRow unit * 48 + unit % 48) * 64
  else 64 * (channelLine (unit - 384) (s.visitData unit) / 8 * 7 + channelLine (unit - 384) (s.visitData unit) % 8)

/-- The row that it visits thereafter. -/
def State.visitNext (s : State) (unit : Nat) : Nat :=
  if unit < 384 then (s.visitRow unit + 1) % 4096 else s.visitData unit + 1

/-- R332, R333: a visit of the patrol scrub. -/
theorem State.visits {s : State} (hs : s.Canonical) (unit : Fin 400)
    (hon : 383 < unit.val → s.dramOn = true ∧ s.iecc = true)
    (hrow : unit.val < 384 → s.visitRow unit < 4096) :
    State.Visited (decide (unit.val < 384)) unit (s.visitUda unit) (s.visitNext unit) s
      (if unit.val < 384 then s.scrubBank unit else s.scrubChannel (unit - 384)) := by
  unfold State.visitUda State.visitNext State.visitData
  by_cases hu : unit.val < 384
  · rw [decide_eq_true hu, if_pos hu, if_pos hu, if_pos hu]
    exact State.scrubBank_visits hs hu (hrow hu)
  · have h := State.scrubChannel_visits hs (c := unit - 384) (by omega) (hon (by omega))
    rw [Nat.add_sub_cancel' (Nat.not_lt.1 hu)] at h
    rw [decide_eq_false hu, if_neg hu, if_neg hu, if_neg hu]
    exact h

/-! ### Upsets and write-backs -/

/-- An upset of one bit of a sound word of the plate store leaves it with that bit wrong (R312). -/
theorem State.upset_sound {s : State} {w bit : Nat} (hb : bit < 72) (hr : regionOf (8 * w) = .plate)
    (ha : s.addrOk false (8 * w) 8 = true) (he : SMap.get State.eccD s.ecc w = .none) :
    s.upset w bit = s.setEcc w (.ce bit) := by
  have hnot : ¬ (s.addrOk false (8 * w) 8 = false ∨ 72 ≤ bit) := by simp [ha, hb]
  simp [State.upset, hnot, hr, he, EccErr.flip]

/-- A write-back of a line corrects those of its words that can be corrected. -/
theorem SMap.get_corrected {m : SMap EccErr} (hm : SMap.wf State.eccD m = true) (line w : Nat) :
    SMap.get State.eccD (m.filter fun x => !(x.1 / 8 == line && !x.2.isUe)) w =
      if w / 8 = line ∧ (SMap.get State.eccD m w).isUe = false then .none else SMap.get State.eccD m w := by
  obtain ⟨hpair, -⟩ := SMap.wf_iff.1 hm
  have hget {v : EccErr} (hv : (w, v) ∈ m) : SMap.get State.eccD m w = v := SMap.get_of_mem hpair hv
  split
  next h =>
    obtain ⟨hw, hue⟩ := h
    refine SMap.get_of_not_mem fun x hx hxw => ?_
    obtain ⟨hxm, hkeep⟩ := List.mem_filter.1 hx
    have hval : SMap.get State.eccD m w = x.2 := hget (hxw ▸ hxm)
    rw [← hval, hxw, hue] at hkeep
    simp [hw] at hkeep
  next h =>
    refine SMap.get_congr (hpair.filter _) hpair fun v => ⟨fun hv => (List.mem_filter.1 hv).1, fun hv => ?_⟩
    rw [hget hv] at h
    exact List.mem_filter.2 ⟨hv, by_contra fun hc => h (by simpa using hc)⟩

/-- Settles O53: a visit scrubs the line at which it stands (`State.visits`), an upset elsewhere first or not;
the other events are each one operation. -/
theorem memoryEventsAct : Obligations.MemoryEventsAct := by
  refine ⟨?patrol, ?writeback, ?refresh, ?rate⟩
  case patrol =>
    intro s unit hr hs hon row c q p u hits ues ce ue hrow
    have hce : errReg (decide (unit.val < 384)) false = ce := by
      unfold ce; split <;> simp [errReg, *]
    have hue : errReg (decide (unit.val < 384)) true = ue := by
      unfold ue; split <;> simp [errReg, *]
    refine ⟨?visit, ?upset⟩
    case visit =>
      have h := State.visits hs unit hon hrow
      obtain ⟨hdram, hplate, hcorr, hnext, hclean, hdirty, hothers, hces, hues, hsame⟩ := h
      rw [hce] at hces
      rw [hue] at hues
      rw [hce, hue] at hsame
      exact ⟨_, congrArg Host.Outcome.next (if_pos hr), hdram, hplate, hcorr, hnext, hclean, hdirty, hothers,
        hces, hues, hsame⟩
    case upset =>
      intro w b hb hreg ha he hw
      have hs' : (s.setEcc w (.ce b.toNat)).Canonical :=
        (State.kept_iff.1 (State.setEcc_kept s w _ (State.kept_iff.2 ⟨rfl, hs⟩))).2
      have h := State.visits hs' unit hon hrow
      have hup : [(w, b)].foldl (fun (s : State) x => s.upset x.1 x.2.toNat) s = s.setEcc w (.ce b.toNat) :=
        State.upset_sound hb hreg ha he
      have ⟨_, _, _, _, hecc, _⟩ := hs
      refine ⟨_, congrArg Host.Outcome.next (if_pos hr), ?_⟩
      rw [hup]
      exact ⟨(h.others w hw).trans (SMap.get_set_same (lo := none) hecc), h.dram, h.plate⟩
  case writeback =>
    intro s line q hr hs hq
    have ⟨_, _, _, _, hecc, _⟩ := hs
    refine ⟨{ s with corrQ := q, ecc := s.ecc.filter fun x => !(x.1 / 8 == line && !x.2.isUe) }, ?_, rfl,
      fun w => SMap.get_corrected hecc line w⟩
    show execCorrectionWriteback s = _
    rw [execCorrectionWriteback, if_pos hr, hq]
  case refresh =>
    intro s ch hon
    exact ⟨congrArg Host.Outcome.next (if_pos hon), congrArg Host.Outcome.next (if_pos hon)⟩
  case rate =>
    intro s rate hs hon
    have ⟨_, _, hregs, _⟩ := hs
    refine ⟨_, congrArg Host.Outcome.next (if_pos hon), ?_, ?_, rfl, State.sameRegs_setReg hregs _ (by simp)⟩
    · rw [State.fld_setFld_same hregs _ (by decide) (by decide)]
      exact Nat.mod_eq_of_lt (by omega)
    · exact State.fld_setFld_disjoint hregs _ (by decide) (by decide) (by decide)

end Sys2Proof.Machine
end

section
/-! SUPPORT. The brake, telemetry and the end of a pin's park (R330, R855 to R858, R904 to R908). -/

namespace Sys2Proof.Machine

/-! ### Bits of registers -/

theorem bitOf_eq_bits (v b : Nat) : bitOf v b = decide (bits v b b = 1) := by
  have h : b + 1 - b = 1 := by omega
  rw [bits, h, bitOf, Nat.testBit_eq_decide_div_mod_eq, pow_one]

/-- A bit of a register is its field of one bit. -/
theorem State.bitOf_reg (s : State) (o b : Nat) : bitOf (s.reg o) b = decide (s.fld o b b = 1) :=
  bitOf_eq_bits _ _

/-- A bit just set or cleared. -/
theorem State.bitOf_setFld_same {s : State} (h : SMap.wf regReset s.regs = true) {o b : Nat} (v : Bool)
    (hb : b < 32) : bitOf ((s.setFld o b b (b2n v)).reg o) b = v := by
  rw [State.bitOf_reg, State.fld_setFld_same h _ le_rfl hb]
  cases v <;> simp [b2n]

/-! ### Changes of the operating point -/

/-- `t` is `s` but for the change of point under way and what the PMBus host sends: the point in force is the
same. -/
structure State.KeepsPoint (s t : State) : Prop where
  rest : t = { s with regs := t.regs, pwr := t.pwr, out := t.out }
  regs : SMap.wf regReset s.regs = true →
    SMap.wf regReset t.regs = true ∧ s.SameRegs t [Reg.PWR_OP] ∧ t.op = s.op

namespace State.KeepsPoint
variable {s t u : State}

theorem refl (s : State) : s.KeepsPoint s := ⟨rfl, fun h => ⟨h, .refl s _, rfl⟩⟩

theorem trans (h : s.KeepsPoint t) (h' : t.KeepsPoint u) : s.KeepsPoint u where
  rest := Eq.trans h'.rest (congrArg (fun x : State => { x with regs := u.regs, pwr := u.pwr, out := u.out }) h.rest)
  regs hs := by
    obtain ⟨ht, hst, hop⟩ := h.regs hs
    obtain ⟨hu, htu, hop'⟩ := h'.regs ht
    exact ⟨hu, hst.trans htu, hop'.trans hop⟩

theorem setPwr (s : State) (f : Power → Power) : s.KeepsPoint (s.setPwr f) :=
  ⟨rfl, fun h => ⟨h, .refl s _, rfl⟩⟩

theorem busy (s : State) (v : Nat) : s.KeepsPoint (s.setFld Reg.PWR_OP 9 9 v) where
  rest := rfl
  regs hs := ⟨State.wf_setFld hs _ _ _ _, State.sameRegs_setReg hs _ (by simp),
    State.fld_setFld_disjoint hs v (by decide) (by decide) (by decide)⟩

theorem pmbStart (s : State) (write : Bool) (word : Nat) : s.KeepsPoint (s.pmbStart write word) :=
  ⟨rfl, fun h => ⟨h, .refl s _, rfl⟩⟩

theorem endChange (s : State) : s.KeepsPoint s.endChange := (setPwr s _).trans (busy _ _)

theorem startChange (s : State) (target : Nat) : s.KeepsPoint (s.startChange target) := by
  have h := (setPwr s fun p =>
    { p with change := some ⟨target, decide (target < s.op), false, !s.pmbEn, !s.pmbEn⟩ }).trans (busy _ 1)
  unfold State.startChange
  dsimp only
  split
  · exact h.trans (pmbStart _ _ _)
  · exact h

theorem brakeNext (s : State) : s.KeepsPoint s.brakeNext := by
  have h := setPwr s fun p => { p with brakeDue := false }
  unfold State.brakeNext
  dsimp only
  split
  · split
    · exact h.trans (startChange _ _)
    · exact h
  · exact refl s

end State.KeepsPoint

/-- A change to OP3 is never to a faster point: it starts at once, and nothing is sent (R835). -/
theorem State.startChange_slowest {s : State} (h : SMap.wf regReset s.regs = true) :
    (s.startChange 3).pwr.change.map OpChange.target = some 3 ∧ (s.startChange 3).fld Reg.PWR_OP 9 9 = 1 := by
  have hop : s.op < 4 := Nat.mod_lt _ (by decide)
  have hslow : ¬ 3 < s.op := by omega
  have heq : s.startChange 3 = (s.setPwr fun p =>
      { p with change := some ⟨3, false, false, !s.pmbEn, !s.pmbEn⟩ }).setFld Reg.PWR_OP 9 9 1 := by
    simp [State.startChange, hslow]
  rw [heq]
  exact ⟨rfl, State.fld_setFld_same (s := s.setPwr _) h 1 (by decide) (by decide)⟩

/-! ### The brake -/

/-- What a brake shows in the registers: BRAKE, the deepest gating, and its count (R855). -/
def State.braked (s : State) : State :=
  ((s.setFld Reg.PWR_GOV 6 6 1).setFld Reg.PWR_GOV 3 0 14).setFld Reg.PWR_BRAKE 31 16
    (min 0xFFFF (s.fld Reg.PWR_BRAKE 31 16 + 1))

theorem State.braked_shows {s : State} (h : SMap.wf regReset s.regs = true) :
    SMap.wf regReset s.braked.regs = true ∧ s.SameRegs s.braked [Reg.PWR_GOV, Reg.PWR_BRAKE] ∧
      bitOf (s.braked.reg Reg.PWR_GOV) 6 = true ∧ s.braked.fld Reg.PWR_GOV 3 0 = 14 ∧
      s.braked.fld Reg.PWR_GOV 5 4 = s.fld Reg.PWR_GOV 5 4 ∧
      s.braked.fld Reg.PWR_BRAKE 31 16 = min 0xFFFF (s.fld Reg.PWR_BRAKE 31 16 + 1) := by
  have h1 := State.wf_setFld h Reg.PWR_GOV 6 6 1
  have h2 := State.wf_setFld h1 Reg.PWR_GOV 3 0 14
  have hne : Reg.PWR_GOV ≠ Reg.PWR_BRAKE := by decide
  refine ⟨State.wf_setFld h2 _ _ _ _, ?_, ?_, ?_, ?_, ?_⟩
  · exact ((State.sameRegs_setReg h _ (by simp)).trans (State.sameRegs_setReg h1 _ (by simp))).trans
      (State.sameRegs_setReg h2 _ (by simp))
  · rw [State.bitOf_reg, State.braked, State.fld_setFld_other h2 _ _ _ hne,
      State.fld_setFld_disjoint h1 _ (by decide) (by decide) (by decide),
      State.fld_setFld_same h _ (by decide) (by decide)]
    rfl
  · rw [State.braked, State.fld_setFld_other h2 _ _ _ hne, State.fld_setFld_same h1 _ (by decide) (by decide)]
    rfl
  · rw [State.braked, State.fld_setFld_other h2 _ _ _ hne,
      State.fld_setFld_disjoint h1 _ (by decide) (by decide) (by decide),
      State.fld_setFld_disjoint h _ (by decide) (by decide) (by decide)]
  · rw [State.braked, State.fld_setFld_same h2 _ (by decide) (by decide)]
    exact Nat.mod_eq_of_lt (by omega)

/-- The change of point that a brake starts, or leaves to a running one (R856). -/
def State.brakeChange (s : State) : State :=
  match s.pwr.change with
  | none => if s.op ≠ 3 then s.startChange 3 else s
  | some c =>
    if c.faster && (match s.pwr.pmb with
      | some t => !t.write
      | none => true) then (s.setPwr fun p => { p with brakeDue := true }).endChange.brakeNext
    else s.setPwr fun p => { p with brakeDue := true }

theorem State.brakeChange_keepsPoint (s : State) : s.KeepsPoint s.brakeChange := by
  have h (c : Bool) : s.KeepsPoint (if c then (s.setPwr fun p => { p with brakeDue := true }).endChange.brakeNext
      else s.setPwr fun p => { p with brakeDue := true }) := by
    have hd := State.KeepsPoint.setPwr s fun p => { p with brakeDue := true }
    split
    · exact (hd.trans (.endChange _)).trans (.brakeNext _)
    · exact hd
  unfold State.brakeChange
  split
  · split
    · exact .startChange _ _
    · exact .refl _
  · exact h _

theorem State.brakeChange_idle {s : State} (hc : s.pwr.change = none) (ho : s.op ≠ 3) :
    s.brakeChange = s.startChange 3 := by
  rw [State.brakeChange, hc]
  exact if_pos ho

theorem State.braked_op {s : State} (h : SMap.wf regReset s.regs = true) : s.braked.op = s.op := by
  obtain ⟨-, hsame, -⟩ := State.braked_shows h
  rw [State.op, State.fld, hsame _ (by decide)]
  rfl

theorem execBrakeApply_braked {s : State} (ha : s.alive = true) (hr : s.ready = true) (hp : s.pinFn 4 = some 8)
    (hg : bitOf (s.reg Reg.PWR_GOV) 6 = false) :
    execBrakeApply s = .next (State.braked { s with balls := putBits s.balls 4 4 0 }).brakeChange :=
  congrArg Host.Outcome.next ((if_pos ⟨ha, hr, hp⟩).trans (if_neg (by
    show ¬ bitOf (s.reg Reg.PWR_GOV) 6 = true
    simp [hg])))

/-- The first clause of O57: POWER_BRAKE_N. -/
theorem brakeApplies {s : State} (hs : s.Canonical) (ha : s.alive = true) (hr : s.ready = true)
    (hp : s.pinFn 4 = some 8) (hg : bitOf (s.reg Reg.PWR_GOV) 6 = false) :
    Does .brakeApply s fun t =>
      bitOf (t.reg Reg.PWR_GOV) 6 = true ∧ t.fld Reg.PWR_GOV 3 0 = 14 ∧
      t.fld Reg.PWR_GOV 5 4 = s.fld Reg.PWR_GOV 5 4 ∧
      t.fld Reg.PWR_BRAKE 31 16 = min 0xFFFF (s.fld Reg.PWR_BRAKE 31 16 + 1) ∧ t.op = s.op ∧
      (s.pwr.change = none → s.op ≠ 3 → t.pwr.change.map OpChange.target = some 3 ∧
        t.fld Reg.PWR_OP 9 9 = 1) ∧
      s.SameRegs t [Reg.PWR_GOV, Reg.PWR_BRAKE, Reg.PWR_OP] ∧ s.SameBytes t := by
  obtain ⟨-, -, hregs, -⟩ := hs
  have hb : SMap.wf regReset ({ s with balls := putBits s.balls 4 4 0 } : State).regs = true := hregs
  obtain ⟨hw, hsame, h6, h30, h54, hcount⟩ := State.braked_shows hb
  have hop := State.braked_op hb
  have hex := execBrakeApply_braked ha hr hp hg
  have hpwr : (State.braked { s with balls := putBits s.balls 4 4 0 }).pwr = s.pwr := rfl
  have hbytes : s.SameBytes (State.braked { s with balls := putBits s.balls 4 4 0 }) := fun _ => ⟨rfl, rfl⟩
  generalize State.braked { s with balls := putBits s.balls 4 4 0 } = w at *
  have hk := w.brakeChange_keepsPoint
  obtain ⟨-, hsame', hop'⟩ := hk.regs hw
  refine ⟨_, hex, ?_, ?_, ?_, ?_, hop'.trans hop, fun hc ho => ?_,
    (hsame.mono (by simp)).trans (hsame'.mono (by simp)), fun a => ?_⟩
  · rw [hsame' _ (by decide)]; exact h6
  · rw [State.fld, hsame' _ (by decide)]; exact h30
  · rw [State.fld, hsame' _ (by decide)]; exact h54
  · rw [State.fld, hsame' _ (by decide)]; exact hcount
  · rw [State.brakeChange_idle (hpwr ▸ hc) fun h => ho (hop.symm.trans h)]
    exact State.startChange_slowest hw
  · rw [hk.rest]
    exact hbytes a

theorem brakeReleases {s : State} (hs : s.Canonical) (ha : s.alive = true) (hr : s.ready = true) :
    Does .brakeRelease s fun t => bitOf (t.reg Reg.PWR_GOV) 6 = false ∧
      t.fld Reg.PWR_GOV 5 0 = s.fld Reg.PWR_GOV 5 0 ∧ s.SameRegs t [Reg.PWR_GOV] ∧
      t.out = s.out ∧ s.SameBytes t := by
  obtain ⟨-, -, hregs, -⟩ := hs
  refine ⟨_, congrArg Host.Outcome.next (if_pos ⟨ha, hr⟩), ?_⟩
  obtain ⟨n, hn⟩ : ∃ n, (if s.pinFn 4 = some 8 then { s with balls := putBits s.balls 4 4 1 } else s) =
      { s with balls := n } := by
    split
    · exact ⟨_, rfl⟩
    · exact ⟨s.balls, rfl⟩
  have hwf : SMap.wf regReset ({ s with balls := n } : State).regs = true := hregs
  dsimp only
  rw [hn]
  exact ⟨State.bitOf_setFld_same hwf false (by decide),
    State.fld_setFld_disjoint hwf 0 (by decide) (by decide) (by decide), State.sameRegs_setReg hwf _ (by simp), rfl,
    fun _ => ⟨rfl, rfl⟩⟩

/-! ### Telemetry -/

theorem length_snapshot (s : State) (n : Nat) : (s.snapshot n).length = 128 := by
  have h12 : ((upto 12).flatMap fun i => leBytes 2 (s.reg (Reg.PWR_TJ + 4 * i))).length = 24 := by
    simp [List.length_flatMap, length_leBytes, upto]
  simp only [State.snapshot, List.length_append, length_leBytes, h12]

/-- A snapshot begins with its number, its mark and, behind two bytes, P (R857). -/
theorem snapshot_front (s : State) (n : Nat) : ∃ m r : List Byte, m.length = 2 ∧
    s.snapshot n = leBytes 4 (n % 2 ^ 32) ++ (leBytes 2 0x7A7E ++ (m ++ (leBytes 4 (s.reg Reg.PWR_P_MW) ++ r))) := by
  have h : ∃ r, s.snapshot n = leBytes 4 (n % 2 ^ 32) ++ (leBytes 2 0x7A7E ++
      (leBytes 1 (s.op + 4 * s.fld Reg.PWR_OP 3 2 + 16 * s.fld Reg.PWR_OP 9 9) ++
      (leBytes 1 (s.fld Reg.PWR_GOV 7 0) ++ (leBytes 4 (s.reg Reg.PWR_P_MW) ++ r)))) := by
    unfold State.snapshot
    simp only [List.append_assoc]
    exact ⟨_, rfl⟩
  obtain ⟨r, hr⟩ := h
  refine ⟨leBytes 1 (s.op + 4 * s.fld Reg.PWR_OP 3 2 + 16 * s.fld Reg.PWR_OP 9 9) ++
    leBytes 1 (s.fld Reg.PWR_GOV 7 0), r, by simp [length_leBytes], hr.trans ?_⟩
  rw [List.append_assoc]

/-- It ends with its number again. -/
theorem snapshot_back (s : State) (n : Nat) : (s.snapshot n).drop 124 = leBytes 4 (n % 2 ^ 32) := by
  have h : ∃ f : List Byte, s.snapshot n = f ++ leBytes 4 (n % 2 ^ 32) := ⟨_, rfl⟩
  obtain ⟨f, hf⟩ := h
  have hlen := length_snapshot s n
  rw [hf, List.length_append, length_leBytes] at hlen
  rw [hf]
  exact List.drop_left' (by omega)

theorem snapshotWaits {s : State} (ha : s.alive = true) (hr : s.ready = true) :
    let u := s.reg64 Reg.PWR_TELEM_ADDR % 2 ^ 48
    u ≠ 0 → u % 128 = 0 → s.inDram u 256 = true →
    Does .telemetrySnapshot s fun t => ∃ x y : List Byte,
      x.length = 64 ∧ y.length = 64 ∧ x.take 4 = leBytes 4 (s.pwr.telem % 2 ^ 32) ∧
      (x.drop 4).take 2 = leBytes 2 0x7A7E ∧ (x.drop 8).take 4 = leBytes 4 (s.reg Reg.PWR_P_MW) ∧
      y.drop 60 = x.take 4 ∧
      let a := u + 128 * (s.pwr.telem % 2)
      t = { s with pwr := { s.pwr with
        telem := s.pwr.telem + 1, telemQ := s.pwr.telemQ ++ [(a, x), (a + 64, y)] } } := by
  intro u hu h128 hin
  have hlen := length_snapshot s s.pwr.telem
  obtain ⟨m, r, hm, hfront⟩ := snapshot_front s s.pwr.telem
  have hback := snapshot_back s s.pwr.telem
  refine ⟨_, congrArg Host.Outcome.next ((if_pos ⟨ha, hr, hu⟩).trans (if_pos ⟨h128, .inl hin⟩)),
    (s.snapshot s.pwr.telem).take 64, (s.snapshot s.pwr.telem).drop 64, ?_, ?_, ?_, ?_, ?_, ?_, rfl⟩
  · rw [List.length_take, hlen]
    rfl
  · rw [List.length_drop, hlen]
  · rw [List.take_take, hfront]
    exact List.take_left' (length_leBytes _ _)
  · rw [List.drop_take, List.take_take, hfront, List.drop_left' (length_leBytes _ _)]
    exact List.take_left' (length_leBytes _ _)
  · rw [List.drop_take, List.take_take, hfront, ← List.append_assoc, ← List.append_assoc,
      List.drop_left' (by simp [length_leBytes, hm])]
    exact List.take_left' (length_leBytes _ _)
  · rw [List.drop_drop, hback, List.take_take, hfront]
    exact (List.take_left' (length_leBytes _ _)).symm

theorem telemetryDrops {s : State} {x : Nat × List Byte} {q : List (Nat × List Byte)} (hs : s.Canonical)
    (ha : s.alive = true) (hq : s.pwr.telemQ = x :: q) :
    Does .telemetryDrop s fun t =>
      t = { s with regs := t.regs, pwr := { s.pwr with telemQ := q } } ∧
      t.reg Reg.MEM_TELEM_DROP = (s.reg Reg.MEM_TELEM_DROP + 1) % 2 ^ 32 ∧
      s.SameRegs t [Reg.MEM_TELEM_DROP] := by
  obtain ⟨-, -, hregs, -⟩ := hs
  refine ⟨(s.setPwr fun p => { p with telemQ := q }).bump Reg.MEM_TELEM_DROP 1, ?_, rfl,
    State.reg_bump_same (s := s.setPwr _) hregs _ 1, State.sameRegs_setReg (s := s.setPwr _) hregs _ (by simp)⟩
  show execTelemetryDrop s = _
  rw [execTelemetryDrop, hq]
  exact congrArg Host.Outcome.next (if_pos ha)

/-! ### Pins -/

/-- A pin at the end of its park (R904, R905): its function in force, and counted. -/
def State.unparked (s : State) (n : Nat) : State :=
  (State.setFld { s with parks := SMap.set State.parkD s.parks n none } Reg.PIN_STATUS n n 0).bump
    Reg.PIN_SWITCHES 1

section
variable {s : State} (n : Nat)

theorem State.unparked_regs (hr : SMap.wf regReset s.regs = true) (hn : n < 32) :
    SMap.wf regReset (s.unparked n).regs = true ∧
      s.SameRegs (s.unparked n) [Reg.PIN_STATUS, Reg.PIN_SWITCHES] ∧
      bitOf ((s.unparked n).reg Reg.PIN_STATUS) n = false ∧
      (s.unparked n).reg Reg.PIN_SWITCHES = (s.reg Reg.PIN_SWITCHES + 1) % 2 ^ 32 := by
  have h0 : SMap.wf regReset ({ s with parks := SMap.set State.parkD s.parks n none } : State).regs = true := hr
  have h1 := State.wf_setFld h0 Reg.PIN_STATUS n n 0
  refine ⟨State.wf_bump h1 _ _, ?_, ?_, ?_⟩
  · exact (State.sameRegs_setReg h0 _ (by simp)).trans (State.sameRegs_setReg h1 _ (by simp))
  · rw [State.unparked, State.reg_bump_other h1 1 (by decide)]
    exact State.bitOf_setFld_same h0 false hn
  · rw [State.unparked, State.reg_bump_same h1, State.reg_setFld_other h0 _ _ _ (by decide)]
    rfl

theorem State.unparked_park (hp : SMap.wf State.parkD s.parks = true) (m : Nat) :
    (s.unparked n).park m = if m = n then none else s.park m := by
  show SMap.get State.parkD (SMap.set State.parkD s.parks n none) m = _
  split
  next h => rw [h, SMap.get_set_same (lo := none) hp]
  next h => exact SMap.get_set_other (lo := none) hp h

end

/-- `t` is `s` but for PWR_PMB_CFG and what the PMBus host sends. -/
structure State.OnlyPmb (s t : State) : Prop where
  rest : t = { s with regs := t.regs, pwr := t.pwr, out := t.out }
  regs : SMap.wf regReset s.regs = true → s.SameRegs t [Reg.PWR_PMB_CFG]

theorem State.pmbPins_onlyPmb (s : State) (n : Nat) : s.OnlyPmb (s.pmbPins n) := by
  unfold State.pmbPins
  split
  · exact ⟨rfl, fun _ => .refl s _⟩
  split
  · split
    · exact ⟨rfl, fun _ => .refl s _⟩
    · exact ⟨rfl, fun h => State.sameRegs_setReg h _ (by simp)⟩
  split
  · exact ⟨rfl, fun _ => .refl s _⟩
  · exact ⟨rfl, fun h => State.sameRegs_setReg h _ (by simp)⟩

/-- A pin that is not the PMBus host's leaves it alone. -/
theorem State.pmbPins_other (s : State) {n : Nat} (hn : 1 < n) : s.pmbPins n = s := by
  have h : pmbFunc n = none := by
    rw [pmbFunc, if_neg (by omega), if_neg (by omega)]
  exact if_pos h

theorem pmbFunc_of_le {n : Nat} (hn : n ≤ 1) : pmbFunc n = some (n + 6) := by
  obtain rfl | rfl : n = 0 ∨ n = 1 := by omega
  · rfl
  · rfl

/-- Both pins with their functions turn the PMBus host on, and the word of the point in force is sent
(R907). -/
theorem State.pmbPins_on {s : State} (hr : SMap.wf regReset s.regs = true) {n : Nat} (hn : n ≤ 1)
    (h : s.pinFn 0 = some 6 ∧ s.pinFn 1 = some 7) :
    (s.pmbPins n).pmbEn = true ∧
      (s.pmbEn = false → (s.pmbPins n).out = s.out ++ [.pmbus true 0x21 (s.voutWord s.op)]) := by
  have hf : pmbFunc n ≠ none := by simp [pmbFunc_of_le hn]
  rw [State.pmbPins, if_neg hf, if_pos h]
  by_cases he : s.pmbEn = true
  · rw [if_pos he]
    exact ⟨he, fun h => by rw [he] at h; cases h⟩
  · rw [if_neg he]
    exact ⟨State.bitOf_setFld_same hr true (by decide), fun _ => rfl⟩

/-- A pin of the PMBus host that has another function turns it off (R908). -/
theorem State.pmbPins_off {s : State} (hr : SMap.wf regReset s.regs = true) {n : Nat} (hn : n ≤ 1)
    (hp : s.park n = none) (hm : s.mux n ≠ n + 6) : (s.pmbPins n).pmbEn = false := by
  have hf : pmbFunc n ≠ none := by simp [pmbFunc_of_le hn]
  have hfn : s.pinFn n ≠ some (n + 6) := by simp [State.pinFn, hp, hm]
  have hboth : ¬ (s.pinFn 0 = some 6 ∧ s.pinFn 1 = some 7) := by
    obtain rfl | rfl : n = 0 ∨ n = 1 := by omega
    · exact fun h => hfn h.1
    · exact fun h => hfn h.2
  have hown : pmbFunc n ≠ some (s.mux n) := by
    rw [pmbFunc_of_le hn]
    exact fun h => hm (Option.some.inj h).symm
  rw [State.pmbPins, if_neg hf, if_neg hboth, if_neg hown]
  exact State.bitOf_setFld_same hr false (by decide)

theorem execPinSwitchComplete_eq {s : State} {pin : Fin 12} {k : Park} (ha : s.alive = true)
    (hk : s.park pin = some k) (hn : k.next = none) :
    execPinSwitchComplete pin s = .next ((s.unparked pin).pmbPins pin) := by
  simp only [execPinSwitchComplete, hk, ha, hn, if_true]
  rfl

theorem muxReg_ne_of_mem {n : Nat} (hn : n < 12) {o : Nat}
    (ho : o ∈ [Reg.PIN_STATUS, Reg.PIN_SWITCHES, Reg.PWR_PMB_CFG]) : muxReg n ≠ o := by
  revert n o; decide

theorem pinSwitchCompletes {s : State} {pin : Fin 12} {k : Park} (hs : s.Canonical) (ha : s.alive = true)
    (hk : s.park pin = some k) (hnext : k.next = none) :
    Does (.pinSwitchComplete pin) s fun t =>
      t.pinFn pin = some (s.mux pin) ∧ (∀ n, n ≠ (pin : Nat) → t.park n = s.park n) ∧
      bitOf (t.reg Reg.PIN_STATUS) pin = false ∧
      t.reg Reg.PIN_SWITCHES = (s.reg Reg.PIN_SWITCHES + 1) % 2 ^ 32 ∧
      s.SameRegs t [Reg.PIN_STATUS, Reg.PIN_SWITCHES, Reg.PWR_PMB_CFG] ∧ s.SameBytes t ∧
      (1 < (pin : Nat) → t.reg Reg.PWR_PMB_CFG = s.reg Reg.PWR_PMB_CFG ∧ t.out = s.out) ∧
      ((pin : Nat) ≤ 1 → t.pinFn 0 = some 6 → t.pinFn 1 = some 7 → t.pmbEn = true ∧
        (s.pmbEn = false → t.out = s.out ++ [.pmbus true 0x21 (s.voutWord s.op)])) ∧
      ((pin : Nat) ≤ 1 → s.mux pin ≠ (pin : Nat) + 6 → t.pmbEn = false) := by
  obtain ⟨-, -, hregs, -, -, -, -, -, -, -, -, -, -, -, -, -, -, hparks, -⟩ := hs
  obtain ⟨hw, hsame, hbit, hcount⟩ := State.unparked_regs pin hregs (by omega)
  have hpark := State.unparked_park (s := s) pin hparks
  have hpmb := (s.unparked pin).pmbPins_onlyPmb pin
  have hsame' := hpmb.regs hw
  have hall := (hsame.mono (m := [Reg.PIN_STATUS, Reg.PIN_SWITCHES, Reg.PWR_PMB_CFG]) (by simp)).trans
    (hsame'.mono (by simp))
  have hmux {u : State} (h : s.SameRegs u [Reg.PIN_STATUS, Reg.PIN_SWITCHES, Reg.PWR_PMB_CFG]) {n : Nat}
      (hn : n < 12) : u.mux n = s.mux n := by
    rw [State.mux, State.fld, h _ fun ho => muxReg_ne_of_mem hn ho rfl]
    rfl
  have htpark (n : Nat) : ((s.unparked pin).pmbPins pin).park n = (s.unparked pin).park n := by
    rw [State.park, (congrArg State.parks hpmb.rest :)]
    rfl
  have hfn {n : Nat} (hn : n < 12) : ((s.unparked pin).pmbPins pin).pinFn n = (s.unparked pin).pinFn n := by
    rw [State.pinFn, State.pinFn, htpark, hmux hall hn, hmux (hsame.mono (by simp)) hn]
  have hself : (s.unparked pin).park pin = none := by rw [hpark, if_pos rfl]
  refine ⟨_, execPinSwitchComplete_eq ha hk hnext, ?_, fun n hn => ?_, ?_, ?_, hall, fun a => ?_, fun h => ?_,
    fun h h0 h1 => ?_, fun h hm => ?_⟩
  · rw [hfn pin.isLt, State.pinFn, hself, hmux (hsame.mono (by simp)) pin.isLt]
    rfl
  · rw [htpark, hpark, if_neg hn]
  · rw [hsame' _ (by decide)]
    exact hbit
  · rw [hsame' _ (by decide)]
    exact hcount
  · rw [hpmb.rest]
    exact ⟨rfl, rfl⟩
  · rw [State.pmbPins_other _ h]
    exact ⟨hsame _ (by decide), rfl⟩
  · rw [hfn (by decide)] at h0 h1
    have hfld {o : Nat} (ho : o ∉ [Reg.PIN_STATUS, Reg.PIN_SWITCHES]) (hi lo : Nat) :
        (s.unparked pin).fld o hi lo = s.fld o hi lo := by rw [State.fld, hsame o ho]; rfl
    have hop : (s.unparked pin).op = s.op := hfld (by decide) 1 0
    have hword : (s.unparked pin).voutWord (s.unparked pin).op = s.voutWord s.op := by
      simp only [State.voutWord, hop, hfld (o := Reg.PWR_VOUT_OP01) (by decide),
        hfld (o := Reg.PWR_VOUT_OP23) (by decide)]
    have hen : (s.unparked pin).pmbEn = s.pmbEn := by rw [State.pmbEn, hsame _ (by decide)]; rfl
    have hon := State.pmbPins_on hw h ⟨h0, h1⟩
    rw [hword, hen] at hon
    exact hon
  · exact State.pmbPins_off hw h hself (by rw [hmux (hsame.mono (by simp)) pin.isLt]; exact hm)

/-- Settles O57: each of the brake, of telemetry and of the end of a park is one operation or two on registers of
its own. -/
theorem brakeTelemetryAndPinsAct : Obligations.BrakeTelemetryAndPinsAct :=
  ⟨fun _ hs ha hr hp hg => brakeApplies hs ha hr hp hg, fun _ hs ha hr => brakeReleases hs ha hr,
    fun _ _ ha hr => snapshotWaits ha hr, fun _ _ _ hs ha hq => telemetryDrops hs ha hq,
    fun _ _ _ hs ha hk hn => pinSwitchCompletes hs ha hk hn⟩

end Sys2Proof.Machine
end

section
/-! SUPPORT. The power-up sequence: BOOT_START, training, the firmware check and READY (R315, R341, R342,
R811, R814, R815, R935). -/

namespace Sys2Proof.Machine

/-! ### Registers that a change leaves alone -/

/-- The register file stays canonical, and every register of which `P` holds keeps its value. -/
def State.KeepsRegs (P : Nat → Prop) (s t : State) : Prop :=
  SMap.wf regReset s.regs = true → SMap.wf regReset t.regs = true ∧ ∀ o, P o → t.reg o = s.reg o

namespace State.KeepsRegs
variable {P : Nat → Prop} {s t u : State}

theorem of_regs (h : t.regs = s.regs) : KeepsRegs P s t := fun hs =>
  ⟨by rw [h]; exact hs, fun o _ => by simp only [State.reg, h]⟩

theorem refl (s : State) : KeepsRegs P s s := of_regs rfl

theorem trans (h : KeepsRegs P s t) (h' : KeepsRegs P t u) : KeepsRegs P s u := fun hs =>
  have ⟨ht, hst⟩ := h hs
  have ⟨hu, htu⟩ := h' ht
  ⟨hu, fun o ho => (htu o ho).trans (hst o ho)⟩

theorem foldl {α : Type} {f : State → α → State} (l : List α) (hf : ∀ s, ∀ x ∈ l, KeepsRegs P s (f s x))
    (s : State) : KeepsRegs P s (l.foldl f s) :=
  List.foldlRecOn l f (motive := KeepsRegs P s) (refl s) fun t h x hx => h.trans (hf t x hx)

theorem setReg (s : State) {o : Nat} (v : Nat) (ho : ¬ P o) : KeepsRegs P s (s.setReg o v) := fun hs =>
  ⟨State.wf_setReg hs o v, fun _ hk => State.reg_setReg_other hs v fun e => ho (e ▸ hk)⟩

theorem setReg64 (s : State) {o : Nat} (v : Nat) (ho : ¬ P o) (ho' : ¬ P (o + 4)) :
    KeepsRegs P s (s.setReg64 o v) := (setReg s _ ho).trans (setReg _ _ ho')

end State.KeepsRegs

/-! ### The heads of the blocks of FAB_LINK_ registers -/

/-- The first register of a block of 256 bytes from FAB_LINK_CTRL on: among them each port's FAB_LINK_CTRL
and ALM_BOOT_STATUS. -/
def blockHead (o : Nat) : Prop := Reg.FAB_LINK_CTRL ≤ o ∧ 256 ∣ o

theorem blockHead_ctrl (p : Nat) : blockHead (lk p Reg.FAB_LINK_CTRL) := by
  unfold blockHead lk Reg.FAB_LINK_CTRL; omega

theorem blockHead_bootStatus : blockHead Reg.ALM_BOOT_STATUS := by
  unfold blockHead Reg.FAB_LINK_CTRL Reg.ALM_BOOT_STATUS; omega

/-- No other register of a port is the first of its block. -/
theorem not_blockHead_lk (p : Nat) {o : Nat} (h : o % 256 ≠ 0) : ¬ blockHead (lk p o) := by
  unfold blockHead lk; omega

/-- What every change of a port's state leaves alone. -/
abbrev State.KeepsHeads : State → State → Prop := State.KeepsRegs blockHead

namespace State.KeepsHeads
variable {s t u : State}

theorem trans (h : s.KeepsHeads t) (h' : t.KeepsHeads u) : s.KeepsHeads u := KeepsRegs.trans h h'

theorem setPort (s : State) (p : Nat) (x : Port) : s.KeepsHeads (s.setPort p x) := .of_regs rfl

theorem setFab (s : State) (f : Fabric) : s.KeepsHeads { s with fab := f } := .of_regs rfl

theorem txFrame (s : State) (p ftype vc seq : Nat) (l : List Byte) :
    s.KeepsHeads (s.txFrame p ftype vc seq l) := .of_regs rfl

theorem setLk (s : State) (p : Nat) {o : Nat} (v : Nat) (ho : o % 256 ≠ 0) :
    s.KeepsHeads (s.setReg (lk p o) v) := KeepsRegs.setReg s v (not_blockHead_lk p ho)

theorem setLink (s : State) (p st rate width : Nat) : s.KeepsHeads (s.setLink p st rate width) :=
  have h : Reg.FAB_LINK_STATE % 256 ≠ 0 := by decide
  ((setLk s p _ h).trans (setLk _ p _ h)).trans (setLk _ p _ h)

theorem sendData (s : State) (p vc : Nat) (l : List Byte) : s.KeepsHeads (s.sendData p vc l) :=
  have h : ¬ blockHead (lk p Reg.FAB_LINK_TX_BYTES) := not_blockHead_lk p (by decide)
  have h' : ¬ blockHead (lk p Reg.FAB_LINK_TX_BYTES + 4) := by
    unfold blockHead lk Reg.FAB_LINK_TX_BYTES; omega
  ((setPort s p _).trans (KeepsRegs.setReg64 _ _ h h')).trans (txFrame _ _ _ _ _ _)

theorem resend (s : State) (p : Nat) (l : List RetryRec) : s.KeepsHeads (s.resend p l) :=
  have h : Reg.FAB_LINK_REPLAYS % 256 ≠ 0 := by decide
  KeepsRegs.foldl l (fun s _ _ => (setLk s p _ h).trans (txFrame _ _ _ _ _ _)) s

theorem pumpResend (s : State) (p n : Nat) : s.KeepsHeads (s.pumpResend p n) := by
  fun_induction State.pumpResend s p n with
  | case1 s => exact .refl s
  | case2 s => exact .refl s
  | case3 s => exact setPort s p _
  | case4 s => exact .refl s
  | case5 s n x hx r t hr c hc w ih => exact ((setPort s p _).trans (resend _ _ _)).trans ih

theorem pumpMgt (s : State) (p : Nat) (l : List (List Byte)) : s.KeepsHeads (s.pumpMgt p l) := by
  fun_induction State.pumpMgt s p l with
  | case1 s => exact setPort s p _
  | case2 s m t hm ih => exact (sendData s p _ _).trans ih
  | case3 s => exact setPort s p _

theorem pump (s : State) (p : Nat) : s.KeepsHeads (s.pump p) := by
  unfold State.pump
  split
  · exact (pumpResend s p _).trans (pumpMgt _ _ _)
  · exact .refl s

theorem sendMgt (s : State) (p : Nat) (l : List Byte) : s.KeepsHeads (s.sendMgt p l) := by
  unfold State.sendMgt
  split
  · exact (setPort s p _).trans (pump _ _)
  · exact .refl s

theorem flood (s : State) (skip : Option Nat) (a : Advert) : s.KeepsHeads (s.flood skip a) := by
  refine KeepsRegs.foldl _ (fun s p _ => ?_) s
  split
  · exact .refl s
  · exact sendMgt s p _

theorem originate (s : State) (skip : Option Nat) : s.KeepsHeads (s.originate skip) := by
  unfold State.originate
  split
  · exact ((setFab s _).trans (setFab _ _)).trans (flood _ _ _)
  · exact .refl s

theorem settling (s : State) : s.KeepsHeads s.settling := by
  unfold State.settling
  split
  · exact KeepsRegs.setReg s _ fun h => absurd h.1 (by decide)
  · exact .refl s

theorem advanceEpoch (s : State) (skip : Option Nat) : s.KeepsHeads (s.advanceEpoch skip) := by
  have h : ¬ blockHead Reg.FAB_EPOCH := fun h => absurd h.1 (by decide)
  unfold State.advanceEpoch
  split
  · exact (trans (KeepsRegs.setReg s _ h) (settling _)).trans (originate _ _)
  · exact .refl s

theorem linkDown (s : State) (p : Nat) (cause : Option Nat) : s.KeepsHeads (s.linkDown p cause) := by
  unfold State.linkDown
  extract_lets s1 s2 s3
  split
  · exact .refl s
  · have h1 : s.KeepsHeads s1 := by
      unfold s1
      split
      · exact setLk s p _ (by decide)
      · exact .refl s
    have h2 : s.KeepsHeads s2 :=
      ((h1.trans (setLk _ p _ (by decide))).trans (setLk _ p _ (by decide))).trans (setLink _ p _ _ _)
    exact (h2.trans (setPort _ _ _)).trans (advanceEpoch _ _)

theorem goodbye (s : State) (p : Nat) (cause : Option Nat) : s.KeepsHeads (s.goodbye p cause) := by
  unfold State.goodbye
  split
  · exact (txFrame s p _ _ _ _).trans (linkDown _ _ _)
  · exact .refl s

theorem linkDiscard (s : State) (p : Nat) : s.KeepsHeads (s.linkDiscard p) :=
  trans (setLk s p _ (by decide)) (setPort _ _ _)

theorem enterDetect (s : State) (p : Nat) : s.KeepsHeads (s.enterDetect p) :=
  ((setLink s p 1 0 0).trans (setLk _ p _ (by decide))).trans (setPort _ _ _)

/-- A write of FAB_LINK_CTRL keeps its ENABLE bit alone; whatever the port then does, no head changes. -/
theorem linkCtrl (s : State) (p : Nat) (was : Bool) :
    (s.setReg (lk p Reg.FAB_LINK_CTRL) (s.reg (lk p Reg.FAB_LINK_CTRL) % 2)).KeepsHeads (s.linkCtrl p was) := by
  unfold State.linkCtrl
  extract_lets c w
  split
  · split
    · exact goodbye _ _ _
    split
    · exact (setLink _ _ _ _ _).trans (linkDiscard _ _)
    · exact .refl _
  · split
    · exact enterDetect _ _
    split
    · exact goodbye _ _ _
    · exact .refl _

end State.KeepsHeads

/-! ### READY -/

theorem lk_inj {p q o : Nat} (h : lk p o = lk q o) : p = q := by unfold lk at h; omega

/-- Whether FAB_LINK_CTRL of port `p` enables it. -/
def State.enabled (s : State) (p : Nat) : Bool := bitOf (s.reg (lk p Reg.FAB_LINK_CTRL)) 0

theorem State.KeepsHeads.enabled {s t : State} (h : s.KeepsHeads t) (hs : SMap.wf regReset s.regs = true)
    (p : Nat) : t.enabled p = s.enabled p := congrArg (bitOf · 0) ((h hs).2 _ (blockHead_ctrl p))

/-- Enabling a port: its own ENABLE is set, and no other is changed. -/
theorem State.enabled_enable {s : State} (hs : SMap.wf regReset s.regs = true) (p : Nat) (was : Bool) (q : Nat) :
    ((s.setFld (lk p Reg.FAB_LINK_CTRL) 0 0 1).linkCtrl p was).enabled q = (decide (q = p) || s.enabled q) := by
  have h1 := State.wf_setFld hs (lk p Reg.FAB_LINK_CTRL) 0 0 1
  have hset := State.bitOf_setFld_same hs (o := lk p Reg.FAB_LINK_CTRL) (b := 0) true (by decide)
  rw [(State.KeepsHeads.linkCtrl _ p was).enabled (State.wf_setReg h1 _ _)]
  by_cases hq : q = p
  · subst hq
    have hodd : (s.setFld (lk q Reg.FAB_LINK_CTRL) 0 0 1).reg (lk q Reg.FAB_LINK_CTRL) % 2 = 1 := by
      simpa [bitOf, Nat.testBit_zero, b2n] using hset
    rw [State.enabled, State.reg_setReg_same h1, hodd]
    simp [bitOf]
  · have hne : lk q Reg.FAB_LINK_CTRL ≠ lk p Reg.FAB_LINK_CTRL := fun h => hq (lk_inj h)
    rw [State.enabled, State.reg_setReg_other h1 _ hne, State.reg_setFld_other hs _ _ _ hne]
    simp [State.enabled, hq]

/-- One port's turn in the start of the fabric. -/
def State.startPort (en : Nat) (s : State) (p : Nat) : State :=
  if bitOf en p then
    (s.setFld (lk p Reg.FAB_LINK_CTRL) 0 0 1).linkCtrl p (bitOf (s.reg (lk p Reg.FAB_LINK_CTRL)) 0)
  else s

theorem State.OnlyLinks.startPort (en : Nat) (s : State) (p : Nat) : s.OnlyLinks (s.startPort en p) := by
  unfold State.startPort
  split
  · exact (setReg s _ (le_lk p (by decide))).trans (linkCtrl _ p _)
  · exact refl s

theorem State.enabled_startPort {s : State} (hs : SMap.wf regReset s.regs = true) (en p q : Nat) :
    (s.startPort en p).enabled q = (decide (q = p) && bitOf en p || s.enabled q) := by
  unfold State.startPort
  split
  next h => rw [State.enabled_enable hs, h, Bool.and_true]
  next h => simp [h]

/-- A turn writes no ALM_BOOT_STATUS. -/
theorem State.bootStatus_startPort {s : State} (hs : SMap.wf regReset s.regs = true) (en : Nat) {p : Nat}
    (hp : p < 6) : (s.startPort en p).reg Reg.ALM_BOOT_STATUS = s.reg Reg.ALM_BOOT_STATUS := by
  have hne : Reg.ALM_BOOT_STATUS ≠ lk p Reg.FAB_LINK_CTRL := by
    unfold lk Reg.ALM_BOOT_STATUS Reg.FAB_LINK_CTRL; omega
  have h1 := State.wf_setFld hs (lk p Reg.FAB_LINK_CTRL) 0 0 1
  unfold State.startPort
  split
  · rw [(State.KeepsHeads.linkCtrl _ p _ (State.wf_setReg h1 _ _)).2 _ blockHead_bootStatus,
      State.reg_setReg_other h1 _ hne, State.reg_setFld_other hs _ _ _ hne]
  · rfl

/-- The turns of some ports: those of them that PORT_EN names are enabled, and no other. -/
theorem State.startPorts_heads (en : Nat) (l : List Nat) (hl : ∀ p ∈ l, p < 6) {s : State}
    (hs : SMap.wf regReset s.regs = true) :
    (∀ q, (l.foldl (State.startPort en) s).enabled q = (decide (q ∈ l) && bitOf en q || s.enabled q)) ∧
    (l.foldl (State.startPort en) s).reg Reg.ALM_BOOT_STATUS = s.reg Reg.ALM_BOOT_STATUS := by
  induction l generalizing s with
  | nil => exact ⟨fun q => by simp, rfl⟩
  | cons p l ih =>
    obtain ⟨hp, hl⟩ := List.forall_mem_cons.1 hl
    obtain ⟨hen, hst⟩ := ih hl ((State.OnlyLinks.startPort en s p).regs hs).1
    refine ⟨fun q => ?_, hst.trans (State.bootStatus_startPort hs en hp)⟩
    rw [List.foldl_cons, hen, State.enabled_startPort hs]
    by_cases hq : q = p
    · subst hq; cases bitOf en q <;> simp
    · simp [hq]

theorem State.startFabric_eq {s : State} (h : s.portEn ≠ 0) : s.startFabric =
    (upto 6).foldl (State.startPort s.portEn) ((s.setFld Reg.FAB_STATE 1 0 1).advanceEpoch none) := if_neg h

theorem State.OnlyLinks.startFabric (s : State) : s.OnlyLinks s.startFabric := by
  by_cases h : s.portEn = 0
  · rw [show s.startFabric = s from if_pos h]
    exact refl s
  · rw [State.startFabric_eq h]
    exact ((setReg s _ (by decide)).trans (advanceEpoch _ _)).trans (foldl (State.OnlyLinks.startPort _) _ _)

/-- The start of the fabric enables the ports of PORT_EN and no other, and leaves the boot's status. -/
theorem State.startFabric_heads {s : State} (hs : SMap.wf regReset s.regs = true) :
    (∀ p : Fin 6, s.startFabric.enabled p = (bitOf s.portEn p || s.enabled p)) ∧
    s.startFabric.reg Reg.ALM_BOOT_STATUS = s.reg Reg.ALM_BOOT_STATUS := by
  by_cases h : s.portEn = 0
  · rw [show s.startFabric = s from if_pos h, h]
    exact ⟨fun p => by simp [bitOf], rfl⟩
  · have hk : s.KeepsHeads ((s.setFld Reg.FAB_STATE 1 0 1).advanceEpoch none) :=
      State.KeepsHeads.trans (.setReg s _ fun h => absurd h.1 (by decide)) (.advanceEpoch _ _)
    obtain ⟨hen, hst⟩ := State.startPorts_heads s.portEn (upto 6) (fun p hp => List.mem_range.1 hp) (hk hs).1
    rw [State.startFabric_eq h]
    refine ⟨fun p => ?_, hst.trans ((hk hs).2 _ blockHead_bootStatus)⟩
    rw [hen, hk.enabled hs, show decide ((p : Nat) ∈ upto 6) = true from
      decide_eq_true (List.mem_range.2 p.isLt), Bool.true_and]

/-- The state that READY comes to but for its registers, which are noted as the post-almanac state. -/
def State.readied (s : State) : State :=
  let u := ((s.setStep 6).setReg Reg.ALM_BOOT_US (s.now / 36000000 % 2 ^ 32)).setFld Reg.HI_BOOT 0 0 1
  (u.startFabric.setReg Reg.FAB_TIME_PARENT 16).setReg Reg.FAB_TIME_BOUND 0

theorem execBootReady_readied {s : State} (ha : s.alive = true) (hr : s.ready = false)
    (ht : bitOf (s.reg Reg.MEM_TRAIN_STATUS) 16 = true) (hf : s.fwDone = true) :
    exec .bootReady s = .next { s.readied with postAlm := s.readied.regs } :=
  congrArg Host.Outcome.next (if_pos ⟨ha, hr, ht, hf⟩)

/-- READY is set, step 6 is recorded and the ports of PORT_EN are enabled. -/
theorem State.readied_regs {s : State} (h : SMap.wf regReset s.regs = true) :
    s.readied.ready = true ∧ s.readied.bootStep = 6 ∧
    ∀ p : Fin 6, s.readied.enabled p = (bitOf s.portEn p || s.enabled p) := by
  have h1 : SMap.wf regReset (s.setStep 6).regs = true := State.wf_setFld h _ _ _ _
  have h2 := State.wf_setReg h1 Reg.ALM_BOOT_US (s.now / 36000000 % 2 ^ 32)
  have h3 := State.wf_setFld h2 Reg.HI_BOOT 0 0 1
  obtain ⟨hw, hlow⟩ := (OnlyLinks.startFabric _).regs h3
  obtain ⟨hen, hst⟩ := State.startFabric_heads h3
  have htime {o : Nat} (ho : o ≠ Reg.FAB_TIME_PARENT) (ho' : o ≠ Reg.FAB_TIME_BOUND) :
      s.readied.reg o = (State.startFabric _).reg o :=
    (State.reg_setReg_other (State.wf_setReg hw Reg.FAB_TIME_PARENT 16) 0 ho').trans
      (State.reg_setReg_other hw _ ho)
  refine ⟨?_, ?_, fun p => ?_⟩
  · rw [State.ready, htime (by decide) (by decide), hlow _ (by decide)]
    exact State.bitOf_setFld_same h2 true (by decide)
  · rw [State.bootStep, State.fld, htime (by decide) (by decide), hst,
      State.reg_setFld_other h2 _ _ _ (by decide), State.reg_setReg_other h1 _ (by decide)]
    exact State.fld_setFld_same h 6 (by decide) (by decide)
  · have hctrl (o : Nat) (ho : o < 0x31000 ∨ 0x40000 ≤ o) : lk p Reg.FAB_LINK_CTRL ≠ o := by
      unfold lk Reg.FAB_LINK_CTRL; omega
    have hsame : State.reg _ (lk p Reg.FAB_LINK_CTRL) = s.reg (lk p Reg.FAB_LINK_CTRL) :=
      ((State.reg_setFld_other h2 0 0 1 (hctrl Reg.HI_BOOT (by decide))).trans
        (State.reg_setReg_other h1 _ (hctrl Reg.ALM_BOOT_US (by decide)))).trans
        (State.reg_setFld_other h 14 11 6 (hctrl Reg.ALM_BOOT_STATUS (by decide)))
    rw [State.enabled, htime (hctrl _ (by decide)) (hctrl _ (by decide))]
    exact (hen p).trans (congrArg (fun v => bitOf s.portEn p || bitOf v 0) hsame)

/-- READY comes with the registers as they then stand (R935). -/
theorem bootReadies {s : State} (hs : s.Canonical) (ha : s.alive = true) (hr : s.ready = false)
    (ht : bitOf (s.reg Reg.MEM_TRAIN_STATUS) 16 = true) (hf : s.fwDone = true) :
    Does .bootReady s fun t => t.ready = true ∧ t.bootStep = 6 ∧ t.postAlm = t.regs ∧ s.SameBytes t ∧
      ∀ p : Fin 6, t.enabled p = (bitOf s.portEn p || s.enabled p) := by
  obtain ⟨-, -, hregs, -⟩ := hs
  obtain ⟨hready, hstep, hen⟩ := State.readied_regs hregs
  have hl := State.OnlyLinks.startFabric
    (((s.setStep 6).setReg Reg.ALM_BOOT_US (s.now / 36000000 % 2 ^ 32)).setFld Reg.HI_BOOT 0 0 1)
  have hd : s.readied.dram = s.dram := hl.dram
  have hp : s.readied.plate = s.plate := hl.plate
  refine ⟨_, execBootReady_readied ha hr ht hf, hready, hstep, rfl, fun a => ?_, hen⟩
  exact ⟨congrArg (Mem.read · a) hd, congrArg (Mem.read · a) hp⟩

/-! ### Training -/

/-- The rate that training ends at: a channel that fails at a rate forces the next lower one (R315). -/
def trainedRate (rate : Option (Fin 3)) (chOk : BitVec 16) (least : Nat) : Nat :=
  match rate with
  | some r => if chOk.toNat = 0xFFFF then max r least else 3
  | none => 3

theorem trainedRate_ok (r : Fin 3) {chOk : BitVec 16} (h : chOk.toNat = 0xFFFF) (least : Nat) :
    trainedRate (some r) chOk least = max (r : Nat) least := if_pos h

theorem trainedRate_none {rate : Option (Fin 3)} {chOk : BitVec 16} (h : rate = none ∨ chOk.toNat ≠ 0xFFFF)
    (least : Nat) : trainedRate rate chOk least = 3 := by
  cases rate with
  | none => rfl
  | some r => exact if_neg (h.resolve_left nofun)

/-- The registers after training. -/
def State.trainRegs (s : State) (rate : Nat) (chOk : BitVec 16) (big : Bool) : State :=
  let s' := s.setReg Reg.MEM_TRAIN_STATUS (chOk.toNat + 65536 +
    131072 * b2n (decide (s.dramSetting.1 < rate ∧ rate < 3)))
  ((s'.setFld Reg.MEM_ID 7 0 (if big then 0x40 else 0x20)).setFld Reg.MEM_ID 13 13
    s.dramSetting.2).setFld Reg.MEM_ID 15 14 rate

/-- DRAM holds bytes that the spec leaves undefined: those of a fresh serial number. -/
def State.dramUndefined (s : State) : State := ({ s with dram := ⟨some s.fresh, []⟩ }).bumpFresh

/-- The state after training. -/
def State.trained (s : State) (rate : Nat) (chOk : BitVec 16) (big : Bool) : State :=
  ((s.trainRegs rate chOk big).dramUndefined).setStep 4

/-- MEM_TRAIN_STATUS bit 17: the rate is lower than set. -/
theorem bitOf_trainStatus {x : Nat} (hx : x < 2 ^ 16) (c : Bool) :
    bitOf (x + 65536 + 131072 * b2n c) 17 = c := by
  rw [bitOf, Nat.testBit_eq_decide_div_mod_eq]
  cases c <;> simp [b2n] <;> omega

theorem execDramTrainingDone_trained {s : State} (rate : Option (Fin 3)) (chOk : BitVec 16) (big : Bool)
    (ha : s.alive = true) (hb : 3 ≤ s.bootStep) (hr : s.ready = false)
    (ht : bitOf (s.reg Reg.MEM_TRAIN_STATUS) 16 = false) :
    exec (.dramTrainingDone rate chOk big) s =
      .next (s.trained (trainedRate rate chOk s.dramSetting.1) chOk big) :=
  congrArg Host.Outcome.next (if_pos ⟨ha, hb, hr, ht⟩)

/-- Training changes MEM_TRAIN_STATUS, MEM_ID and the boot's step, and no other register. -/
theorem State.trained_regs {s : State} (h : SMap.wf regReset s.regs = true) (rate : Nat) (chOk : BitVec 16)
    (big : Bool) :
    s.SameRegs (s.trained rate chOk big) [Reg.MEM_TRAIN_STATUS, Reg.MEM_ID, Reg.ALM_BOOT_STATUS] ∧
    (s.trained rate chOk big).bootStep = 4 ∧
    (s.trained rate chOk big).reg Reg.MEM_TRAIN_STATUS =
      chOk.toNat + 65536 + 131072 * b2n (decide (s.dramSetting.1 < rate ∧ rate < 3)) ∧
    (s.trained rate chOk big).fld Reg.MEM_ID 7 0 = (if big then 0x40 else 0x20) ∧
    (s.trained rate chOk big).fld Reg.MEM_ID 15 14 = rate % 4 := by
  have h1 := State.wf_setReg h Reg.MEM_TRAIN_STATUS (chOk.toNat + 65536 +
    131072 * b2n (decide (s.dramSetting.1 < rate ∧ rate < 3)))
  have h2 := State.wf_setFld h1 Reg.MEM_ID 7 0 (if big then 0x40 else 0x20)
  have h3 := State.wf_setFld h2 Reg.MEM_ID 13 13 s.dramSetting.2
  have h4 : SMap.wf regReset (s.trainRegs rate chOk big).dramUndefined.regs = true :=
    State.wf_setFld h3 _ _ _ _
  have hother {o : Nat} (ho : o ≠ Reg.ALM_BOOT_STATUS) :
      (s.trained rate chOk big).reg o = (s.trainRegs rate chOk big).reg o :=
    State.reg_setFld_other h4 14 11 4 ho
  refine ⟨fun o ho => ?_, State.fld_setFld_same h4 4 (by decide) (by decide), ?_, ?_, ?_⟩
  · obtain ⟨hts, hid, hbs⟩ : o ≠ Reg.MEM_TRAIN_STATUS ∧ o ≠ Reg.MEM_ID ∧ o ≠ Reg.ALM_BOOT_STATUS := by
      simpa using ho
    exact (((hother hbs).trans (State.reg_setFld_other h3 _ _ _ hid)).trans
      (State.reg_setFld_other h2 _ _ _ hid)).trans
      ((State.reg_setFld_other h1 _ _ _ hid).trans (State.reg_setReg_other h _ hts))
  · have hb : b2n (decide (s.dramSetting.1 < rate ∧ rate < 3)) ≤ 1 := by unfold b2n; split <;> omega
    refine (hother (by decide)).trans (((State.reg_setFld_other h3 _ _ _ (by decide)).trans
      (State.reg_setFld_other h2 _ _ _ (by decide))).trans ((State.reg_setFld_other h1 _ _ _ (by decide)).trans
      ((State.reg_setReg_same h _ _).trans (Nat.mod_eq_of_lt ?_))))
    have := chOk.isLt
    omega
  · rw [State.fld, hother (by decide)]
    refine (State.fld_setFld_disjoint h3 _ (by decide) (by decide) (by decide)).trans
      ((State.fld_setFld_disjoint h2 _ (by decide) (by decide) (by decide)).trans
      ((State.fld_setFld_same h1 _ (by decide) (by decide)).trans ?_))
    cases big <;> rfl
  · rw [State.fld, hother (by decide)]
    exact State.fld_setFld_same h3 _ (by decide) (by decide)

theorem dramTrains {s : State} (rate : Option (Fin 3)) (chOk : BitVec 16) (big : Bool) (hs : s.Canonical)
    (ha : s.alive = true) (hb : 3 ≤ s.bootStep) (hr : s.ready = false) (hset : s.dramSetting.1 < 3)
    (ht : bitOf (s.reg Reg.MEM_TRAIN_STATUS) 16 = false) :
    Does (.dramTrainingDone rate chOk big) s fun t => t.bootStep = 4 ∧
      t.fld Reg.MEM_TRAIN_STATUS 16 0 = 2 ^ 16 + chOk.toNat ∧
      t.fld Reg.MEM_ID 7 0 = (if big then 0x40 else 0x20) ∧
      (∀ r, rate = some r → chOk.toNat = 0xFFFF → t.fld Reg.MEM_ID 15 14 = max (r : Nat) s.dramSetting.1 ∧
        bitOf (t.reg Reg.MEM_TRAIN_STATUS) 17 = decide (s.dramSetting.1 < (r : Nat))) ∧
      (rate = none ∨ chOk.toNat ≠ 0xFFFF → t.fld Reg.MEM_ID 15 14 = 3 ∧ t.dramOn = false) ∧
      t.dram = ⟨some s.fresh, []⟩ ∧ t.plate = s.plate ∧
      s.SameRegs t [Reg.MEM_TRAIN_STATUS, Reg.MEM_ID, Reg.ALM_BOOT_STATUS] := by
  obtain ⟨-, -, hregs, -⟩ := hs
  obtain ⟨hsame, hstep, hstatus, hcap, hrate⟩ :=
    State.trained_regs hregs (trainedRate rate chOk s.dramSetting.1) chOk big
  have hch := chOk.isLt
  refine ⟨_, execDramTrainingDone_trained rate chOk big ha hb hr ht, hstep, ?_, hcap, fun r hr hok => ?_,
    fun hno => ?_, rfl, rfl, hsame⟩
  · rw [State.fld, hstatus, bits]
    omega
  · have hlt := r.isLt
    subst hr
    rw [hrate, hstatus, trainedRate_ok r hok, bitOf_trainStatus hch]
    have hslow : (s.dramSetting.1 < max (r : Nat) s.dramSetting.1 ∧ max (r : Nat) s.dramSetting.1 < 3) ↔
        s.dramSetting.1 < (r : Nat) := by omega
    exact ⟨Nat.mod_eq_of_lt (by omega), decide_eq_decide.2 hslow⟩
  · rw [trainedRate_none hno] at hrate ⊢
    exact ⟨hrate, by simp [State.dramOn, hrate]⟩

/-! ### The firmware check -/

theorem ofLeBytes_lt (l : List Byte) : ofLeBytes l < 256 ^ l.length := by
  induction l with
  | nil => decide
  | cons b l ih =>
    have hb := b.isLt
    rw [ofLeBytes, List.length_cons, pow_succ]
    omega

theorem leAt_lt (l : List Byte) (o n : Nat) : leAt l o n < 256 ^ n :=
  (ofLeBytes_lt _).trans_le (Nat.pow_le_pow_right (by decide) (List.length_take_le _ _))

/-- The registers that the firmware check changes. -/
abbrev fwRegs : List Nat := [Reg.ALM_BOOT_STATUS, Reg.ALM_FW_INFO, Reg.ALM_FW_SVN, Reg.ALM_FW_SEQ]

section
variable {s : State}

/-- A boot step leaves the other registers and the other fields of ALM_BOOT_STATUS. -/
theorem State.setStep_regs (h : SMap.wf regReset s.regs = true) {n : Nat} (hn : n < 16) :
    (s.setStep n).bootStep = n ∧ s.SameRegs (s.setStep n) [Reg.ALM_BOOT_STATUS] ∧
    ∀ hi lo, hi < 11 → (s.setStep n).fld Reg.ALM_BOOT_STATUS hi lo = s.fld Reg.ALM_BOOT_STATUS hi lo :=
  ⟨(State.fld_setFld_same h n (by decide) (by decide)).trans (Nat.mod_eq_of_lt hn),
    State.sameRegs_setReg h _ (by simp),
    fun _ _ hhi => State.fld_setFld_disjoint h n (by decide) (by decide) (.inl hhi)⟩

/-- Image `n` runs: ALM_BOOT_STATUS names it and ALM_FW_SEQ holds its sequence number. -/
theorem State.startFw_regs (h : SMap.wf regReset s.regs = true) (n : Nat) (l : List Byte) :
    SMap.wf regReset (s.startFw n l).regs = true ∧ s.SameRegs (s.startFw n l) fwRegs ∧
    (s.startFw n l).fld Reg.ALM_BOOT_STATUS 7 6 = n % 4 ∧
    (s.startFw n l).reg Reg.ALM_FW_SEQ = leAt l 4 4 := by
  have h1 := State.wf_setFld h Reg.ALM_BOOT_STATUS 7 6 n
  have h2 := State.wf_setFld h1 Reg.ALM_BOOT_STATUS 8 8 0
  have h3 := State.wf_setReg h2 Reg.ALM_FW_INFO (leAt l 0x0C 2)
  have h4 := State.wf_setReg h3 Reg.ALM_FW_SVN (leAt l 8 4)
  refine ⟨State.wf_setReg h4 _ _, ?_, ?_, ?_⟩
  · exact (((State.sameRegs_setReg h _ (by simp)).trans (State.sameRegs_setReg h1 _ (by simp))).trans
      (State.sameRegs_setReg h2 _ (by simp))).trans
      ((State.sameRegs_setReg h3 _ (by simp)).trans (State.sameRegs_setReg h4 _ (by simp)))
  · have hstatus : (s.startFw n l).reg Reg.ALM_BOOT_STATUS = State.reg _ Reg.ALM_BOOT_STATUS :=
      (State.reg_setReg_other h4 _ (by decide)).trans
        ((State.reg_setReg_other h3 _ (by decide)).trans (State.reg_setReg_other h2 _ (by decide)))
    rw [State.fld, hstatus]
    exact (State.fld_setFld_disjoint h1 0 (by decide) (by decide) (by decide)).trans
      (State.fld_setFld_same h n (by decide) (by decide))
  · exact (State.reg_setReg_same h4 _ _).trans (Nat.mod_eq_of_lt (leAt_lt l 4 4))

/-- The first valid image among those tried (R814). -/
def State.fwFirst (s : State) (f : FlashPart) : Option Nat :=
  (fwTry f).find? fun n => fwOk (fwImage f n) s.svnFloor

/-- FW_NONE is set. -/
abbrev State.noFw (s : State) : State := s.setFld Reg.ALM_BOOT_STATUS 8 8 1

/-- The image found runs, or FW_NONE is set; `im` gives the bytes of a flash part's images. -/
def State.fwStarted (s : State) (im : FlashPart → Nat → List Byte) (first : FlashPart → Option Nat)
    (flash : Option FlashPart) : State :=
  match flash with
  | none => s.noFw
  | some f => match first f with
    | some n => s.startFw n (im f n)
    | none => s.noFw

section
variable {im : FlashPart → Nat → List Byte} {first : FlashPart → Option Nat} {flash : Option FlashPart}

theorem State.fwStarted_none (h : ∀ f, flash = some f → first f = none) :
    s.fwStarted im first flash = s.noFw := by
  cases flash with
  | none => rfl
  | some f => simp only [State.fwStarted, h f rfl]

theorem State.fwStarted_some {f : FlashPart} {n : Nat} (hn : first f = some n) :
    s.fwStarted im first (some f) = s.startFw n (im f n) := by
  simp only [State.fwStarted, hn]

end

/-- The firmware check: the first valid image runs, or FW_NONE is set. -/
def State.fwChecked (s : State) : State := s.fwStarted fwImage s.fwFirst s.flash

theorem execFirmwareCheckDone_fwChecked (ha : s.alive = true) (hb : 3 ≤ s.bootStep) (hr : s.ready = false)
    (hf : s.fwDone = false) : exec .firmwareCheckDone s = .next (s.fwChecked.setStep 5) := by
  -- the images tried stay opaque: to compare them by reduction would evaluate the flash
  have hstart : ∀ first : FlashPart → Option Nat,
      (∀ f, ((fwTry f).find? fun n => fwOk (fwImage f n) s.svnFloor) = first f) →
      execFirmwareCheckDone s = .next ((s.fwStarted fwImage first s.flash).setStep 5) := by
    intro first hfirst
    unfold execFirmwareCheckDone
    rw [if_pos ⟨ha, hb, hr, hf⟩]
    simp only [hfirst]
    rfl
  exact hstart s.fwFirst fun f => rfl

theorem State.fwChecked_none (h : ∀ f, s.flash = some f → s.fwFirst f = none) : s.fwChecked = s.noFw :=
  State.fwStarted_none h

theorem State.fwChecked_some {f : FlashPart} {n : Nat} (hf : s.flash = some f) (hn : s.fwFirst f = some n) :
    s.fwChecked = s.startFw n (fwImage f n) := by
  rw [State.fwChecked, hf, State.fwStarted_some hn]

theorem mem_fwTry {f : FlashPart} {n : Nat} (h : n ∈ fwTry f) : n = 1 ∨ n = 2 := by
  unfold fwTry at h
  split at h
  · simpa using h
  · simpa [or_comm] using h

/-- What the firmware check shows where no image is valid. -/
theorem fwCheckFindsNone (hs : SMap.wf regReset s.regs = true)
    (h : ∀ f, s.flash = some f → s.fwFirst f = none) :
    bitOf ((s.fwChecked.setStep 5).reg Reg.ALM_BOOT_STATUS) 8 = true ∧ (s.fwChecked.setStep 5).bootStep = 5 ∧
    s.SameBytes (s.fwChecked.setStep 5) ∧ s.SameRegs (s.fwChecked.setStep 5) fwRegs := by
  rw [State.fwChecked_none h]
  have h1 := State.wf_setFld hs Reg.ALM_BOOT_STATUS 8 8 1
  obtain ⟨hstep, hsame, hfld⟩ := State.setStep_regs h1 (n := 5) (by decide)
  refine ⟨?_, hstep, fun a => ⟨rfl, rfl⟩,
    (State.sameRegs_setReg hs _ (by simp)).trans (hsame.mono (by simp))⟩
  rw [State.bitOf_reg, hfld 8 8 (by decide), ← State.bitOf_reg]
  exact State.bitOf_setFld_same hs true (by decide)

/-- What the firmware check shows where an image is valid. -/
theorem fwCheckFinds (hs : SMap.wf regReset s.regs = true) {f : FlashPart} {n : Nat}
    (hf : s.flash = some f) (hn : s.fwFirst f = some n) :
    (s.fwChecked.setStep 5).fld Reg.ALM_BOOT_STATUS 7 6 = n ∧
    (s.fwChecked.setStep 5).reg Reg.ALM_FW_SEQ = leAt (fwImage f n) 4 4 ∧
    (s.fwChecked.setStep 5).bootStep = 5 ∧ s.SameBytes (s.fwChecked.setStep 5) ∧
    s.SameRegs (s.fwChecked.setStep 5) fwRegs := by
  have hlt : n < 4 := by
    have := mem_fwTry (List.mem_of_find?_eq_some hn)
    omega
  rw [State.fwChecked_some hf hn]
  obtain ⟨hw, hfwsame, hsel, hseq⟩ := State.startFw_regs hs n (fwImage f n)
  obtain ⟨hstep, hsame, hfld⟩ := State.setStep_regs hw (n := 5) (by decide)
  exact ⟨((hfld 7 6 (by decide)).trans hsel).trans (Nat.mod_eq_of_lt hlt),
    (hsame _ (by decide)).trans hseq, hstep, fun a => ⟨rfl, rfl⟩, hfwsame.trans (hsame.mono (by simp))⟩

/-- R814: the image that runs is the first valid one tried; where there is none, FW_NONE is set. -/
theorem firmwareChecked (hs : s.Canonical) (ha : s.alive = true) (hb : 3 ≤ s.bootStep)
    (hr : s.ready = false) (hd : s.fwDone = false) :
    Does .firmwareCheckDone s fun t => t.bootStep = 5 ∧ t.fwDone = true ∧ s.SameBytes t ∧
      s.SameRegs t fwRegs ∧ (s.flash = none → bitOf (t.reg Reg.ALM_BOOT_STATUS) 8 = true) ∧
      ∀ f, s.flash = some f →
        ((∀ n ∈ fwTry f, fwOk (fwImage f n) s.svnFloor = false) →
          bitOf (t.reg Reg.ALM_BOOT_STATUS) 8 = true) ∧
        ∀ n, s.fwFirst f = some n → t.fld Reg.ALM_BOOT_STATUS 7 6 = n ∧
          t.reg Reg.ALM_FW_SEQ = leAt (fwImage f n) 4 4 := by
  obtain ⟨-, -, hregs, -⟩ := hs
  refine ⟨_, execFirmwareCheckDone_fwChecked ha hb hr hd, ?_⟩
  by_cases hnone : ∀ f, s.flash = some f → s.fwFirst f = none
  · obtain ⟨hbit, hstep, hbytes, hsame⟩ := fwCheckFindsNone hregs hnone
    refine ⟨hstep, by rw [State.fwDone, hbit, Bool.or_true], hbytes, hsame, fun _ => hbit,
      fun f hf => ⟨fun _ => hbit, fun n hn => ?_⟩⟩
    rw [hnone f hf] at hn
    cases hn
  · push Not at hnone
    obtain ⟨f, hf, hsome⟩ := hnone
    obtain ⟨n, hn⟩ := Option.ne_none_iff_exists'.1 hsome
    obtain ⟨hsel, hseq, hstep, hbytes, hsame⟩ := fwCheckFinds hregs hf hn
    have hpos : n ≠ 0 := by
      have := mem_fwTry (List.mem_of_find?_eq_some hn)
      omega
    refine ⟨hstep, by simp [State.fwDone, hsel, hpos], hbytes, hsame, fun h => by simp [hf] at h,
      fun g hg => ?_⟩
    obtain rfl : f = g := Option.some.inj (hf.symm.trans hg)
    refine ⟨fun hbad => ?_, fun m hm => ?_⟩
    · have hok : fwOk (fwImage f n) s.svnFloor = true :=
        List.find?_some (p := fun n => fwOk (fwImage f n) s.svnFloor) hn
      rw [hbad n (List.mem_of_find?_eq_some hn)] at hok
      cases hok
    · obtain rfl : n = m := Option.some.inj (hn.symm.trans hm)
      exact ⟨hsel, hseq⟩

/-- The first of two images tried, where it is valid. -/
theorem State.fwFirst_first {f : FlashPart} {a b : Nat} (ht : fwTry f = [a, b])
    (ha : fwOk (fwImage f a) s.svnFloor = true) : s.fwFirst f = some a := by
  rw [State.fwFirst, ht]
  exact List.find?_cons_of_pos (p := fun n => fwOk (fwImage f n) s.svnFloor) ha

/-- The second, where the first is not valid. -/
theorem State.fwFirst_second {f : FlashPart} {a b : Nat} (ht : fwTry f = [a, b])
    (ha : fwOk (fwImage f a) s.svnFloor = false) (hb : fwOk (fwImage f b) s.svnFloor = true) :
    s.fwFirst f = some b := by
  rw [State.fwFirst, ht]
  exact (List.find?_cons_of_neg (p := fun n => fwOk (fwImage f n) s.svnFloor) (by simp [ha])).trans
    (List.find?_cons_of_pos (p := fun n => fwOk (fwImage f n) s.svnFloor) hb)

end

/-! ### BOOT_START -/

/-- What the fuses and the entropy source gave, and whether the die is stopped. -/
abbrev fusedRegs : List Nat := [Reg.FAB_UID, Reg.FAB_UID + 4, Reg.FAB_INCARNATION, Reg.PWR_THERM]

/-- What the identity block and a copy may change: of `s`, at most the configuration space, the power
settings, the copy, the pins and registers; READY and the fused registers are kept. -/
structure State.Booting (s t : State) : Prop where
  rest : t = { s with regs := t.regs, cfg := t.cfg, pwr := t.pwr, copy := t.copy, parks := t.parks }
  regs : State.KeepsRegs (· ∈ fusedRegs) s t
  ready : SMap.wf regReset s.regs = true → t.ready = s.ready

namespace State.Booting
variable {s t u : State}

theorem plain (h : t = { s with cfg := t.cfg, pwr := t.pwr, copy := t.copy, parks := t.parks }) :
    s.Booting t := by
  have hregs : t.regs = s.regs := (congrArg State.regs h :)
  refine ⟨?_, .of_regs hregs, fun _ => by rw [State.ready, State.reg, hregs]; rfl⟩
  rw [hregs]
  exact h

theorem refl (s : State) : s.Booting s := plain rfl

theorem trans (h : s.Booting t) (h' : t.Booting u) : s.Booting u where
  rest := Eq.trans h'.rest (congrArg (fun x : State =>
    { x with regs := u.regs, cfg := u.cfg, pwr := u.pwr, copy := u.copy, parks := u.parks }) h.rest)
  regs := h.regs.trans h'.regs
  ready hs := (h'.ready (h.regs hs).1).trans (h.ready hs)

theorem foldl {α : Type} {f : State → α → State} (l : List α) (hf : ∀ s : State, ∀ x ∈ l, s.Booting (f s x))
    (s : State) : s.Booting (l.foldl f s) :=
  List.foldlRecOn l f (motive := s.Booting) (refl s) fun t h x hx => h.trans (hf t x hx)

theorem setReg (s : State) {o : Nat} (v : Nat) (ho : o ∉ Reg.HI_BOOT :: fusedRegs) :
    s.Booting (s.setReg o v) where
  rest := rfl
  regs := .setReg s v fun h => ho (List.mem_cons_of_mem _ h)
  ready hs := congrArg (bitOf · 0) (State.reg_setReg_other hs v fun h => ho (h ▸ List.mem_cons_self))

theorem setReg64 (s : State) {o : Nat} (v : Nat) (ho : o ∉ Reg.HI_BOOT :: fusedRegs)
    (ho' : o + 4 ∉ Reg.HI_BOOT :: fusedRegs) : s.Booting (s.setReg64 o v) :=
  (setReg s _ ho).trans (setReg _ _ ho')

theorem setFld (s : State) {o : Nat} (hi lo v : Nat) (ho : o ∉ Reg.HI_BOOT :: fusedRegs) :
    s.Booting (s.setFld o hi lo v) := setReg s _ ho

/-- A bit of HI_BOOT that is not READY. -/
theorem setBoot (s : State) {n : Nat} (v : Nat) (hn : 0 < n) (hn' : n < 32) :
    s.Booting (s.setFld Reg.HI_BOOT n n v) where
  rest := rfl
  regs := .setReg s _ (by decide)
  ready hs := by
    rw [State.ready, State.bitOf_reg, State.fld_setFld_disjoint hs v le_rfl hn' (.inl hn),
      ← State.bitOf_reg, State.ready]

theorem setCfg (s : State) (c : SMap Word32) : s.Booting { s with cfg := c } := plain rfl

theorem setPwr (s : State) (f : Power → Power) : s.Booting (s.setPwr f) := plain rfl

theorem setCopy (s : State) (l : List Byte) : s.Booting { s with copy := l } := plain rfl

theorem applyIdent (s : State) (l : List Byte) : s.Booting (s.applyIdent l) := by
  unfold State.applyIdent
  split
  · have h := ((setBoot s 1 (n := 2) (by decide) (by decide)).trans
      (setFld _ (o := Reg.ALM_BOOT_STATUS) 3 3 1 (by decide))).trans
      ((setReg _ (o := Reg.ALM_BOARD_ID) (leAt l 0x0C 4) (by decide)).trans
        (setPwr _ fun p => { p with flMax := min 104 (leAt l 9 1) }))
    exact (((h.trans (setCfg _ _)).trans (setCfg _ _)).trans (setCfg _ _)).trans (setCfg _ _)
  · exact setPwr s _

theorem flashInfo (s : State) (f : FlashPart) : s.Booting (s.flashInfo f) := setReg s _ (by decide)

theorem applySettings (s : State) (r : List (Nat × List Byte)) : s.Booting (s.applySettings r) := by
  unfold State.applySettings
  extract_lets ex bad s1 s2 s3 s4 s5 s6 s7
  have h1 : s.Booting s1 := (setReg s _ (by decide)).trans (setReg _ _ (by decide))
  have h2 : s.Booting s2 := by
    unfold s2
    clear_value bad
    split
    · exact h1
    · exact (h1.trans (setReg _ _ (by decide))).trans (setReg _ _ (by decide))
  have h3 : s.Booting s3 := by
    unfold s3
    split
    · exact h2.trans (setReg _ _ (by decide))
    · exact h2
  have h4 : s.Booting s4 := by
    unfold s4
    split
    · exact h3.trans (((setFld _ _ _ _ (by decide)).trans (setFld _ _ _ _ (by decide))).trans
        (setFld _ _ _ _ (by decide)))
    · exact h3
  have h5 : s.Booting s5 := by
    unfold s5
    split
    · exact h4.trans (setFld _ _ _ _ (by decide))
    · exact h4
  have h6 : s.Booting s6 := by
    unfold s6
    split
    · exact h5.trans (setFld _ _ _ _ (by decide))
    · exact h5
  have h7 : s.Booting s7 := by
    unfold s7
    split
    · exact h6.trans (setFld _ _ _ _ (by decide))
    · exact h6
  split
  · exact h7.trans (setFld _ _ _ _ (by decide))
  · exact h7

theorem startSwitch (s : State) (n f : Nat) (h : muxReg n ∉ Reg.HI_BOOT :: fusedRegs) :
    s.Booting (s.startSwitch n f) :=
  have hp : s.Booting { s with
      parks := SMap.set State.parkD s.parks n (some ⟨s.mux n, s.pinLevel n, none⟩) } := plain rfl
  (hp.trans (setFld _ _ _ _ h)).trans (setFld _ _ _ _ (by decide))

theorem switchTo (s : State) (n f : Nat) (h : muxReg n ∉ Reg.HI_BOOT :: fusedRegs) :
    s.Booting (s.switchTo n f) := by
  unfold State.switchTo
  split
  · exact refl s
  · exact startSwitch s n f h

theorem applyPins (s : State) (v : Option (List Byte)) : s.Booting (s.applyPins v) := by
  unfold State.applyPins
  refine (setReg s _ (by decide)).trans (foldl _ (fun s n hn => ?_) _)
  have hlt := List.mem_range.1 hn
  have hmux : muxReg n ∉ Reg.HI_BOOT :: fusedRegs := by
    simp only [List.mem_cons, List.not_mem_nil, or_false, muxReg, Reg.PIN_MUX, Reg.HI_BOOT, Reg.FAB_UID,
      Reg.FAB_INCARNATION, Reg.PWR_THERM]
    omega
  exact switchTo s n _ hmux

/-- The boot without a copy (R810). -/
theorem bare (s : State) :
    s.Booting (((s.setFld Reg.HI_BOOT 1 1 1).setFld Reg.ALM_BOOT_STATUS 2 2 1).applyPins none) :=
  ((setBoot s 1 (by decide) (by decide)).trans (setFld _ _ _ _ (by decide))).trans (applyPins _ _)

theorem applyCopy (s : State) (f : Option FlashPart) : s.Booting (s.applyCopy f) := by
  unfold State.applyCopy
  split
  · exact bare s
  next f =>
    split
    next c va vb _ =>
    extract_lets none' t l r u w x
    have ht : s.Booting t := setFld s _ _ _ (by decide)
    split
    · exact ht.trans (bare t)
    · have hu : s.Booting u := ht.trans (setCopy t l)
      have hw : s.Booting w := hu.trans ((setFld _ _ _ _ (by decide)).trans (setReg _ _ (by decide)))
      have hx : s.Booting x := hw.trans (setReg64 _ _ (by decide) (by decide))
      exact (hx.trans (applySettings x r)).trans (applyPins _ _)

end State.Booting

/-- PERST_N has risen and the flash is found. -/
def State.risen (s : State) (f : Option FlashPart) : State :=
  let s := { s with perst := false, now := 0, tap := { s.tap with drive := 0 } }
  ({ s.emit (.pin "THERM_N" true) with flash := f }).flashHello

theorem State.flashHello_regs (s : State) : s.flashHello.regs = s.regs := rfl

/-- Then the fuses are read. -/
def State.released (s : State) (f : Option FlashPart) : State := (s.risen f).applyFuses

/-- The identity block of the flash that was found is applied. -/
def State.identified (s : State) (f : Option FlashPart) : State :=
  match f with
  | some x => (s.applyIdent (flashRead x 0 0x1000)).flashInfo x
  | none => s

/-- The state after steps 1 to 3. -/
def State.booted (s : State) (f : Option FlashPart) : State :=
  (((s.released f).identified f).applyCopy f).setStep 3

theorem execBootStart_booted {s : State} (flash : Option FlashPart) (hp : s.perst = true) :
    exec (.bootStart flash) s = .next (s.booted (discover flash)) :=
  congrArg Host.Outcome.next (if_pos hp)

theorem State.Booting.identified (s : State) (f : Option FlashPart) : s.Booting (s.identified f) := by
  unfold State.identified
  split
  · exact (applyIdent _ _).trans (flashInfo _ _)
  · exact refl s

section
variable {s : State}

theorem State.reg64_setReg64 (h : SMap.wf regReset s.regs = true) (o : Nat) (v : BitVec 64) :
    (s.setReg64 o v.toNat).reg64 o = v.toNat := by
  have h1 := State.wf_setReg h o (v.toNat % 2 ^ 32)
  have hv := v.isLt
  rw [State.reg64, State.setReg64, State.reg_setReg_same h1, State.reg_setReg_other h1 _ (by omega),
    State.reg_setReg_same h]
  omega

/-- The UID is the fused one, the incarnation is not 0, and the fuses are read into no other register. -/
theorem State.applyFuses_regs (h : SMap.wf regReset s.regs = true) :
    SMap.wf regReset s.applyFuses.regs = true ∧ s.applyFuses.reg64 Reg.FAB_UID = Config.uid.toNat ∧
    s.applyFuses.reg Reg.FAB_INCARNATION ≠ 0 ∧
    s.SameRegs s.applyFuses [Reg.ALM_FUSE, Reg.DBG_TAP, Reg.FAB_UID, Reg.FAB_UID + 4, Reg.FAB_INCARNATION] := by
  have h1 := State.wf_setReg h Reg.ALM_FUSE
    (b2n Config.keySet + 2 * b2n Config.debugDisable + 4 * min 32 s.svnFloor)
  have h2 := State.wf_setFld h1 Reg.DBG_TAP 0 0 (b2n Config.debugDisable)
  have h3 := State.wf_setReg h2 Reg.FAB_UID (Config.uid.toNat % 2 ^ 32)
  have h4 := State.wf_setReg64 h2 Reg.FAB_UID Config.uid.toNat
  have h5 := State.wf_setReg h4 Reg.FAB_INCARNATION (Config.freeNat s.fresh 0 % (2 ^ 32 - 1) + 1)
  have hinc {o : Nat} (ho : o ≠ Reg.FAB_INCARNATION) : s.applyFuses.reg o = State.reg _ o :=
    State.reg_setReg_other h4 _ ho
  refine ⟨h5, ?_, ?_, fun o ho => ?_⟩
  · rw [State.reg64, hinc (by decide), hinc (by decide)]
    exact State.reg64_setReg64 h2 Reg.FAB_UID Config.uid
  · have hval : s.applyFuses.reg Reg.FAB_INCARNATION =
        (Config.freeNat s.fresh 0 % (2 ^ 32 - 1) + 1) % 2 ^ 32 := State.reg_setReg_same h4 _ _
    rw [hval]
    omega
  · simp only [List.mem_cons, List.not_mem_nil, or_false, not_or] at ho
    obtain ⟨hfuse, htap, huid, huid', hin⟩ := ho
    exact ((hinc hin).trans (State.reg_setReg_other h3 _ huid')).trans ((State.reg_setReg_other h2 _ huid).trans
      ((State.reg_setFld_other h1 _ _ _ htap).trans (State.reg_setReg_other h _ hfuse)))

/-- No register below the pins' changes where a pin takes a function. -/
theorem State.switchTo_regs (s : State) (n f : Nat) : State.KeepsRegs (· < Reg.PIN_PROFILE) s (s.switchTo n f) := by
  have hmux : ¬ muxReg n < Reg.PIN_PROFILE := by unfold muxReg Reg.PIN_MUX Reg.PIN_PROFILE; omega
  have hstatus : ¬ Reg.PIN_STATUS < Reg.PIN_PROFILE := by decide
  unfold State.switchTo
  split
  · exact .refl s
  · exact KeepsRegs.trans (.setReg (P := (· < Reg.PIN_PROFILE)) { s with parks := _ } _ hmux)
      (.setReg (P := (· < Reg.PIN_PROFILE)) _ _ hstatus)

theorem State.applyPins_regs (s : State) (v : Option (List Byte)) :
    State.KeepsRegs (· < Reg.PIN_PROFILE) s (s.applyPins v) := by
  have hprofile : ¬ Reg.PIN_PROFILE < Reg.PIN_PROFILE := by decide
  exact KeepsRegs.trans (.setReg (P := (· < Reg.PIN_PROFILE)) s _ hprofile)
    (KeepsRegs.foldl _ (fun s n _ => State.switchTo_regs s n _) _)

theorem State.OnlyPins.switchTo (s : State) (n f : Nat) : s.OnlyPins (s.switchTo n f) := by
  unfold State.switchTo
  split
  · exact refl s
  · exact startSwitch s n f

theorem State.OnlyPins.applyPins (s : State) (v : Option (List Byte)) : s.OnlyPins (s.applyPins v) :=
  trans (setReg s _ (by decide)) (foldl (fun s n => switchTo s n _) _ _)

/-- Without a copy HI_BOOT.BARE is set, and ALM_BOOT_STATUS names no copy where it named none. -/
theorem State.bare_regs (h : SMap.wf regReset s.regs = true) :
    bitOf ((s.applyCopy none).reg Reg.HI_BOOT) 1 = true ∧
    (s.applyCopy none).fld Reg.ALM_BOOT_STATUS 1 0 = s.fld Reg.ALM_BOOT_STATUS 1 0 ∧
    (s.applyCopy none).copy = s.copy := by
  have hbare : s.applyCopy none =
    ((s.setFld Reg.HI_BOOT 1 1 1).setFld Reg.ALM_BOOT_STATUS 2 2 1).applyPins none := rfl
  have h1 := State.wf_setFld h Reg.HI_BOOT 1 1 1
  have h2 := State.wf_setFld h1 Reg.ALM_BOOT_STATUS 2 2 1
  have hkept := (State.applyPins_regs _ none h2).2
  rw [hbare]
  refine ⟨?_, ?_, (congrArg State.copy (State.OnlyPins.applyPins _ none).rest :)⟩
  · rw [hkept _ (by decide), State.reg_setFld_other h1 _ _ _ (by decide)]
    exact State.bitOf_setFld_same h true (by decide)
  · rw [State.fld, hkept _ (by decide)]
    exact (State.fld_setFld_disjoint h1 1 (by decide) (by decide) (by decide)).trans
      (State.fld_setFld_other h _ _ _ (by decide))

end

/-- The registers of a device held in reset are those of the reset state. -/
theorem State.HeldInReset.regs {s : State} (h : s.HeldInReset) : s.regs = State.reset.regs :=
  (congrArg State.regs h.1 :)

theorem State.HeldInReset.reg {s : State} (h : s.HeldInReset) (o : Nat) : s.reg o = (regReset o).toNat := by
  rw [State.reg, h.regs]
  rfl

theorem State.HeldInReset.copy {s : State} (h : s.HeldInReset) : s.copy = [] :=
  (congrArg State.copy h.1 :)

theorem State.HeldInReset.resetPend {s : State} (h : s.HeldInReset) : s.resetPend = none :=
  (congrArg State.resetPend h.1 :)

theorem State.HeldInReset.perst {s : State} (h : s.HeldInReset) : s.perst = true :=
  (congrArg State.perst h.1 :)

theorem State.HeldInReset.wf {s : State} (h : s.HeldInReset) : SMap.wf regReset s.regs = true := by
  rw [h.regs]
  rfl

/-- The fuses of a device held in reset are read over its reset values. -/
theorem State.released_regs {s : State} (h : s.HeldInReset) (f : Option FlashPart) :
    SMap.wf regReset (s.released f).regs = true ∧ (s.released f).reg64 Reg.FAB_UID = Config.uid.toNat ∧
    (s.released f).reg Reg.FAB_INCARNATION ≠ 0 ∧
    s.SameRegs (s.released f)
      [Reg.ALM_FUSE, Reg.DBG_TAP, Reg.FAB_UID, Reg.FAB_UID + 4, Reg.FAB_INCARNATION] := by
  have hregs : (s.risen f).regs = s.regs := by rw [State.risen, State.flashHello_regs]; rfl
  have hw : SMap.wf regReset (s.risen f).regs = true := by rw [hregs]; exact h.wf
  obtain ⟨hw', huid, hinc, hsame⟩ := State.applyFuses_regs hw
  exact ⟨hw', huid, hinc, (State.sameRegs_of_regs hregs _).trans hsame⟩

/-- What no register holds is as before, but that PERST_N is high and the flash is the one found. -/
theorem State.released_keeps (s : State) (f : Option FlashPart) :
    (s.released f).perst = false ∧ (s.released f).flash = f ∧ (s.released f).dram = s.dram ∧
    (s.released f).plate = s.plate ∧ (s.released f).resetPend = s.resetPend ∧
    (s.released f).copy = s.copy := by
  simp [State.released, State.applyFuses, State.setReg64, State.risen, State.flashHello]

/-- Steps 2 and 3: the identity block and the copy are applied. -/
theorem State.Booting.steps (s : State) (f : Option FlashPart) : s.Booting ((s.identified f).applyCopy f) :=
  (identified s f).trans (applyCopy _ f)

theorem State.Booting.setStep (s : State) (n : Nat) : s.Booting (s.setStep n) := setFld s _ _ _ (by decide)

theorem State.Booting.booted (s : State) (f : Option FlashPart) : (s.released f).Booting (s.booted f) :=
  (steps (s.released f) f).trans (setStep _ 3)

/-- The registers after steps 1 to 3: the step, what the fuses gave, and that the die runs and is not READY. -/
theorem State.booted_regs {s : State} (h : s.HeldInReset) (f : Option FlashPart) :
    (s.booted f).bootStep = 3 ∧ (s.booted f).ready = false ∧
    (s.booted f).reg64 Reg.FAB_UID = Config.uid.toNat ∧ (s.booted f).reg Reg.FAB_INCARNATION ≠ 0 ∧
    bitOf ((s.booted f).reg Reg.PWR_THERM) 16 = false := by
  obtain ⟨hw, huid, hinc, hsame⟩ := s.released_regs h f
  have hsteps := State.Booting.steps (s.released f) f
  obtain ⟨hw', hfused⟩ := hsteps.regs hw
  obtain ⟨hstep, hstepSame, -⟩ := State.setStep_regs hw' (n := 3) (by decide)
  have hkept {o : Nat} (ho : o ∈ fusedRegs) : (s.booted f).reg o = (s.released f).reg o :=
    (hstepSame o (fun hm => absurd (List.mem_singleton.1 hm ▸ ho) (by decide))).trans (hfused o ho)
  refine ⟨hstep, ?_, ?_, ?_, ?_⟩
  · calc (s.booted f).ready
        = (((s.released f).identified f).applyCopy f).ready :=
          congrArg (bitOf · 0) (hstepSame Reg.HI_BOOT (by decide))
      _ = (s.released f).ready := hsteps.ready hw
      _ = bitOf (s.reg Reg.HI_BOOT) 0 := congrArg (bitOf · 0) (hsame Reg.HI_BOOT (by decide))
      _ = false := by rw [h.reg]; decide +kernel
  · rw [State.reg64, hkept (by decide), hkept (by decide)]
    exact huid
  · rw [hkept (by decide)]
    exact hinc
  · rw [hkept (by decide), hsame _ (by decide), h.reg]
    decide +kernel

/-- Without a flash: the boot is bare. -/
theorem State.booted_bare {s : State} (h : s.HeldInReset) :
    bitOf ((s.booted none).reg Reg.HI_BOOT) 1 = true ∧
    (s.booted none).fld Reg.ALM_BOOT_STATUS 1 0 = 0 ∧ (s.booted none).copy = [] := by
  obtain ⟨hw, -, -, hsame⟩ := s.released_regs h none
  obtain ⟨hbare, hcopy, hc⟩ := State.bare_regs hw
  obtain ⟨hw', -⟩ := (State.Booting.applyCopy (s.released none) none).regs hw
  obtain ⟨-, hstepSame, hstepFld⟩ := State.setStep_regs hw' (n := 3) (by decide)
  obtain ⟨-, -, -, -, -, hkept⟩ := s.released_keeps none
  have hbooted : s.booted none = ((s.released none).applyCopy none).setStep 3 := rfl
  rw [hbooted]
  refine ⟨?_, ?_, by rw [State.setStep_copy, hc, hkept, h.copy]⟩
  · exact (congrArg (bitOf · 1) (hstepSame Reg.HI_BOOT (by decide))).trans hbare
  · calc (((s.released none).applyCopy none).setStep 3).fld Reg.ALM_BOOT_STATUS 1 0
        = ((s.released none).applyCopy none).fld Reg.ALM_BOOT_STATUS 1 0 := hstepFld 1 0 (by decide)
      _ = (s.released none).fld Reg.ALM_BOOT_STATUS 1 0 := hcopy
      _ = bits (s.reg Reg.ALM_BOOT_STATUS) 1 0 := congrArg (bits · 1 0) (hsame _ (by decide))
      _ = 0 := by rw [h.reg]; decide +kernel

/-- BOOT_START releases PERST_N and runs steps 1 to 3 (R811, R815). -/
theorem bootStarts {s : State} (h : s.HeldInReset) (flash : Option FlashPart) :
    Does (.bootStart flash) s fun t => t.alive = true ∧ t.bootStep = 3 ∧ t.ready = false ∧
      t.flash = discover flash ∧ t.reg64 Reg.FAB_UID = Config.uid.toNat ∧
      t.reg Reg.FAB_INCARNATION ≠ 0 ∧ t.dram = s.dram ∧ t.plate = s.plate ∧ t.resetPend = none ∧
      (discover flash = none → bitOf (t.reg Reg.HI_BOOT) 1 = true ∧
        t.fld Reg.ALM_BOOT_STATUS 1 0 = 0 ∧ t.copy = []) := by
  obtain ⟨hstep, hready, huid, hinc, htherm⟩ := State.booted_regs h (discover flash)
  obtain ⟨hperst, hflash, hdram, hplate, hpend, -⟩ := s.released_keeps (discover flash)
  have hrest := (State.Booting.booted s (discover flash)).rest
  have halive : (s.booted (discover flash)).perst = false := Eq.trans (congrArg State.perst hrest :) hperst
  refine ⟨_, execBootStart_booted flash h.perst, by rw [State.alive, halive, htherm]; rfl, hstep, hready,
    Eq.trans (congrArg State.flash hrest :) hflash, huid, hinc, Eq.trans (congrArg State.dram hrest :) hdram,
    Eq.trans (congrArg State.plate hrest :) hplate,
    (Eq.trans (congrArg State.resetPend hrest :) hpend).trans h.resetPend, fun hnone => ?_⟩
  rw [hnone]
  exact State.booted_bare h

/-- Settles O58: BOOT_START, training, the firmware check and READY, each by its theorem above; of two images
the first tried that is valid runs. -/
theorem powerUpSequenceRuns : Obligations.PowerUpSequenceRuns := by
  unfold Obligations.PowerUpSequenceRuns
  refine ⟨fun s flash h => bootStarts h flash,
    fun s rate chOk big hs ha hb hr hset ht => dramTrains rate chOk big hs ha hb hr hset ht,
    fun s hs ha hb hr hd => ?_, fun s hs ha hr ht hf => ?_⟩
  · obtain ⟨t, hexec, hstep, hdone, hbytes, hsame, hnone, hsome⟩ := firmwareChecked hs ha hb hr hd
    refine ⟨t, hexec, hstep, hdone, hbytes, hsame, hnone, fun f hf => ?_⟩
    obtain ⟨hbad, hgood⟩ := hsome f hf
    exact ⟨hbad, fun a b htry _ _ _ _ => ⟨fun hok => hgood a (State.fwFirst_first htry hok),
      fun hno hok => hgood b (State.fwFirst_second htry hno hok)⟩⟩
  · obtain ⟨t, hexec, hready, hstep, halm, hbytes, hen⟩ := bootReadies hs ha hr ht hf
    exact ⟨t, hexec, hready, hstep, halm, fun _ => hbytes, hen⟩

end Sys2Proof.Machine
end

section
/-! SUPPORT. One Meridian cycle: what the step of an empty queue leaves alone (R330, R519, R609). -/

namespace Sys2Proof.Machine

/-! ### What a cycle's work leaves alone -/

/-- What no work of a cycle changes: the commands that wait and the count of cycles. -/
def State.queue (s : State) := (s.pending, s.cycle)

/-- What only a granted write or a dump changes: those, the memories and the waiting telemetry writes. -/
def State.unwritten (s : State) := (s.queue, s.dram, s.plate, s.pwr.telemQ)

theorem State.queue_of_unwritten {s t : State} (h : t.unwritten = s.unwritten) : t.queue = s.queue :=
  congrArg Prod.fst h

section
variable (s : State)

theorem State.bumpIf_unwritten (b : Bool) (o : Nat) : (s.bumpIf b o).unwritten = s.unwritten := by
  unfold State.bumpIf; split <;> rfl

theorem State.requestMsix_unwritten (n : Nat) : (s.requestMsix n).unwritten = s.unwritten := by
  unfold State.requestMsix
  split
  · rfl
  split
  · rfl
  split <;> rfl

theorem State.notice_unwritten (n : Nat) : (s.notice n).unwritten = s.unwritten := by
  unfold State.notice
  dsimp only
  split
  · exact State.requestMsix_unwritten _ _
  · rfl

theorem State.emitHost_unwritten (o : Outbound) : (s.emitHost o).unwritten = s.unwritten := by
  unfold State.emitHost
  split
  · rfl
  split <;> rfl

theorem State.ringEdge_unwritten (t : State) : (s.ringEdge t).unwritten = t.unwritten := by
  unfold State.ringEdge
  split
  · exact State.notice_unwritten _ _
  · rfl

/-! ### Token waits -/

theorem State.headerPost_unwritten (slot node ofs w rep : Nat) :
    (s.headerPost slot node ofs w rep).unwritten = s.unwritten := by
  unfold State.headerPost; split <;> rfl

theorem State.laneDone_unwritten (slot node : Nat) : (s.laneDone slot node).unwritten = s.unwritten := by
  unfold State.laneDone
  split
  · rfl
  split
  · rfl
  · exact State.headerPost_unwritten _ _ _ _ _ _

theorem State.takeTok_unwritten {t : State} {slot node tok n : Nat} (h : s.takeTok slot node tok n = some t) :
    t.unwritten = s.unwritten := by
  unfold State.takeTok at h
  obtain ⟨i, -, hi⟩ := Option.bind_eq_some_iff.1 h
  dsimp only at hi
  split at hi
  · cases hi; rfl
  · cases hi

theorem State.serveWaits_unwritten (slot node tok : Nat) :
    (s.serveWaits slot node tok).unwritten = s.unwritten := by
  unfold State.serveWaits
  split
  · split
    · split
      next o _ _ t ht =>
        have h := s.takeTok_unwritten ht
        exact h
      · rfl
    · rfl
  split
  · split
    · split
      · split
        next t ht => exact (t.laneDone_unwritten _ _).trans (s.takeTok_unwritten ht)
        · rfl
      · rfl
    · rfl
  · rfl

theorem State.testWaits_unwritten (slot node tok : Nat) :
    (s.testWaits slot node tok).unwritten = s.unwritten := by
  unfold State.testWaits
  split
  · rfl
  split
  · rfl
  · exact State.serveWaits_unwritten _ _ _ _

theorem State.testTokens_unwritten : s.testTokens.unwritten = s.unwritten :=
  State.foldl_keeps State.unwritten (fun s _ => State.testWaits_unwritten s _ _ _) _ s

/-! ### Counters -/

theorem State.tickCluster_unwritten (cl : Nat) : (s.tickCluster cl).unwritten = s.unwritten :=
  ((State.bumpIf_unwritten _ _ _).trans (State.bumpIf_unwritten _ _ _)).trans (State.bumpIf_unwritten _ _ _)

theorem State.tickSlot_unwritten (n : Nat) : (s.tickSlot n).unwritten = s.unwritten := by
  unfold State.tickSlot; split <;> rfl

theorem State.clearFront_of_not_running (h : s.running = false) : s.clearFront = s :=
  if_neg (by simp [State.admits, h])

/-- The engines' cycle changes no more than the rejection of the reserved entries at the front does. -/
theorem State.tickEngines_unwritten : s.tickEngines.unwritten = s.clearFront.unwritten := by
  unfold State.tickEngines
  extract_lets t1 t2 t3 t4
  have h1 : t1.unwritten = s.clearFront.unwritten :=
    (State.testTokens_unwritten _).trans (State.ringEdge_unwritten _ _)
  have h2 : t2.unwritten = s.clearFront.unwritten := h1
  have h3 : t3.unwritten = s.clearFront.unwritten :=
    (State.foldl_keeps State.unwritten (fun s n => (State.tickSlot_unwritten _ n).trans
      (State.tickCluster_unwritten s n)) _ t2).trans h2
  have h4 : t4.unwritten = s.clearFront.unwritten := (State.bumpIf_unwritten _ _ _).trans h3
  split
  · exact (State.bumpIf_unwritten _ _ _).trans h4
  next hr => rw [State.clearFront_of_not_running s (by simpa using hr)]

/-! ### Writes of local memory, and dumps -/

theorem State.Counts.queue {s t : State} {plate : Bool} {nce nue : Nat} (h : State.Counts plate nce nue s t) :
    t.queue = s.queue := (congrArg State.queue h.rest :)

theorem State.memErr_queue (u : Nat) (ue byScrub : Bool) (bit : Nat) :
    (s.memErr u ue byScrub bit).queue = s.queue :=
  (Counts.memErr s u ue byScrub bit rfl).queue

theorem State.eccWrite_queue (u len : Nat) (l : List (Nat × EccErr)) : (s.eccWrite u len l).1.queue = s.queue := by
  fun_induction State.eccWrite s u len l with
  | case1 => rfl
  | case2 s w e t h ih => exact ih
  | case3 s w t h ih => exact ih
  | case4 s w t h b ih => exact ih.trans (State.memErr_queue _ _ _ _ _)
  | case5 s w t h e r ih => exact ih.trans (State.memErr_queue _ _ _ _ _)

theorem State.rawWrite_queue (u : Nat) (l : List Byte) : (s.rawWrite u l).queue = s.queue := by
  unfold State.rawWrite; split <;> rfl

theorem State.writeLocal_queue (u : Nat) (l : List Byte) : (s.writeLocal u l).1.queue = s.queue := by
  unfold State.writeLocal
  extract_lets r
  split
  · exact (State.rawWrite_queue _ _ _).trans (State.eccWrite_queue _ _ _ _)
  · exact (State.rawWrite_queue _ _ _).trans (State.eccWrite_queue _ _ _ _)

theorem State.emitHost_queue (o : Outbound) : (s.emitHost o).queue = s.queue :=
  State.queue_of_unwritten (s.emitHost_unwritten o)

theorem State.rmtSend_queue (use : RmtUse) (k : RmtKind) (u len : Nat) (l : List Byte) (poison : Bool) :
    (s.rmtSend use k u len l poison).queue = s.queue := by
  have hone (t : State) (u o n : Nat) (l : List Byte) : (t.rmtOne use k u o n l poison).queue = t.queue := rfl
  exact State.foldl_keeps State.queue (fun t _ => hone t _ _ _ _) _ s

theorem State.ownWrite_queue (u : Nat) (l : List Byte) : (s.ownWrite u l).1.queue = s.queue := by
  unfold State.ownWrite
  split
  · exact State.emitHost_queue _ _
  · split
    · exact State.writeLocal_queue _ _ _
    · rfl
  · split
    · exact State.writeLocal_queue _ _ _
    · rfl
  · split
    · rfl
    split
    · rfl
    · exact State.rmtSend_queue _ _ _ _ _ _ _
  · rfl
  · rfl

theorem State.writeDump_queue (st : Nat) (l : List Byte) : (s.writeDump st l).queue = s.queue := by
  unfold State.writeDump
  split
  · rfl
  · exact State.ownWrite_queue _ _ _

theorem State.Recorded.queue {s t : State} (h : s.Recorded t) : t.queue = s.queue :=
  (congrArg State.queue h.rest :)

theorem State.writeRecord_queue (which : Nat) (f : FaultInfo) (c : RecordCtx) :
    (s.writeRecord which f c).queue = s.queue :=
  (State.recorded_writeRecord s which f c).queue

theorem State.recordOnly_queue (which stream entry : Nat) (f : FaultInfo) :
    (s.recordOnly which stream entry f).queue = s.queue := by
  unfold State.recordOnly
  extract_lets d t
  have ht : t.queue = s.queue := by
    unfold t
    split
    · exact State.writeDump_queue _ _ _
    · rfl
  exact (State.writeRecord_queue t _ _ _).trans ht

theorem State.rejectFront_queue : s.rejectFront.queue = s.queue := by
  unfold State.rejectFront
  split
  · rfl
  · dsimp only
    split
    · exact State.recordOnly_queue _ _ _ _ _
    · exact State.recordOnly_queue _ _ _ _ _

theorem State.skipReserved_queue (n : Nat) : (s.skipReserved n).queue = s.queue := by
  fun_induction State.skipReserved s n with
  | case1 => rfl
  | case2 => rfl
  | case3 s n _ _ _ _ _ ih => exact ih.trans (State.rejectFront_queue s)
  | case4 => rfl

theorem State.clearFront_queue : s.clearFront.queue = s.queue := by
  unfold State.clearFront
  split
  · exact State.skipReserved_queue _ _
  · rfl

/-- A granted telemetry write (R327). -/
theorem State.telemGrant_queue : s.telemGrant.queue = s.queue := by
  unfold State.telemGrant
  split
  · rfl
  · dsimp only
    split
    · exact State.emitHost_queue _ _
    · exact State.writeLocal_queue _ _ _

/-! ### The cycle -/

/-- The state in which the cycle's time advances, but for the grant of a telemetry write. -/
def State.worked : State :=
  let t := (upto 6).foldl State.tickLink s.tickEngines
  t.bumpIf t.bmeWaiting Reg.HI_BME_WAIT

theorem State.worked_unwritten : s.worked.unwritten = s.clearFront.unwritten :=
  ((State.bumpIf_unwritten _ _ _).trans (State.foldl_keeps State.unwritten
    (fun s _ => State.bumpIf_unwritten s _ _) _ _)).trans s.tickEngines_unwritten

/-- The state after the grant. -/
def State.granted : State := if s.worked.alive then s.worked.telemGrant else s.worked

theorem State.tick_eq (h : s.perst = false) : s.tick = s.granted.advanceTime.countThrottle s := by
  unfold State.tick
  rw [if_neg (by simp [h])]
  rfl

theorem State.granted_queue : s.granted.queue = s.queue := by
  have hw : s.worked.queue = s.queue :=
    (State.queue_of_unwritten s.worked_unwritten).trans s.clearFront_queue
  unfold State.granted
  split
  · exact s.worked.telemGrant_queue.trans hw
  · exact hw

/-- Where no telemetry write waits and no reserved entry stands at the front nothing is written. -/
theorem State.granted_unwritten (hq : s.pwr.telemQ = [])
    (ha : ∀ x ∈ s.ring.arrived, (rowKind x.2).isSome = true) : s.granted.unwritten = s.unwritten := by
  have hfront : s.clearFront = s :=
    State.clearFront_of_notReserved fun x hx => ha x (List.mem_of_head? hx)
  have hw : s.worked.unwritten = s.unwritten := by rw [s.worked_unwritten, hfront]
  have hwq : s.worked.pwr.telemQ = [] := (congrArg (fun x => x.2.2.2) hw).trans hq
  have hgrant : s.worked.telemGrant = s.worked := by rw [State.telemGrant, hwq]
  unfold State.granted
  rw [hgrant, ite_self]
  exact hw

theorem State.countThrottle_unwritten (was : State) : (s.countThrottle was).unwritten = s.unwritten := by
  unfold State.countThrottle; split <;> rfl

end

/-- Settles O2: the cycle's work leaves the queue alone; the memories change in `clearFront` and in
`telemGrant` alone. -/
theorem emptyQueueStepIsOneCycle : Obligations.EmptyQueueStepIsOneCycle := by
  unfold Obligations.EmptyQueueStepIsOneCycle
  intro s hq
  refine ⟨by rw [step, hq], fun hp => if_pos hp, fun hp => ?_⟩
  have hcount := State.countThrottle_unwritten s.granted.advanceTime s
  have hqueue := s.granted_queue
  rw [s.tick_eq hp]
  refine ⟨?_, ?_, fun htelem hfront => ?_⟩
  · exact (congrArg (fun x => x.1.2) hcount).trans (congrArg (fun x => x.2 + 1) hqueue)
  · exact (congrArg (fun x => x.1.1) hcount).trans ((congrArg Prod.fst hqueue).trans hq)
  · have hun := s.granted_unwritten htelem hfront
    exact ⟨(congrArg (fun x => x.2.1) hcount).trans (congrArg (fun x => x.2.1) hun),
      (congrArg (fun x => x.2.2.1) hcount).trans (congrArg (fun x => x.2.2.1) hun)⟩

end Sys2Proof.Machine
end

section
/-! A repetition at the head of its unit queue (O50). -/

namespace Sys2Proof.Machine

section
variable {s w : State} {i : Instr} {slot : Fin 8} {node : Fin 9} {ofs : Nat} {v : View} {row : Nat → Bool}
  {body : OpRec → Ctx → Ctx} {o : OpRec} {x : ExecSlot}

/-- The row of an operation of one body performs it. -/
theorem exec_perform (hat : unitAt i = some (slot, node, .perform ofs, v)) (hrow : unitWords i = some row)
    (hbody : unitBody i = some body) : exec i s = .next (s.performOp slot node ofs v row body) := by
  unfold unitAt at hat
  split at hat <;> cases hat <;> cases hrow <;> cases hbody <;> rfl

/-- R360: what is not at the head of its queue, has been issued, is another row's or is halted is left. -/
theorem State.claim_none (ho : s.opAt slot node ofs = some o) (hx : s.slot? slot = some x)
    (h : s.atHead o = false ∨ o.issued = true ∨ row o.word = false ∨ s.laneHalted x node = true) :
    s.claim slot node ofs row = (s, none) := by
  have hgo : (s.running && !s.laneHalted x node && row o.word && !o.issued && s.atHead o) = false := by
    rcases h with h | h | h | h <;> simp [h]
  simp only [State.claim, ho, hx, hgo, Bool.false_eq_true, if_false]

/-- R360, R363: a repetition at the head of its queue whose wait, where it has one, is satisfied. -/
theorem State.claim_some (ho : s.opAt slot node ofs = some o) (hx : s.slot? slot = some x)
    (hr : s.running = true) (hh : s.laneHalted x node = false) (hrow : row o.word = true)
    (hi : o.issued = false) (ha : s.atHead o = true) (hw : waitEn o.word = false ∨ o.waited = true) :
    s.claim slot node ofs row = (s, some o) := by
  have hdone : (waitEn o.word && !o.waited) = false := by rcases hw with hw | hw <;> simp [hw]
  simp [State.claim, ho, hx, hr, hh, hrow, hi, ha, hdone]

/-- What performing a claimed operation comes to. -/
theorem State.performOp_eq (hc : s.claim slot node ofs row = (w, some o)) :
    s.performOp slot node ofs v row body =
      if w.tilesOpen o then w.settleOp o (body o (Ctx.start w v o.fetched)) else w := by
  rw [State.performOp, hc]

end

section
variable {s : State} {o : OpRec} {c : Ctx}

/-- R424: an error faults the operation in its unit. -/
theorem State.settleOp_err {e : AccErr} (h : c.err = some e) : s.settleOp o c =
    ((c.flush (.op o.slot o.node o.ofs)).countBytes o.slot c.moved).unitFault { o with begun := true } e := by
  simp only [State.settleOp, h]

/-- R659, R676: an access that must wait is tried again. -/
theorem State.settleOp_stall (he : c.err = none) (hs : c.stall = true) :
    s.settleOp o c = s.setOp { o with begun := true, hostWait := c.hostWait } := by
  simp only [State.settleOp, he, hs, if_true]

/-- R767: the remote bytes that are missing are asked for. -/
theorem State.settleOp_miss (he : c.err = none) (hs : c.stall = false) (hm : c.miss ≠ []) :
    s.settleOp o c = (s.setOp { o with begun := true, hostWait := false }).fetchMissing
      (.op o.slot o.node o.ofs) c.miss := by
  simp only [State.settleOp, he, hs, Bool.false_eq_true, if_false, if_pos hm]

/-- R355: else it stands as issued. -/
theorem State.settleOp_issued (he : c.err = none) (hs : c.stall = false) (hm : c.miss = []) :
    let d := c.blur s.out.length s.held.length
    s.settleOp o c = ((d.flush (.op o.slot o.node o.ofs)).countBytes o.slot d.moved).setOp (o.issuedAs d) := by
  simp only [State.settleOp, he, hs, hm, Bool.false_eq_true, ne_eq, not_true_eq_false, if_false,
    OpRec.issuedAs]

end

/-- Settles O50: a row performs what it has claimed (`exec_perform`), and settles it by what its body comes
to. -/
theorem unitOperationsArePerformed : Obligations.UnitOperationsArePerformed := by
  intro s i slot node ofs v row body hat hrow hbody
  have hexec : exec i s = .next (s.performOp slot node ofs v row body) := exec_perform hat hrow hbody
  refine ⟨fun o x ho hx => ⟨fun h => ?_, fun hr hh hw hi ha hwait =>
    State.claim_some ho hx hr hh hw hi ha hwait⟩, fun w o hc => ?_⟩
  · rw [hexec, State.performOp, State.claim_none ho hx h]
  · rw [hexec, State.performOp_eq hc]
    refine ⟨fun ht => by rw [ht]; rfl, fun ht => ?_⟩
    rw [if_pos ht]
    exact ⟨fun e he => congrArg _ (State.settleOp_err he),
      fun he hs => congrArg _ (State.settleOp_stall he hs),
      fun he hs hm => congrArg _ (State.settleOp_miss he hs hm),
      fun he hs hm => congrArg _ (State.settleOp_issued he hs hm)⟩

end Sys2Proof.Machine
end

section
/-! SUPPORT. The lanes of the slots: what a lane holds after a lane of a slot has been replaced or has gone on
(R370, R452), and what its next operation is taken from (R395, R415). -/

namespace Sys2Proof

variable {β : Type} [DecidableEq β]

/-- Read after the write of a value that is listed: of families not in canonical form too. -/
theorem SMap.get_set_of_ne {d : Nat → β} {m : SMap β} {k j : Nat} {v : β} (hv : v ≠ d k) :
    (m.set d k v).get d j = if j = k then v else m.get d j := by
  fun_induction SMap.set d m k v with
  | case1 => exact absurd rfl hv
  | case2 => simp only [SMap.get]; grind
  | case3 => exact absurd rfl hv
  | case4 => simp only [SMap.get]; grind
  | case5 => exact absurd rfl hv
  | case6 => simp only [SMap.get]; grind
  | case7 _ _ _ _ _ _ _ ih => simp only [SMap.get, ih hv]; grind

end Sys2Proof

namespace Sys2Proof.Machine

/-! ### Lanes -/

/-- The lane of a node in a slot. -/
def State.laneAt (s : State) (slot node : Nat) : Option Lane := (s.slot? slot).bind fun x => x.lane? node

theorem State.laneIs_iff {t : State} {f : Fetch} {l : Lane} :
    t.LaneIs f l ↔ t.laneAt f.slot f.node = some l := Iff.rfl

theorem State.laneAt_of_slots {s t : State} (h : t.slots = s.slots) : t.laneAt = s.laneAt := by
  funext n m; simp only [State.laneAt, State.slot?, h]

@[simp] theorem State.slot?_setSlot (s : State) (n m : Nat) (x : ExecSlot) :
    (s.setSlot n (some x)).slot? m = if m = n then some x else s.slot? m :=
  SMap.get_set_of_ne (Option.some_ne_none x)

@[simp] theorem ExecSlot.lane?_setLane (x : ExecSlot) (node m : Nat) (k : Lane) :
    (x.setLane node k).lane? m = if m = node then (x.lane? m).map fun _ => k else x.lane? m := by
  unfold ExecSlot.lane? ExecSlot.setLane
  induction x.lanes with
  | nil => simp
  | cons y t ih => simp only [List.map_cons, List.find?_cons] at ih ⊢; grind

@[simp] theorem State.laneAt_putLane (s : State) (slot node n m : Nat) (k : Lane) :
    (s.putLane slot node k).laneAt n m =
      if n = slot ∧ m = node then (s.laneAt n m).map fun _ => k else s.laneAt n m := by
  unfold State.putLane State.laneAt
  cases hx : s.slot? slot with
  | none => by_cases hn : n = slot <;> simp [hn, hx]
  | some x => by_cases hn : n = slot <;> by_cases hm : m = node <;> simp [hn, hm, hx]

/-- Replacing a lane changes the slots alone. -/
theorem State.putLane_rest (s : State) (slot node : Nat) (k : Lane) :
    s.putLane slot node k = { s with slots := (s.putLane slot node k).slots } := by
  unfold State.putLane; split <;> rfl

/-! ### Lanes that may issue -/

/-- A lane that may issue: where it stands, and that it is not blocked but for want of room (R370). -/
structure State.Issuing (s : State) (slot node : Nat) (f : Fetch) : Prop where
  running : s.running = true
  hslot : s.slot? slot = some f.x
  halted : s.laneHalted f.x node = false
  cutting : f.x.cutting = none
  lane : f.x.lane? node = some f.l
  entry : s.entry? f.x.entry = some f.e
  buf : f.e.buf = some f.b
  block : f.l.block = none ∨ f.l.block = some .room
  slot_eq : f.slot = slot
  node_eq : f.node = node

theorem State.issuing_of_laneReady {s : State} {slot node : Nat} {f : Fetch}
    (h : s.laneReady slot node = some f) : s.Issuing slot node f := by
  unfold State.laneReady at h
  split at h
  · cases h
  next hr =>
  split at h
  · cases h
  next x hx =>
  split at h
  · cases h
  next hh =>
  split at h
  next l e hl he =>
    split at h
    next b hb =>
      split at h
      next hb' =>
        cases h
        simp only [Bool.or_eq_true, not_or, Bool.not_eq_true, Option.isSome_eq_false_iff,
          Option.isNone_iff_eq_none] at hh
        simp only [Bool.and_eq_true, Bool.or_eq_true, Option.isNone_iff_eq_none, beq_iff_eq] at hb'
        exact ⟨by simpa using hr, hx, hh.1, hh.2, hl, he, hb, hb'.1, rfl, rfl⟩
      · cases h
    · cases h
  · cases h

theorem State.Issuing.laneAt {s : State} {slot node : Nat} {f : Fetch} (h : s.Issuing slot node f) :
    s.laneAt slot node = some f.l := by
  rw [State.laneAt, h.hslot]; exact h.lane

theorem State.Issuing.laneAhead {s : State} {slot node : Nat} {f : Fetch} (h : s.Issuing slot node f) :
    s.laneAhead slot node = some (f.x, f.e, f.b, f.l) := by
  simp [State.laneAhead, h.running, h.hslot, h.halted, h.cutting, h.lane, h.entry, h.buf]

/-- The lane of which a relocation speaks. -/
theorem State.of_laneAhead {s : State} {slot node : Nat} {x : ExecSlot} {e : Entry} {b : BufInfo} {l : Lane}
    (h : s.laneAhead slot node = some (x, e, b, l)) :
    s.slot? slot = some x ∧ s.laneAt slot node = some l := by
  unfold State.laneAhead at h
  split at h
  · cases h
  split at h
  · cases h
  next y hy =>
  split at h
  · cases h
  split at h
  next l' e' hl he =>
    obtain ⟨b', -, hb⟩ := Option.map_eq_some_iff.1 h
    cases hb
    exact ⟨hy, by rw [State.laneAt, hy]; exact hl⟩
  · cases h

end Sys2Proof.Machine
end

section
/-! SUPPORT. Relocation ahead of issue (R415, R417): its reads and checks leave the slots as they are, and what it
answers. -/

namespace Sys2Proof.Machine

/-! ### Accesses that leave the slots -/

section
variable (s : State)

@[simp] theorem State.emitHost_slots (o : Outbound) : (s.emitHost o).slots = s.slots := by
  unfold State.emitHost; split_ifs <;> rfl

@[simp] theorem State.orCfg_slots (o v : Nat) : (s.orCfg o v).slots = s.slots := rfl
@[simp] theorem State.aerLog_slots (n : Nat) : (s.aerLog n).slots = s.slots := rfl

@[simp] theorem State.aer_slots (n : Nat) (a : Bool) : (s.aer n a).slots = s.slots := by
  simp only [State.aer, apply_ite State.slots, State.orCfg_slots, State.aerLog_slots, State.emit_slots, ite_self]

@[simp] theorem State.hostErr_slots (code iova : Nat) : (s.hostErr code iova).slots = s.slots := by
  unfold State.hostErr; dsimp only; split <;> simp

@[simp] theorem State.rmtFail_slots (u status : Nat) : (s.rmtFail u status).slots = s.slots := rfl

@[simp] theorem State.memErr_slots (u : Nat) (ue byScrub : Bool) (bit : Nat) :
    (s.memErr u ue byScrub bit).slots = s.slots :=
  (congrArg State.slots (State.Counts.memErr s u ue byScrub bit rfl).rest :)

@[simp] theorem State.queueCorr_slots (line : Nat) : (s.queueCorr line).slots = s.slots := by
  unfold State.queueCorr; split <;> rfl

@[simp] theorem State.eccRead_slots (l : List (Nat × EccErr)) : (s.eccRead l).1.slots = s.slots := by
  fun_induction State.eccRead s l with
  | case1 => rfl
  | case2 _ _ _ ih => exact ih
  | case3 _ _ _ _ ih => exact ih.trans (by simp)
  | case4 _ _ _ _ _ ih => exact ih.trans (by simp)

theorem State.readLocal_slots (u len : Nat) : (s.readLocal u len).1.slots = s.slots :=
  s.eccRead_slots _

end

section
variable (c : Ctx)

@[simp] theorem Ctx.bad_s (code : FaultCode) : (c.bad code).s = c.s := by
  unfold Ctx.bad; split <;> rfl

@[simp] theorem Ctx.read_slots (fe : Bool) (u len : Nat) : (c.read fe u len).1.s.slots = c.s.slots := by
  have hlocal {d : Ctx} {w : State} {l : Option (List Byte)} (h : d.s.readLocal u len = (w, l)) :
      w.slots = d.s.slots := (congrArg (State.slots ∘ Prod.fst) h :).symm.trans (d.s.readLocal_slots u len)
  unfold Ctx.read
  extract_lets zeros d
  have hd : d.s = c.s := rfl
  clear_value d
  split
  · exact congrArg State.slots hd
  split
  · simp [hd]
  split
  · split <;> rename_i heq <;> simp [hlocal heq, hd]
  · split <;> rename_i heq <;> simp [hlocal heq, hd]
  · split
    · exact congrArg State.slots hd
    have hw : (d.s.emitHost (.read (d.s.iova u) len)).slots = c.s.slots :=
      (d.s.emitHost_slots _).trans (congrArg State.slots hd)
    split
    · split
      · exact congrArg State.slots hd
      · exact (congrArg State.slots (Ctx.fail_s _ _ _)).trans ((State.hostErr_slots _ _ _).trans hw)
    · exact hw
  · split
    · exact congrArg State.slots hd
    split <;> simp [hd]
  · exact congrArg State.slots hd
  · simp [hd]

@[simp] theorem Ctx.bufRead_slots (b : BufInfo) (ofs len : Nat) :
    (c.bufRead b ofs len).1.s.slots = c.s.slots := by
  unfold Ctx.bufRead
  split
  · split
    · rfl
    dsimp only
    split <;> simp
  · simp

@[simp] theorem Ctx.handleEntry_slots (e : OpEnv) (h : Nat) : (c.handleEntry e h).1.s.slots = c.s.slots := by
  unfold Ctx.handleEntry
  split
  · rfl
  split
  · simp
  · rfl

@[simp] theorem Ctx.relocate_slots (e : OpEnv) (u : RefUse) : (c.relocate e u).1.s.slots = c.s.slots := by
  unfold Ctx.relocate
  split
  · rfl
  extract_lets d _ h r d' _ base size rights loc
  have hd : d.s.slots = c.s.slots := by unfold d; split <;> simp
  have hd' : d'.s.slots = c.s.slots := (d.handleEntry_slots e h).trans hd
  clear_value d d'
  split_ifs <;> assumption

@[simp] theorem Ctx.relocateAll_slots (e : OpEnv) (l : List RefUse) :
    (c.relocateAll e l).1.s.slots = c.s.slots :=
  List.foldlRecOn l _ (motive := fun q : Ctx × Nat => q.1.s.slots = c.s.slots) rfl
    fun q hq u _ => (q.1.relocate_slots e u).trans hq

@[simp] theorem Ctx.checkOp_slots (e : OpEnv) (w : Nat) (drs : SMap (Option DReg)) :
    (c.checkOp e w drs).1.s.slots = c.s.slots := by
  unfold Ctx.checkOp
  split
  · simp
  split
  · simp
  split
  · simp
  extract_lets st1 st2
  split
  · simp
  split
  · simp
  split
  · simp
  split
  · simp
  extract_lets r
  have hr : r.1.s.slots = c.s.slots := by
    unfold r
    split
    · exact c.relocateAll_slots e _
    · exact (Ctx.relocateAll_slots _ e _).trans (c.relocateAll_slots e _)
  split
  · exact hr
  split <;> exact hr

@[simp] theorem Ctx.loadDesc_slots (e : OpEnv) (w : Nat) (d : List Byte) :
    (c.loadDesc e w d).1.s.slots = c.s.slots := by
  unfold Ctx.loadDesc
  extract_lets r
  split
  · extract_lets r' a b
    have hb : b.1.s.slots = c.s.slots := by unfold b a; split <;> simp
    clear_value b
    split_ifs <;> simp [hb]
  · simp

@[simp] theorem Ctx.prepOp_slots (e : OpEnv) (w : Nat) (drs : SMap (Option DReg)) :
    (c.prepOp e w drs).1.s.slots = c.s.slots := by
  unfold Ctx.prepOp
  extract_lets d r n inv a x
  have hd : d.s.slots = c.s.slots := by unfold d; split <;> simp
  have hr : r.1.s.slots = c.s.slots := (d.checkOp_slots e w drs).trans hd
  have ha : a.1.s.slots = c.s.slots := (r.1.bufRead_slots _ _ _).trans hr
  have hx : x.1.s.slots = c.s.slots := (a.1.loadDesc_slots _ _ _).trans ha
  clear_value d r a x
  split_ifs <;> simp [hd, hr, ha, hx]

@[simp] theorem Ctx.fetchOp_slots (b : BufInfo) (node : Nat) (l : Lane) (ofs : Nat) :
    (c.fetchOp b node l ofs).1.s.slots = c.s.slots := by
  unfold Ctx.fetchOp Ctx.fetchPiece
  split
  · simp
  · dsimp only; split <;> simp

end

/-! ### Relocation -/

/-- What relocating a lane's next operation answers: the slots as they were, and, of the operation's row, the
lane's place and word, or the lane with that operation relocated behind its others (R415, R417). -/
theorem Ctx.relocNext_spec (c : Ctx) (e : OpEnv) (l : Lane) (row : Nat → Bool) :
    match c.relocNext e l row with
    | .none => True
    | .unread d _ _ => d.s.slots = c.s.slots
    | .fault d _ w _ _ => d.s.slots = c.s.slots ∧ row w = true
    | .ok d k => d.s.slots = c.s.slots ∧
      ∃ r, k = { l with piece := k.piece, ahead := l.ahead ++ [r] } ∧ row r.word = true ∧ r.ofs = l.rel.1 := by
  unfold Ctx.relocNext
  extract_lets at' r q
  have hr : r.1.s.slots = c.s.slots := c.fetchOp_slots _ _ _ _
  have hq : q.1.s.slots = c.s.slots := (r.1.prepOp_slots _ _ _).trans hr
  clear_value r q
  by_cases hfull : (if e.buf.sealAt.isSome = true then 1 else 8) ≤ l.ahead.length ∨ e.buf.laneEnd e.node ≤ at'.1
  · rw [if_pos hfull]; trivial
  rw [if_neg hfull]
  by_cases hwait : (r.1.stall || r.1.miss != []) = true
  · rw [if_pos hwait]; trivial
  rw [if_neg hwait]
  cases r.1.err with
  | some x => exact hr
  | none =>
    dsimp only
    by_cases hrow : row r.2.2 = false
    · rw [if_pos hrow]; trivial
    rw [if_neg hrow]
    have hrow : row r.2.2 = true := by simpa using hrow
    by_cases hwait' : (q.1.stall || q.1.miss != []) = true
    · rw [if_pos hwait']; trivial
    rw [if_neg hwait']
    cases q.1.err with
    | some x => exact ⟨hq, hrow⟩
    | none => exact ⟨hq, _, rfl, hrow, rfl⟩

end Sys2Proof.Machine
end

section
/-! Fetching and issuing (O47). -/

namespace Sys2Proof.Machine

/-! ### What a relocation changes -/

section
variable {s : State} {slot node : Nat} {x : ExecSlot} {e : Entry} {b : BufInfo} {l : Lane}
  (h : s.laneAhead slot node = some (x, e, b, l)) {v : View} {row : Nat → Bool}
include h

theorem State.relocate_of_none (hq : (Ctx.start s v []).relocNext (s.opEnv e b node) l row = .none) :
    s.relocate slot node v row = s := by
  simp only [State.relocate, h, hq]

/-- R663: a read that fails. -/
theorem State.relocate_of_unread {c : Ctx} {ofs : Nat} {er : AccErr}
    (hq : (Ctx.start s v []).relocNext (s.opEnv e b node) l row = .unread c ofs er) :
    s.relocate slot node v row = c.s.raise x.entry (c.s.opFault er node ofs 0 l.cp 0) := by
  simp only [State.relocate, h, hq]

/-- R404, R417: a check that fails, of the operation that is next to issue. -/
theorem State.relocate_of_fault_next {c : Ctx} {ofs w : Nat} {drs : SMap (Option DReg)} {er : AccErr}
    (hq : (Ctx.start s v []).relocNext (s.opEnv e b node) l row = .fault c ofs w drs er)
    (hat : l.ahead = [] ∧ l.pc = ofs) :
    ∃ g, s.relocate slot node v row = (c.s.putLane slot node { l with drs := drs }).raise x.entry g := by
  simp only [State.relocate, h, hq, if_pos hat]
  exact ⟨_, rfl⟩

/-- R417: a check that fails, of a later one. -/
theorem State.relocate_of_fault_later {c : Ctx} {ofs w : Nat} {drs : SMap (Option DReg)} {er : AccErr}
    (hq : (Ctx.start s v []).relocNext (s.opEnv e b node) l row = .fault c ofs w drs er)
    (hat : ¬ (l.ahead = [] ∧ l.pc = ofs)) :
    s.relocate slot node v row = c.s.raise x.entry (c.s.opFault er node ofs 0 l.cp w) := by
  simp only [State.relocate, h, hq, if_neg hat]

/-- R415: the operation joins those relocated. -/
theorem State.relocate_of_ok {c : Ctx} {k : Lane}
    (hq : (Ctx.start s v []).relocNext (s.opEnv e b node) l row = .ok c k) :
    s.relocate slot node v row = c.s.putLane slot node k := by
  simp only [State.relocate, h, hq]

/-- The lane put into a state whose slots are those before. -/
theorem State.laneAt_putLane_of_slots {t : State} (ht : t.slots = s.slots) (k : Lane) :
    (t.putLane slot node k).laneAt slot node = some k := by
  obtain ⟨-, hl⟩ := State.of_laneAhead h
  rw [State.laneAt_putLane, if_pos ⟨rfl, rfl⟩, State.laneAt_of_slots ht, hl, Option.map_some]

end

/-! ### Issuing -/

section
variable {s : State} {slot node : Nat} {v : View} {row : Nat → Bool}
  {k : Fetch → State → SMap (Option DReg) → Nat → State} {f : Fetch}

/-- The first of a lane's operations relocated ahead is taken, if it is of the given row (R415, R453). -/
def State.takeAhead (s : State) (slot node : Nat) (row : Nat → Bool)
    (k : Fetch → State → SMap (Option DReg) → Nat → State) : State :=
  match s.laneReady slot node with
  | none => s
  | some f =>
    match f.l.ahead with
    | [] => s
    | r :: t => if row r.word then k { f with w := r.word, l := { f.l with ahead := t } } s r.drs r.uda else s

theorem State.takeAhead_of_none (h : ∀ f, s.laneReady slot node = some f → f.l.ahead = []) :
    s.takeAhead slot node row k = s := by
  unfold State.takeAhead
  split
  · rfl
  next f hf => rw [h f hf]

theorem State.takeAhead_of_cons {r : Ready} {t : List Ready} (h : s.laneReady slot node = some f)
    (ha : f.l.ahead = r :: t) : s.takeAhead slot node row k =
      if row r.word then k { f with w := r.word, l := { f.l with ahead := t } } s r.drs r.uda else s := by
  simp only [State.takeAhead, h, ha]

/-- Issue takes the first of those relocated, and has the next one relocated first where there is none. -/
theorem State.issue_eq_takeAhead : s.issue slot node v row k =
    (match s.laneReady slot node with
      | some f => if f.l.ahead = [] then s.relocate slot node v row else s
      | none => s).takeAhead slot node row k := rfl

theorem State.issue_of_not_ready (h : s.laneReady slot node = none) : s.issue slot node v row k = s := by
  rw [State.issue_eq_takeAhead, h]
  exact State.takeAhead_of_none fun f hf => nomatch h.symm.trans hf

theorem State.issue_of_ahead (h : s.laneReady slot node = some f) (ha : f.l.ahead ≠ []) :
    s.issue slot node v row k = s.takeAhead slot node row k := by
  rw [State.issue_eq_takeAhead, h]
  exact congrArg (State.takeAhead · slot node row k) (if_neg ha)

theorem State.issue_of_none_ahead (h : s.laneReady slot node = some f) (ha : f.l.ahead = []) :
    s.issue slot node v row k = (s.relocate slot node v row).takeAhead slot node row k := by
  rw [State.issue_eq_takeAhead, h]
  exact congrArg (State.takeAhead · slot node row k) (if_pos ha)

theorem State.issue_of_fetches {drs : SMap (Option DReg)} {u : Nat} (h : s.Fetches slot node f drs u) :
    s.issue slot node v row k = if row f.w then k f s drs u else s := by
  obtain ⟨f₀, r, t, hf, ha, rfl, rfl, rfl⟩ := h
  rw [State.issue_of_ahead hf (by simp [ha]), State.takeAhead_of_cons hf ha]

/-- What `Fetches` says of the lane. -/
theorem State.Fetches.issuing {drs : SMap (Option DReg)} {u : Nat} (h : s.Fetches slot node f drs u) :
    ∃ l, s.Issuing slot node { f with l := l } ∧ f.l = { l with ahead := f.l.ahead } := by
  obtain ⟨f₀, r, t, hf, -, -, -, rfl⟩ := h
  have hi := State.issuing_of_laneReady hf
  exact ⟨f₀.l, ⟨hi.running, hi.hslot, hi.halted, hi.cutting, hi.lane, hi.entry, hi.buf, hi.block, hi.slot_eq,
    hi.node_eq⟩, rfl⟩

end

/-- How an operation fetched enters its unit queue, or waits for room there (R370, R406). -/
def State.queueOp (slot node : Nat) (f : Fetch) (s : State) (drs : SMap (Option DReg)) (u : Nat) : State :=
  match opUnit f.w with
  | none => s
  | some q =>
    if s.hasRoom (newOp slot node f.l.pc f.w q drs u) then
      let t := s.putLane slot node { f.l with pc := f.l.pc + 32, drs := drs, block := none }
      { t with ops := t.ops ++ [newOp slot node f.l.pc f.w q drs u] }
    else
      match s.laneAt slot node with
      | some l => s.putLane slot node { l with block := some .room }
      | none => s

theorem State.enqueue_eq_issue (s : State) (slot node : Nat) (v : View) (row : Nat → Bool) :
    s.enqueue slot node v row = s.issue slot node v row (State.queueOp slot node) := rfl

section
variable {f : Fetch} {s : State} {slot node : Nat} {drs : SMap (Option DReg)} {u : Nat} {q : UnitId}
  (hq : opUnit f.w = some q)
include hq

/-- R370: without room the lane waits, and nothing else changes. -/
theorem State.queueOp_full (h : s.hasRoom (newOp slot node f.l.pc f.w q drs u) = false) {l : Lane}
    (hl : s.laneAt slot node = some l) :
    State.queueOp slot node f s drs u = s.putLane slot node { l with block := some .room } := by
  simp only [State.queueOp, hq, h, hl, Bool.false_eq_true, if_false]

/-- R370, R406: with room the operation joins its queue, and the lane goes on behind it. -/
theorem State.queueOp_room (h : s.hasRoom (newOp slot node f.l.pc f.w q drs u) = true) :
    let t := s.putLane slot node { f.l with pc := f.l.pc + 32, drs := drs, block := none }
    State.queueOp slot node f s drs u = { t with ops := s.ops ++ [newOp slot node f.l.pc f.w q drs u] } := by
  simp only [State.queueOp, hq, h, if_true]
  rw [State.putLane_rest]

end

/-! ### The rows -/

/-- No CHECKPOINT has stopped the lane (R492). -/
def State.Unstopped (s : State) (slot node : Nat) : Prop :=
  ∀ l cp lanes, s.laneAt slot node = some l → l.block ≠ some (.checkpoint cp lanes)

theorem State.Issuing.unstopped {s : State} {slot node : Nat} {f : Fetch} (h : s.Issuing slot node f) :
    s.Unstopped slot node := by
  intro l cp lanes hl
  obtain rfl : f.l = l := Option.some.inj (h.laneAt.symm.trans hl)
  rcases h.block with hb | hb <;> simp [hb]

/-- What a CHECKPOINT does as it is issued (R492). -/
def State.takeCheckpoint (f : Fetch) (s : State) (drs : SMap (Option DReg)) : State :=
  let g := { f with l := { f.l with cp := bits f.w 79 64 } }
  if s.cutPending f.x.entry then s.blockAt g drs (.checkpoint (bits f.w 79 64) (bits f.w 88 80))
  else s.finishLane g drs

theorem execCheckpoint_of_none {s : State} {slot : Fin 8} {node : Fin 9} {st : SeqStep}
    (h : s.laneAt slot node = none) : exec (.checkpoint slot node st) s = .next s := by
  have hnone : ((s.slot? slot).bind fun x => (x.lane? node).map fun l => (x, l)) = none := by
    unfold State.laneAt at h
    cases hx : s.slot? slot with
    | none => rfl
    | some x => rw [hx] at h; simpa using h
  simp only [exec, execCheckpoint, hnone]

theorem execCheckpoint_step {s : State} {slot : Fin 8} {node : Fin 9} {st : SeqStep} {l : Lane}
    (hl : s.laneAt slot node = some l)
    (h : ∀ cp lanes v, l.block = some (.checkpoint cp lanes) → st ≠ .issue v) :
    exec (.checkpoint slot node st) s = .next (s.step2 slot node st (fun w => opCode w == 0x0F)
      fun f s drs _ => State.takeCheckpoint f s drs) := by
  obtain ⟨x, hx, hlx⟩ := Option.bind_eq_some_iff.1 hl
  have hfound : ((s.slot? slot).bind fun x => (x.lane? node).map fun l => (x, l)) = some (x, l) := by
    rw [hx, Option.bind_some, hlx, Option.map_some]
  rw [exec, execCheckpoint, hfound]
  dsimp only
  split
  next hb => exact absurd rfl (h _ _ _ hb)
  · rfl

section
variable {s : State} {i : Instr} {slot : Fin 8} {node : Fin 9} {v : View} {row : Nat → Bool}

/-- R415: the rows that relocate. -/
theorem exec_ahead (h : aheadRow i = some (slot, node, v, row)) :
    exec i s = .next (s.relocate slot node v row) := by
  unfold aheadRow at h
  split at h
  case h_8 n c w =>
    cases h
    cases hl : s.laneAt slot node with
    | some l => exact execCheckpoint_step hl fun _ _ _ _ hst => nomatch hst
    | none =>
      have hnone : s.laneAhead slot node = none :=
        Option.eq_none_iff_forall_ne_some.2 fun ⟨_, _, _, _⟩ ha =>
          nomatch hl.symm.trans (State.of_laneAhead ha).2
      rw [execCheckpoint_of_none hl, State.relocate, hnone]
  case h_10 =>
    split at h
    next hat hrow =>
      cases h
      unfold unitAt at hat
      split at hat <;> cases hat <;> cases hrow <;> rfl
    · cases h
  all_goals cases h; rfl

/-- The rows of the unit queues that issue. -/
theorem exec_enqueue (h : laneRow i = some (slot, node, v, row)) (hu : (unitWords i).isSome = true) :
    exec i s = .next (s.issue slot node v row (State.queueOp slot node)) := by
  rw [← State.enqueue_eq_issue]
  unfold laneRow at h
  split at h
  case h_10 =>
    split at h
    next hat hrow =>
      cases h
      unfold unitAt at hat
      split at hat <;> cases hat <;> cases hrow <;> rfl
    · cases h
  all_goals cases hu

/-- The second step of an operation without a unit queue (R452). -/
theorem exec_of_step2 {s : State} {k : Fetch → State → SMap (Option DReg) → Nat → State}
    (h : exec i s = .next (s.step2 slot node (.issue v) row k)) :
    exec i s = .next (s.issue slot node v row k) := h

/-- The rows that issue, but for a lane that a CHECKPOINT has stopped. -/
theorem exec_issue (h : laneRow i = some (slot, node, v, row)) :
    ∃ k, ∀ s : State, (∀ n c w, i ≠ .checkpoint n c (.issue w)) ∨ s.Unstopped slot node →
      exec i s = .next (s.issue slot node v row k) := by
  have h' := h
  unfold laneRow at h
  split at h
  case h_8 n c w =>
    cases h
    refine ⟨fun f s drs _ => State.takeCheckpoint f s drs, fun s hs => ?_⟩
    have hs : s.Unstopped slot node := hs.resolve_left fun hne => hne _ _ _ rfl
    cases hl : s.laneAt slot node with
    | some l => exact execCheckpoint_step hl fun cp lanes _ hb _ => hs l cp lanes hl hb
    | none =>
      rw [execCheckpoint_of_none hl, State.issue_of_not_ready]
      exact Option.eq_none_iff_forall_ne_some.2 fun f hf =>
        nomatch hl.symm.trans (State.issuing_of_laneReady hf).laneAt
  case h_10 =>
    split at h
    next hat hrow =>
      cases h
      exact ⟨State.queueOp slot node, fun _ _ => exec_enqueue h' (Option.isSome_of_mem hrow)⟩
    · cases h
  all_goals cases h; exact ⟨_, fun _ _ => exec_of_step2 rfl⟩

end

/-! ### The obligation -/

section
variable {s : State} {i : Instr} {slot : Fin 8} {node : Fin 9} {v : View} {row : Nat → Bool}

/-- R415, R417: what a row that relocates comes to. -/
theorem exec_relocates {x : ExecSlot} {e : Entry} {b : BufInfo} {l : Lane}
    (h : aheadRow i = some (slot, node, v, row)) (ha : s.laneAhead slot node = some (x, e, b, l)) :
    let q := (Ctx.start s v []).relocNext (s.opEnv e b node) l row
    (q = .none → exec i s = .next s) ∧
    (∀ c ofs er, q = .unread c ofs er → exec i s = .next
      (c.s.raise x.entry (c.s.opFault er node ofs 0 l.cp 0))) ∧
    (∀ c ofs w drs er, q = .fault c ofs w drs er → Does i s fun t => row w = true ∧
      (l.ahead = [] → ofs = l.pc → t.laneAt slot node = some { l with drs := drs }) ∧
      (l.ahead ≠ [] → t = c.s.raise x.entry (c.s.opFault er node ofs 0 l.cp w))) ∧
    ∀ c k, q = .ok c k → Does i s fun t => t = { c.s with slots := t.slots } ∧ t.laneAt slot node = some k ∧
      ∃ r, k = { l with piece := k.piece, ahead := l.ahead ++ [r] } ∧ row r.word = true ∧ r.ofs = l.rel.1 := by
  intro q
  have hexec : exec i s = .next (s.relocate slot node v row) := exec_ahead h
  have hspec := (Ctx.start s v []).relocNext_spec (s.opEnv e b node) l row
  refine ⟨fun hq => ?_, fun c ofs er hq => ?_, fun c ofs w drs er hq => ⟨_, hexec, ?_⟩,
    fun c k hq => ⟨_, hexec, ?_⟩⟩
  · rw [hexec, State.relocate_of_none ha hq]
  · rw [hexec, State.relocate_of_unread ha hq]
  · rw [show (Ctx.start s v []).relocNext (s.opEnv e b node) l row = _ from hq] at hspec
    obtain ⟨hs, hrow⟩ := hspec
    refine ⟨hrow, fun hnil hofs => ?_, fun hne => ?_⟩
    · obtain ⟨g, hg⟩ := State.relocate_of_fault_next ha hq ⟨hnil, hofs.symm⟩
      exact hg ▸ State.laneAt_putLane_of_slots ha hs _
    · exact State.relocate_of_fault_later ha hq fun hat => hne hat.1
  · rw [show (Ctx.start s v []).relocNext (s.opEnv e b node) l row = _ from hq] at hspec
    obtain ⟨hs, hr⟩ := hspec
    rw [State.relocate_of_ok ha hq]
    exact ⟨State.putLane_rest _ _ _ _, State.laneAt_putLane_of_slots ha hs k, hr⟩

/-- R370, R415: what a row that issues comes to where the lane is not ready, or has nothing relocated. -/
theorem exec_issues (h : laneRow i = some (slot, node, v, row)) :
    (s.laneReady slot node = none → (∀ n c w, i ≠ .checkpoint n c (.issue w)) → exec i s = .next s) ∧
    ∀ f, s.laneReady slot node = some f → f.l.ahead = [] →
      let u := s.relocate slot node v row
      ((∀ g, u.laneReady slot node = some g → g.l.ahead = []) → exec i s = .next u) ∧
      ∀ g, u.laneReady slot node = some g → g.l.ahead ≠ [] → exec i s = exec i u := by
  obtain ⟨k, hk⟩ := exec_issue h
  refine ⟨fun hnone hne => ?_, fun f hf ha => ?_⟩
  · rw [hk s (.inl hne), State.issue_of_not_ready hnone]
  have hi := State.issuing_of_laneReady hf
  have hexec := hk s (.inr hi.unstopped)
  rw [State.issue_of_none_ahead hf ha] at hexec
  intro u
  refine ⟨fun hg => by rw [hexec, State.takeAhead_of_none hg], fun g hg hne => ?_⟩
  rw [hexec, hk u (.inr (State.issuing_of_laneReady hg).unstopped), State.issue_of_ahead hg hne]

/-- A word of another row is left to that row. -/
theorem exec_other_row {f : Fetch} {drs : SMap (Option DReg)} {u : Nat}
    (h : laneRow i = some (slot, node, v, row)) (hf : s.Fetches slot node f drs u) (hrow : row f.w = false) :
    exec i s = .next s := by
  obtain ⟨l, hi, -⟩ := hf.issuing
  obtain ⟨k, hk⟩ := exec_issue h
  rw [hk s (.inr hi.unstopped), State.issue_of_fetches hf, hrow]
  rfl

/-- R370, R406: an operation of a unit queue joins it, or waits for room. -/
theorem exec_queues {f : Fetch} {drs : SMap (Option DReg)} {u : Nat} {q : UnitId}
    (h : laneRow i = some (slot, node, v, row)) (hu : (unitWords i).isSome = true)
    (hf : s.Fetches slot node f drs u) (hrow : row f.w = true) (hq : opUnit f.w = some q) :
    let o := newOp slot node f.l.pc f.w q drs u
    (s.hasRoom o = false → Does i s fun t => t = { s with slots := t.slots } ∧ ∀ x l,
      s.slot? slot = some x → x.lane? node = some l → t.LaneIs f { l with block := some .room }) ∧
    (s.hasRoom o = true → Does i s fun t => t.ops = s.ops ++ [o] ∧
      t.LaneIs f { f.l with pc := f.l.pc + 32, drs := drs, block := none } ∧
      t = { s with slots := t.slots, ops := t.ops }) := by
  intro o
  obtain ⟨l₀, hi, -⟩ := hf.issuing
  have hslot : f.slot = slot := hi.slot_eq
  have hnode : f.node = node := hi.node_eq
  have hl : s.laneAt slot node = some l₀ := hi.laneAt
  have hexec : exec i s = .next (State.queueOp slot node f s drs u) := by
    rw [exec_enqueue h hu, State.issue_of_fetches hf, if_pos hrow]
  have hput (k : Lane) : (s.putLane slot node k).LaneIs f k := by
    rw [State.laneIs_iff, hslot, hnode, State.laneAt_putLane, if_pos ⟨rfl, rfl⟩, hl, Option.map_some]
  refine ⟨fun hfull => ⟨_, hexec, ?_⟩, fun hroom => ⟨_, hexec, ?_⟩⟩
  · rw [State.queueOp_full hq hfull hl]
    refine ⟨State.putLane_rest _ _ _ _, fun x l hx hlx => ?_⟩
    obtain rfl : l₀ = l := by simpa [State.laneAt, hx, hlx] using hl.symm
    exact hput _
  · rw [State.queueOp_room hq hroom]
    refine ⟨rfl, hput _, ?_⟩
    rw [State.putLane_rest]

end

/-- Settles O47: the rows that relocate by what `relocNext` answers, and those that issue by what `issue`
takes. -/
theorem operationsAreFetchedAndIssued : Obligations.OperationsAreFetchedAndIssued := by
  refine ⟨fun s i slot node v row h => ⟨fun hnone => ?_, fun x e b l ha _ => exec_relocates h ha⟩,
    fun s i slot node v row h => ?_⟩
  · rw [exec_ahead h, State.relocate, hnone]
  · obtain ⟨hnone, hnext⟩ := exec_issues h
    exact ⟨hnone, hnext, fun f drs u hf => ⟨exec_other_row h hf, fun q hu hrow hq _ =>
      exec_queues h hu hf hrow hq⟩⟩

end Sys2Proof.Machine
end

section
/-! Operations that complete at issue (O48): a signal to another device whose word crosses a boundary of 256
bytes. -/

namespace Sys2Proof.Machine

/-- The last four bytes below a boundary of 256 bytes, and the four bytes behind it, of device 9. -/
def crossingUda : Nat := 2 ^ 47 + 9 * 2 ^ 35 + 252

/-- A PENNANT_SIGNAL of the value 5, by WRITE. -/
def signalFive : Nat := 0x0D + 5 * 2 ^ 128

/-- Lane 0, with that signal relocated to `crossingUda`. -/
def crossingLane : Lane := { Lane.start 64 with ahead := [⟨64, signalFive, [], crossingUda⟩] }

/-- A buffer whose lane 0 holds one operation. -/
def oneOpBuf : BufInfo :=
  { uda := 0, size := 128, direct := false, lanes := 1, nCl := 0, nFe := 0, sampleAdvance := 0, descOfs := 128,
    descCount := 0, laneOfs := [64], sealAt := none, image := [], written := [], handles := [], subst := [],
    params := [], elastic := 0 }

/-- The entry that the buffer belongs to. -/
def oneOpEntry : Entry :=
  { idx := 0, stream := 0, kind := .submit, tolerate := false, notBefore := none, waits := [], sigs := [],
    ext := 0, buf := some oneOpBuf, gen := Gen.zero, hgen := 0, fault := none, active := true, due := true,
    prefetched := false, staged := [], restored := none }

/-- The slot that runs it. -/
def crossingSlot : ExecSlot := ⟨0, 0, [(0, crossingLane)], none, none⟩

/-- A device that runs that lane, MAPPED with device 9 LIVE. -/
def crossingSignal : State := { State.reset with
  perst := false
  regs := [(Reg.HI_BOOT, 1), (Reg.FAB_STATE, 3)]
  slots := [(0, some crossingSlot)]
  entries := [oneOpEntry]
  fab := { Fabric.init with map := [⟨9, 1, 0, true, 0⟩] } }

/-- The operation that the lane issues. -/
def crossingFetch : Fetch :=
  ⟨0, 0, crossingSlot, oneOpEntry, oneOpBuf, { crossingLane with ahead := [] }, signalFive⟩

theorem crossingSignal_canonical : crossingSignal.Canonical := by
  refine ⟨rfl, rfl, ?regs, rfl, rfl, rfl, rfl, rfl, rfl, ?slots, rfl, rfl, rfl, rfl, rfl, rfl, rfl, rfl, rfl,
    rfl⟩
  case regs => decide
  case slots => decide

theorem crossingSignal_fetches : crossingSignal.Fetches 0 0 crossingFetch [] crossingUda := by
  refine ⟨{ crossingFetch with w := 0, l := crossingLane }, ⟨64, signalFive, [], crossingUda⟩, [], ?_,
    rfl, rfl, rfl, rfl⟩
  rfl

/-- R767: the signal goes out in two packets, of four bytes each. -/
theorem crossingSignal_requests :
    ((crossingSignal.pennantSignal 0 0 (.issue View.none) false).rmt.map fun r => (r.uda, r.data)) =
      [(crossingUda, [5, 0, 0, 0]), (crossingUda + 4, [0, 0, 0, 0])] := by decide +kernel

/-- Refutes O48: its clause on a signal to another device has one request carry the eight bytes, for every
address that a lane holds; an access is cut at every 256 bytes (R767), so one at an address that no multiple
of 8 is, which only the check at relocation rules out (R490), goes in two. -/
theorem not_laneOperationsComplete : ¬ Obligations.LaneOperationsComplete := by
  unfold Obligations.LaneOperationsComplete
  intro h
  obtain ⟨-, -, -, -, -, -, hremote, -⟩ := h crossingSignal 0 0 View.none crossingFetch [] crossingUda
    crossingSignal_fetches crossingSignal_canonical
  obtain ⟨t, ht, -, r, hr, -, -, hdata⟩ := hremote (by decide +kernel) (by decide) (by decide)
    (by decide +kernel) (.pennantSignalWrite 0 0 (.issue View.none)) (.inl ⟨rfl, by decide +kernel⟩)
  obtain rfl : crossingSignal.pennantSignal 0 0 (.issue View.none) false = t := Host.Outcome.next.inj ht
  have hmem := List.mem_map_of_mem (f := fun r : RmtReq => (r.uda, r.data)) hr
  rw [crossingSignal_requests, hdata] at hmem
  have hlen := List.mem_map_of_mem (f := fun p : Nat × List Byte => p.2.length) hmem
  rw [length_leBytes] at hlen
  exact absurd hlen (by decide)

end Sys2Proof.Machine
end

section
/-! SUPPORT. Token counters, and lanes that block or go on (R354, R359 to R362, R452). -/

namespace Sys2Proof.Machine

/-! ### Posts and progress -/

/-- The header post of an operation word, if it has one (R354). -/
def headerPosts (slot node ofs w rep : Nat) : List Post :=
  if postEn w then [⟨slot, node, postNode w, postTok w, postN w, ofs, w, rep⟩] else []

theorem State.headerPost_rest (s : State) (slot node ofs w rep : Nat) :
    s.headerPost slot node ofs w rep = { s with
      prog := (s.headerPost slot node ofs w rep).prog, posts := s.posts ++ headerPosts slot node ofs w rep } := by
  unfold State.headerPost headerPosts
  split
  · rfl
  · simp

theorem State.progOf_setProg {s : State} (h : SMap.wf State.progD s.prog = true) (n : Nat) (p : Prog) :
    (s.setProg n p).progOf n = p := SMap.get_set_same (lo := none) h

/-- A post counts as a token, and as no operation (R610). -/
theorem State.ops_progOf_headerPost {s : State} (h : SMap.wf State.progD s.prog = true) (slot node ofs w rep : Nat) :
    ((s.headerPost slot node ofs w rep).progOf slot).ops = (s.progOf slot).ops := by
  unfold State.headerPost State.makePost
  split
  · exact (congrArg Prog.ops (State.progOf_setProg h slot
      { s.progOf slot with tokens := ((s.progOf slot).tokens + 1) % 2 ^ 48 }) :)
  · rfl

/-! ### Lanes that go on -/

/-- A lane's operation completes: the lane goes on behind it, and its post is made. -/
theorem State.laneDone_eq {s : State} {slot node : Nat} {l : Lane} (h : s.laneAt slot node = some l) :
    ∃ prog, s.laneDone slot node = { s with
      slots := (s.putLane slot node { l with pc := l.pc + 32, block := none }).slots
      prog := prog
      posts := s.posts ++ headerPosts slot node l.pc l.word 0 } := by
  obtain ⟨x, hx, hl⟩ := Option.bind_eq_some_iff.1 h
  simp only [State.laneDone, hx, hl, State.putLane]
  exact ⟨_, State.headerPost_rest _ _ _ _ _ _⟩

theorem State.laneDone_of_none {s : State} {slot node : Nat} (h : s.laneAt slot node = none) :
    s.laneDone slot node = s := by
  unfold State.laneDone
  split
  · rfl
  next x hx =>
  split
  · rfl
  next l hl => rw [State.laneAt, hx] at h; exact nomatch h.symm.trans hl

theorem State.laneAt_laneDone (s : State) (slot node n m : Nat) :
    (s.laneDone slot node).laneAt n m = if n = slot ∧ m = node then
      (s.laneAt n m).map fun l => { l with pc := l.pc + 32, block := none } else s.laneAt n m := by
  cases hl : s.laneAt slot node with
  | none =>
    rw [State.laneDone_of_none hl]
    split
    next hnm => obtain ⟨rfl, rfl⟩ := hnm; rw [hl]; rfl
    · rfl
  | some l =>
    obtain ⟨prog, hp⟩ := State.laneDone_eq hl
    have hslots : (s.laneDone slot node).slots =
        (s.putLane slot node { l with pc := l.pc + 32, block := none }).slots := by rw [hp]
    rw [State.laneAt_of_slots hslots, State.laneAt_putLane]
    split
    next hnm => obtain ⟨rfl, rfl⟩ := hnm; rw [hl]; rfl
    · rfl

/-! ### Counters -/

/-- The counter that a token number of a slot stands for goes by what the counters are allocated to. -/
theorem State.tokAt_congr {s t : State} {node : Nat}
    (h : ∀ i, (SMap.get State.tokD t.toks (64 * node + i)).alloc = (SMap.get State.tokD s.toks (64 * node + i)).alloc ∧
      (SMap.get State.tokD t.toks (64 * node + i)).slot = (SMap.get State.tokD s.toks (64 * node + i)).slot ∧
      (SMap.get State.tokD t.toks (64 * node + i)).token = (SMap.get State.tokD s.toks (64 * node + i)).token)
    (slot tok : Nat) : t.tokAt slot node tok = s.tokAt slot node tok := by
  unfold State.tokAt
  congr 1
  funext i
  obtain ⟨ha, hs, ht⟩ := h i
  simp only [ha, hs, ht]

theorem State.tokVal_of_tokAt {s : State} {slot node tok i : Nat} (h : s.tokAt slot node tok = some i) :
    s.tokVal slot node tok = (SMap.get State.tokD s.toks (64 * node + i)).value := by
  simp only [State.tokVal, h]

/-- What a counter holds once its value has been replaced. -/
theorem State.tokVal_set {s : State} (hw : SMap.wf State.tokD s.toks = true) {slot node tok i : Nat}
    (h : s.tokAt slot node tok = some i) (v srv : Nat) {t : State}
    (ht : t.toks = SMap.set State.tokD s.toks (64 * node + i)
      { SMap.get State.tokD s.toks (64 * node + i) with value := v, served := srv }) :
    t.tokVal slot node tok = v := by
  have hget (j : Nat) : SMap.get State.tokD t.toks (64 * node + j) = if j = i then
      { SMap.get State.tokD s.toks (64 * node + i) with value := v, served := srv }
      else SMap.get State.tokD s.toks (64 * node + j) := by
    rw [ht]
    split
    next hj => rw [hj, SMap.get_set_same (lo := none) hw]
    next hj => rw [SMap.get_set_other (lo := none) hw (by omega)]
  have hat : t.tokAt slot node tok = some i := by
    rw [State.tokAt_congr (s := s) (fun j => ?_), h]
    rw [hget]
    split
    next hj => rw [hj]; exact ⟨rfl, rfl, rfl⟩
    · exact ⟨rfl, rfl, rfl⟩
  rw [State.tokVal_of_tokAt hat, hget, if_pos rfl]

/-- R359: a counter that holds too little satisfies no wait. -/
theorem State.takeTok_of_lt {s : State} {slot node tok n : Nat} (h : s.tokVal slot node tok < n) :
    s.takeTok slot node tok n = none := by
  unfold State.takeTok
  cases hi : s.tokAt slot node tok with
  | none => rfl
  | some i =>
    rw [State.tokVal_of_tokAt hi] at h
    exact if_neg fun hle => absurd hle.1 (by omega)

/-- R359, R362: a counter that holds enough, and has satisfied no wait in this cycle, gives the amount. -/
theorem State.takeTok_of_le {s : State} (hw : SMap.wf State.tokD s.toks = true) {slot node tok n i : Nat}
    (hi : s.tokAt slot node tok = some i) (h : n ≤ s.tokVal slot node tok)
    (hs : (SMap.get State.tokD s.toks (64 * node + i)).served ≠ s.cycle + 1) :
    ∃ toks, s.takeTok slot node tok n = some { s with toks := toks } ∧
      ∀ t : State, t.toks = toks → t.tokVal slot node tok = s.tokVal slot node tok - n := by
  rw [State.tokVal_of_tokAt hi] at h ⊢
  refine ⟨_, ?_, fun t ht => State.tokVal_set hw hi _ (s.cycle + 1) ht⟩
  simp only [State.takeTok, hi, Option.bind_some]
  exact if_pos ⟨h, hs⟩

/-! ### Waits -/

section
variable {s : State} {slot node tok : Nat}

/-- No queued operation waits on the counter. -/
theorem State.find_waits (h : ∀ o ∈ s.ops, o.waits slot node tok = false) :
    s.ops.find? (fun o => o.waits slot node tok) = none :=
  List.find?_eq_none.2 fun o ho => by simp [h o ho]

/-- A counter that nothing waits on. -/
theorem State.testWaits_of_none (h : ∀ o ∈ s.ops, o.waits slot node tok = false)
    (hl : ∀ l, s.laneAt slot node = some l → ∀ n, l.block ≠ some (.token tok n)) :
    s.testWaits slot node tok = s := by
  have hserve : s.serveWaits slot node tok = s := by
    unfold State.serveWaits
    rw [State.find_waits h]
    dsimp only
    split
    next l hlane =>
      split
      next t n hb =>
        exact if_neg fun (ht : t = tok) => hl l hlane n (ht ▸ hb)
      · rfl
    · rfl
  unfold State.testWaits
  split
  · rfl
  split
  · rfl
  · exact hserve

/-- R360, R361: a lane blocked on the counter, that nothing waits on first. -/
theorem State.testWaits_of_block {x : ExecSlot} {l : Lane} {n : Nat}
    (h : ∀ o ∈ s.ops, o.waits slot node tok = false) (hx : s.slot? slot = some x)
    (hh : s.laneHalted x node = false) (hl : s.laneAt slot node = some l)
    (hb : l.block = some (.token tok n)) : s.testWaits slot node tok =
      ((s.takeTok slot node tok n).map fun t => t.laneDone slot node).getD s := by
  have hl' : ((s.slot? slot).bind fun x => x.lane? node) = some l := hl
  simp only [State.testWaits, hx, hh, State.serveWaits, State.find_waits h, Bool.false_eq_true, if_false]
  rw [hx] at hl'
  simp only [hl', hb, if_true]
  cases s.takeTok slot node tok n <;> rfl

end

end Sys2Proof.Machine
end

section
/-! TOKEN_WAIT and BARRIER (O49). -/

namespace Sys2Proof.Machine

/-! ### Issue without a unit queue -/

/-- An operation of the row is taken as fetched (R452). -/
theorem exec_of_fetches {s : State} {i : Instr} {slot : Fin 8} {node : Fin 9} {v : View} {row : Nat → Bool}
    {k : Fetch → State → SMap (Option DReg) → Nat → State} {f : Fetch} {drs : SMap (Option DReg)} {u : Nat}
    (h : exec i s = .next (s.step2 slot node (.issue v) row k)) (hf : s.Fetches slot node f drs u)
    (hrow : row f.w = true) : exec i s = .next (k f s drs u) := by
  rw [exec_of_step2 h, State.issue_of_fetches hf, if_pos hrow]

/-- Where the lane of a fetched operation stands. -/
structure State.Holds (s : State) (f : Fetch) : Prop where
  hslot : s.slot? f.slot = some f.x
  lane : (s.laneAt f.slot f.node).isSome = true
  halted : s.laneHalted f.x f.node = false

theorem State.Fetches.holds {s : State} {slot node : Nat} {f : Fetch} {drs : SMap (Option DReg)} {u : Nat}
    (h : s.Fetches slot node f drs u) : f.slot = slot ∧ f.node = node ∧ s.Holds f ∧ s.running = true := by
  obtain ⟨l, hi, -⟩ := h.issuing
  have hslot : f.slot = slot := hi.slot_eq
  have hnode : f.node = node := hi.node_eq
  have hlane := hi.laneAt
  subst hslot hnode
  exact ⟨rfl, rfl, ⟨hi.hslot, Option.isSome_of_mem hlane, hi.halted⟩, hi.running⟩

/-! ### Lanes that block -/

/-- A fetched operation's lane, blocked at it. -/
def Fetch.blocked (f : Fetch) (drs : SMap (Option DReg)) (b : Block) : Lane :=
  { f.l with drs := drs, word := f.w, block := some b }

/-- The same lane once the operation has completed. -/
def Fetch.passed (f : Fetch) (drs : SMap (Option DReg)) : Lane :=
  { f.l with pc := f.l.pc + 32, drs := drs, word := f.w, block := none }

section
variable {s : State} {f : Fetch} {drs : SMap (Option DReg)} {b : Block}

theorem State.blockAt_rest : s.blockAt f drs b = { s with slots := (s.blockAt f drs b).slots } :=
  State.putLane_rest _ _ _ _

variable (h : s.Holds f)
include h

theorem State.Holds.laneAt_blockAt : (s.blockAt f drs b).laneAt f.slot f.node = some (f.blocked drs b) := by
  obtain ⟨l, hl⟩ := Option.isSome_iff_exists.1 h.lane
  rw [State.blockAt, State.laneAt_putLane, if_pos ⟨rfl, rfl⟩, hl]
  rfl

theorem State.Holds.slot?_blockAt :
    (s.blockAt f drs b).slot? f.slot = some (f.x.setLane f.node (f.blocked drs b)) := by
  simp only [State.blockAt, State.putLane, h.hslot, State.slot?_setSlot, if_true]
  rfl

theorem State.Holds.halted_blockAt :
    (s.blockAt f drs b).laneHalted (f.x.setLane f.node (f.blocked drs b)) f.node = false := by
  rw [State.blockAt_rest]
  exact h.halted

/-- R360 to R362: a lane that waits on a counter which nothing waits on first. -/
theorem State.Holds.wait (hw : SMap.wf State.tokD s.toks = true) {tok n : Nat}
    (hops : ∀ o ∈ s.ops, o.waits f.slot f.node tok = false) :
    let w := s.blockAt f drs (.token tok n)
    let t := w.testWaits f.slot f.node tok
    (s.tokVal f.slot f.node tok < n → t = w) ∧
    ∀ i, s.tokAt f.slot f.node tok = some i →
      (SMap.get State.tokD s.toks (64 * f.node + i)).served ≠ s.cycle + 1 → n ≤ s.tokVal f.slot f.node tok →
      t.LaneIs f (f.passed drs) ∧ t.posts = s.posts ++ headerPosts f.slot f.node f.l.pc f.w 0 ∧
        t.tokVal f.slot f.node tok = s.tokVal f.slot f.node tok - n := by
  intro w t
  have hrest : w = { s with slots := w.slots } := State.blockAt_rest
  have hops' : ∀ o ∈ w.ops, o.waits f.slot f.node tok = false := by rw [hrest]; exact hops
  have hlane : w.laneAt f.slot f.node = some (f.blocked drs (.token tok n)) := h.laneAt_blockAt
  have ht : t = ((w.takeTok f.slot f.node tok n).map fun t => t.laneDone f.slot f.node).getD w :=
    State.testWaits_of_block hops' h.slot?_blockAt h.halted_blockAt hlane rfl
  have hval : w.tokVal f.slot f.node tok = s.tokVal f.slot f.node tok := by rw [hrest]; rfl
  refine ⟨fun hlt => ?_, fun i hi hserved hle => ?_⟩
  · rw [ht, State.takeTok_of_lt (hval ▸ hlt)]
    rfl
  · have hi' : w.tokAt f.slot f.node tok = some i := by rw [hrest]; exact hi
    have hserved' : (SMap.get State.tokD w.toks (64 * f.node + i)).served ≠ w.cycle + 1 := by
      rw [hrest]; exact hserved
    have hw' : SMap.wf State.tokD w.toks = true := by rw [hrest]; exact hw
    obtain ⟨toks, htake, htoks⟩ := State.takeTok_of_le hw' hi' (hval.symm ▸ hle) hserved'
    rw [htake] at ht
    have hlane' : ({ w with toks := toks } : State).laneAt f.slot f.node = some (f.blocked drs (.token tok n)) :=
      hlane
    obtain ⟨prog, hdone⟩ := State.laneDone_eq hlane'
    have ht : t = ({ w with toks := toks } : State).laneDone f.slot f.node := ht
    refine ⟨?_, ?_, ?_⟩
    · rw [State.laneIs_iff, ht, State.laneAt_laneDone, if_pos ⟨rfl, rfl⟩, hlane']
      rfl
    · rw [ht, hdone, hrest]
      rfl
    · rw [← hval]
      exact htoks t (by rw [ht, hdone])

end

/-! ### TOKEN_WAIT and BARRIER -/

/-- The lane of `node` waits on `tok`, which may satisfy a wait in this cycle (R362). -/
def State.Serves (s : State) (slot node tok : Nat) : Prop :=
  ∃ i, s.tokAt slot node tok = some i ∧
    (SMap.get State.tokD s.toks (64 * node + i)).served ≠ s.cycle + 1

section
variable {s : State} {slot : Fin 8} {node : Fin 9} {v : View} {f : Fetch} {drs : SMap (Option DReg)} {u : Nat}
  (hf : s.Fetches slot node f drs u) (hs : s.Canonical)
include hf hs

/-- R360 to R362: TOKEN_WAIT, where nothing waits on the counter first. -/
theorem tokenWait_waits (hop : opCode f.w = 0x0C)
    (hops : ∀ o ∈ s.ops, o.waits slot node (waitTok f.w) = false) :
    (s.tokVal slot node (waitTok f.w) < waitN f.w → Does (.tokenWait slot node (.issue v)) s fun t =>
      t.LaneIs f (f.blocked drs (.token (waitTok f.w) (waitN f.w))) ∧ t = { s with slots := t.slots }) ∧
    (waitN f.w ≤ s.tokVal slot node (waitTok f.w) → s.Serves slot node (waitTok f.w) →
      Does (.tokenWait slot node (.issue v)) s fun t => t.LaneIs f (f.passed drs) ∧
        t.tokVal slot node (waitTok f.w) = s.tokVal slot node (waitTok f.w) - waitN f.w) := by
  have hexec : exec (.tokenWait slot node (.issue v)) s =
      .next ((s.blockAt f drs (.token (waitTok f.w) (waitN f.w))).testWaits slot node (waitTok f.w)) :=
    (exec_of_fetches (i := .tokenWait slot node (.issue v)) rfl hf (beq_iff_eq.2 hop) :)
  obtain ⟨hslot, hnode, hold, -⟩ := hf.holds
  have hwait := hold.wait (drs := drs) (n := waitN f.w) (State.kept_iff.2 ⟨rfl, hs⟩).toks_ok
    (tok := waitTok f.w) (by rwa [hslot, hnode])
  rw [hslot, hnode] at hwait
  obtain ⟨hless, henough⟩ := hwait
  refine ⟨fun hlt => ⟨_, hexec, ?_⟩, fun hle ⟨i, hi, hserved⟩ => ⟨_, hexec, ?_⟩⟩
  · rw [hless hlt]
    exact ⟨hold.laneAt_blockAt, State.blockAt_rest⟩
  · obtain ⟨hlane, -, hval⟩ := henough i hi hserved hle
    exact ⟨hlane, hval⟩

end

/-- R493: the posts of a BARRIER, of which only progress tells besides. -/
theorem State.foldl_makePost {β : Type} (p : β → Post) (l : List β) (s : State) :
    ∃ prog, l.foldl (fun s n => s.makePost (p n)) s = { s with prog := prog, posts := s.posts ++ l.map p } := by
  induction l generalizing s with
  | nil => exact ⟨s.prog, by simp⟩
  | cons n l ih =>
    obtain ⟨prog, h⟩ := ih (s.makePost (p n))
    refine ⟨prog, ?_⟩
    rw [List.foldl_cons, h]
    simp [State.makePost, State.setProg]

theorem State.waits_of_laneIdle {s : State} {slot node : Nat} (h : s.laneIdle slot node = true) (tok : Nat) :
    ∀ o ∈ s.ops, o.waits slot node tok = false := by
  intro o ho
  have hne : (o.slot == slot && o.node == node) = false := by
    simp only [State.laneIdle, Bool.not_eq_true'] at h
    exact Bool.eq_false_iff.2 (List.any_eq_false.1 h o ho)
  simp [OpRec.waits, hne]


/-- The lanes that a BARRIER names, and its posts (R493). -/
def barrierNodes (w : Nat) : List Nat := (upto 9).filter fun n => bitOf (bits w 88 80) n
def barrierPosts (slot node ofs w : Nat) : List Post :=
  ((barrierNodes w).filter fun n => n != node).map fun n => ⟨slot, node, n, bits w 69 64, 1, ofs, w, 0⟩

/-- A BARRIER has made its posts. -/
def State.barrierPosted (s : State) (slot node ofs w : Nat) : State :=
  ((barrierNodes w).filter fun n => n != node).foldl (fun s n =>
    s.makePost ⟨slot, node, n, bits w 69 64, 1, ofs, w, 0⟩) s

theorem State.barrierPosted_rest (s : State) (slot node ofs w : Nat) : ∃ prog,
    s.barrierPosted slot node ofs w = { s with prog := prog, posts := s.posts ++ barrierPosts slot node ofs w } :=
  State.foldl_makePost (fun n => ⟨slot, node, n, bits w 69 64, 1, ofs, w, 0⟩) _ s

section
variable {s : State} {slot : Fin 8} {node : Fin 9} {v : View} {f : Fetch} {drs : SMap (Option DReg)} {u : Nat}
  (hf : s.Fetches slot node f drs u) (hs : s.Canonical)
include hf hs

/-- R493: a BARRIER makes its posts, and waits for those of the other lanes. -/
theorem barrier_waits (hop : opCode f.w = 0x10) (hidle : s.laneIdle slot node = true) :
    let tok := bits f.w 69 64
    let n := (barrierNodes f.w).length - 1
    let made := s.posts ++ barrierPosts slot node f.l.pc f.w
    (s.tokVal slot node tok < n → Does (.barrier slot node (.issue v)) s fun t =>
      t.LaneIs f (f.blocked drs (.token tok n)) ∧ t.posts = made) ∧
    (n ≤ s.tokVal slot node tok → s.Serves slot node tok → postEn f.w = false →
      Does (.barrier slot node (.issue v)) s fun t => t.LaneIs f (f.passed drs) ∧ t.posts = made ∧
        t.tokVal slot node tok = s.tokVal slot node tok - n) := by
  intro tok n made
  obtain ⟨hslot, hnode, hold, -⟩ := hf.holds
  have hops := State.waits_of_laneIdle hidle tok
  have hexec : exec (.barrier slot node (.issue v)) s =
      .next (((s.barrierPosted slot node f.l.pc f.w).blockAt f drs (.token tok n)).testWaits slot node tok) := by
    have htaken := exec_of_fetches (i := .barrier slot node (.issue v)) rfl hf (beq_iff_eq.2 hop)
    dsimp only at htaken
    rw [if_pos hidle] at htaken
    exact htaken
  obtain ⟨prog, hprog⟩ := s.barrierPosted_rest slot node f.l.pc f.w
  rw [hprog] at hexec
  have hold' : ({ s with prog := prog, posts := made } : State).Holds f := ⟨hold.hslot, hold.lane, hold.halted⟩
  have hwait := hold'.wait (drs := drs) (n := n) (tok := tok) (State.kept_iff.2 ⟨rfl, hs⟩).toks_ok
    (by rwa [hslot, hnode])
  rw [hslot, hnode] at hwait
  obtain ⟨hless, henough⟩ := hwait
  refine ⟨fun hlt => ⟨_, hexec, ?_⟩, fun hle ⟨i, hi, hserved⟩ hpost => ⟨_, hexec, ?_⟩⟩
  · rw [hless hlt]
    refine ⟨hold'.laneAt_blockAt, ?_⟩
    rw [State.blockAt_rest]
  · obtain ⟨hlane, hposts, hval⟩ := henough i hi hserved hle
    refine ⟨hlane, ?_, hval⟩
    rw [hposts, headerPosts, hpost]
    exact List.append_nil _

end

end Sys2Proof.Machine
end

section
/-! SUPPORT. What a read of a pennant does to the lanes blocked on it (R431, R537, R538). -/

namespace Sys2Proof.Machine

/-! ### The lanes blocked on a pennant -/

/-- A lane of slot `n`, if it is blocked on the pennant at `u`. -/
def State.onPennant (s : State) (u n : Nat) (x : ExecSlot) (l : Nat × Lane) : Option (Nat × Nat × Lane) :=
  match l.2.block with
  | some (.pennant a _ _ _ _) => if a = u ∧ s.laneHalted x l.1 = false then some (n, l.1, l.2) else none
  | _ => none

/-- The lanes of slot `n` blocked on it. -/
def State.slotOnPennant (s : State) (u n : Nat) : List (Nat × Nat × Lane) :=
  match s.slot? n with
  | none => []
  | some x => x.lanes.filterMap (s.onPennant u n x)

theorem State.pennantLanes_eq (s : State) (u : Nat) :
    s.pennantLanes u = (upto 8).flatMap (s.slotOnPennant u) := rfl

theorem State.of_onPennant {s : State} {u n : Nat} {x : ExecSlot} {l : Nat × Lane} {y : Nat × Nat × Lane}
    (h : s.onPennant u n x l = some y) : y = (n, l.1, l.2) := by
  unfold State.onPennant at h
  split at h
  · split at h
    · exact (Option.some.inj h).symm
    · cases h
  · cases h

theorem State.slot_of_slotOnPennant {s : State} {u n : Nat} {y : Nat × Nat × Lane}
    (h : y ∈ s.slotOnPennant u n) : y.1 = n := by
  unfold State.slotOnPennant at h
  split at h
  · cases h
  · obtain ⟨l, -, hl⟩ := List.mem_filterMap.1 h
    rw [State.of_onPennant hl]

/-- An element whose key no other has stands between others of other keys. -/
theorem split_of_nodup_keys {β γ : Type} {f : β → γ} {l : List β} {a : β} (ha : a ∈ l) (hn : (l.map f).Nodup) :
    ∃ l₁ l₂, l = l₁ ++ a :: l₂ ∧ (∀ b ∈ l₁, f b ≠ f a) ∧ ∀ b ∈ l₂, f b ≠ f a := by
  obtain ⟨l₁, l₂, rfl⟩ := List.append_of_mem ha
  rw [List.map_append, List.map_cons, List.nodup_append] at hn
  obtain ⟨-, hn₂, hdis⟩ := hn
  refine ⟨l₁, l₂, rfl, fun b hb => hdis _ (List.mem_map_of_mem hb) _ List.mem_cons_self, fun b hb he => ?_⟩
  exact (List.nodup_cons.1 hn₂).1 (he ▸ List.mem_map_of_mem hb)

/-- A lane blocked on a pennant, among the others. -/
theorem State.pennantLanes_split {s : State} {u slot node target since : Nat} {tol w : Bool} {x : ExecSlot}
    {l : Lane} (hslot : slot < 8) (hx : s.slot? slot = some x) (hl : x.lane? node = some l)
    (hn : (x.lanes.map (·.1)).Nodup) (hb : l.block = some (.pennant u target tol since w))
    (hh : s.laneHalted x node = false) :
    ∃ l₁ l₂, s.pennantLanes u = l₁ ++ (slot, node, l) :: l₂ ∧ (∀ y ∈ l₁, ¬ (slot = y.1 ∧ node = y.2.1)) ∧
      ∀ y ∈ l₂, ¬ (slot = y.1 ∧ node = y.2.1) := by
  obtain ⟨p, hp, rfl⟩ := Option.map_eq_some_iff.1 hl
  have hnode : p.1 = node := by simpa using List.find?_some hp
  subst hnode
  obtain ⟨c, d, hcd, hc, hd⟩ := split_of_nodup_keys (List.mem_of_find?_eq_some hp) hn
  obtain ⟨a, b, hab, ha, hb'⟩ := split_of_nodup_keys (f := id) (l := upto 8) (a := slot)
    (List.mem_range.2 hslot) (by simpa [upto] using List.nodup_range)
  have hself : s.onPennant u slot x p = some (slot, p.1, p.2) := by
    simp only [State.onPennant, hb, hh, and_self, if_true]
  have hg : s.slotOnPennant u slot =
      c.filterMap (s.onPennant u slot x) ++ (slot, p.1, p.2) :: d.filterMap (s.onPennant u slot x) := by
    simp only [State.slotOnPennant, hx]
    rw [hcd, List.filterMap_append, List.filterMap_cons, hself]
  have hout {m : List Nat} (hm : ∀ n ∈ m, id n ≠ id slot) :
      ∀ y ∈ m.flatMap (s.slotOnPennant u), ¬ (slot = y.1 ∧ p.1 = y.2.1) := by
    intro y hy he
    obtain ⟨n, hn, hyn⟩ := List.mem_flatMap.1 hy
    exact hm n hn ((State.slot_of_slotOnPennant hyn).symm.trans he.1.symm)
  have hin {m : List (Nat × Lane)} (hm : ∀ q ∈ m, q.1 ≠ p.1) :
      ∀ y ∈ m.filterMap (s.onPennant u slot x), ¬ (slot = y.1 ∧ p.1 = y.2.1) := by
    intro y hy he
    obtain ⟨q, hq, hyq⟩ := List.mem_filterMap.1 hy
    rw [State.of_onPennant hyq] at he
    exact hm q hq he.2.symm
  refine ⟨a.flatMap (s.slotOnPennant u) ++ c.filterMap (s.onPennant u slot x),
    d.filterMap (s.onPennant u slot x) ++ b.flatMap (s.slotOnPennant u), ?_, ?_, ?_⟩
  · rw [State.pennantLanes_eq, hab, List.flatMap_append, List.flatMap_cons, hg]
    simp only [List.append_assoc, List.cons_append]
  · exact fun y hy => (List.mem_append.1 hy).elim (hout ha y) (hin hc y)
  · exact fun y hy => (List.mem_append.1 hy).elim (hin hd y) (hout hb' y)

/-! ### A pennant without poison -/

section
variable {u x : Nat} {p : Bool → Bool} (hx : bitOf x 63 = false)
include hx

/-- Of an entry it changes the waits alone. -/
theorem State.observeEntry_calm (s : State) (e : Entry) :
    ∃ l, s.observeEntry u x p e = { s with entries := l } := by
  unfold State.observeEntry
  split
  · simp only [hx, Bool.false_and, Bool.false_eq_true, if_false]
    exact ⟨_, rfl⟩
  · exact ⟨s.entries, rfl⟩

theorem State.foldl_observeEntry_calm (l : List Entry) (s : State) :
    ∃ m, l.foldl (fun s e => s.observeEntry u x p e) s = { s with entries := m } :=
  List.foldlRecOn l _ (motive := fun t : State => ∃ m, t = { s with entries := m }) ⟨s.entries, rfl⟩
    fun t ⟨m, ht⟩ e _ => by
      obtain ⟨m', h⟩ := State.observeEntry_calm hx (p := p) (u := u) t e
      exact ⟨m', by rw [h, ht]⟩

/-- A lane blocked on it goes on once its target is reached. -/
theorem State.observeLane_calm {s : State} {n m target since : Nat} {tol w : Bool} {l : Lane}
    (hb : l.block = some (.pennant u target tol since w)) :
    s.observeLane u x (fun _ => true) n m l = if target ≤ x % 2 ^ 63 then s.laneDone n m else s := by
  simp [State.observeLane, hb, hx]

theorem State.laneAt_observeLane_other {s : State} {n m slot node : Nat} {l : Lane}
    (h : ¬ (slot = n ∧ node = m)) : (s.observeLane u x p n m l).laneAt slot node = s.laneAt slot node := by
  unfold State.observeLane
  split
  · split
    · simp only [hx, Bool.false_and, Bool.false_eq_true, if_false]
      rw [State.laneAt_laneDone, if_neg h]
    · rfl
  · rfl

theorem State.laneAt_foldl_observeLane_other {slot node : Nat} {l : List (Nat × Nat × Lane)}
    (h : ∀ y ∈ l, ¬ (slot = y.1 ∧ node = y.2.1)) (s : State) :
    (l.foldl (fun s (y : Nat × Nat × Lane) => s.observeLane u x p y.1 y.2.1 y.2.2) s).laneAt slot node =
      s.laneAt slot node :=
  List.foldlRecOn l _ (motive := fun t : State => t.laneAt slot node = s.laneAt slot node) rfl
    fun _ ht y hy => (State.laneAt_observeLane_other hx (h y hy)).trans ht

/-- R431: what observing it comes to for a lane blocked on it. -/
theorem State.laneAt_observe {s : State} {slot node target since : Nat} {tol w : Bool} {y : ExecSlot} {l : Lane}
    (hslot : slot < 8) (hy : s.slot? slot = some y) (hl : y.lane? node = some l)
    (hn : (y.lanes.map (·.1)).Nodup) (hb : l.block = some (.pennant u target tol since w))
    (hh : s.laneHalted y node = false) :
    (s.observe u x fun _ => true).laneAt slot node =
      some (if target ≤ x % 2 ^ 63 then { l with pc := l.pc + 32, block := none } else l) := by
  obtain ⟨m, hm⟩ := State.foldl_observeEntry_calm hx (p := fun _ => true) (u := u) s.entries s
  have hlane : s.laneAt slot node = some l := by rw [State.laneAt, hy]; exact hl
  unfold State.observe
  rw [hm]
  obtain ⟨l₁, l₂, hsplit, h₁, h₂⟩ := State.pennantLanes_split (s := { s with entries := m }) hslot hy hl hn hb hh
  dsimp only
  rw [hsplit, List.foldl_append, List.foldl_cons, State.laneAt_foldl_observeLane_other hx h₂,
    State.observeLane_calm hx hb]
  split
  · rw [State.laneAt_laneDone, if_pos ⟨rfl, rfl⟩, State.laneAt_foldl_observeLane_other hx h₁]
    exact congrArg (Option.map _) hlane
  · rw [State.laneAt_foldl_observeLane_other hx h₁]
    exact hlane

end

end Sys2Proof.Machine
end

section
/-! PENNANT_WAIT (O49). -/

namespace Sys2Proof.Machine

/-- Replacing a lane keeps the lanes' numbers. -/
theorem ExecSlot.keys_setLane (x : ExecSlot) (node : Nat) (l : Lane) :
    (x.setLane node l).lanes.map (·.1) = x.lanes.map (·.1) := by
  rw [ExecSlot.setLane, List.map_map]
  refine List.map_congr_left fun y _ => ?_
  show (if y.1 = node then (node, l) else y).1 = y.1
  split
  next h => exact h.symm
  · rfl

/-- The address checks go by one register (R305). -/
theorem State.addrOk_congr {s t : State} (h : t.reg Reg.MEM_ID = s.reg Reg.MEM_ID) : t.addrOk = s.addrOk := by
  have hcap : t.dramCap = s.dramCap := by
    unfold State.dramCap State.fld
    rw [h]
  unfold State.addrOk
  rw [hcap]

/-- R305: local memory is checked alike for every requester. -/
theorem State.addrOk_of_isLocal {s : State} {u : Nat} (h : isLocal u = true) (fe : Bool) (n : Nat) :
    s.addrOk fe u n = s.addrOk false u n := by
  unfold State.addrOk
  rcases regionOf_of_isLocal h with hr | hr <;> simp only [hr]

/-- R537: an active watch counts the one it has no room for, at most. -/
theorem State.takeWatch_fst (s : State) (u : Nat) :
    (s.takeWatch u).1 = s ∨ (s.takeWatch u).1 = s.bump Reg.FE_WATCH_OVF 1 := by
  unfold State.takeWatch
  split
  · split
    · exact .inl rfl
    · exact .inr rfl
  · exact .inl rfl

theorem State.takeWatch_of_remote {s : State} {u : Nat} (h : isLocal u = false) : s.takeWatch u = (s, false) := by
  unfold State.takeWatch
  rw [if_neg (by simp [h])]

/-- A read of a local pennant observes it. -/
theorem State.Usable.askPennant {s : State} {u : Nat} (h : s.Usable u 8) (poll : Bool) :
    s.askPennant u poll = s.observe u (s.rawWord u) fun _ => true := by
  have hok : s.addrOk true u 8 = true := (State.addrOk_of_isLocal h.1 true 8).trans h.2.1
  have hread : s.readPennant u (fun _ => true) = s.observe u (s.rawWord u) fun _ => true := by
    rw [State.readPennant, if_neg (by simp [hok]), h.readLocal]
    rfl
  unfold State.askPennant
  rcases regionOf_of_isLocal h.1 with hr | hr <;> simp only [hr, hread]

/-- A posted or non-posted request that may go to the host goes. -/
theorem State.emitHost_of_free {s : State} {o : Outbound} (hpend : s.resetPend = none) (hd3 : s.inD3 = false)
    (hbme : s.bme = true) (htag : s.tagFree o = true) : s.emitHost o = { s with out := s.out ++ s.tlps o } := by
  simp only [State.emitHost, hpend, hd3, hbme, htag, Option.isSome_none, Bool.or_self, Bool.and_self,
    Bool.false_eq_true, if_false, if_true]

/-- R538: a host pennant that no read is under way for is read. -/
theorem State.askPennant_host {s : State} {u : Nat} (hu : regionOf u = .host) (hpend : s.resetPend = none)
    (hd3 : s.inD3 = false) (hbme : s.bme = true) (htag : s.tagFree (.read (s.iova u) 8) = true)
    (hpen : ∀ x ∈ s.ring.penReads, x.1 ≠ u) (poll : Bool) : s.askPennant u poll = { s with
      out := s.out ++ s.tlps (.read (s.iova u) 8)
      ring := { s.ring with penReads := s.ring.penReads ++ [(u, poll)] } } := by
  have hany : (s.ring.penReads.any fun x => x.1 == u) = false := by simpa using hpen
  simp only [State.askPennant, hu, hany, Bool.false_eq_true, if_false]
  rw [State.emitHost_of_free hpend hd3 hbme htag]

section
variable {s : State} {f : Fetch} {drs : SMap (Option DReg)} {u target since : Nat} {tol w : Bool} (h : s.Holds f)
include h

/-- R431: what reading a local pennant comes to for the lane that has just blocked on it. -/
theorem State.Holds.laneAt_askPennant (hslot : f.slot < 8) (hu : s.Usable u 8)
    (hp : bitOf (s.rawWord u) 63 = false) (hn : (f.x.lanes.map (·.1)).Nodup) :
    ((s.blockAt f drs (.pennant u target tol since w)).askPennant u false).LaneIs f
      (if target ≤ s.rawWord u % 2 ^ 63 then f.passed drs else f.blocked drs (.pennant u target tol since w)) := by
  have hlane : (f.x.setLane f.node (f.blocked drs (.pennant u target tol since w))).lane? f.node =
      some (f.blocked drs (.pennant u target tol since w)) := by
    have := h.laneAt_blockAt (drs := drs) (b := .pennant u target tol since w)
    rwa [State.laneAt, h.slot?_blockAt] at this
  have hu' : (s.blockAt f drs (.pennant u target tol since w)).Usable u 8 := by
    rw [State.blockAt_rest]; exact hu
  have hword : (s.blockAt f drs (.pennant u target tol since w)).rawWord u = s.rawWord u := by
    rw [State.blockAt_rest]; rfl
  rw [hu'.askPennant, hword]
  exact State.laneAt_observe hp hslot h.slot?_blockAt hlane ((f.x.keys_setLane _ _).symm ▸ hn) rfl h.halted_blockAt

end

section
variable {s : State} {slot : Fin 8} {node : Fin 9} {v : View} {f : Fetch} {drs : SMap (Option DReg)} {u : Nat}
  (hf : s.Fetches slot node f drs u)
include hf

theorem exec_pennantWait (hop : opCode f.w = 0x0E) : exec (.pennantWait slot node (.issue v)) s =
    .next (((s.takeWatch u).1.blockAt f drs
      (.pennant u (bits f.w 190 128) (bitOf f.w 191) s.ns (s.takeWatch u).2)).askPennant u false) :=
  (exec_of_fetches (i := .pennantWait slot node (.issue v)) rfl hf (beq_iff_eq.2 hop) :)

/-- R431, R537: a pennant in local memory without poison. -/
theorem pennantWait_local (hs : s.Canonical) (hop : opCode f.w = 0x0E) (hu : s.Usable u 8)
    (hp : bitOf (s.rawWord u) 63 = false) (hn : (f.x.lanes.map (·.1)).Nodup) :
    (s.rawWord u % 2 ^ 63 < bits f.w 190 128 → Does (.pennantWait slot node (.issue v)) s fun t =>
      ∃ watch, t.LaneIs f (f.blocked drs (.pennant u (bits f.w 190 128) (bitOf f.w 191) s.ns watch))) ∧
    (bits f.w 190 128 ≤ s.rawWord u % 2 ^ 63 → Does (.pennantWait slot node (.issue v)) s fun t =>
      t.LaneIs f (f.passed drs)) := by
  obtain ⟨hslot, -, hold, -⟩ := hf.holds
  have hkept : (s.takeWatch u).1.Holds f ∧ (s.takeWatch u).1.Usable u 8 ∧
      (s.takeWatch u).1.rawWord u = s.rawWord u := by
    rcases s.takeWatch_fst u with hw | hw
    · rw [hw]; exact ⟨hold, hu, rfl⟩
    · have hreg : (s.bump Reg.FE_WATCH_OVF 1).reg Reg.MEM_ID = s.reg Reg.MEM_ID :=
        State.reg_bump_other (State.kept_iff.2 ⟨rfl, hs⟩).regs_ok 1 (by decide)
      obtain ⟨hlocal, hok, hecc⟩ := hu
      rw [hw]
      exact ⟨⟨hold.hslot, hold.lane, hold.halted⟩, ⟨hlocal, by rwa [State.addrOk_congr hreg], hecc⟩, rfl⟩
  obtain ⟨hold', hu', hword⟩ := hkept
  have hlane := hold'.laneAt_askPennant (drs := drs) (target := bits f.w 190 128) (tol := bitOf f.w 191)
    (since := s.ns) (w := (s.takeWatch u).2) (by omega) hu' (hword.symm ▸ hp) hn
  rw [hword] at hlane
  refine ⟨fun hlt => ⟨_, exec_pennantWait hf hop, (s.takeWatch u).2, ?_⟩, fun hle => ⟨_, exec_pennantWait hf hop, ?_⟩⟩
  · rwa [if_neg (by omega)] at hlane
  · rwa [if_pos hle] at hlane

/-- R431, R538: a pennant in host memory is asked for by a read of it. -/
theorem pennantWait_host (hop : opCode f.w = 0x0E) (hu : regionOf u = .host) (hbme : s.bme = true)
    (hd3 : s.inD3 = false) (htag : s.tagFree (.read (s.iova u) 8) = true)
    (hpen : ∀ x ∈ s.ring.penReads, x.1 ≠ u) : Does (.pennantWait slot node (.issue v)) s fun t =>
      t.LaneIs f (f.blocked drs (.pennant u (bits f.w 190 128) (bitOf f.w 191) s.ns false)) ∧
      t.out = s.out ++ s.tlps (.read (s.iova u) 8) ∧ (u, false) ∈ t.ring.penReads := by
  obtain ⟨-, -, hold, hrun⟩ := hf.holds
  have hwatch : s.takeWatch u = (s, false) := State.takeWatch_of_remote (by simp only [isLocal, hu])
  have hexec := exec_pennantWait (v := v) hf hop
  rw [hwatch] at hexec
  refine ⟨_, hexec, ?_⟩
  have hlane := hold.laneAt_blockAt (drs := drs)
    (b := .pennant u (bits f.w 190 128) (bitOf f.w 191) s.ns false)
  obtain ⟨slots, hblock⟩ : ∃ slots, s.blockAt f drs
      (.pennant u (bits f.w 190 128) (bitOf f.w 191) s.ns false) = { s with slots := slots } :=
    ⟨_, State.blockAt_rest⟩
  rw [hblock] at hlane
  dsimp only
  rw [hblock, State.askPennant_host (s := { s with slots := slots }) hu (State.resetPend_of_running hrun) hd3 hbme htag hpen]
  exact ⟨hlane, rfl, List.mem_append_right _ (List.mem_singleton.2 rfl)⟩

end

end Sys2Proof.Machine
end

section
/-! Repetitions that complete, and posts that arrive (O49). -/

namespace Sys2Proof.Machine

/-! ### OP_COMPLETE -/

/-- A repetition has been counted, and its post made (R354, R355). -/
def State.counted (s : State) (slot node ofs : Nat) (o : OpRec) : State :=
  ((s.countBytes slot o.owed).countOp slot).headerPost slot node ofs o.word o.rep

/-- The next repetition of an operation (R427). -/
def OpRec.nextRep (o : OpRec) : OpRec :=
  { o with
    rep := o.rep + 1, waited := false, begun := false, issued := false, hostWait := false, owed := 0,
    mat := none, fetched := [] }

section
variable {s : State} {slot node ofs : Nat} {o : OpRec}

theorem State.counted_rest : ∃ prog, s.counted slot node ofs o = { s with
    prog := prog, posts := s.posts ++ headerPosts slot node ofs o.word o.rep } :=
  ⟨_, State.headerPost_rest _ _ _ _ _ _⟩

theorem State.ops_progOf_countOp (h : SMap.wf State.progD s.prog = true) :
    ((s.countOp slot).progOf slot).ops = ((s.progOf slot).ops + 1) % 2 ^ 48 :=
  congrArg Prog.ops (State.progOf_setProg h slot _)

theorem State.ops_progOf_countBytes (h : SMap.wf State.progD s.prog = true) (n : Nat) :
    ((s.countBytes slot n).progOf slot).ops = (s.progOf slot).ops :=
  (congrArg Prog.ops (State.progOf_setProg h slot
    { s.progOf slot with bytes := ((s.progOf slot).bytes + n) % 2 ^ 48 }) :)

theorem State.ops_progOf_counted (h : SMap.wf State.progD s.prog = true) :
    ((s.counted slot node ofs o).progOf slot).ops = ((s.progOf slot).ops + 1) % 2 ^ 48 := by
  have hbytes : SMap.wf State.progD (s.countBytes slot o.owed).prog = true := SMap.wf_set h
  have hop : SMap.wf State.progD ((s.countBytes slot o.owed).countOp slot).prog = true := SMap.wf_set hbytes
  rw [State.counted, State.ops_progOf_headerPost hop, State.ops_progOf_countOp hbytes,
    State.ops_progOf_countBytes h]

end

/-- R354, R355, R427: a repetition whose accesses are all performed. -/
theorem opComplete_completes {s : State} {slot : Fin 8} {node : Fin 9} {ofs : Nat} {o : OpRec} {x : ExecSlot}
    (hs : s.Canonical) (ho : s.opAt slot node ofs = some o) (hx : s.slot? slot = some x)
    (hr : s.running = true) (hh : s.laneHalted x node = false) (hi : o.issued = true)
    (hq : s.opQuiet o = true) (ha : o.after = []) : Does (.opComplete slot node ofs) s fun t =>
      (t.progOf slot).ops = ((s.progOf slot).ops + 1) % 2 ^ 48 ∧
      t.posts = s.posts ++ headerPosts slot node ofs o.word o.rep ∧
      (o.rep < opRepeat o.word → t.opAt slot node ofs = some o.nextRep) ∧
      (opRepeat o.word ≤ o.rep → t.ops = s.ops.filter fun y => !y.same o) ∧
      t.regs = s.regs ∧ s.SameBytes t := by
  have hexec : exec (.opComplete slot node ofs) s = .next (if o.rep < opRepeat o.word then
      (s.counted slot node ofs o).setOp o.nextRep
      else { s.counted slot node ofs o with ops := s.ops.filter fun y => !y.same o }) := by
    have hops : (s.counted slot node ofs o).ops = s.ops := by
      obtain ⟨prog, hc⟩ := State.counted_rest (s := s) (slot := slot) (node := node) (ofs := ofs) (o := o)
      rw [hc]
    show execOpComplete slot node ofs s = _
    unfold execOpComplete
    rw [ho, hx, ← hops]
    dsimp only
    rw [if_pos (by simp only [hr, hh, hi, hq, Bool.not_false, Bool.and_self]), if_neg (not_not_intro ha)]
    rfl
  have hcount := State.ops_progOf_counted (slot := slot) (node := node) (ofs := ofs) (o := o)
    (State.kept_iff.2 ⟨rfl, hs⟩).prog_ok
  obtain ⟨prog, hc⟩ := State.counted_rest (s := s) (slot := slot) (node := node) (ofs := ofs) (o := o)
  rw [hc] at hexec hcount
  refine ⟨_, hexec, ?_⟩
  split
  next hmore =>
    refine ⟨hcount, rfl, fun _ => ?_, fun hle => by omega, rfl, State.sameBytes_of_eq rfl rfl⟩
    have hkey := State.of_opAt ho
    exact State.opAt_setOp (s := { s with prog := prog, posts := _ }) (p := o.nextRep) ho hkey
  next hlast => exact ⟨hcount, rfl, fun h => absurd h hlast, fun _ => rfl, rfl, State.sameBytes_of_eq rfl rfl⟩

/-! ### POST_APPLY -/

/-- What is taken for a counter is for it. -/
theorem mem_takePosts {slot node tok : Nat} {nodes : List Nat} {l : List Post} {p : Post}
    (h : p ∈ (takePosts slot node tok nodes l).1) : p.slot = slot ∧ p.node = node ∧ p.tok = tok := by
  induction nodes generalizing l with
  | nil => cases h
  | cons n nodes ih =>
    unfold takePosts at h
    dsimp only at h
    split at h
    next => exact ih h
    next q hq =>
      rcases List.mem_cons.1 h with rfl | h
      · have := List.find?_some hq
        simp only [Bool.and_eq_true, beq_iff_eq] at this
        obtain ⟨⟨⟨hslot, hnode⟩, htok⟩, -⟩ := this
        exact ⟨hslot, hnode, htok⟩
      · exact ih h

section
variable {s : State} {slot node tok : Nat} {p : Post}

theorem State.setTokVal_of_tokAt {i : Nat} (h : s.tokAt slot node tok = some i) (v : Nat) :
    s.setTokVal slot node tok v = { s with
      toks := SMap.set State.tokD s.toks (64 * node + i)
        { SMap.get State.tokD s.toks (64 * node + i) with value := v } } := by
  simp only [State.setTokVal, h]

/-- R357: a post that fits is added, and counted where a cluster's counter takes it. -/
theorem State.applyPosts_of_fits (hw : SMap.wf State.tokD s.toks = true)
    (hp : p.slot = slot ∧ p.node = node ∧ p.tok = tok) (hi : (s.tokAt slot node tok).isSome = true)
    (hv : s.tokVal slot node tok + p.n ≤ 65535) :
    ∃ regs toks, s.applyPosts false [p] = { s with regs := regs, toks := toks } ∧
      ∀ t : State, t.toks = toks → t.tokVal slot node tok = s.tokVal slot node tok + p.n := by
  obtain ⟨rfl, rfl, rfl⟩ := hp
  obtain ⟨i, hi⟩ := Option.isSome_iff_exists.1 hi
  have hfits : ¬ (false || decide (65535 < s.tokVal p.slot p.node p.tok + p.n)) = true := by simpa using hv
  have hcount : ∃ regs, (if p.node < 8 then s.bump (clReg p.node Reg.CL_TOK_POSTS) 1 else s) =
      { s with regs := regs } := by
    split
    · exact ⟨_, rfl⟩
    · exact ⟨_, rfl⟩
  obtain ⟨regs, hregs⟩ := hcount
  refine ⟨regs, _, ?_, fun t ht => State.tokVal_set hw hi _
    (SMap.get State.tokD s.toks (64 * p.node + i)).served ht⟩
  simp only [State.applyPosts]
  rw [if_neg hfits, hregs]
  exact State.setTokVal_of_tokAt (s := { s with regs := regs }) hi _

/-- R424, R632: an operation of an entry that has no fault raises it. -/
theorem State.faultOp_raises {x : ExecSlot} (hx : s.slot? slot = some x) (hh : s.slotHalted x = false)
    (ofs : Nat) (part : Nat × Nat) (code : FaultCode) (addr : Nat) : ∃ regs faults f,
      s.faultOp slot node ofs part code addr = { s with regs := regs, faults := faults } ∧
      (x.entry, f) ∈ faults ∧ f.code = code := by
  obtain ⟨hstop, hnone⟩ := Bool.or_eq_false_iff.1 hh
  have hraise (f : FaultInfo) : ∃ regs faults g, s.raise x.entry f = { s with regs := regs, faults := faults } ∧
      (x.entry, g) ∈ faults ∧ g.code = f.code := by
    unfold State.raise
    simp only [State.bump, State.setReg_faults, hnone, Bool.false_eq_true, if_false]
    exact ⟨_, _, _, rfl, List.mem_append_right _ (List.mem_singleton.2 rfl), rfl⟩
  simp only [State.faultOp, hx, hstop, Bool.false_eq_true, if_false]
  exact hraise _

end

section
variable {s : State} {slot : Fin 8} {node : Fin 9} {tok : Fin 64} {srcs : List (Fin 9)} {p : Post}
  {rest : List Post} {x : ExecSlot} (hr : s.running = true) (hx : s.slot? slot = some x)
  (htake : takePosts slot node tok ((upto 9).filter fun n => srcs.any fun y => y.val == n) s.posts = ([p], rest))
include hr hx htake

/-- R381: the posts of an entry that is being stopped are discarded. -/
theorem exec_postApply_of_stop (hstop : x.stop.isSome = true) :
    exec (.postApply slot node tok srcs) s = .next { s with posts := rest } := by
  show execPostApply slot node tok srcs s = _
  unfold execPostApply
  rw [if_neg (by simp [hr]), htake, hx]
  exact congrArg _ (if_pos hstop)

theorem exec_postApply (hstop : x.stop.isSome = false) : exec (.postApply slot node tok srcs) s =
    .next ((({ s with posts := rest } : State).applyPosts false [p]).testWaits slot node tok) := by
  show execPostApply slot node tok srcs s = _
  unfold execPostApply
  rw [if_neg (by simp [hr]), htake, hx]
  exact congrArg _ (if_neg (by simp [hstop]))

/-- R357, R362: one post to a counter that nothing waits on. -/
theorem postApply_adds (hs : s.Canonical) (hh : s.slotHalted x = false)
    (hi : (s.tokAt slot node tok).isSome = true) (hops : ∀ o ∈ s.ops, o.waits slot node tok = false)
    (hl : ∀ l, x.lane? node = some l → ∀ n, l.block ≠ some (.token tok n)) :
    (s.tokVal slot node tok + p.n ≤ 65535 → Does (.postApply slot node tok srcs) s fun t =>
      t.tokVal slot node tok = s.tokVal slot node tok + p.n ∧ t.posts = rest ∧
      t.slots = s.slots ∧ t.faults = s.faults) ∧
    (65535 < s.tokVal slot node tok + p.n → Does (.postApply slot node tok srcs) s fun t =>
      t.posts = rest ∧ t.toks = s.toks ∧ ∃ f, (x.entry, f) ∈ t.faults ∧ f.code = .tokenOverflow) := by
  obtain ⟨hstop, -⟩ := Bool.or_eq_false_iff.1 hh
  have hp : p.slot = slot ∧ p.node = node ∧ p.tok = tok :=
    mem_takePosts (l := s.posts) (by rw [htake]; exact List.mem_singleton.2 rfl)
  have hlane : ∀ l, s.laneAt slot node = some l → ∀ n, l.block ≠ some (.token tok n) := by
    intro l h
    rw [State.laneAt, hx] at h
    exact hl l h
  have hexec := exec_postApply hr hx htake hstop
  refine ⟨fun hv => ⟨_, hexec, ?_⟩, fun hv => ⟨_, hexec, ?_⟩⟩
  · obtain ⟨regs, toks, happ, hval⟩ := State.applyPosts_of_fits (s := { s with posts := rest })
      (State.kept_iff.2 ⟨rfl, hs⟩).toks_ok hp hi hv
    rw [happ, State.testWaits_of_none (s := { s with posts := rest, regs := regs, toks := toks }) hops hlane]
    exact ⟨hval _ rfl, rfl, rfl, rfl⟩
  · have happ : ({ s with posts := rest } : State).applyPosts false [p] =
        ({ s with posts := rest } : State).faultOp slot p.src p.ofs (p.word, p.rep) .tokenOverflow 0 := by
      obtain ⟨hslot, hnode, htok⟩ := hp
      have hover : (false || decide (65535 < ({ s with posts := rest } : State).tokVal p.slot p.node p.tok + p.n)) =
          true := by
        rw [hslot, hnode, htok]; exact decide_eq_true hv
      simp only [State.applyPosts]
      rw [if_pos hover, hslot]
    obtain ⟨regs, faults, f, hraise, hmem, hcode⟩ := State.faultOp_raises (s := { s with posts := rest })
      (node := p.src) hx hh p.ofs (p.word, p.rep) .tokenOverflow 0
    rw [happ, hraise,
      State.testWaits_of_none (s := { s with posts := rest, regs := regs, faults := faults }) hops hlane]
    exact ⟨rfl, rfl, f, hmem, hcode⟩

end

/-! ### The statement -/

/-- Settles O49: a wait goes by what its counter or pennant comes to (R360 to R362, R431, R493), a completion by
the state in which the repetition has been counted and its post made (R354, R427), and a post by whether it
fits (R357). -/
theorem waitsPostsAndCompletionsAct : Obligations.WaitsPostsAndCompletionsAct := by
  unfold Obligations.WaitsPostsAndCompletionsAct
  refine ⟨fun s slot node v f drs u hf hs => ⟨?_, ?_, ?_, ?_⟩, ?_, ?_⟩
  · exact fun hop hops => tokenWait_waits hf hs hop hops
  · intro hop hlocal hok hecc hp hn
    have hu : s.Usable u 8 := ⟨hlocal, (State.addrOk_of_isLocal hlocal true 8).symm.trans hok, hecc⟩
    exact pennantWait_local hf hs hop hu hp hn
  · exact fun hop hu hbme hd3 htag hpen => pennantWait_host hf hop hu hbme hd3 htag hpen
  · exact fun hop hidle => barrier_waits hf hs hop hidle
  · exact fun s slot node ofs o x hs ho hx hr hh hi hq ha => opComplete_completes hs ho hx hr hh hi hq ha
  · exact fun s slot node tok srcs p rest x hs hr hx htake =>
      ⟨exec_postApply_of_stop hr hx htake, fun hh hi hops hl => postApply_adds hr hx htake hs hh hi hops hl⟩

end Sys2Proof.Machine
end

section
/-! SUPPORT. What an access on the device's own behalf, a fault record and a signal leave to the queues and the
slots. -/

namespace Sys2Proof.Machine

/-! ### What accesses leave alone -/

/-- What no access to memory, no fault record and no signal changes: the queues, the slots, the charts, the
handle generations and the held signals. -/
def State.roster (s : State) := (s.entries, s.streams, s.slots, s.charts, s.gens, s.pendSigs)

/-- What no access to memory changes: those, and the ring. -/
def State.standing (s : State) := (s.roster, s.ring)

section
variable {s t : State}

theorem State.roster_of_standing (h : t.standing = s.standing) : t.roster = s.roster := congrArg Prod.fst h
theorem State.ring_of_standing (h : t.standing = s.standing) : t.ring = s.ring := congrArg Prod.snd h

theorem State.roster_iff : t.roster = s.roster ↔ t.entries = s.entries ∧ t.streams = s.streams ∧
    t.slots = s.slots ∧ t.charts = s.charts ∧ t.gens = s.gens ∧ t.pendSigs = s.pendSigs := by
  simp only [State.roster, Prod.mk.injEq]

end

section
variable (s : State)

theorem State.OnlyHost.standing {s t : State} (h : s.OnlyHost t) : t.standing = s.standing :=
  (congrArg State.standing h :)

theorem State.emitHost_standing (o : Outbound) : (s.emitHost o).standing = s.standing :=
  (State.OnlyHost.emitHost s o).standing

theorem State.Counts.standing {s t : State} {plate : Bool} {nce nue : Nat} (h : State.Counts plate nce nue s t) :
    t.standing = s.standing := (congrArg State.standing h.rest :)

theorem State.memErr_standing (u : Nat) (ue byScrub : Bool) (bit : Nat) :
    (s.memErr u ue byScrub bit).standing = s.standing :=
  (State.Counts.memErr s u ue byScrub bit rfl).standing

theorem State.queueCorr_standing (line : Nat) : (s.queueCorr line).standing = s.standing := by
  unfold State.queueCorr; split <;> rfl

theorem State.eccRead_standing (l : List (Nat × EccErr)) : (s.eccRead l).1.standing = s.standing := by
  fun_induction State.eccRead s l with
  | case1 => rfl
  | case2 _ _ _ ih => exact ih
  | case3 _ _ _ _ ih => exact ih.trans ((State.queueCorr_standing _ _).trans (State.memErr_standing _ _ _ _ _))
  | case4 _ _ _ _ _ ih => exact ih.trans (State.memErr_standing _ _ _ _ _)

theorem State.eccWrite_standing (u len : Nat) (l : List (Nat × EccErr)) :
    (s.eccWrite u len l).1.standing = s.standing := by
  fun_induction State.eccWrite s u len l with
  | case1 => rfl
  | case2 _ _ _ _ _ ih => exact ih
  | case3 _ _ _ _ ih => exact ih
  | case4 _ _ _ _ _ ih => exact ih.trans (State.memErr_standing _ _ _ _ _)
  | case5 _ _ _ _ _ _ ih => exact ih.trans (State.memErr_standing _ _ _ _ _)

theorem State.rawWrite_standing (u : Nat) (l : List Byte) : (s.rawWrite u l).standing = s.standing :=
  (congrArg State.standing (s.rawWrite_rest u l) :)

theorem State.readLocal_standing {u len : Nat} {w : State} {l : Option (List Byte)}
    (h : s.readLocal u len = (w, l)) : w.standing = s.standing :=
  (congrArg (fun p => State.standing p.1) h :).symm.trans (s.eccRead_standing _)

theorem State.writeLocal_standing (u : Nat) (l : List Byte) : (s.writeLocal u l).1.standing = s.standing := by
  unfold State.writeLocal
  extract_lets r
  have hr : r.1.standing = s.standing := State.eccWrite_standing _ _ _ _
  split <;> exact (State.rawWrite_standing _ _ _).trans hr

theorem State.rmtSend_standing (use : RmtUse) (k : RmtKind) (u len : Nat) (l : List Byte) (poison : Bool) :
    (s.rmtSend use k u len l poison).standing = s.standing := by
  have hone (t : State) (u o n : Nat) (l : List Byte) : (t.rmtOne use k u o n l poison).standing = t.standing := rfl
  exact State.foldl_keeps State.standing (fun t _ => hone t _ _ _ _) _ s

theorem State.ownWrite_standing (u : Nat) (l : List Byte) : (s.ownWrite u l).1.standing = s.standing := by
  have hlocal : (if s.addrOk true u l.length then
      ((s.writeLocal u l).1, if (s.writeLocal u l).2 then some FaultCode.eccUncorr else none)
      else (s, some FaultCode.addrInvalid)).1.standing = s.standing := by
    split
    · exact State.writeLocal_standing _ _ _
    · rfl
  unfold State.ownWrite
  split
  · exact State.emitHost_standing _ _
  · exact hlocal
  · exact hlocal
  · split
    · rfl
    split
    · rfl
    · exact State.rmtSend_standing _ _ _ _ _ _ _
  · rfl
  · rfl

theorem State.writeDump_standing (st : Nat) (l : List Byte) : (s.writeDump st l).standing = s.standing := by
  unfold State.writeDump
  split
  · rfl
  · exact State.ownWrite_standing _ _ _

end

/-! ### Registers that an access on the device's own behalf may change -/

/-- The registers that log the errors of local memory (R337) and of remote accesses (R772). -/
def ownRegs : List Nat :=
  [Reg.FAB_RMT_FAIL, Reg.FAB_RMT_ADDR, Reg.FAB_RMT_ADDR + 4, Reg.FAB_RMT_STATUS] ++ eccRegs

/-- What an access on the device's own behalf leaves of the registers. -/
abbrev State.KeepsOwn : State → State → Prop := State.KeepsRegs (· ∉ ownRegs)

/-- A write of local memory logs no more than what a read of it does. -/
theorem State.EccLogged.eccWrite {s t : State} (h : s.EccLogged t) (u len : Nat) (l : List (Nat × EccErr)) :
    s.EccLogged (t.eccWrite u len l).1 := by
  have hset {t : State} (h : s.EccLogged t) (w : Nat) : s.EccLogged (t.setEcc w .none) :=
    ⟨h.ring, h.entries, h.streams, h.dram, h.plate, h.regs⟩
  fun_induction State.eccWrite t u len l with
  | case1 => exact h
  | case2 _ _ _ _ _ ih => exact ih (hset h _)
  | case3 _ _ _ _ ih => exact ih h
  | case4 _ _ _ _ _ ih => exact ih (hset (h.memErr _ _ _ _) _)
  | case5 _ _ _ _ _ _ ih => exact ih (h.memErr _ _ _ _)

namespace State.KeepsOwn

theorem of_eccLogged {s t : State} (h : s.EccLogged t) : s.KeepsOwn t := fun hs =>
  have ⟨hw, hr⟩ := h.regs hs
  ⟨hw, fun o ho => hr o fun hm => ho (List.mem_append_right _ hm)⟩

theorem writeLocal (s : State) (u : Nat) (l : List Byte) : s.KeepsOwn (s.writeLocal u l).1 := by
  have hraw (t : State) (l : List Byte) : t.KeepsOwn (t.rawWrite u l) :=
    .of_regs (congrArg State.regs (t.rawWrite_rest u l) :)
  unfold State.writeLocal
  extract_lets r
  have hr : s.KeepsOwn r.1 := of_eccLogged ((State.EccLogged.refl s).eccWrite _ _ _)
  split <;> exact KeepsRegs.trans hr (hraw _ _)

theorem rmtFail (s : State) (u status : Nat) : s.KeepsOwn (s.rmtFail u status) :=
  ((KeepsRegs.setReg s _ (by decide)).trans (KeepsRegs.setReg64 _ _ (by decide) (by decide))).trans
    (KeepsRegs.setReg _ _ (by decide))

theorem rmtSend (s : State) (use : RmtUse) (k : RmtKind) (u len : Nat) (l : List Byte) (poison : Bool) :
    s.KeepsOwn (s.rmtSend use k u len l poison) := by
  have hone (t : State) (u o n : Nat) (l : List Byte) : t.KeepsOwn (t.rmtOne use k u o n l poison) := .of_regs rfl
  exact KeepsRegs.foldl _ (fun t _ _ => hone t _ _ _ _) s

theorem ownWrite (s : State) (u : Nat) (l : List Byte) : s.KeepsOwn (s.ownWrite u l).1 := by
  have hlocal : s.KeepsOwn (if s.addrOk true u l.length then
      ((s.writeLocal u l).1, if (s.writeLocal u l).2 then some FaultCode.eccUncorr else none)
      else (s, some FaultCode.addrInvalid)).1 := by
    split
    · exact writeLocal _ _ _
    · exact .refl s
  unfold State.ownWrite
  split
  · exact .of_regs (State.emitHost_regs _ _)
  · exact hlocal
  · exact hlocal
  · split
    · exact .refl s
    split
    · exact rmtFail _ _ _
    · exact rmtSend _ _ _ _ _ _ _
  · exact .refl s
  · exact .refl s

theorem writeDump (s : State) (st : Nat) (l : List Byte) : s.KeepsOwn (s.writeDump st l) := by
  unfold State.writeDump
  split
  · exact .refl s
  · exact ownWrite _ _ _

end State.KeepsOwn

/-! ### Fault records -/

theorem State.SameRegs.reg64 {s t : State} {l : List Nat} (h : s.SameRegs t l) {o : Nat} (ho : o ∉ l)
    (ho' : o + 4 ∉ l) : t.reg64 o = s.reg64 o := by
  rw [State.reg64, h o ho, h (o + 4) ho', State.reg64]

theorem State.Recorded.roster {s t : State} (h : s.Recorded t) : t.roster = s.roster :=
  (congrArg State.roster h.rest :)

theorem State.writeRecord_roster (s : State) (which : Nat) (f : FaultInfo) (c : RecordCtx) :
    (s.writeRecord which f c).roster = s.roster := (s.recorded_writeRecord which f c).roster

/-- R606, R633: of the ring a record changes FAULT_SEQ, and the count of the records written. -/
theorem State.writeRecord_ring (s : State) (which : Nat) (f : FaultInfo) (c : RecordCtx) :
    (s.writeRecord which f c).ring = { s.ring with
      faultSeq := (s.ring.faultSeq + 1) % 2 ^ 32
      records := s.ring.records + b2n (decide (s.reg64 Reg.FE_FAULT_BASE ≠ 0)) } := by
  have hw : ∃ w : State, w.ring = s.ring ∧ (s.writeRecord which f c).ring = { w.ring with
      faultSeq := (s.ring.faultSeq + 1) % 2 ^ 32
      records := w.ring.records + b2n (decide (s.reg64 Reg.FE_FAULT_BASE ≠ 0)) } := by
    refine ⟨_, ?_, rfl⟩
    split
    · rfl
    · exact State.foldl_keeps State.ring (fun t _ => t.emitHost_ring _) _ s
  obtain ⟨w, hw, hring⟩ := hw
  rw [hring, hw]

/-- R633: without a record area a record is lost, and counted. -/
theorem State.writeRecord_lost {s : State} (hs : SMap.wf regReset s.regs = true)
    (hb : s.reg64 Reg.FE_FAULT_BASE = 0) (which : Nat) (f : FaultInfo) (c : RecordCtx) :
    (s.writeRecord which f c).reg Reg.FE_FAULT_LOST = (s.reg Reg.FE_FAULT_LOST + 1) % 2 ^ 32 := by
  unfold State.writeRecord
  dsimp only
  rw [if_pos hb]
  exact State.reg_bump_same hs _ _

/-- R609: the capture depth of a stream's faults is its domain's in FE_PD_DEPTH. -/
theorem State.streamDepth_congr {s t : State} (hs : t.streams = s.streams)
    (hr : t.reg Reg.FE_PD_DEPTH = s.reg Reg.FE_PD_DEPTH) (n : Nat) : t.streamDepth n = s.streamDepth n := by
  unfold State.streamDepth State.depthOf State.stream
  rw [hs, hr]

/-- What a record of KIND RECORD_ONLY leaves of `s` in `t`, and what it counts; with its dump `quiet`, that is
not made, registers and memories stand. -/
structure State.NotedOnly (s t : State) (quiet : Prop) : Prop where
  roster : t.roster = s.roster
  ring : ∃ n, t.ring = { s.ring with faultSeq := (s.ring.faultSeq + 1) % 2 ^ 32, records := n }
  regs : SMap.wf regReset t.regs = true ∧ s.SameRegs t (Reg.FE_FAULT_LOST :: ownRegs)
  lost : s.reg64 Reg.FE_FAULT_BASE = 0 → t.reg Reg.FE_FAULT_LOST = (s.reg Reg.FE_FAULT_LOST + 1) % 2 ^ 32
  dump : quiet → s.SameRegs t [Reg.FE_FAULT_LOST] ∧ s.SameBytes t

theorem State.notedOnly_recordOnly {s : State} (hs : SMap.wf regReset s.regs = true) (which stream entry : Nat)
    (f : FaultInfo) : s.NotedOnly (s.recordOnly which stream entry f)
      (s.reg64 Reg.FE_DUMP_BASE = 0 ∨ s.streamDepth stream ≠ 2) := by
  unfold State.recordOnly
  extract_lets d w
  have hw : w.standing = s.standing ∧ s.KeepsOwn w ∧
      (s.reg64 Reg.FE_DUMP_BASE = 0 ∨ s.streamDepth stream ≠ 2 → w = s) := by
    unfold w
    split
    next hd =>
      refine ⟨s.writeDump_standing _ _, .writeDump s _ _, fun hq => ?_⟩
      exact if_pos (hq.resolve_right fun h => h hd.1)
    next => exact ⟨rfl, .refl s, fun _ => rfl⟩
  obtain ⟨hstand, hown, hquiet⟩ := hw
  obtain ⟨hwf, hsame⟩ := hown hs
  generalize ({ plainCtx 2 d stream with entry := entry, age := w.streamAge stream } : RecordCtx) = c
  clear_value w
  have hrec := w.recorded_writeRecord which f c
  obtain ⟨hwf', hlost⟩ := hrec.regs hwf
  have hbase : w.reg64 Reg.FE_FAULT_BASE = s.reg64 Reg.FE_FAULT_BASE :=
    State.SameRegs.reg64 hsame (by decide) (by decide)
  exact {
    roster := (w.writeRecord_roster which f c).trans (State.roster_of_standing hstand)
    ring := ⟨_, (w.writeRecord_ring which f c).trans (by rw [State.ring_of_standing hstand])⟩
    regs := ⟨hwf', fun o ho => (hlost o fun h => ho (by simp_all)).trans
      (hsame o fun h => ho (List.mem_cons_of_mem _ h))⟩
    lost := fun hb => by
      rw [State.writeRecord_lost hwf (hbase.trans hb), hsame _ (by decide)]
    dump := fun hq => by
      obtain rfl := hquiet hq
      exact ⟨hlost, State.sameBytes_of_eq (congrArg State.dram hrec.rest :) (congrArg State.plate hrec.rest :)⟩ }

end Sys2Proof.Machine
end

section
/-! Entries that break a rule of their class (O32). -/

namespace Sys2Proof.Machine

/-- The rows that admit an entry, where RE_RESTORE loads no target and RE_ABORT ends no wait for seal space. -/
theorem exec_of_rowOf {s : State} {i : Instr} {v : View} {k : RowKind} (hi : rowOf i = some (v, k))
    (hr : k = .restore → s.restoreDue = none) (ha : k = .abort → s.abortsSealing = none) :
    ∃ act, exec i s = .next (s.admitRow k v act) := by
  unfold rowOf at hi
  split at hi
  case h_24 => cases hi
  case h_10 => cases hi; exact ⟨_, by simp only [exec, execReAbort, ha rfl]; rfl⟩
  case h_12 => cases hi; exact ⟨_, execReRestore_admits (hr rfl)⟩
  all_goals cases hi; exact ⟨_, rfl⟩

/-- The checks of an entry's class ask the streams alone. -/
theorem State.shapeOk_sealRefresh (s : State) (k : RowKind) (raw : List Byte) :
    s.sealRefresh.shapeOk k raw = s.shapeOk k raw := by
  simp only [State.shapeOk, State.stream, State.sealRefresh_streams]

/-- R518: a row that finds its entry to break a rule of its class rejects it. -/
theorem rejects_of_badShape {i : Instr} {s : State} {v : View} {k : RowKind} {act : State → Req → Acted}
    {a : Nat} {raw : List Byte} (hi : exec i s = .next (s.admitRow k v act)) (hf : s.front k = some (a, raw))
    (hbad : s.shapeOk k raw = false) : Rejects i s s.sealRefresh := by
  have hc : s.sealRefresh.checkEntry v k a raw = .reject s.sealRefresh :=
    if_pos ((s.shapeOk_sealRefresh k raw).trans hbad)
  simp only [Rejects, hi, State.admitRow, hf, hc]

/-- The entry `a` at the front has been passed and counted as in error, and the entries `l` stand behind it;
its record is still to be made. -/
def State.refused (s : State) (a : Nat) (l : List (Nat × List Byte)) : State :=
  (({ s with ring := { s.ring with
      arrived := l
      fetched := []
      fetchBad := false
      errCount := (s.ring.errCount + 1) % 2 ^ 32
      lastErr := a } } : State).bump Reg.FE_ENTRY_ERRS 1).setReg Reg.FE_RING_HEAD ((a + 1) % 2 ^ 32)

theorem State.rejectFront_eq {s : State} {a : Nat} {raw : List Byte} {l : List (Nat × List Byte)}
    (ha : s.ring.arrived = (a, raw) :: l) : ∃ which stream, s.rejectFront =
      (s.refused a l).recordOnly which stream a ((s.refused a l).plainFault .entryInvalid 0) := by
  unfold State.rejectFront
  rw [ha]
  dsimp only
  cases rawStream raw with
  | none => exact ⟨_, _, rfl⟩
  | some n => exact ⟨_, _, rfl⟩

/-- What the rejection of the entry `a` at the front, with the entries `l` behind it, makes of `s` (R518). -/
structure State.FrontRejected (s t : State) (a : Nat) (l : List (Nat × List Byte)) : Prop where
  roster : t.roster = s.roster
  arrived : t.ring.arrived = l
  lastErr : t.ring.lastErr = a
  errCount : t.ring.errCount = (s.ring.errCount + 1) % 2 ^ 32
  faultSeq : t.ring.faultSeq = (s.ring.faultSeq + 1) % 2 ^ 32
  regs_ok : SMap.wf regReset t.regs = true
  head : t.reg Reg.FE_RING_HEAD = (a + 1) % 2 ^ 32
  errs : t.reg Reg.FE_ENTRY_ERRS = (s.reg Reg.FE_ENTRY_ERRS + 1) % 2 ^ 32
  lost : s.reg64 Reg.FE_FAULT_BASE = 0 → t.reg Reg.FE_FAULT_LOST = (s.reg Reg.FE_FAULT_LOST + 1) % 2 ^ 32
  dump : s.reg64 Reg.FE_DUMP_BASE = 0 ∨ (∀ n, s.streamDepth n ≠ 2) →
    s.SameRegs t [Reg.FE_RING_HEAD, Reg.FE_ENTRY_ERRS, Reg.FE_FAULT_LOST, Reg.HI_NOTICE_STATUS] ∧ s.SameBytes t

theorem State.frontRejected {s : State} (hs : SMap.wf regReset s.regs = true) {a : Nat} {raw : List Byte}
    {l : List (Nat × List Byte)} (ha : s.ring.arrived = (a, raw) :: l) :
    s.FrontRejected s.rejectFront a l := by
  obtain ⟨which, stream, heq⟩ := State.rejectFront_eq ha
  rw [heq]
  have hbump : SMap.wf regReset (s.bump Reg.FE_ENTRY_ERRS 1).regs = true := State.wf_bump hs _ _
  have hwf : SMap.wf regReset (s.refused a l).regs = true := State.wf_setReg hbump _ _
  have hsame : s.SameRegs (s.refused a l) [Reg.FE_RING_HEAD, Reg.FE_ENTRY_ERRS] :=
    (State.sameRegs_setReg hs _ (by simp)).trans (State.sameRegs_setReg hbump _ (by simp))
  have hhead : (s.refused a l).reg Reg.FE_RING_HEAD = (a + 1) % 2 ^ 32 :=
    (State.reg_setReg_same hbump _ _).trans (Nat.mod_mod _ _)
  have herrs : (s.refused a l).reg Reg.FE_ENTRY_ERRS = (s.reg Reg.FE_ENTRY_ERRS + 1) % 2 ^ 32 :=
    (State.reg_setReg_other hbump _ (by decide)).trans (State.reg_bump_same hs _ _)
  have hdepth : (s.refused a l).streamDepth stream = s.streamDepth stream :=
    State.streamDepth_congr (s := s) (t := s.refused a l) rfl (hsame Reg.FE_PD_DEPTH (by decide)) stream
  obtain ⟨hroster, ⟨n, hring⟩, ⟨hwf', hregs⟩, hlost, hdump⟩ :=
    State.notedOnly_recordOnly hwf which stream a ((s.refused a l).plainFault .entryInvalid 0)
  generalize (s.refused a l).recordOnly which stream a _ = t at hroster hring hwf' hregs hlost hdump ⊢
  exact {
    roster := hroster
    arrived := by rw [hring]; rfl
    lastErr := by rw [hring]; rfl
    errCount := by rw [hring]; rfl
    faultSeq := by rw [hring]; rfl
    regs_ok := hwf'
    head := (hregs _ (by decide)).trans hhead
    errs := (hregs _ (by decide)).trans herrs
    lost := fun hb => by
      rw [hlost ((hsame.reg64 (by decide) (by decide)).trans hb), hsame _ (by decide)]
    dump := fun hq => by
      obtain ⟨hr, hb⟩ := hdump (hq.imp (hsame.reg64 (by decide) (by decide)).trans fun h => hdepth ▸ h stream)
      exact ⟨(hsame.mono (by simp)).trans (hr.mono (by simp)), hb⟩ }

theorem State.ringEdge_roster (s t : State) : (s.ringEdge t).roster = t.roster := by
  have hmsix (w : State) (n : Nat) : (w.requestMsix n).roster = w.roster := by
    unfold State.requestMsix; split_ifs <;> rfl
  unfold State.ringEdge State.notice
  split
  · dsimp only
    split
    · exact hmsix _ _
    · rfl
  · rfl

theorem State.wf_ringEdge (s : State) {t : State} (h : SMap.wf regReset t.regs = true) :
    SMap.wf regReset (s.ringEdge t).regs = true := by
  unfold State.ringEdge
  split
  · exact (((State.NoneEnds.refl t).notice (by decide)).notices h).1
  · exact h

namespace State.FrontRejected
variable {s t : State} {a : Nat} {l : List (Nat × List Byte)}

/-- That an empty seal area takes the registers' values (R441) is of no account. -/
theorem of_sealRefresh (h : s.sealRefresh.FrontRejected t a l) : s.FrontRejected t a l := by
  have hreg (o : Nat) : s.sealRefresh.reg o = s.reg o := by simp only [State.reg, State.sealRefresh_regs]
  have hreg64 (o : Nat) : s.sealRefresh.reg64 o = s.reg64 o :=
    (State.sameRegs_of_regs s.sealRefresh_regs []).reg64 (List.not_mem_nil) (List.not_mem_nil)
  have hroster : s.sealRefresh.roster = s.roster := by
    have hseal (base size : Nat) : ({ s with sealBase := base, sealSize := size } : State).roster = s.roster := rfl
    unfold State.sealRefresh
    split
    · exact hseal _ _
    · rfl
  have hbytes : s.sealRefresh.dram = s.dram ∧ s.sealRefresh.plate = s.plate := by
    unfold State.sealRefresh; split <;> exact ⟨rfl, rfl⟩
  have hdepth (n : Nat) : s.sealRefresh.streamDepth n = s.streamDepth n :=
    State.streamDepth_congr s.sealRefresh_streams (hreg _) n
  exact {
    roster := h.roster.trans hroster
    arrived := h.arrived
    lastErr := h.lastErr
    errCount := by rw [h.errCount, State.sealRefresh_ring]
    faultSeq := by rw [h.faultSeq, State.sealRefresh_ring]
    regs_ok := h.regs_ok
    head := h.head
    errs := by rw [h.errs, hreg]
    lost := fun hb => by rw [h.lost ((hreg64 _).trans hb), hreg]
    dump := fun hq => by
      obtain ⟨hr, hb⟩ := h.dump (hq.imp (hreg64 _).trans fun hn n => hdepth n ▸ hn n)
      exact ⟨fun o ho => (hr o ho).trans (hreg o), fun b => by rw [← hbytes.1, ← hbytes.2]; exact hb b⟩ }

/-- That RING is raised for it (R665) changes HI_NOTICE_STATUS alone. -/
theorem ringEdge (h : s.FrontRejected t a l) (w : State) : s.FrontRejected (w.ringEdge t) a l := by
  have hlast := w.sameRegs_ringEdge h.regs_ok (List.mem_singleton_self Reg.HI_NOTICE_STATUS)
  exact {
    roster := (w.ringEdge_roster t).trans h.roster
    arrived := by rw [State.ringEdge_ring, h.arrived]
    lastErr := by rw [State.ringEdge_ring, h.lastErr]
    errCount := by rw [State.ringEdge_ring, h.errCount]
    faultSeq := by rw [State.ringEdge_ring, h.faultSeq]
    regs_ok := State.wf_ringEdge w h.regs_ok
    head := (hlast _ (by decide)).trans h.head
    errs := (hlast _ (by decide)).trans h.errs
    lost := fun hb => (hlast _ (by decide)).trans (h.lost hb)
    dump := fun hq => by
      obtain ⟨hr, hb⟩ := h.dump hq
      refine ⟨hr.trans (hlast.mono (by simp)), fun b => ?_⟩
      rw [State.ringEdge_dram, State.ringEdge_plate]
      exact hb b }

end State.FrontRejected

/-- Settles O32: each row rejects such an entry (`rejects_of_badShape`), and `State.frontRejected` says what a
rejection changes. That FE_FAULT_COUNT stands, and that a row whose entry is not at the front does nothing, are
choices of the model's (log entries 19 and 2). -/
theorem badEntriesAreRejectedAndCounted : Obligations.BadEntriesAreRejectedAndCounted := by
  intro s i v k hi hr ha
  obtain ⟨act, hexec⟩ := exec_of_rowOf hi hr ha
  refine ⟨fun hf => ?alone, fun a raw hs hf hbad hn => ?bad⟩
  case alone => simp only [hexec, State.admitRow, hf, State.ringEdge_self]
  case bad =>
    obtain ⟨l, hl⟩ := State.arrived_of_front hf
    rw [hl, List.tail_cons] at hn ⊢
    have hwf : SMap.wf regReset s.sealRefresh.regs = true := by
      rw [State.sealRefresh_regs]
      exact (State.kept_iff.2 ⟨rfl, hs⟩).regs_ok
    have hu := State.frontRejected hwf (s.sealRefresh_ring ▸ hl)
    have hx := rejects_of_badShape hexec hf hbad
    rw [Rejects, State.clearFront_of_notReserved (hu.arrived ▸ hn)] at hx
    have ht := (hu.of_sealRefresh).ringEdge s
    obtain ⟨hentries, hstreams, -, hcharts, hgens, hpend⟩ := State.roster_iff.1 ht.roster
    exact ⟨_, hx, ht.arrived, ht.lastErr, ht.errCount, ht.faultSeq, ht.head, ht.errs, ht.lost, ht.dump, hentries,
      hstreams, hcharts, hgens, hpend⟩

end Sys2Proof.Machine
end

section
/-! SUPPORT. What the end of an entry does to the slots and to COMMITS, and what signals and activation leave of
them. -/

namespace Sys2Proof.Machine

/-! ### Records and signals -/

/-- The slots, and COMMITS. -/
def State.seats (s : State) := (s.slots, s.ring.commits)

theorem State.seats_of_standing {s t : State} (h : t.standing = s.standing) : t.seats = s.seats := by
  obtain ⟨-, -, hslots, -⟩ := State.roster_iff.1 (State.roster_of_standing h)
  rw [State.seats, hslots, State.ring_of_standing h, State.seats]

section
variable (s : State)

theorem State.bump_seats (o n : Nat) : (s.bump o n).seats = s.seats := rfl

theorem State.rmtFail_seats (u c : Nat) : (s.rmtFail u c).seats = s.seats := rfl

theorem State.writeRecord_seats (n : Nat) (f : FaultInfo) (c : RecordCtx) :
    (s.writeRecord n f c).seats = s.seats := by
  obtain ⟨-, -, hslots, -⟩ := State.roster_iff.1 (s.writeRecord_roster n f c)
  rw [State.seats, hslots, State.writeRecord_ring, State.seats]

theorem State.recordOnly_seats (n st i : Nat) (f : FaultInfo) : (s.recordOnly n st i f).seats = s.seats := by
  unfold State.recordOnly
  extract_lets d w
  have hw : w.seats = s.seats := by
    unfold w
    split
    · exact State.seats_of_standing (s.writeDump_standing _ _)
    · rfl
  exact (State.writeRecord_seats _ _ _ _).trans hw

theorem State.signalFailed_seats (use : RmtUse) (c : FaultCode) (u : Nat) :
    (s.signalFailed use c u).seats = s.seats := by
  unfold State.signalFailed
  split
  · exact (State.recordOnly_seats _ _ _ _ _).trans (s.bump_seats _ _)
  · rfl

theorem State.signalLost_seats (use : RmtUse) (u : Nat) : (s.signalLost use u).seats = s.seats := by
  unfold State.signalLost
  split
  · exact (State.recordOnly_seats _ _ _ _ _).trans
      ((State.bump_seats _ _ _).trans ((State.bump_seats _ _ _).trans (s.rmtFail_seats u 4)))
  · exact s.rmtFail_seats u 4

theorem State.signal_seats (use : RmtUse) (p : Bool) (g : SigRec) : (s.signal use p g).seats = s.seats := by
  have hwrite (t : State) (l : List Byte) : (t.writeLocal g.addr l).1.seats = t.seats :=
    State.seats_of_standing (t.writeLocal_standing _ _)
  have hread {w : State} {l : Option (List Byte)} (h : s.readLocal g.addr 8 = (w, l)) : w.seats = s.seats :=
    State.seats_of_standing (s.readLocal_standing h)
  have hlocal : (if s.addrOk true g.addr 8 = false then s.signalFailed use .addrInvalid g.addr
      else if g.max then
        match s.readLocal g.addr 8 with
        | (s, none) => s.signalFailed use .eccUncorr g.addr
        | (s, some l) => (s.writeLocal g.addr (leBytes 8 (pennantAfter (ofLeBytes l) g p))).1
      else (s.writeLocal g.addr (leBytes 8 (pennantAfter 0 g p))).1).seats = s.seats := by
    split
    · exact State.signalFailed_seats _ _ _ _
    split
    · split
      case h_1 _ hm => exact (State.signalFailed_seats _ _ _ _).trans (hread hm)
      case h_2 _ _ hm => exact (hwrite _ _).trans (hread hm)
    · exact hwrite _ _
  unfold State.signal
  split
  · exact State.seats_of_standing (s.emitHost_standing _)
  · split
    · exact State.signalLost_seats _ _ _
    · exact State.seats_of_standing (s.rmtSend_standing _ _ _ _ _ _)
  · exact hlocal
  · exact hlocal
  · rfl
  · rfl

theorem State.signals_seats (use : RmtUse) (p : Bool) (l : List SigRec) : (s.signals use p l).seats = s.seats :=
  State.foldl_keeps State.seats (fun t g => t.signal_seats use p g) l s

end

/-! ### Free slots stay free -/

/-- From `s` to `t` COMMITS stands, and a slot that is free stays free. -/
structure State.KeepsFree (s t : State) : Prop where
  commits : t.ring.commits = s.ring.commits
  free : ∀ n, s.slot? n = none → t.slot? n = none

namespace State.KeepsFree
variable {s t u : State}

theorem of_seats (h : t.seats = s.seats) : s.KeepsFree t where
  commits := congrArg Prod.snd h
  free n hn := by
    have hslots : t.slots = s.slots := congrArg Prod.fst h
    rwa [State.slot?, hslots]

theorem refl (s : State) : s.KeepsFree s := of_seats rfl

theorem trans (h : s.KeepsFree t) (h' : t.KeepsFree u) : s.KeepsFree u :=
  ⟨h'.commits.trans h.commits, fun n hn => h'.free n (h.free n hn)⟩

theorem of_standing (h : t.standing = s.standing) : s.KeepsFree t := of_seats (State.seats_of_standing h)

theorem foldl {β : Type} {f : State → β → State} (hf : ∀ t x, State.KeepsFree t (f t x)) (l : List β)
    (s : State) : s.KeepsFree (l.foldl f s) :=
  List.foldlRecOn l f (refl s) fun t ht x _ => ht.trans (hf t x)

theorem signals (s : State) (use : RmtUse) (p : Bool) (l : List SigRec) : s.KeepsFree (s.signals use p l) :=
  of_seats (s.signals_seats use p l)

theorem firePend (s : State) (p : SigWhen → Bool) : s.KeepsFree (s.firePend p) :=
  trans (t := { s with pendSigs := s.pendSigs.filter fun x => !p x.whenDone }) (of_seats rfl)
    (foldl (fun t _ => signals t _ _ _) _ _)

theorem freeVersions (s : State) (id : Nat) : s.KeepsFree (s.freeVersions id) := by
  have hwrite (t : State) (u v : Nat) : t.KeepsFree (t.signalWrite u v) := by
    unfold State.signalWrite
    split
    · exact refl t
    · exact of_seats (t.signal_seats _ _ _)
  unfold State.freeVersions
  extract_lets c keep gone d w w'
  have hw : s.KeepsFree w' := trans (t := w) (of_seats rfl) (foldl (fun t _ => hwrite t _ _) gone w)
  split
  · exact refl s
  split
  · exact hw.trans (signals _ _ _ _)
  · exact hw

/-! ### Waits that are met, and faults -/

theorem setEntry (s : State) (e : Entry) : s.KeepsFree (s.setEntry e) := of_seats rfl

theorem raise (s : State) (i : Nat) (f : FaultInfo) : s.KeepsFree (s.raise i f) := of_seats rfl

theorem faultAt (s : State) (n node ofs : Nat) (c : FaultCode) (u : Nat) :
    s.KeepsFree (s.faultAt n node ofs c u) := by
  unfold State.faultAt State.faultOp
  split
  · exact refl s
  split
  · exact refl s
  · exact raise _ _ _

/-- A slot that is taken may change. -/
theorem setSlot {n : Nat} {x : ExecSlot} (hx : s.slot? n = some x) (y : ExecSlot) :
    s.KeepsFree (s.setSlot n (some y)) where
  commits := rfl
  free m hm := by
    have hne : m ≠ n := fun h => by simp [h, hx] at hm
    rw [State.slot?_setSlot, if_neg hne, hm]

theorem laneDone (s : State) (n node : Nat) : s.KeepsFree (s.laneDone n node) := by
  have hcount (t : State) : t.KeepsFree (t.countOp n) := of_seats rfl
  have hpost (t : State) (l : Lane) : t.KeepsFree (t.headerPost n node l.pc l.word 0) :=
    of_seats (congrArg State.seats (t.headerPost_rest _ _ _ _ _) :)
  unfold State.laneDone
  split
  · exact refl s
  next x hx =>
    split
    · exact refl s
    · dsimp only
      exact ((setSlot hx _).trans (hcount _)).trans (hpost _ _)

theorem observe (s : State) (u x : Nat) (p : Bool → Bool) : s.KeepsFree (s.observe u x p) := by
  have hentry (t : State) (e : Entry) : t.KeepsFree (t.observeEntry u x p e) := by
    unfold State.observeEntry
    split
    · dsimp only
      split
      · exact (setEntry t _).trans (raise _ _ _)
      · exact setEntry t _
    · exact refl t
  have hlane (t : State) (n node : Nat) (l : Lane) : t.KeepsFree (t.observeLane u x p n node l) := by
    unfold State.observeLane
    split
    · split
      · split
        · exact faultAt _ _ _ _ _ _
        · exact laneDone _ _ _
      · exact refl t
    · exact refl t
  exact (foldl hentry _ s).trans (foldl (fun t (y : Nat × Nat × Lane) => hlane t y.1 y.2.1 y.2.2) _ _)

theorem waitFault (s : State) (u : Nat) (p : Bool → Bool) (c : FaultCode) : s.KeepsFree (s.waitFault u p c) := by
  refine (foldl (fun t e => ?_) _ s).trans (foldl (fun t y => ?_) _ _)
  · split
    · exact raise _ _ _
    · exact refl t
  · split
    · exact faultAt _ _ _ _ _ _
    · exact refl t

theorem readPennant (s : State) (u : Nat) (p : Bool → Bool) : s.KeepsFree (s.readPennant u p) := by
  unfold State.readPennant
  split
  · exact waitFault _ _ _ _
  split
  case h_1 _ _ hm => exact (of_standing (s.readLocal_standing hm)).trans (observe _ _ _ _)
  case h_2 _ hm => exact (of_standing (s.readLocal_standing hm)).trans (waitFault _ _ _ _)

theorem askPennant (s : State) (u : Nat) (poll : Bool) : s.KeepsFree (s.askPennant u poll) := by
  unfold State.askPennant
  split
  · exact readPennant _ _ _
  · exact readPennant _ _ _
  · split
    · exact refl s
    · exact (of_standing (s.emitHost_standing _)).trans (of_seats rfl)
  · split
    · exact refl s
    split
    · exact (of_seats (s.rmtFail_seats u 4)).trans (foldl (fun t _ => faultAt t _ _ _ _ _) _ _)
    · exact of_standing (s.rmtSend_standing _ _ _ _ _ _)
  · exact refl s
  · exact refl s

theorem takeWatch (s : State) (u : Nat) : s.KeepsFree (s.takeWatch u).1 := by
  unfold State.takeWatch
  split
  · split
    · exact refl s
    · exact of_seats rfl
  · exact refl s

theorem activate (s : State) (e : Entry) : s.KeepsFree (s.activate e) := by
  unfold State.activate
  extract_lets now w w'
  have hw : s.KeepsFree w := setEntry s _
  have hw' : s.KeepsFree w' := hw.trans (foldl (fun t i => by
    split
    · exact refl t
    split
    · exact refl t
    split
    · exact refl t
    · exact (takeWatch t _).trans (setEntry _ _)) _ _)
  split
  · exact hw.trans (raise _ _ _)
  split
  · exact hw.trans (raise _ _ _)
  · exact hw'.trans (foldl (fun t y => by
      split
      · exact refl t
      · exact askPennant t _ _) _ _)

theorem heads (s : State) : s.KeepsFree s.heads :=
  foldl (fun t e => by
    split
    · split
      · exact activate _ _
      · exact refl t
    · exact refl t) _ s

/-! ### What follows the end of an entry -/

theorem checkDestroy (s : State) (st : Nat) : s.KeepsFree (s.checkDestroy st) := by
  unfold State.checkDestroy
  dsimp only
  split
  · exact refl s
  split
  · exact refl s
  · exact trans (t := s.setStream st _) (of_seats rfl) (signals _ _ _ _)

theorem afterEntry (s : State) (st : Nat) : s.KeepsFree (s.afterEntry st) :=
  ((firePend s _).trans (checkDestroy _ _)).trans (heads _)

theorem uncut (s : State) (i : Nat) : s.KeepsFree (s.uncut i) := by
  refine foldl (fun t n => ?_) _ s
  split
  next x hx =>
    split
    · exact setSlot hx _
    · exact refl t
  next => exact refl t

end State.KeepsFree

/-! ### The end of an entry -/

/-- R381, R616: an entry that leaves its stream frees its slot, and is counted. -/
theorem State.dropEntry_frees {s : State} (hs : SMap.wf State.slotD s.slots = true) (e : Entry) (c : Bool) :
    (s.dropEntry e c).ring.commits = (s.ring.commits + 1) % 2 ^ 64 ∧
      ∀ n, s.slotOf e.idx = some n → (s.dropEntry e c).slot? n = none := by
  unfold State.dropEntry
  extract_lets v w ring x
  have hv : v.ring.commits = s.ring.commits ∧ ∀ n, s.slotOf e.idx = some n → v.slot? n = none := by
    unfold v
    split
    next n hn =>
      refine ⟨rfl, fun m hm => ?_⟩
      obtain rfl : n = m := Option.some.inj (hn.symm.trans hm)
      exact SMap.get_set_same (lo := none) hs
    next hn => exact ⟨rfl, fun m hm => by simp [hn] at hm⟩
  have hw : v.KeepsFree w := .uncut v e.idx
  have hcommits : x.ring.commits = (w.ring.commits + 1) % 2 ^ 64 := rfl
  have hslots : x.slots = w.slots := rfl
  have hx : x.ring.commits = (s.ring.commits + 1) % 2 ^ 64 ∧ ∀ n, s.slotOf e.idx = some n → x.slot? n = none := by
    refine ⟨by rw [hcommits, hw.commits, hv.1], fun n hn => ?_⟩
    rw [State.slot?, hslots]
    exact hw.free n (hv.2 n hn)
  clear_value x
  split
  · have hf := State.KeepsFree.freeVersions x (Launch.chart ‹_›)
    exact ⟨hf.commits.trans hx.1, fun n hn => hf.free n (hx.2 n hn)⟩
  · exact hx

/-- What follows the end of an entry brings it back into no queue. -/
theorem State.Gone.afterEntry {s : State} {e : Entry} {c : Bool} (h : s.Gone e c) (st : Nat) :
    (s.afterEntry st).Gone e c := by
  have hdestroy {t : State} (ht : t.Gone e c) : (t.checkDestroy st).Gone e c := by
    unfold State.checkDestroy
    dsimp only
    split
    · exact ht
    split
    · exact ht
    · exact ((State.NoneEnds.refl (t.setStream st _)).signals _ _ _).gone ⟨ht.idxs, ht.past⟩
  exact (State.NoneEnds.refl _).heads.gone (hdestroy (((State.NoneEnds.refl s).firePend _).gone h))

theorem State.slotOf_congr {s t : State} (h : t.slots = s.slots) (i : Nat) : t.slotOf i = s.slotOf i := by
  simp only [State.slotOf, State.slot?, h]

end Sys2Proof.Machine
end

section
/-! Slots and commits (O43). -/

namespace Sys2Proof.Machine

/-! ### SLOT_MAP -/

/-- R639: with no restored target there is none to go on. -/
theorem State.loadOne_of_noneRestored {s : State} (h : s.entries.all (fun e => e.restored.isNone) = true) (v : View)
    (n : Nat) : s.loadOne v n = s := by
  unfold State.loadOne
  split
  next e he =>
    have hmem : e ∈ s.entries := by
      obtain ⟨x, -, hx⟩ := Option.bind_eq_some_iff.1 he
      split at hx
      · exact List.mem_of_find?_eq_some hx
      · cases hx
    rw [Option.isNone_iff_eq_none.1 (List.all_eq_true.1 h e hmem)]
  · rfl

theorem State.mem_candidates {s : State} {n : Nat} : n ∈ s.candidates ↔ n ∈ s.runnable :=
  (perm_sortBy _ _).mem_iff

/-- What mapping the head of a stream asks and sets: the slots, MAP_SEQ and the streams. -/
def State.seating (s : State) := (s.slots, s.mapSeq, s.streams)

theorem State.seating_iff {s t : State} : t.seating = s.seating ↔
    t.slots = s.slots ∧ t.mapSeq = s.mapSeq ∧ t.streams = s.streams := by
  simp only [State.seating, Prod.mk.injEq]

theorem State.allocToks_seating (s : State) (n : Nat) (need : List (Nat × Nat)) (val : Nat → Nat → Nat) :
    (s.allocToks n need val).seating = s.seating := by
  have hone (t : State) (m : SMap Tok) : ({ t with toks := m } : State).seating = t.seating := rfl
  exact State.foldl_keeps State.seating
    (fun t _ => State.foldl_keeps State.seating (fun u _ => hone u _) _ t) _ s

theorem State.captureElastic_seating (s : State) (st : Nat) : (s.captureElastic st).1.seating = s.seating := by
  have hset (t : State) (o v : Nat) : (t.setReg o v).seating = t.seating := rfl
  unfold State.captureElastic
  dsimp only
  split
  · rfl
  · exact (hset _ _ _).trans ((hset _ _ _).trans (hset _ _ _))

/-- `t` is `s` with slot `n` taken by `x` of stream `st`: its last mapping is MAP_SEQ, which goes on (R531). -/
structure State.Mapped (s t : State) (n st : Nat) (x : ExecSlot) : Prop where
  slot : t.slot? n = some x
  others : ∀ k, k ≠ n → t.slot? k = s.slot? k
  mapSeq : t.mapSeq = (s.mapSeq + 1) % 2 ^ 64
  lastMap : (t.stream st).lastMap = s.mapSeq

theorem State.mapped_occupy {s : State} (hs : SMap.wf State.streamD s.streams = true) (n : Nat) (e : Entry)
    (lanes : List (Nat × Lane)) (val : Nat → Nat → Nat) :
    s.Mapped (s.occupy n e lanes val) n e.stream ⟨e.stream, e.idx, lanes, none, none⟩ := by
  let y : ExecSlot := ⟨e.stream, e.idx, lanes, none, none⟩
  let u := s.setStream e.stream { s.stream e.stream with lastMap := s.mapSeq }
  have hu : (s.occupy n e lanes val).seating =
      ((u.setSlot n (some y)).slots, (s.mapSeq + 1) % 2 ^ 64, u.streams) := State.allocToks_seating _ _ _ _
  simp only [State.seating, Prod.mk.injEq] at hu
  obtain ⟨hslots, hseq, hstreams⟩ := hu
  have hslot (k : Nat) : (s.occupy n e lanes val).slot? k = if k = n then some y else s.slot? k := by
    rw [State.slot?, hslots]
    exact State.slot?_setSlot u n k y
  exact {
    slot := by rw [hslot, if_pos rfl]
    others := fun k hk => by rw [hslot, if_neg hk]
    mapSeq := hseq
    lastMap := by
      rw [State.stream, hstreams]
      exact congrArg StreamRec.lastMap (State.stream_setStream_same hs e.stream _) }

theorem State.Mapped.of_seating {s t u : State} {n st : Nat} {x : ExecSlot} (h : t.Mapped u n st x)
    (hm : t.seating = s.seating) : s.Mapped u n st x := by
  obtain ⟨hslots, hseq, -⟩ := State.seating_iff.1 hm
  exact {
    slot := h.slot
    others := fun k hk => by rw [h.others k hk, State.slot?, hslots, State.slot?]
    mapSeq := by rw [h.mapSeq, hseq]
    lastMap := by rw [h.lastMap, hseq] }

/-- The lanes with which a head's buffer is mapped: as prefetch has staged them, or at their start (R533). -/
def Entry.mapLanes (e : Entry) (b : BufInfo) : List (Nat × Lane) :=
  b.present.map fun k => (e.staged.find? fun x => x.1 == k).getD (b.newLane k)

/-- R531, R845: a launch has captured its elastic level as its segment was bound, a buffer does so now. -/
theorem State.mapped_mapPlain {s : State} (hs : SMap.wf State.streamD s.streams = true) (n : Nat) (e : Entry)
    (b : BufInfo) : s.Mapped (s.mapPlain n e b) n e.stream ⟨e.stream, e.idx, e.mapLanes b, none, none⟩ := by
  have hmap {t : State} (ht : t.seating = s.seating) (e' : Entry) : s.Mapped
      ((t.setEntry e').occupy n e (e.mapLanes b) fun _ _ => 0) n e.stream
      ⟨e.stream, e.idx, e.mapLanes b, none, none⟩ := by
    obtain ⟨-, -, hstreams⟩ := State.seating_iff.1 ht
    have hwf : SMap.wf State.streamD (t.setEntry e').streams = true := by rw [State.setEntry_streams, hstreams, hs]
    exact (State.mapped_occupy hwf n e _ _).of_seating ht
  unfold State.mapPlain
  extract_lets lanes
  have hlanes : lanes = e.mapLanes b := List.map_congr_left fun k _ => by cases e.staged.find? _ <;> rfl
  rw [hlanes]
  split
  · exact hmap rfl _
  · exact hmap (s.captureElastic_seating _) _

/-- R531: the head of a stream waits for a free slot and its counters, and is mapped once it has both. -/
theorem State.mapOne_waits {s : State} {m : Nat} {e : Entry} (he : s.head? m = some e)
    (h : s.freeSlot = none ∨ s.toksFree (entryToks e) = false) (v : View) : s.mapOne v m = s := by
  unfold State.mapOne
  rw [he]
  split
  next hn hhead =>
    cases hhead
    rw [if_pos (h.resolve_left (by simp [hn]))]
  · rfl

theorem State.mapOne_maps {s : State} {m n : Nat} {e : Entry} {b : BufInfo} (he : s.head? m = some e)
    (hn : s.freeSlot = some n) (ht : s.toksFree (entryToks e) = true) (hr : e.restored = none)
    (hb : e.buf = some b) (v : View) : s.mapOne v m = s.mapPlain n e b := by
  simp only [State.mapOne, hn, he, ht, hr, hb, Bool.true_eq_false, if_false]

/-! ### Segments -/

section
variable {s : State} {n : Nat} {x : ExecSlot} {e : Entry} {l : Launch}

/-- R582: a launch with fewer than two segments bound ahead binds the next one. -/
theorem segmentBind_binds {st : Fin 512} {v : View} {h : Entry} (hr : s.running = true)
    (hhead : s.head? st = some h) (hn : s.slotOf h.idx = some n) (hl : s.launchIn n = some (x, e, l))
    (hh : s.slotHalted x = false) (hres : e.restored = none) (hseg : l.seg + 1 + l.ahead.length < l.nseg)
    (hahead : l.ahead.length < 2) :
    (∀ w b l', s.bindSeg v e l (l.seg + 1 + l.ahead.length) (fun _ => none) = .done w b l' →
      exec (.segmentBind st v) s = .next (w.setEntry { e with
        kind := .launch { l' with ahead := l'.ahead ++ [b] } })) ∧
    ∀ w f, s.bindSeg v e l (l.seg + 1 + l.ahead.length) (fun _ => none) = .fault w f →
      exec (.segmentBind st v) s = .next (w.raise e.idx f) := by
  have hgo : (s.running && !s.slotHalted x && e.restored.isNone && decide (l.seg + 1 + l.ahead.length < l.nseg) &&
      decide (l.ahead.length < 2)) = true := by
    simp [hr, hh, hres, hseg, hahead]
  constructor
  · intro w b l' hb
    simp only [exec, execSegmentBind, hhead, hn, hl, Option.bind_some, if_pos hgo, hb]
  · intro w f hb
    simp only [exec, execSegmentBind, hhead, hn, hl, Option.bind_some, if_pos hgo, hb]

/-- The launch in a slot is its entry's. -/
theorem State.entry?_of_launchIn (h : s.launchIn n = some (x, e, l)) : s.entry? e.idx = some e := by
  unfold State.launchIn at h
  split at h
  · cases h
  split at h
  · cases h
  next he =>
    split at h
    · cases h
      have hidx : e.idx = x.entry := by simpa using List.find?_some he
      rw [hidx, he]
    · cases h

theorem State.entry?_setEntry {e' : Entry} (he : s.entry? e.idx = some e) (hi : e'.idx = e.idx) :
    (s.setEntry e').entry? e.idx = some e' := by
  have hp : ((fun x : Entry => x.idx == e.idx) ∘ fun x => if x.idx = e'.idx then e' else x) =
      fun x => x.idx == e.idx := by
    funext x
    by_cases hx : x.idx = e'.idx <;> simp [hx]
  rw [State.entry?] at he ⊢
  rw [State.setEntry, List.find?_map, hp, he, Option.map_some, if_pos hi.symm]

/-- The launch `l` of entry `e` goes on with segment `nb`, its counters at 0, in slot `n`, which holds `x`
(R581). -/
def State.advanced (s : State) (n : Nat) (x : ExecSlot) (e : Entry) (l : Launch) (nb : BufInfo)
    (rest : List BufInfo) : State :=
  { (s.setEntry { e with kind := .launch { l with seg := l.seg + 1, ahead := rest }, buf := some nb }).setSlot n
      (some { x with lanes := nb.present.map nb.newLane }) with
    toks := s.toks.map fun (y : Nat × Tok) =>
      if y.2.alloc = true ∧ y.2.slot = n then (y.1, { y.2 with value := 0 }) else y }

theorem segmentAdvance_advances {n : Fin 8} {b nb : BufInfo} {rest : List BufInfo} (hr : s.running = true)
    (hl : s.launchIn n = some (x, e, l)) (hb : e.buf = some b) (ha : l.ahead = nb :: rest)
    (hdone : s.bufDone n x b = true) :
    Does (.segmentAdvance n) s fun t =>
      t.entry? e.idx = some { e with
        kind := .launch { l with seg := l.seg + 1, ahead := rest }, buf := some nb } ∧
      t.slot? n = some { x with lanes := nb.present.map nb.newLane } ∧
      (∀ y ∈ t.toks, y.2.alloc = true → y.2.slot = n.val → y.2.value = 0) ∧ t.regs = s.regs ∧
      s.SameBytes t := by
  have hgo : (s.running && s.bufDone n x b) = true := by rw [hr, hdone]; rfl
  have hexec : exec (.segmentAdvance n) s = .next (s.advanced n x e l nb rest) := by
    simp only [exec, execSegmentAdvance, hl, hb, ha, if_pos hgo]
    rfl
  refine ⟨_, hexec, ?_, ?_, ?_, rfl, State.sameBytes_of_eq rfl rfl⟩
  · exact State.entry?_setEntry (State.entry?_of_launchIn hl) rfl
  · exact (State.slot?_setSlot _ _ _ _).trans (if_pos rfl)
  · intro y hy halloc hslot
    obtain ⟨z, -, rfl⟩ := List.mem_map.1 hy
    by_cases hz : z.2.alloc = true ∧ z.2.slot = n
    · rw [if_pos hz]
    · rw [if_neg hz] at halloc hslot
      exact absurd ⟨halloc, hslot⟩ hz

end

/-! ### COMMIT -/

section
variable {s : State} {st : Fin 512} {e : Entry}

/-- R621, R628: the heads without a slot that commit as they stand. -/
def EKind.commitsAlone (k : EKind) : Prop :=
  k = .waitOnly ∨ k = .signalOnly ∨ (∃ i a c g, k = .save i a c none g true) ∨
    ∃ i b l, k = .restore i b l ∧ leAt l 3 1 ≠ 1

theorem commit_alone (hr : s.running = true) (he : s.head? st = some e) (hf : s.faulted e.idx = false)
    (hn : s.slotOf e.idx = none) (hready : e.ready = true) (hk : e.kind.commitsAlone) :
    exec (.commit st) s = .next (s.endCommitted e) := by
  rcases hk with hk | hk | ⟨i, a, c, g, hk⟩ | ⟨i, b, l, hk, hl⟩
  case inr.inr.inr => simp [exec, execCommit, he, hr, hf, hn, hready, hk, hl]
  all_goals simp [exec, execCommit, he, hr, hf, hn, hready, hk]

/-- R621: a save at the boundary of an entry writes its image as it commits. -/
theorem commit_boundarySave (hr : s.running = true) (he : s.head? st = some e) (hf : s.faulted e.idx = false)
    (hn : s.slotOf e.idx = none) (hready : e.ready = true) {i a c : Nat} {g : Gen}
    (hk : e.kind = .save i a c none g false) :
    exec (.commit st) s = .next ((s.ownWrite i (s.boundaryImage e c g)).1.endCommitted e) := by
  simp [exec, execCommit, he, hr, hf, hn, hready, hk]

/-- R397, R581: a buffer whose lanes have all finished, in a launch its last segment. -/
theorem commit_buffer (hr : s.running = true) (he : s.head? st = some e) (hf : s.faulted e.idx = false)
    {n : Nat} {x : ExecSlot} {b : BufInfo} (hn : s.slotOf e.idx = some n) (hx : s.slot? n = some x)
    (hb : e.buf = some b) (hlast : ∀ l, e.kind = .launch l → l.seg + 1 = l.nseg) (hdone : s.bufDone n x b = true) :
    exec (.commit st) s = .next (s.endCommitted e) := by
  cases hk : e.kind with
  | launch l => simp [exec, execCommit, he, hr, hf, hn, hx, hb, hdone, hk, hlast l hk]
  | _ => simp [exec, execCommit, he, hr, hf, hn, hx, hb, hdone, hk]

/-- R616, R381: an entry that commits is in no queue, is remembered and counted, and its slot is free. -/
theorem State.endCommitted_ends (hs : s.Canonical) (e : Entry) :
    (∀ x ∈ (s.endCommitted e).entries, x.idx ≠ e.idx) ∧
    (s.endCommitted e).ring.commits = (s.ring.commits + 1) % 2 ^ 64 ∧
    SMap.get State.pastD (s.endCommitted e).past e.idx = some (e.stream, true) ∧
    ∀ n, s.slotOf e.idx = some n → (s.endCommitted e).slot? n = none := by
  have hk := State.kept_iff.2 ⟨rfl, hs⟩
  unfold State.endCommitted
  have hends : s.NoneEnds (s.signals (.signal e.stream) false e.sigs) := (State.NoneEnds.refl s).signals _ _ _
  have hseats := s.signals_seats (.signal e.stream) false e.sigs
  generalize s.signals (.signal e.stream) false e.sigs = w at hends hseats
  have hslots : w.slots = s.slots := congrArg Prod.fst hseats
  have hcommits : w.ring.commits = s.ring.commits := congrArg Prod.snd hseats
  obtain ⟨hgone, -⟩ := State.gone_dropEntry (s := w) (hends.past ▸ hk.past_ok) e true
  obtain ⟨hcount, hfree⟩ := State.dropEntry_frees (s := w) (hslots ▸ hk.slots_ok) e true
  have hafter := State.KeepsFree.afterEntry (w.dropEntry e true) e.stream
  have hlast := hgone.afterEntry e.stream
  refine ⟨fun x hx hi => hlast.idxs (List.mem_map.2 ⟨x, hx, hi⟩), ?_, hlast.past, fun n hn => ?_⟩
  · rw [hafter.commits, hcount, hcommits]
  · exact hafter.free n (hfree n ((State.slotOf_congr hslots e.idx).trans hn))

end

/-- Settles O43: SLOT_MAP by its loop and what mapping one head does, the segments and the commits each by
their theorem above. That a restored target goes on first, and that at most two segments are bound ahead, are
readings of the model's (log entries 61 and 88). -/
theorem slotsAreMappedAndEntriesCommit : Obligations.SlotsAreMappedAndEntriesCommit := by
  intro s v st hs hr u
  refine ⟨⟨?slotMap, ?noneRestored, fun n => State.mem_candidates⟩, fun m n e he => ⟨?waits, ?maps⟩, ?binds,
    ?advances, fun e he hf => ⟨fun hn hready => ⟨?alone, ?save⟩, ?buffer, State.endCommitted_ends hs e⟩⟩
  case slotMap => simp only [exec, execSlotMap, hr, if_true, u]
  case noneRestored =>
    exact fun h => List.foldlRecOn _ _ (motive := fun t => t = s) rfl fun t ht n _ => by
      rw [ht, State.loadOne_of_noneRestored h]
  case waits => exact fun h => State.mapOne_waits he h v
  case maps =>
    intro b hn ht hres hb
    rw [State.mapOne_maps he hn ht hres hb v]
    obtain ⟨hslot, hothers, hseq, hlast⟩ :=
      State.mapped_mapPlain (State.kept_iff.2 ⟨rfl, hs⟩).streams_ok n e b
    exact ⟨hslot, hseq, hlast, hothers⟩
  case binds =>
    intro h e n x l hhead hn hl hh hres seg hseg hahead
    exact segmentBind_binds hr hhead hn hl hh hres hseg hahead
  case advances =>
    exact fun n x e l b nb rest hl hb ha hdone => segmentAdvance_advances hr hl hb ha hdone
  case alone => exact fun hk => commit_alone hr he hf hn hready hk
  case save => exact fun i a c g hk => commit_boundarySave hr he hf hn hready hk
  case buffer => exact fun n x b hn hx hb hlast hdone => commit_buffer hr he hf hn hx hb hlast hdone

end Sys2Proof.Machine
end

section
/-! The ring's status line (O31). -/

namespace Sys2Proof.Machine

/-- The requests of `s` towards host memory, before its line is written. -/
def State.lineSent (s : State) : State :=
  s.emitHost (.write s.ring.lineAt false (lineBytes ((s.ring.wseq + 1) % 2 ^ 32) s.ns s.lineFields))

/-- The ring once its status line has been written (R509). -/
def State.lineShown (s : State) : Ring :=
  { s.ring with
    wseq := (s.ring.wseq + 1) % 2 ^ 32
    shown := s.lineFields
    lineLive := s.ring.lineLive && !s.ring.closing
    closing := false }

/-- R509: a write of the status line sends one request, and notes what it shows. -/
theorem State.writeLine_eq (s : State) :
    s.writeLine = { s with out := s.lineSent.out, held := s.lineSent.held, ring := s.lineShown } := by
  have hsent : s.lineSent = { s with out := s.lineSent.out, held := s.lineSent.held } :=
    State.OnlyHost.emitHost s _
  have hline : s.writeLine = { s.lineSent with ring := s.lineShown } := by
    simp only [State.writeLine, State.emitHost_ring]; rfl
  rw [hline]
  exact congrArg (fun t : State => { t with ring := s.lineShown }) hsent

/-- The fields of the line do not go by what it last showed. -/
theorem State.lineFields_writeLine (s : State) : s.writeLine.lineFields = s.lineFields := by
  rw [State.writeLine_eq]; rfl

/-- R508: the line is 64 bytes long. -/
theorem length_lineBytes (w f : Nat) (l : List Nat) : (lineBytes w f l).length = 64 := by
  simp only [lineBytes, List.length_append, length_leBytes]

/-- A posted write is sent at once where the host may be reached. -/
theorem State.out_lineSent {s : State} (hp : s.resetPend = none) (hb : s.bme = true) (hd : s.inD3 = false) :
    s.lineSent.out = s.out ++
      s.tlps (.write s.ring.lineAt false (lineBytes ((s.ring.wseq + 1) % 2 ^ 32) s.ns s.lineFields)) := by
  rw [State.lineSent, State.emitHost_of_free hp hd hb rfl]

/-- Settles O31: a line that is due is written as `State.writeLine_eq` says; no other is. -/
theorem statusLineIsWrittenOnChange : Obligations.StatusLineIsWrittenOnChange := by
  unfold Obligations.StatusLineIsWrittenOnChange
  intro s hrun
  have hexec : exec .ringStatusWrite s = .next
      (if s.running && s.ring.lineLive && (s.ring.closing || s.lineFields != s.ring.shown) then s.writeLine
        else s) := rfl
  refine ⟨fun hlive hdue => ?written, fun hidle => ?idle⟩
  case written =>
    have hw : exec .ringStatusWrite s = .next s.writeLine := by
      rw [hexec, if_pos (by simpa [hrun, hlive] using hdue)]
    refine ⟨_, hw, ?_, ?_, ?_, s.lineFields_writeLine, ?_, fun hb hd => ?_, fun w f => length_lineBytes w f _⟩
    · rw [State.writeLine_eq]
    · rw [State.writeLine_eq]; rfl
    · rw [State.writeLine_eq]; rfl
    · rw [State.writeLine_eq]; rfl
    · rw [State.writeLine_eq]
      exact State.out_lineSent (State.resetPend_of_running hrun) hb hd
  case idle =>
    rw [hexec, if_neg]
    rcases hidle with h | ⟨hc, hf⟩
    · simp [h]
    · simp [hc, hf]

end Sys2Proof.Machine
end

section
/-! SUPPORT. What the operations of the submission ring leave of the state: its flags, the polling period, the
reading of entries, and the requests that wait. -/

namespace Sys2Proof.Machine

/-! ### What a step of the ring may change -/

/-- `t` is `s` but for registers of `l`, the ring, the notices that are requested, what goes to the host, and
what PCIe's own error reporting notes. -/
structure State.RingStep (l : List Nat) (s t : State) : Prop where
  rest : t = { s with
    regs := t.regs, ring := t.ring, msixReq := t.msixReq, pba := t.pba, out := t.out, held := t.held
    cfg := t.cfg, fresh := t.fresh }
  regs : SMap.wf regReset s.regs = true → SMap.wf regReset t.regs = true ∧ s.SameRegs t l

namespace State.RingStep
variable {l m : List Nat} {s t u : State}

/-- A step that leaves the registers. -/
theorem of_regs (hrest : t = { s with
    ring := t.ring, msixReq := t.msixReq, pba := t.pba, out := t.out, held := t.held, cfg := t.cfg
    fresh := t.fresh }) : RingStep l s t :=
  have hregs : t.regs = s.regs := (congrArg State.regs hrest :)
  ⟨by rw [hregs]; exact hrest, fun h => ⟨hregs ▸ h, State.sameRegs_of_regs hregs l⟩⟩

theorem refl (s : State) : RingStep l s s := of_regs rfl

theorem trans (h : RingStep l s t) (h' : RingStep l t u) : RingStep l s u where
  rest := Eq.trans h'.rest (congrArg (fun x : State => { x with
    regs := u.regs, ring := u.ring, msixReq := u.msixReq, pba := u.pba, out := u.out, held := u.held
    cfg := u.cfg, fresh := u.fresh }) h.rest)
  regs hs :=
    have ⟨ht, hst⟩ := h.regs hs
    have ⟨hu, htu⟩ := h'.regs ht
    ⟨hu, hst.trans htu⟩

theorem mono (h : RingStep l s t) (hl : l ⊆ m) : RingStep m s t :=
  ⟨h.rest, fun hs => (h.regs hs).imp_right (·.mono hl)⟩

theorem setReg (s : State) {o : Nat} (v : Nat) (ho : o ∈ l) : RingStep l s (s.setReg o v) :=
  ⟨rfl, fun hs => ⟨State.wf_setReg hs o v, State.sameRegs_setReg hs v ho⟩⟩

theorem setRing (s : State) (r : Ring) : RingStep l s { s with ring := r } := of_regs rfl

theorem of_onlyHost (h : s.OnlyHost t) : RingStep l s t := by
  unfold State.OnlyHost at h
  generalize t.out = o at h
  generalize t.held = k at h
  subst h
  exact of_regs rfl

theorem emitHost (s : State) (o : Outbound) : RingStep l s (s.emitHost o) := of_onlyHost (.emitHost s o)

theorem requestMsix (s : State) (n : Nat) : RingStep l s (s.requestMsix n) := by
  unfold State.requestMsix
  split
  · exact refl s
  split
  · exact of_regs rfl
  split
  · exact refl s
  · exact of_regs rfl

theorem notice (s : State) (n : Nat) (hl : Reg.HI_NOTICE_STATUS ∈ l) : RingStep l s (s.notice n) := by
  unfold State.notice
  dsimp only
  split
  · exact (setReg s _ hl).trans (requestMsix _ _)
  · exact setReg s _ hl

/-- No byte of local memory changes. -/
theorem sameBytes (h : RingStep l s t) : s.SameBytes t :=
  State.sameBytes_of_eq (congrArg State.dram h.rest :) (congrArg State.plate h.rest :)

/-- The registers stay in canonical form. -/
theorem wf (h : RingStep l s t) (hs : SMap.wf regReset s.regs = true) : SMap.wf regReset t.regs = true :=
  (h.regs hs).1

theorem sameRegs (h : RingStep l s t) (hs : SMap.wf regReset s.regs = true) : s.SameRegs t l := (h.regs hs).2

/-! ### Host reads that fail -/

theorem orCfg (s : State) (o v : Nat) : RingStep l s (s.orCfg o v) := of_regs rfl

theorem aer (s : State) (n : Nat) (advisory : Bool) : RingStep l s (s.aer n advisory) := by
  have hlog (t : State) : RingStep l t (t.aerLog n) := of_regs rfl
  have hemit (t : State) (o : Outbound) : RingStep l t (t.emit o) := of_regs rfl
  unfold State.aer
  extract_lets fatal masked first t serr t1 t2 t3 t4 u1 on u2
  have ht : RingStep l s t := by unfold t; split; exacts [orCfg s _ _, refl s]
  have h1 : RingStep l s t1 := (ht.trans (orCfg _ _ _)).trans (orCfg _ _ _)
  have h2 : RingStep l s t2 := h1.trans (orCfg _ _ _)
  have h3 : RingStep l s t3 := by unfold t3; split; exacts [h2.trans (hlog _), h2]
  have h4 : RingStep l s t4 := (ht.trans (orCfg _ _ _)).trans (orCfg _ _ _)
  have hu1 : RingStep l s u1 := by unfold u1; split; exacts [h4.trans (hlog _), h4]
  have hu2 : RingStep l s u2 := by unfold u2; split; exacts [hu1.trans (orCfg _ _ _), hu1]
  split
  · split
    · exact h1
    split
    · exact h3.trans (hemit _ _)
    · exact h3
  · split
    · exact h4
    split
    · exact hu2.trans (hemit _ _)
    · exact hu2

end State.RingStep

/-- The registers that log a host read that failed (R663). -/
def hostErrRegs : List Nat :=
  [Reg.HI_HOST_ERR, Reg.HI_HOST_LOG, Reg.HI_HOST_LOG_ADDR, Reg.HI_HOST_LOG_ADDR + 4]

/-- The registers that log it, before PCIe's own reporting. -/
def State.hostLogged (s : State) (code iova : Nat) : State :=
  ((s.bump Reg.HI_HOST_ERR 1).setFld Reg.HI_HOST_LOG 2 0 code).setReg64 Reg.HI_HOST_LOG_ADDR iova

theorem State.RingStep.hostLogged {l : List Nat} (s : State) (code iova : Nat) (hl : hostErrRegs ⊆ l) :
    RingStep l s (s.hostLogged code iova) := by
  obtain ⟨h1, h2, h3, h4⟩ : Reg.HI_HOST_ERR ∈ l ∧ Reg.HI_HOST_LOG ∈ l ∧ Reg.HI_HOST_LOG_ADDR ∈ l ∧
      Reg.HI_HOST_LOG_ADDR + 4 ∈ l := by simpa [hostErrRegs] using hl
  exact (((setReg s _ h1).trans (setReg _ _ h2)).trans (setReg _ _ h3)).trans (setReg _ _ h4)

/-- R664: what PCIe reports of a failed read reaches no register. -/
theorem State.hostErr_reports (s : State) (code iova : Nat) :
    State.RingStep [] (s.hostLogged code iova) (s.hostErr code iova) := by
  unfold State.hostErr
  dsimp only
  split
  · exact .orCfg _ _ _
  · exact .orCfg _ _ _
  · exact .aer _ _ _
  · exact (State.RingStep.orCfg _ _ _).trans (.aer _ _ _)
  · exact .refl _

theorem State.RingStep.hostErr {l : List Nat} (s : State) (code iova : Nat) (hl : hostErrRegs ⊆ l) :
    RingStep l s (s.hostErr code iova) :=
  (hostLogged s code iova hl).trans ((s.hostErr_reports code iova).mono (List.nil_subset l))

section
variable (s : State) (code iova : Nat)

@[simp] theorem State.orCfg_ring (o v : Nat) : (s.orCfg o v).ring = s.ring := rfl
@[simp] theorem State.aerLog_ring (n : Nat) : (s.aerLog n).ring = s.ring := rfl

@[simp] theorem State.aer_ring (n : Nat) (a : Bool) : (s.aer n a).ring = s.ring := by
  simp only [State.aer, apply_ite State.ring, State.orCfg_ring, State.aerLog_ring, State.emit_ring, ite_self]

@[simp] theorem State.hostErr_ring : (s.hostErr code iova).ring = s.ring := by
  unfold State.hostErr; dsimp only; split <;> simp

end

/-- R663: a failed read counts, and is logged with its status and its address. -/
theorem State.hostErr_logs {s : State} (hs : SMap.wf regReset s.regs = true) {code iova : Nat} (hc : code < 8) :
    (s.hostErr code iova).reg Reg.HI_HOST_ERR = (s.reg Reg.HI_HOST_ERR + 1) % 2 ^ 32 ∧
    (s.hostErr code iova).fld Reg.HI_HOST_LOG 2 0 = code ∧
    (iova < 2 ^ 64 → (s.hostErr code iova).reg64 Reg.HI_HOST_LOG_ADDR = iova) := by
  have h1 := State.wf_bump hs Reg.HI_HOST_ERR 1
  have h2 := State.wf_setFld h1 Reg.HI_HOST_LOG 2 0 code
  have h3 := State.wf_setReg h2 Reg.HI_HOST_LOG_ADDR (iova % 2 ^ 32)
  have h4 : SMap.wf regReset (s.hostLogged code iova).regs = true := State.wf_setReg64 h2 _ _
  obtain ⟨-, hsame⟩ := (s.hostErr_reports code iova).regs h4
  have hother {o : Nat} (ho : o ≠ Reg.HI_HOST_LOG_ADDR) (ho' : o ≠ Reg.HI_HOST_LOG_ADDR + 4) :
      (s.hostErr code iova).reg o = ((s.bump Reg.HI_HOST_ERR 1).setFld Reg.HI_HOST_LOG 2 0 code).reg o :=
    (hsame o List.not_mem_nil).trans
      ((State.reg_setReg_other h3 _ ho').trans (State.reg_setReg_other h2 _ ho))
  refine ⟨?_, ?_, fun ha => ?_⟩
  · rw [hother (by decide) (by decide), State.reg_setFld_other h1 _ _ _ (by decide), State.reg_bump_same hs]
  · rw [State.fld, hother (by decide) (by decide), ← State.fld,
      State.fld_setFld_same h1 _ (by decide) (by decide)]
    exact Nat.mod_eq_of_lt hc
  · rw [hsame.reg64 List.not_mem_nil List.not_mem_nil]
    exact State.reg64_setReg64 h2 Reg.HI_HOST_LOG_ADDR (BitVec.ofNatLT iova ha)

/-! ### Flags and notices of the ring -/

section
variable (s t : State) (n b : Nat)

@[simp] theorem State.requestMsix_out : (s.requestMsix n).out = s.out := by
  unfold State.requestMsix; split_ifs <;> rfl
@[simp] theorem State.requestMsix_held : (s.requestMsix n).held = s.held := by
  unfold State.requestMsix; split_ifs <;> rfl
@[simp] theorem State.requestMsix_cfg : (s.requestMsix n).cfg = s.cfg := by
  unfold State.requestMsix; split_ifs <;> rfl
@[simp] theorem State.notice_out : (s.notice n).out = s.out := by
  simp only [State.notice]; split_ifs <;> simp
@[simp] theorem State.notice_held : (s.notice n).held = s.held := by
  simp only [State.notice]; split_ifs <;> simp
@[simp] theorem State.notice_cfg : (s.notice n).cfg = s.cfg := by
  simp only [State.notice]; split_ifs <;> simp

@[simp] theorem State.ringFlag_ring : (s.ringFlag b).ring = s.ring := by
  simp only [State.ringFlag]; split_ifs <;> simp
@[simp] theorem State.ringFlag_out : (s.ringFlag b).out = s.out := by
  simp only [State.ringFlag]; split_ifs <;> simp
@[simp] theorem State.ringFlag_held : (s.ringFlag b).held = s.held := by
  simp only [State.ringFlag]; split_ifs <;> simp
@[simp] theorem State.ringFlag_cfg : (s.ringFlag b).cfg = s.cfg := by
  simp only [State.ringFlag]; split_ifs <;> simp

@[simp] theorem State.ringEdge_out : (s.ringEdge t).out = t.out := by
  unfold State.ringEdge; split_ifs <;> simp

end

/-- The registers of a flag of the ring, with its notice (R665). -/
def flagRegs : List Nat := [Reg.FE_RING_STATUS, Reg.HI_NOTICE_STATUS]

theorem State.RingStep.ringFlag {l : List Nat} (s : State) (b : Nat) (hl : flagRegs ⊆ l) :
    RingStep l s (s.ringFlag b) := by
  obtain ⟨hf, hn⟩ : Reg.FE_RING_STATUS ∈ l ∧ Reg.HI_NOTICE_STATUS ∈ l := by simpa [flagRegs] using hl
  unfold State.ringFlag
  dsimp only
  split
  · exact (setReg s _ hf).trans (notice _ _ hn)
  · exact setReg s _ hf

theorem State.RingStep.ringEdge {l : List Nat} (s t : State) (hl : Reg.HI_NOTICE_STATUS ∈ l) :
    RingStep l t (s.ringEdge t) := by
  unfold State.ringEdge
  split
  · exact notice t _ hl
  · exact refl t

/-- A flag that is set stands, and those that stood before it. -/
theorem State.bitOf_ringFlag {s : State} (hs : SMap.wf regReset s.regs = true) {b : Nat} (hb : b < 32) (i : Nat) :
    bitOf ((s.ringFlag b).reg Reg.FE_RING_STATUS) i = (bitOf (s.reg Reg.FE_RING_STATUS) i || decide (i = b)) := by
  have hset : bitOf ((s.setReg Reg.FE_RING_STATUS (s.reg Reg.FE_RING_STATUS ||| 2 ^ b)).reg
      Reg.FE_RING_STATUS) i = (bitOf (s.reg Reg.FE_RING_STATUS) i || decide (i = b)) := by
    rw [State.reg_setReg_same hs, Nat.mod_eq_of_lt (Nat.or_lt_two_pow (s.reg_lt _)
      (Nat.pow_lt_pow_right (by decide) hb))]
    simp only [bitOf, Nat.testBit_or, Nat.testBit_two_pow, eq_comm]
  have hw := State.wf_setReg hs Reg.FE_RING_STATUS (s.reg Reg.FE_RING_STATUS ||| 2 ^ b)
  unfold State.ringFlag
  dsimp only
  split
  · rw [State.sameRegs_notice hw 3 (List.mem_singleton_self _) _ (by decide)]
    exact hset
  · exact hset

/-! ### The polling period -/

/-- The registers of the polling period: itself, and CFG_ERR (R512). -/
def periodRegs : List Nat := Reg.FE_POLL_NOW :: flagRegs

/-- R511, R512: bringing the period in line touches of the ring what the adaptive period counts. -/
theorem State.pollPeriod_spec (s : State) : State.RingStep periodRegs s s.pollPeriod ∧
    (∃ a q, s.pollPeriod.ring = { s.ring with adapt := a, quiet := q }) ∧
    s.pollPeriod.out = s.out ∧ s.pollPeriod.held = s.held ∧ s.pollPeriod.cfg = s.cfg := by
  have hset (t : State) (v : Nat) : State.RingStep periodRegs t (t.setReg Reg.FE_POLL_NOW v) :=
    .setReg t v (by decide)
  unfold State.pollPeriod
  split
  · split
    · split
      · exact ⟨hset s _, ⟨_, _, rfl⟩, rfl, rfl, rfl⟩
      · exact ⟨(State.RingStep.setRing s _).trans (hset _ _), ⟨_, _, rfl⟩, rfl, rfl, rfl⟩
    · refine ⟨((State.RingStep.setRing s _).trans (.ringFlag _ _ (by decide))).trans (hset _ _),
        ⟨false, s.ring.quiet, ?_⟩, ?_, ?_, ?_⟩
      · exact State.ringFlag_ring _ _
      · exact State.ringFlag_out _ _
      · exact State.ringFlag_held _ _
      · exact State.ringFlag_cfg _ _
  · exact ⟨(State.RingStep.setRing s _).trans (hset _ _), ⟨_, _, rfl⟩, rfl, rfl, rfl⟩

/-- R512: at basic level the period is 1500 cycles. -/
theorem State.pollPeriod_basic {s : State} (hs : SMap.wf regReset s.regs = true)
    (h : bitOf (s.reg Reg.FE_RING_CTRL) 6 = false) : s.pollPeriod.reg Reg.FE_POLL_NOW = 1500 := by
  rw [State.pollPeriod, if_neg (by simp [h])]
  exact State.reg_setReg_same (s := { s with ring := _ }) hs _ _

/-- R512: the adaptive period lies within its limits. -/
theorem State.pollPeriod_adaptive {s : State} (hs : SMap.wf regReset s.regs = true)
    (h : bitOf (s.reg Reg.FE_RING_CTRL) 6 = true) (hok : s.pollLimitsOk = true) :
    s.reg Reg.FE_POLL_MIN ≤ s.pollPeriod.reg Reg.FE_POLL_NOW ∧
    s.pollPeriod.reg Reg.FE_POLL_NOW ≤ s.reg Reg.FE_POLL_MAX := by
  have hle : s.reg Reg.FE_POLL_MIN ≤ s.reg Reg.FE_POLL_MAX := by
    simp only [State.pollLimitsOk, Bool.and_eq_true, decide_eq_true_eq] at hok
    exact hok.1.2
  have hmax := s.reg_lt Reg.FE_POLL_MAX
  have hnow : ∃ v, s.reg Reg.FE_POLL_MIN ≤ v ∧ v ≤ s.reg Reg.FE_POLL_MAX ∧
      s.pollPeriod.reg Reg.FE_POLL_NOW = v % 2 ^ 32 := by
    rw [State.pollPeriod, if_pos h, if_pos hok]
    split
    · exact ⟨_, le_max_left _ _, max_le hle (min_le_right _ _), State.reg_setReg_same hs _ _⟩
    · exact ⟨_, le_rfl, hle, State.reg_setReg_same (s := { s with ring := _ }) hs _ _⟩
  obtain ⟨v, hlo, hhi, hv⟩ := hnow
  rw [hv, Nat.mod_eq_of_lt (by omega)]
  exact ⟨hlo, hhi⟩

/-- R512: with bad limits it is 1500 cycles, and CFG_ERR is set. -/
theorem State.pollPeriod_bad {s : State} (hs : SMap.wf regReset s.regs = true)
    (h : bitOf (s.reg Reg.FE_RING_CTRL) 6 = true) (hbad : s.pollLimitsOk = false) :
    s.pollPeriod.reg Reg.FE_POLL_NOW = 1500 ∧ bitOf (s.pollPeriod.reg Reg.FE_RING_STATUS) 3 = true := by
  have hflag := State.bitOf_ringFlag (s := { s with ring := { s.ring with adapt := false } }) hs (b := 3)
    (by decide) 3
  obtain ⟨hw, -⟩ := (State.RingStep.ringFlag (l := flagRegs) { s with ring := { s.ring with adapt := false } } 3
    (List.Subset.refl _)).regs hs
  rw [State.pollPeriod, if_pos h, if_neg (by simp [hbad])]
  refine ⟨State.reg_setReg_same hw _ _, ?_⟩
  rw [State.reg_setReg_other hw _ (by decide), hflag]
  simp

/-- R512: the end of a poll touches of the ring whether one is open and what the adaptive period counts. -/
theorem State.pollEnd_spec (s : State) : State.RingStep [Reg.FE_POLL_NOW] s s.pollEnd ∧
    (∃ o q, s.pollEnd.ring = { s.ring with pollOpen := o, quiet := q }) ∧
    s.pollEnd.out = s.out ∧ s.pollEnd.held = s.held := by
  have hset (t : State) (v : Nat) : State.RingStep [Reg.FE_POLL_NOW] t (t.setReg Reg.FE_POLL_NOW v) :=
    .setReg t v (by decide)
  unfold State.pollEnd
  split
  · dsimp only
    split
    · exact ⟨.setRing s _, ⟨_, _, rfl⟩, rfl, rfl⟩
    split
    · exact ⟨(State.RingStep.setRing s _).trans (hset _ _), ⟨_, _, rfl⟩, rfl, rfl⟩
    split
    · exact ⟨.setRing s _, ⟨_, _, rfl⟩, rfl, rfl⟩
    · exact ⟨(State.RingStep.setRing s _).trans (hset _ _), ⟨_, _, rfl⟩, rfl, rfl⟩
  · exact ⟨.refl s, ⟨_, _, rfl⟩, rfl, rfl⟩

/-! ### Requests that wait, and the reading of entries -/

theorem State.issueHeld_onlyHost (s : State) (l : List Outbound) : s.OnlyHost (s.issueHeld l) := by
  induction l generalizing s with
  | nil => rfl
  | cons o t ih =>
    unfold State.issueHeld
    split
    · exact State.OnlyHost.trans (t := { s with out := s.out ++ s.tlps o }) rfl (ih _)
    · exact State.OnlyHost.trans (t := { s with held := s.held ++ [o] }) rfl (ih _)

theorem State.flushHeld_onlyHost (s : State) : s.OnlyHost s.flushHeld := by
  unfold State.flushHeld
  split
  · exact State.OnlyHost.trans (t := { s with held := [] }) rfl (State.issueHeld_onlyHost _ _)
  · rfl

@[simp] theorem State.flushHeld_ring (s : State) : s.flushHeld.ring = s.ring :=
  (congrArg State.ring (s.flushHeld_onlyHost : s.flushHeld = _) :)

/-- Where nothing waits nothing more is sent. -/
theorem State.flushHeld_of_nil {s : State} (h : s.held = []) : s.flushHeld = s := by
  have hs : ({ s with held := [] } : State) = s := by rw [← h]
  unfold State.flushHeld
  rw [h, hs]
  exact ite_self s

/-- R526: how many entries the next read takes. -/
def State.nextRead (s : State) : Nat :=
  min 16 (min ((s.reg Reg.FE_RING_TAIL + 2 ^ 32 - s.ring.readHead) % 2 ^ 32)
    (s.ringSize - s.ring.readHead % s.ringSize))

/-- R526: where those entries are. -/
def State.nextReadAt (s : State) : Outbound :=
  .read (s.reg64 Reg.FE_RING_BASE + 64 * (s.ring.readHead % s.ringSize)) (64 * s.nextRead)

/-- R526: the next entries are read, or none. -/
theorem State.readEntries_cases (s : State) : s.readEntries = s ∨
    s.readEntries = { s.emitHost s.nextReadAt with ring := { s.ring with reading := s.nextRead } } := by
  unfold State.readEntries
  dsimp only
  split
  · exact .inl rfl
  · exact .inr (by rw [State.emitHost_ring]; rfl)

theorem State.readEntries_spec (s : State) : State.RingStep [] s s.readEntries ∧
    ∃ n, s.readEntries.ring = { s.ring with reading := n } := by
  rcases s.readEntries_cases with h | h
  · rw [h]
    exact ⟨.refl s, ⟨_, rfl⟩⟩
  · rw [h]
    exact ⟨(State.RingStep.emitHost s _).trans (.setRing _ _), ⟨_, rfl⟩⟩

/-- R559: a read of the ring that fails stops admission. -/
theorem State.ringReadErr_spec (s : State) : State.RingStep flagRegs s s.ringReadErr ∧
    s.ringReadErr.ring = { s.ring with halted := true, reading := 0 } :=
  ⟨(State.RingStep.setRing s _).trans (.ringFlag _ _ (List.Subset.refl _)), State.ringFlag_ring _ _⟩

theorem State.ringReadErr_bit {s : State} (hs : SMap.wf regReset s.regs = true) :
    bitOf (s.ringReadErr.reg Reg.FE_RING_STATUS) 5 = true := by
  have hbit := State.bitOf_ringFlag (s := { s with ring := { s.ring with halted := true, reading := 0 } }) hs
    (b := 5) (by decide) 5
  rw [decide_eq_true rfl, Bool.or_true] at hbit
  exact hbit

theorem readStatus_lt (x : ReadFail) : readStatus x < 8 := by cases x <;> decide

/-- The registers that a failed read of the ring sets (R559, R663). -/
def readErrRegs : List Nat := hostErrRegs ++ flagRegs

/-- R559, R663: a failed read of the ring counts, is logged, and stops admission. -/
theorem State.ringReadFailed {s : State} (hs : SMap.wf regReset s.regs = true) (x : ReadFail) (iova : Nat) :
    let t := (s.hostErr (readStatus x) iova).ringReadErr
    State.RingStep readErrRegs s t ∧ t.ring = { s.ring with halted := true, reading := 0 } ∧
    bitOf (t.reg Reg.FE_RING_STATUS) 5 = true ∧ t.reg Reg.HI_HOST_ERR = (s.reg Reg.HI_HOST_ERR + 1) % 2 ^ 32 ∧
    t.fld Reg.HI_HOST_LOG 2 0 = readStatus x ∧
    (iova < 2 ^ 64 → t.reg64 Reg.HI_HOST_LOG_ADDR = iova) := by
  have herr := State.RingStep.hostErr (l := hostErrRegs) s (readStatus x) iova (List.Subset.refl _)
  obtain ⟨hcount, hlog, haddr⟩ := State.hostErr_logs hs (iova := iova) (readStatus_lt x)
  obtain ⟨hstop, hring⟩ := (s.hostErr (readStatus x) iova).ringReadErr_spec
  have hsame := hstop.sameRegs (herr.wf hs)
  have hkeep := s.hostErr_ring (readStatus x) iova
  generalize s.hostErr (readStatus x) iova = w at *
  refine ⟨(herr.mono (List.subset_append_left _ _)).trans (hstop.mono (List.subset_append_right _ _)), ?_, ?_,
    ?_, ?_, fun h => ?_⟩
  · rw [hring, hkeep]
  · exact State.ringReadErr_bit (herr.wf hs)
  · rw [hsame _ (by decide), hcount]
  · rw [State.fld, hsame _ (by decide), ← State.fld, hlog]
  · rw [hsame.reg64 (by decide) (by decide), haddr h]

end Sys2Proof.Machine
end

section
/-! The entries of a read that come back (O30). -/

namespace Sys2Proof.Machine

/-! ### The entries taken -/

/-- Entries with the absolute indices from `a` on. -/
def entriesFrom (a : Nat) (l : List (List Byte)) : List (Nat × List Byte) :=
  l.mapIdx fun i e => ((a + i) % 2 ^ 32, e)

theorem entriesFrom_cons {a : Nat} (ha : a < 2 ^ 32) (e : List Byte) (l : List (List Byte)) :
    entriesFrom a (e :: l) = (a, e) :: entriesFrom ((a + 1) % 2 ^ 32) l := by
  have hnext (i : Nat) : (a + (i + 1)) % 2 ^ 32 = ((a + 1) % 2 ^ 32 + i) % 2 ^ 32 := by omega
  have hfirst : (a + 0) % 2 ^ 32 = a := Nat.mod_eq_of_lt ha
  rw [entriesFrom, List.mapIdx_cons, hfirst]
  exact congrArg ((a, e) :: List.mapIdx · l) (funext fun i => funext fun x => congrArg (·, x) (hnext i))

/-- R526: entries whose SEQ is their index all arrive. -/
theorem State.takeEntries_written (l : List (List Byte)) {s : State} (ha : s.ring.readHead < 2 ^ 32)
    (hseq : ∀ x ∈ entriesFrom s.ring.readHead l, leAt x.2 4 2 = x.1 % 65536) :
    s.takeEntries l = { s with ring := { s.ring with
      arrived := s.ring.arrived ++ entriesFrom s.ring.readHead l
      readHead := (s.ring.readHead + l.length) % 2 ^ 32 } } := by
  induction l generalizing s with
  | nil =>
    have hlast : (s.ring.readHead + 0) % 2 ^ 32 = s.ring.readHead := Nat.mod_eq_of_lt ha
    rw [entriesFrom, List.mapIdx_nil, List.append_nil, List.length_nil, hlast, State.takeEntries]
  | cons e l ih =>
    rw [entriesFrom_cons ha, List.forall_mem_cons] at hseq
    have hlast : ((s.ring.readHead + 1) % 2 ^ 32 + l.length) % 2 ^ 32 =
        (s.ring.readHead + (l.length + 1)) % 2 ^ 32 := by omega
    rw [State.takeEntries, if_pos hseq.1, ih (Nat.mod_lt _ (by decide)) hseq.2, entriesFrom_cons ha]
    simp only [List.append_assoc, List.singleton_append, List.length_cons, hlast]

/-- R526: an entry whose SEQ is not its index stops admission. -/
theorem State.takeEntries_unwritten {s : State} {e : List Byte} (l : List (List Byte))
    (hseq : leAt e 4 2 ≠ s.ring.readHead % 65536) : s.takeEntries (e :: l) =
      ({ s with ring := { s.ring with stalled := true } } : State).bump Reg.FE_SEQ_RETRY 1 := by
  rw [State.takeEntries, if_neg hseq]

/-- The lines of a read: `n` of 64 bytes. -/
def linesOf (n : Nat) (bytes : List Byte) : List (List Byte) :=
  (upto n).map fun i => (bytes.drop (64 * i)).take 64

theorem entriesFrom_linesOf (a n : Nat) (bytes : List Byte) : entriesFrom a (linesOf n bytes) =
    (upto n).map fun i => ((a + i) % 2 ^ 32, (bytes.drop (64 * i)).take 64) :=
  List.ext_getElem (by simp [entriesFrom, linesOf]) fun i h h' => by simp [entriesFrom, linesOf, upto]

theorem linesOf_cons {n : Nat} (hn : n ≠ 0) (bytes : List Byte) :
    ∃ l, linesOf n bytes = bytes.take 64 :: l := by
  obtain ⟨m, rfl⟩ := Nat.exists_eq_succ_of_ne_zero hn
  exact ⟨_, by rw [linesOf, upto, List.range_succ_eq_map, List.map_cons]; rfl⟩

/-! ### ENTRY_READ_RETURN -/

/-- The ring with its read returned. -/
def State.unread (s : State) : State := { s with ring := { s.ring with reading := 0, stalled := false } }

section
variable {s : State} {bytes : List Byte}

/-- A read of entries that returned. -/
theorem entryReadReturn_ok (hr : s.running = true) (hst : s.ring.started = true) (hn : s.ring.reading ≠ 0) :
    exec (.entryReadReturn bytes none) s = .next (s.ringEdge
      (let w := (s.unread.takeEntries (linesOf s.ring.reading bytes)).clearFront
       (if w.ring.stalled then w else w.readEntries).flushHeld)) := by
  have hgo : (s.running && s.ring.started && decide (s.ring.reading ≠ 0) && !s.noTimeout none) = true := by
    simp [hr, hst, hn, State.noTimeout]
  simp only [exec, execEntryReadReturn, if_pos hgo]
  rfl

/-- A read of entries that failed. -/
theorem entryReadReturn_failed {x : ReadFail} (hr : s.running = true) (hst : s.ring.started = true)
    (hn : s.ring.reading ≠ 0) (hx : s.noTimeout (some x) = false) :
    exec (.entryReadReturn bytes (some x)) s = .next (s.ringEdge
      (s.hostErr (readStatus x)
        (s.reg64 Reg.FE_RING_BASE + 64 * (s.ring.readHead % s.ringSize))).ringReadErr.flushHeld) := by
  have hgo : (s.running && s.ring.started && decide (s.ring.reading ≠ 0) && !s.noTimeout (some x)) = true := by
    simp [hr, hst, hn, hx]
  simp only [exec, execEntryReadReturn, if_pos hgo]

/-- The reading of further entries and the requests that wait touch of the ring what is being read. -/
theorem State.readOn_spec (s w : State) :
    State.RingStep [Reg.HI_NOTICE_STATUS] w (s.ringEdge w.readEntries.flushHeld) ∧
    ∃ n, (s.ringEdge w.readEntries.flushHeld).ring = { w.ring with reading := n } := by
  obtain ⟨hread, n, hring⟩ := w.readEntries_spec
  have hflush := State.RingStep.of_onlyHost (l := []) w.readEntries.flushHeld_onlyHost
  refine ⟨((hread.trans hflush).mono (List.nil_subset _)).trans (.ringEdge s _ (List.mem_singleton_self _)), n, ?_⟩
  rw [State.ringEdge_ring, State.flushHeld_ring, hring]

/-- R526: the entries of a read whose SEQ shows them written all arrive. -/
theorem entryReadReturn_takes (hs : SMap.wf regReset s.regs = true) (hr : s.running = true)
    (hst : s.ring.started = true) (hn : s.ring.reading ≠ 0) (hhead : s.ring.readHead < 2 ^ 32)
    (hseq : ∀ x ∈ entriesFrom s.ring.readHead (linesOf s.ring.reading bytes), leAt x.2 4 2 = x.1 % 65536)
    (hfront : ∀ x, (s.ring.arrived ++ entriesFrom s.ring.readHead (linesOf s.ring.reading bytes)).head? = some x →
      (rowKind x.2).isSome = true) :
    Does (.entryReadReturn bytes none) s fun t =>
      t.ring.arrived = s.ring.arrived ++ entriesFrom s.ring.readHead (linesOf s.ring.reading bytes) ∧
      t.ring.readHead = (s.ring.readHead + s.ring.reading) % 2 ^ 32 ∧ t.ring.stalled = false ∧
      s.SameRegs t [Reg.HI_NOTICE_STATUS] ∧ s.SameBytes t := by
  have htake := State.takeEntries_written (s := s.unread) (linesOf s.ring.reading bytes) hhead hseq
  generalize hw : s.unread.takeEntries (linesOf s.ring.reading bytes) = w at htake
  have hring := congrArg State.ring htake
  have hclear : w.clearFront = w := State.clearFront_of_notReserved (by rw [hring]; exact hfront)
  have hgo : ¬ w.ring.stalled = true := by rw [hring]; exact Bool.false_ne_true
  have hstep : State.RingStep [Reg.HI_NOTICE_STATUS] s w := by rw [htake]; exact .setRing s _
  obtain ⟨hend, n, hlast⟩ := State.readOn_spec s w
  have hdone := hstep.trans hend
  refine ⟨_, entryReadReturn_ok hr hst hn, ?_⟩
  simp only [hw, hclear, if_neg hgo]
  refine ⟨?_, ?_, ?_, hdone.sameRegs hs, hdone.sameBytes⟩
  · rw [hlast, hring]; rfl
  · rw [hlast, hring]; simp [linesOf, upto, State.unread]
  · rw [hlast, hring]; rfl

/-- R526: a first entry that is not written yet stops admission. -/
theorem entryReadReturn_stalls (hs : SMap.wf regReset s.regs = true) (hr : s.running = true)
    (hst : s.ring.started = true) (hn : s.ring.reading ≠ 0)
    (hseq : leAt (bytes.take 64) 4 2 ≠ s.ring.readHead % 65536)
    (hfront : ∀ x, s.ring.arrived.head? = some x → (rowKind x.2).isSome = true) :
    Does (.entryReadReturn bytes none) s fun t =>
      t.ring.arrived = s.ring.arrived ∧ t.ring.readHead = s.ring.readHead ∧ t.ring.stalled = true ∧
      t.ring.reading = 0 ∧ t.reg Reg.FE_SEQ_RETRY = (s.reg Reg.FE_SEQ_RETRY + 1) % 2 ^ 32 ∧
      s.SameRegs t [Reg.FE_SEQ_RETRY, Reg.HI_NOTICE_STATUS] ∧ s.SameBytes t := by
  obtain ⟨l, hl⟩ := linesOf_cons hn bytes
  have htake := State.takeEntries_unwritten (s := s.unread) l hseq
  rw [← hl] at htake
  generalize hw : s.unread.takeEntries (linesOf s.ring.reading bytes) = w at htake
  have hring : w.ring = { s.ring with reading := 0, stalled := true } := congrArg State.ring htake
  have hclear : w.clearFront = w := State.clearFront_of_notReserved (by rw [hring]; exact hfront)
  have hstop : w.ring.stalled = true := by rw [hring]
  have hstep : State.RingStep [Reg.FE_SEQ_RETRY] s w := by
    rw [htake]
    exact (State.RingStep.setRing s _).trans (.setReg _ _ (List.mem_singleton_self _))
  have hretry : w.reg Reg.FE_SEQ_RETRY = (s.reg Reg.FE_SEQ_RETRY + 1) % 2 ^ 32 := by
    rw [htake]
    exact State.reg_bump_same (s := { s with ring := _ }) hs _ _
  have hend : State.RingStep [Reg.HI_NOTICE_STATUS] w (s.ringEdge w.flushHeld) :=
    (State.RingStep.of_onlyHost w.flushHeld_onlyHost).trans (.ringEdge s _ (List.mem_singleton_self _))
  have hlast : (s.ringEdge w.flushHeld).ring = { s.ring with reading := 0, stalled := true } := by
    rw [State.ringEdge_ring, State.flushHeld_ring, hring]
  have hdone := (hstep.mono (m := [Reg.FE_SEQ_RETRY, Reg.HI_NOTICE_STATUS]) (by simp)).trans
    (hend.mono (by simp))
  refine ⟨_, entryReadReturn_ok hr hst hn, ?_⟩
  simp only [hw, hclear, if_pos hstop, hlast]
  refine ⟨trivial, trivial, trivial, trivial, ?_, hdone.sameRegs hs, hdone.sameBytes⟩
  rw [hend.sameRegs (hstep.wf hs) _ (by decide), hretry]

/-- R559: a read of entries that failed stops admission until EN is written again. -/
theorem entryReadReturn_halts (hs : SMap.wf regReset s.regs = true) (hr : s.running = true)
    (hst : s.ring.started = true) (hn : s.ring.reading ≠ 0) {x : ReadFail} (hx : s.noTimeout (some x) = false) :
    Does (.entryReadReturn bytes (some x)) s fun t =>
      t.ring.halted = true ∧ t.ring.reading = 0 ∧ t.ring.arrived = s.ring.arrived ∧
      bitOf (t.reg Reg.FE_RING_STATUS) 5 = true ∧
      t.reg Reg.HI_HOST_ERR = (s.reg Reg.HI_HOST_ERR + 1) % 2 ^ 32 ∧ s.SameBytes t := by
  obtain ⟨hfail, hring, hbit, hcount, -, -⟩ := State.ringReadFailed hs x
    (s.reg64 Reg.FE_RING_BASE + 64 * (s.ring.readHead % s.ringSize))
  generalize hw : (s.hostErr (readStatus x)
    (s.reg64 Reg.FE_RING_BASE + 64 * (s.ring.readHead % s.ringSize))).ringReadErr = w at *
  have hend : State.RingStep [Reg.HI_NOTICE_STATUS] w (s.ringEdge w.flushHeld) :=
    (State.RingStep.of_onlyHost w.flushHeld_onlyHost).trans (.ringEdge s _ (List.mem_singleton_self _))
  have hlast : (s.ringEdge w.flushHeld).ring = w.ring := by rw [State.ringEdge_ring, State.flushHeld_ring]
  have hsame := hend.sameRegs (hfail.wf hs)
  refine ⟨_, entryReadReturn_failed hr hst hn hx, ?_⟩
  simp only [hw, hlast, hring]
  rw [hsame Reg.FE_RING_STATUS (by decide), hsame Reg.HI_HOST_ERR (by decide)]
  exact ⟨trivial, trivial, trivial, hbit, hcount,
    (hfail.trans (hend.mono (m := readErrRegs) (by decide))).sameBytes⟩

end

/-- Settles O30: by the entries a read takes, all of them or none, and by what a failed read does. -/
theorem entryReturnTakesWrittenEntries : Obligations.EntryReturnTakesWrittenEntries := by
  intro s bytes hc hr hst hn hhead entry index come
  obtain ⟨-, -, hs, -⟩ := hc
  have hcome : come = entriesFrom s.ring.readHead (linesOf s.ring.reading bytes) :=
    (entriesFrom_linesOf _ _ _).symm
  refine ⟨fun hseq hfront => ?takes, fun hseq hfront => entryReadReturn_stalls hs hr hst hn ?stalls hfront,
    fun x hx => entryReadReturn_halts hs hr hst hn hx⟩
  case takes =>
    rw [hcome] at hfront ⊢
    refine entryReadReturn_takes hs hr hst hn hhead (fun x hx => ?_) hfront
    rw [← hcome] at hx
    obtain ⟨i, hi, rfl⟩ := List.mem_map.1 hx
    exact hseq i (List.mem_range.1 hi)
  case stalls =>
    have hfirst : index 0 = s.ring.readHead := Nat.mod_eq_of_lt hhead
    rwa [hfirst] at hseq

end Sys2Proof.Machine
end

section
/-! SUPPORT. What the reading of pennants leaves alone: whether a poll is open, and FE_POLLS. -/

namespace Sys2Proof.Machine

/-- From `s` to `t` a poll stays open or closed, and FE_POLLS stands. -/
structure State.KeepsPoll (s t : State) : Prop where
  pollOpen : t.ring.pollOpen = s.ring.pollOpen
  regs : State.KeepsRegs (· = Reg.FE_POLLS) s t

namespace State.KeepsPoll
variable {s t u : State}

theorem of_regs (hring : t.ring = s.ring) (hregs : t.regs = s.regs) : s.KeepsPoll t :=
  ⟨by rw [hring], .of_regs hregs⟩

theorem refl (s : State) : s.KeepsPoll s := of_regs rfl rfl

theorem trans (h : s.KeepsPoll t) (h' : t.KeepsPoll u) : s.KeepsPoll u :=
  ⟨h'.pollOpen.trans h.pollOpen, h.regs.trans h'.regs⟩

theorem foldl {β : Type} {f : State → β → State} (hf : ∀ t x, State.KeepsPoll t (f t x)) (l : List β)
    (s : State) : s.KeepsPoll (l.foldl f s) :=
  List.foldlRecOn l f (refl s) fun t ht x _ => ht.trans (hf t x)

/-- An access on the device's own behalf. -/
theorem of_own (hring : t.ring = s.ring) (hregs : s.KeepsOwn t) : s.KeepsPoll t := by
  refine ⟨by rw [hring], fun hs => ?_⟩
  obtain ⟨hw, hsame⟩ := hregs hs
  exact ⟨hw, fun o ho => hsame o (ho ▸ by decide)⟩

theorem raise (s : State) (i : Nat) (f : FaultInfo) : s.KeepsPoll (s.raise i f) :=
  ⟨rfl, KeepsRegs.trans (t := s.bump Reg.FE_FAULT_COUNT 1) (.setReg s _ (by decide)) (.of_regs rfl)⟩

theorem faultAt (s : State) (n node ofs : Nat) (c : FaultCode) (a : Nat) :
    s.KeepsPoll (s.faultAt n node ofs c a) := by
  unfold State.faultAt State.faultOp
  split
  · exact refl s
  split
  · exact refl s
  · exact raise _ _ _

theorem laneDone (s : State) (n node : Nat) : s.KeepsPoll (s.laneDone n node) := by
  have hpost (t : State) (l : Lane) : t.KeepsPoll (t.headerPost n node l.pc l.word 0) := by
    have h := t.headerPost_rest n node l.pc l.word 0
    exact of_regs (congrArg State.ring h :) (congrArg State.regs h :)
  unfold State.laneDone
  split
  · exact refl s
  · split
    · exact refl s
    · dsimp only
      exact trans (t := State.countOp (s.setSlot n _) n) (of_regs rfl rfl) (hpost _ _)

theorem observe (s : State) (a x : Nat) (p : Bool → Bool) : s.KeepsPoll (s.observe a x p) := by
  have hentry (t : State) (e : Entry) : t.KeepsPoll (t.observeEntry a x p e) := by
    have hset (e' : Entry) : t.KeepsPoll (t.setEntry e') := of_regs rfl rfl
    unfold State.observeEntry
    split
    · dsimp only
      split
      · exact (hset _).trans (raise _ _ _)
      · exact hset _
    · exact refl t
  have hlane (t : State) (n node : Nat) (l : Lane) : t.KeepsPoll (t.observeLane a x p n node l) := by
    unfold State.observeLane
    split
    · split
      · split
        · exact faultAt _ _ _ _ _ _
        · exact laneDone _ _ _
      · exact refl t
    · exact refl t
  exact (foldl hentry _ s).trans (foldl (fun t (y : Nat × Nat × Lane) => hlane t y.1 y.2.1 y.2.2) _ _)

theorem waitFault (s : State) (a : Nat) (p : Bool → Bool) (c : FaultCode) : s.KeepsPoll (s.waitFault a p c) := by
  refine (foldl (fun t e => ?_) _ s).trans (foldl (fun t y => ?_) _ _)
  · split
    · exact raise _ _ _
    · exact refl t
  · split
    · exact faultAt _ _ _ _ _ _
    · exact refl t

theorem readLocal {a len : Nat} {w : State} {l : Option (List Byte)} (h : s.readLocal a len = (w, l)) :
    s.KeepsPoll w :=
  have hw := (State.EccLogged.refl s).readLocal h
  of_own hw.ring (.of_eccLogged hw)

theorem readPennant (s : State) (a : Nat) (p : Bool → Bool) : s.KeepsPoll (s.readPennant a p) := by
  unfold State.readPennant
  split
  · exact waitFault _ _ _ _
  split
  case h_1 _ _ hm => exact (readLocal hm).trans (observe _ _ _ _)
  case h_2 _ hm => exact (readLocal hm).trans (waitFault _ _ _ _)

theorem askPennant (s : State) (a : Nat) (poll : Bool) : s.KeepsPoll (s.askPennant a poll) := by
  have hsend : s.KeepsPoll (s.rmtSend (.pennant a) .read a 8 [] false) :=
    of_own (State.ring_of_standing (s.rmtSend_standing _ _ _ _ _ _)) (.rmtSend _ _ _ _ _ _ _)
  unfold State.askPennant
  split
  · exact readPennant _ _ _
  · exact readPennant _ _ _
  · split
    · exact refl s
    · exact trans (t := s.emitHost _) (of_regs (State.emitHost_ring _ _) (State.emitHost_regs _ _))
        ⟨rfl, .of_regs rfl⟩
  · split
    · exact refl s
    split
    · exact trans (t := s.rmtFail a 4) (of_own rfl (.rmtFail s a 4))
        (foldl (fun t (y : Nat × Nat × Lane) => faultAt t y.1 y.2.1 y.2.2.pc .addrInvalid a) _ _)
    · exact hsend
  · exact refl s
  · exact refl s

end State.KeepsPoll

end Sys2Proof.Machine
end

section
/-! Polls, and the doorbell line that comes back (O29). -/

namespace Sys2Proof.Machine

/-! ### The pennants a poll reads -/

theorem nodup_eraseDups (l : List Nat) : l.eraseDups.Nodup := by
  induction hn : l.length using Nat.strong_induction_on generalizing l with
  | _ n ih =>
    cases l with
    | nil => exact List.nodup_nil
    | cons a l =>
      have hlen : (l.filter fun b => !b == a).length < n := hn ▸ Nat.lt_succ_of_le (List.length_filter_le _ _)
      rw [List.eraseDups_cons, List.nodup_cons]
      exact ⟨fun h => by simp at h, ih _ hlen _ rfl⟩

theorem State.nodup_waitedOn (s : State) : s.waitedOn.Nodup := nodup_eraseDups _

theorem State.unwatched_subset (s : State) : s.unwatched ⊆ s.waitedOn := by
  intro u hu
  obtain ⟨x, hx, rfl⟩ := List.mem_map.1 (List.mem_eraseDups.1 hu)
  exact List.mem_eraseDups.2 (List.mem_map_of_mem (List.mem_filter.1 hx).1)

/-- R511: the pennants of a poll are at most 64, each once, from host memory. -/
theorem State.pollSet_spec (s : State) : s.pollSet.length ≤ 64 ∧ s.pollSet.Nodup ∧
    ∀ u ∈ s.pollSet, u ∈ s.waitedOn ∧ regionOf u = .host := by
  unfold State.pollSet
  extract_lets l
  split
  · simp
  · set k := s.ring.rr % l.length
    have hl : l.Nodup := s.nodup_waitedOn.filter _
    have hperm : (l.drop k ++ l.take k).Perm l := by
      simpa using List.perm_append_comm.trans (List.Perm.of_eq (List.take_append_drop k l))
    refine ⟨List.length_take_le _ _, (hperm.nodup_iff.2 hl).sublist (List.take_sublist _ _), fun u hu => ?_⟩
    have hu : u ∈ l := hperm.subset (List.mem_of_mem_take hu)
    simpa using List.mem_filter.1 hu

/-- The pennants of a poll go by the waits, and by where the last one ended. -/
theorem State.pollSet_congr {s t : State} (hw : t.waitedOn = s.waitedOn) (hr : t.ring.rr = s.ring.rr) :
    t.pollSet = s.pollSet := by
  rw [State.pollSet, hw, hr, State.pollSet]

/-! ### Reads of host pennants -/

/-- `s` with the pennants of `l` asked for. -/
def State.asking (s : State) (l : List Nat) : State :=
  { s with
    out := s.out ++ l.flatMap fun u => s.tlps (.read (s.iova u) 8)
    ring := { s.ring with penReads := s.ring.penReads ++ l.map fun u => (u, true) } }

theorem State.asking_cons (s : State) (u : Nat) (l : List Nat) :
    (s.asking [u]).asking l = s.asking (u :: l) := by
  simp only [State.asking, List.flatMap_cons, List.flatMap_nil, List.append_nil, List.map_cons, List.map_nil,
    List.append_assoc, List.singleton_append]
  rfl

theorem State.tagsInUse_asking (s : State) (u : Nat) : (s.asking [u]).tagsInUse ≤ s.tagsInUse + 1 := by
  have hlen : (s.asking [u]).ring.penReads.length = s.ring.penReads.length + 1 := by simp [State.asking]
  have htags : (s.asking [u]).tagsInUse = (b2n s.ring.pollOut + (s.asking [u]).ring.penReads.length +
      (if s.ring.reading = 0 then 0 else (s.tlps (.read (s.reg64 Reg.FE_RING_BASE +
        64 * (s.ring.readHead % s.ringSize)) (64 * s.ring.reading))).length) - heldReads s.held) := rfl
  rw [htags, hlen, State.tagsInUse]
  omega

/-- R538: host pennants that no read is under way for are read, while there are tags. -/
theorem State.askPennants_host (l : List Nat) {s : State} (hpend : s.resetPend = none) (hd3 : s.inD3 = false)
    (hbme : s.bme = true) (hhost : ∀ u ∈ l, regionOf u = .host) (hl : l.Nodup)
    (hpen : ∀ u ∈ l, ∀ x ∈ s.ring.penReads, x.1 ≠ u) (htag : s.tagsInUse + l.length ≤ s.tagCap) :
    l.foldl (fun s u => s.askPennant u true) s = s.asking l := by
  induction l generalizing s with
  | nil => simp [State.asking]
  | cons u l ih =>
    rw [List.forall_mem_cons] at hhost hpen
    obtain ⟨hu, hl⟩ := List.nodup_cons.1 hl
    have hfree : s.tagFree (.read (s.iova u) 8) = true :=
      decide_eq_true (by rw [List.length_cons] at htag; omega : s.tagsInUse < s.tagCap)
    have hask : s.askPennant u true = s.asking [u] := by
      rw [State.askPennant_host hhost.1 hpend hd3 hbme hfree hpen.1]
      simp [State.asking]
    have htags := s.tagsInUse_asking u
    rw [List.foldl_cons, hask, ih (s := s.asking [u]) hpend hd3 hbme hhost.2 hl, State.asking_cons]
    · intro v hv x hx
      rcases List.mem_append.1 hx with hx | hx
      · exact hpen.2 v hv x hx
      · obtain rfl : x = (u, true) := by simpa using hx
        rintro rfl
        exact hu hv
    · have hcap : (s.asking [u]).tagCap = s.tagCap := rfl
      rw [List.length_cons] at htag
      omega

/-! ### POLL -/

section
variable {s t : State}

theorem State.tlps_congr (h : t.cfg = s.cfg) : t.tlps = s.tlps := by
  funext o
  simp only [State.tlps, State.maxRead, State.maxPayload, State.cfgD, h]

/-- The period in force brought in line, and one more poll counted. -/
def State.pollStart (s : State) : State := s.pollPeriod.bump Reg.FE_POLLS 1

/-- The registers a poll's start sets. -/
def pollRegs : List Nat := Reg.FE_POLLS :: periodRegs

/-- R511, R512: what a poll's start leaves. -/
theorem State.pollStart_spec (s : State) : State.RingStep pollRegs s s.pollStart ∧
    (∃ a q, s.pollStart.ring = { s.ring with adapt := a, quiet := q }) ∧
    s.pollStart.out = s.out ∧ s.pollStart.held = s.held ∧ s.pollStart.cfg = s.cfg := by
  obtain ⟨hstep, hring, hout, hheld, hcfg⟩ := s.pollPeriod_spec
  exact ⟨(hstep.mono (List.subset_cons_self _ _)).trans (.setReg _ _ (List.mem_cons_self ..)), hring, hout, hheld,
    hcfg⟩

theorem State.pollStart_polls (hs : SMap.wf regReset s.regs = true) :
    s.pollStart.reg Reg.FE_POLLS = (s.reg Reg.FE_POLLS + 1) % 2 ^ 32 := by
  obtain ⟨hstep, -⟩ := s.pollPeriod_spec
  rw [State.pollStart, State.reg_bump_same (hstep.wf hs), hstep.sameRegs hs _ (by decide)]

/-- A poll's start takes no tag. -/
theorem State.pollStart_tagsInUse (hs : SMap.wf regReset s.regs = true) :
    s.pollStart.tagsInUse = s.tagsInUse ∧ s.pollStart.tagCap = s.tagCap := by
  obtain ⟨hstep, ⟨a, q, hring⟩, -, hheld, hcfg⟩ := s.pollStart_spec
  have hsame := hstep.sameRegs hs
  have hbase := hsame.reg64 (o := Reg.FE_RING_BASE) (by decide) (by decide)
  have hctrl := hsame Reg.FE_RING_CTRL (by decide)
  constructor
  · simp only [State.tagsInUse, State.ringSize, State.fld, hring, hheld, hbase, hctrl, State.tlps_congr hcfg]
  · rw [State.tagCap, State.cfgD, State.cfgD, hcfg, State.tagCap, State.cfgD, State.cfgD]

/-- `s` with a poll of `n` pennants open. -/
def State.opened (s : State) (n : Nat) : State :=
  { s with ring := { s.ring with pollOpen := true, pollOut := true, news := false, rr := s.ring.rr + n } }

theorem State.tagsInUse_opened (s : State) (n : Nat) : (s.opened n).tagsInUse ≤ s.tagsInUse + 1 := by
  have htags : (s.opened n).tagsInUse = (1 + s.ring.penReads.length +
      (if s.ring.reading = 0 then 0 else (s.tlps (.read (s.reg64 Reg.FE_RING_BASE +
        64 * (s.ring.readHead % s.ringSize)) (64 * s.ring.reading))).length) - heldReads s.held) := rfl
  rw [htags, State.tagsInUse]
  omega

/-- The poll of `s`, its doorbell line being read. -/
def State.pollSent (s : State) : State :=
  s.pollStart.emitHost (.read (s.pollStart.reg64 Reg.FE_DB_ADDR) 64)

/-- R538: how a poll reads a pennant with a wait that has no watch. -/
def State.askUnwatched (s : State) (u : Nat) : State :=
  match regionOf u with
  | .remote => s.askPennant u true
  | .dram | .plate => s.readPennant u fun w => !w
  | _ => s

theorem State.KeepsPoll.askUnwatched (s : State) (u : Nat) : s.KeepsPoll (s.askUnwatched u) := by
  unfold State.askUnwatched
  split
  · exact .askPennant _ _ _
  · exact .readPennant _ _ _
  · exact .readPennant _ _ _
  · exact .refl s

/-- R511: a poll's effect. -/
theorem poll_eq (hr : s.running = true) (hst : s.ring.started = true) (ho : s.ring.pollOpen = false) :
    exec .poll s = .next
      (let w := s.pollSent.pollSet.foldl (fun s u => s.askPennant u true)
         (s.pollSent.opened s.pollSent.pollSet.length)
       w.unwatched.foldl State.askUnwatched w) := by
  have hgo : (s.running && s.ring.started && !s.ring.pollOpen) = true := by rw [hr, hst, ho]; rfl
  simp only [exec, execPoll, if_pos hgo]
  rfl

/-- R511: a poll is open then, and has counted. -/
theorem poll_counts (hs : SMap.wf regReset s.regs = true) (hr : s.running = true) (hst : s.ring.started = true)
    (ho : s.ring.pollOpen = false) : Does .poll s fun t =>
      t.ring.pollOpen = true ∧ t.reg Reg.FE_POLLS = (s.reg Reg.FE_POLLS + 1) % 2 ^ 32 := by
  refine ⟨_, poll_eq hr hst ho, ?_⟩
  dsimp only
  set v := s.pollSent.opened s.pollSent.pollSet.length
  set w := s.pollSent.pollSet.foldl (fun s u => s.askPennant u true) v
  have hw : v.KeepsPoll w := .foldl (fun t u => .askPennant t u true) _ _
  have hend := hw.trans (State.KeepsPoll.foldl State.KeepsPoll.askUnwatched w.unwatched w)
  obtain ⟨hstep, -⟩ := s.pollStart_spec
  have hregs : v.regs = s.pollStart.regs := State.emitHost_regs _ _
  obtain ⟨-, hpolls⟩ := hend.regs (hregs ▸ hstep.wf hs)
  refine ⟨hend.pollOpen, (hpolls _ rfl).trans ?_⟩
  rw [State.reg, hregs]
  exact State.pollStart_polls hs

/-- R511, R538: a poll whose pennants are all in host memory. -/
theorem poll_host (hs : SMap.wf regReset s.regs = true) (hr : s.running = true) (hst : s.ring.started = true)
    (ho : s.ring.pollOpen = false) (hhost : ∀ u ∈ s.waitedOn, regionOf u = .host)
    (hpen : ∀ x ∈ s.ring.penReads, x.1 ∉ s.waitedOn) (hbme : s.bme = true) (hd3 : s.inD3 = false)
    (htag : s.tagsInUse + s.pollSet.length < s.tagCap) :
    exec .poll s = .next (({ s.pollStart with
      out := s.out ++ s.tlps (.read (s.reg64 Reg.FE_DB_ADDR) 64) } : State).opened s.pollSet.length |>.asking
      s.pollSet) := by
  obtain ⟨hstep, ⟨a, q, hring⟩, hout, -, hcfg⟩ := s.pollStart_spec
  obtain ⟨htags, hcap⟩ := State.pollStart_tagsInUse hs
  have hbase := (hstep.sameRegs hs).reg64 (o := Reg.FE_DB_ADDR) (by decide) (by decide)
  have hno : s.resetPend = none := State.resetPend_of_running hr
  have hpend : s.pollStart.resetPend = none := (congrArg State.resetPend hstep.rest :).trans hno
  have hd3' : s.pollStart.inD3 = false := by rw [State.inD3, State.cfgD, hcfg]; exact hd3
  have hbme' : s.pollStart.bme = true := by rw [State.bme, State.cfgD, hcfg]; exact hbme
  have hfree : s.pollStart.tagFree (.read (s.pollStart.reg64 Reg.FE_DB_ADDR) 64) = true :=
    decide_eq_true (by omega : s.pollStart.tagsInUse < s.pollStart.tagCap)
  have hrr : s.pollStart.ring.rr = s.ring.rr := by rw [hring]
  have hreads : s.pollStart.ring.penReads = s.ring.penReads := by rw [hring]
  have hsent : s.pollSent = { s.pollStart with
      out := s.out ++ s.tlps (.read (s.reg64 Reg.FE_DB_ADDR) 64) } := by
    rw [State.pollSent, State.emitHost_of_free hpend hd3' hbme' hfree, hout, hbase,
      State.tlps_congr hcfg]
  have hwaits : s.pollStart.waitedOn = s.waitedOn := (congrArg State.waitedOn hstep.rest :)
  have hset : s.pollSent.pollSet = s.pollSet := by
    rw [hsent]
    exact State.pollSet_congr hwaits hrr
  obtain ⟨-, hnodup, hin⟩ := s.pollSet_spec
  set v := (({ s.pollStart with
      out := s.out ++ s.tlps (.read (s.reg64 Reg.FE_DB_ADDR) 64) } : State).opened s.pollSet.length)
  have hasked : s.pollSet.foldl (fun s u => s.askPennant u true) v = v.asking s.pollSet := by
    refine State.askPennants_host _ hpend hd3' hbme' (fun u hu => (hin u hu).2) hnodup (fun u hu x hx he => ?_) ?_
    · exact hpen x (hreads ▸ hx) (he ▸ (hin u hu).1)
    · have hv : v.tagsInUse ≤ s.pollStart.tagsInUse + 1 := State.tagsInUse_opened _ _
      have hvcap : v.tagCap = s.pollStart.tagCap := rfl
      omega
  rw [poll_eq hr hst ho, hset, hsent]
  dsimp only
  rw [hasked]
  refine congrArg _ (List.foldlRecOn (motive := fun t => t = v.asking s.pollSet) _ _ rfl fun t ht u hu => ?_)
  have hu : u ∈ s.waitedOn := hwaits ▸ State.unwatched_subset _ hu
  rw [ht, State.askUnwatched, hhost u hu]

/-- R511, R512: what a poll of host pennants comes to. -/
theorem poll_reads (hs : SMap.wf regReset s.regs = true) (hr : s.running = true) (hst : s.ring.started = true)
    (ho : s.ring.pollOpen = false) (hhost : ∀ u ∈ s.waitedOn, regionOf u = .host)
    (hpen : ∀ x ∈ s.ring.penReads, x.1 ∉ s.waitedOn) (hbme : s.bme = true) (hd3 : s.inD3 = false)
    (htag : s.tagsInUse + s.pollSet.length < s.tagCap) :
    Does .poll s fun t =>
      t.out = s.out ++ s.tlps (.read (s.reg64 Reg.FE_DB_ADDR) 64) ++
        s.pollSet.flatMap (fun u => s.tlps (.read (s.iova u) 8)) ∧
      t.ring.penReads = s.ring.penReads ++ s.pollSet.map (fun u => (u, true)) ∧
      State.RingStep pollRegs s t ∧
      t.reg Reg.FE_POLL_NOW = s.pollPeriod.reg Reg.FE_POLL_NOW ∧
      t.reg Reg.FE_RING_STATUS = s.pollPeriod.reg Reg.FE_RING_STATUS := by
  obtain ⟨hstep, ⟨a, q, hring⟩, -, -, hcfg⟩ := s.pollStart_spec
  have hsame := hstep.sameRegs hs
  have hperiod := s.pollPeriod_spec.1.wf hs
  have hreads : s.pollStart.ring.penReads = s.ring.penReads := by rw [hring]
  have hiova (u : Nat) : s.pollStart.iova u = s.iova u := by
    rw [State.iova, State.fld, hsame _ (by decide), State.iova, State.fld]
  have hask (u : Nat) : s.pollStart.tlps (.read (s.pollStart.iova u) 8) = s.tlps (.read (s.iova u) 8) := by
    rw [State.tlps_congr hcfg, hiova]
  refine ⟨_, poll_host hs hr hst ho hhost hpen hbme hd3 htag, ?_, ?_, hstep.trans (.of_regs rfl), ?_, ?_⟩
  · exact congrArg (_ ++ List.flatMap · s.pollSet) (funext hask)
  · exact congrArg (· ++ _) hreads
  · exact State.reg_bump_other hperiod _ (by decide)
  · exact State.reg_bump_other hperiod _ (by decide)

end

/-! ### DOORBELL_READ_RETURN -/

section
variable {s : State} {tail : Word32}

/-- `s` with its doorbell line read. -/
def State.lineCame (s : State) : State := { s with ring := { s.ring with pollOut := false } }

/-- `s` with a TAIL taken (R507). -/
def State.tailTaken (s : State) (tail : Nat) : State :=
  (if tail = s.reg Reg.FE_RING_TAIL then s else { s with ring := { s.ring with news := true } }).setReg
    Reg.FE_RING_TAIL tail

/-- R507: the doorbell line comes back. -/
theorem doorbell_came (hr : s.running = true) (hst : s.ring.started = true) (ho : s.ring.pollOut = true) :
    exec (.doorbellReadReturn tail none) s = .next (s.ringEdge
      (if s.tailOk tail.toNat (s.reg Reg.FE_RING_HEAD) then s.lineCame.tailTaken tail.toNat
       else s.lineCame.ringFlag 4).readEntries.pollEnd.flushHeld) := by
  have hgo : (s.running && s.ring.started && s.ring.pollOut && !s.noTimeout none) = true := by
    simp [hr, hst, ho, State.noTimeout]
  simp only [exec, execDoorbellReadReturn, if_pos hgo]
  rfl

/-- R559, R663: its read has failed. -/
theorem doorbell_failed {x : ReadFail} (hr : s.running = true) (hst : s.ring.started = true)
    (ho : s.ring.pollOut = true) (hx : s.noTimeout (some x) = false) :
    exec (.doorbellReadReturn tail (some x)) s = .next (s.ringEdge
      ((s.lineCame.hostErr (readStatus x) (s.reg64 Reg.FE_DB_ADDR)).ringReadErr.pollEnd).flushHeld) := by
  have hgo : (s.running && s.ring.started && s.ring.pollOut && !s.noTimeout (some x)) = true := by
    simp [hr, hst, ho, hx]
  simp only [exec, execDoorbellReadReturn, if_pos hgo]
  rfl

/-- The registers that the end of a poll's read may set. -/
def pollEndRegs : List Nat := [Reg.FE_POLL_NOW, Reg.HI_NOTICE_STATUS]

/-- R512: what follows the doorbell line touches of the ring what is read and what the period counts. -/
theorem State.pollDone_spec (s w : State) : State.RingStep pollEndRegs w (s.ringEdge w.pollEnd.flushHeld) ∧
    ∃ o q, (s.ringEdge w.pollEnd.flushHeld).ring = { w.ring with pollOpen := o, quiet := q } := by
  obtain ⟨hend, ⟨o, q, hring⟩, -⟩ := w.pollEnd_spec
  refine ⟨((hend.mono (by decide)).trans (.of_onlyHost (State.flushHeld_onlyHost _))).trans
    (.ringEdge s _ (by decide)), o, q, ?_⟩
  rw [State.ringEdge_ring, State.flushHeld_ring, hring]

theorem State.tailTaken_spec (s : State) (tail : Nat) :
    State.RingStep [Reg.FE_RING_TAIL] s (s.tailTaken tail) ∧
    ∃ b, (s.tailTaken tail).ring = { s.ring with news := b } := by
  unfold State.tailTaken
  split
  · exact ⟨.setReg s _ (List.mem_singleton_self _), s.ring.news, rfl⟩
  · exact ⟨(State.RingStep.setRing s _).trans (.setReg _ _ (List.mem_singleton_self _)), true, rfl⟩

theorem State.reg_tailTaken (hs : SMap.wf regReset s.regs = true) (tail : Word32) :
    (s.tailTaken tail.toNat).reg Reg.FE_RING_TAIL = tail.toNat := by
  have hlt : tail.toNat % 2 ^ 32 = tail.toNat := Nat.mod_eq_of_lt tail.isLt
  unfold State.tailTaken
  split
  · exact (State.reg_setReg_same hs _ _).trans hlt
  · exact (State.reg_setReg_same (s := { s with ring := { s.ring with news := true } }) hs _ _).trans hlt

/-- R507: a TAIL within the ring is taken. -/
theorem doorbell_taken (hs : SMap.wf regReset s.regs = true) (hr : s.running = true) (hst : s.ring.started = true)
    (ho : s.ring.pollOut = true) (hok : s.tailOk tail.toNat (s.reg Reg.FE_RING_HEAD) = true) :
    Does (.doorbellReadReturn tail none) s fun t =>
      t.reg Reg.FE_RING_TAIL = tail.toNat ∧ t.ring.pollOut = false ∧ s.SameBytes t ∧
      s.SameRegs t [Reg.FE_RING_TAIL, Reg.FE_POLL_NOW, Reg.HI_NOTICE_STATUS] := by
  have hexec := doorbell_came (tail := tail) hr hst ho
  rw [if_pos hok] at hexec
  refine ⟨_, hexec, ?_⟩
  have htail := State.reg_tailTaken (s := s.lineCame) hs tail
  obtain ⟨htake, b, hring⟩ := s.lineCame.tailTaken_spec tail.toNat
  have hcame : State.RingStep [Reg.FE_RING_TAIL] s (s.lineCame.tailTaken tail.toNat) :=
    State.RingStep.trans (.setRing s _) htake
  generalize s.lineCame.tailTaken tail.toNat = w at *
  obtain ⟨hread, n, hreading⟩ := w.readEntries_spec
  obtain ⟨hend, o, q, hlast⟩ := State.pollDone_spec s w.readEntries
  have hdone := (hread.mono (List.nil_subset _)).trans hend
  have hall : State.RingStep [Reg.FE_RING_TAIL, Reg.FE_POLL_NOW, Reg.HI_NOTICE_STATUS] s _ :=
    (hcame.mono (by decide)).trans (hdone.mono (by decide))
  refine ⟨?_, ?_, hall.sameBytes, hall.sameRegs hs⟩
  · rw [hdone.sameRegs (hcame.wf hs) _ (by decide), htail]
  · rw [hlast, hreading, hring]
    rfl

/-- R526: entries that may be read are read. -/
theorem State.readEntries_of_due (h : s.nextRead ≠ 0) (hread : s.ring.reading = 0) (hhalt : s.ring.halted = false)
    (htail : s.tailOk (s.reg Reg.FE_RING_TAIL) s.ring.readHead = true) :
    s.readEntries = { s.emitHost s.nextReadAt with ring := { s.ring with reading := s.nextRead } } := by
  have hgo : ¬ (s.nextRead = 0 ∨ s.ring.reading ≠ 0 ∨ s.ring.halted = true ∨
      s.tailOk (s.reg Reg.FE_RING_TAIL) s.ring.readHead = false) := by simp [h, hread, hhalt, htail]
  have heq : s.readEntries = if s.nextRead = 0 ∨ s.ring.reading ≠ 0 ∨ s.ring.halted = true ∨
      s.tailOk (s.reg Reg.FE_RING_TAIL) s.ring.readHead = false then s else
      { s.emitHost s.nextReadAt with ring := { (s.emitHost s.nextReadAt).ring with reading := s.nextRead } } := rfl
  rw [heq, if_neg hgo, State.emitHost_ring]

/-- R507, R526: the entries up to a TAIL that is taken are read. -/
theorem doorbell_reads (hs : SMap.wf regReset s.regs = true) (hr : s.running = true) (hst : s.ring.started = true)
    (ho : s.ring.pollOut = true) (hok : s.tailOk tail.toNat (s.reg Reg.FE_RING_HEAD) = true)
    (hread : s.ring.reading = 0) (hhalt : s.ring.halted = false) (hbme : s.bme = true) (hd3 : s.inD3 = false)
    (hheld : s.held = []) (htags : s.tagsInUse ≤ s.tagCap) (hahead : s.tailOk tail.toNat s.ring.readHead = true)
    {n : Nat} (hn : n = min 16 (min ((tail.toNat + 2 ^ 32 - s.ring.readHead) % 2 ^ 32)
      (s.ringSize - s.ring.readHead % s.ringSize))) (hn0 : n ≠ 0) :
    Does (.doorbellReadReturn tail none) s fun t =>
      t.ring.reading = n ∧
      t.out = s.out ++ s.tlps
        (.read (s.reg64 Reg.FE_RING_BASE + 64 * (s.ring.readHead % s.ringSize)) (64 * n)) := by
  have hexec := doorbell_came (tail := tail) hr hst ho
  rw [if_pos hok] at hexec
  refine ⟨_, hexec, ?_⟩
  have htail := State.reg_tailTaken (s := s.lineCame) hs tail
  obtain ⟨htake, b, hring⟩ := s.lineCame.tailTaken_spec tail.toNat
  have hkeep : (s.lineCame.tailTaken tail.toNat).out = s.out ∧ (s.lineCame.tailTaken tail.toNat).held = s.held ∧
      (s.lineCame.tailTaken tail.toNat).cfg = s.cfg := by
    unfold State.tailTaken
    split <;> exact ⟨rfl, rfl, rfl⟩
  have hcame : State.RingStep [Reg.FE_RING_TAIL] s (s.lineCame.tailTaken tail.toNat) :=
    State.RingStep.trans (.setRing s _) htake
  generalize s.lineCame.tailTaken tail.toNat = w at *
  obtain ⟨hout, hwheld, hcfg⟩ := hkeep
  have hsame := hcame.sameRegs hs
  have hsize : w.ringSize = s.ringSize := by
    rw [State.ringSize, State.fld, hsame _ (by decide), State.ringSize, State.fld]
  have hhead : w.ring.readHead = s.ring.readHead := by rw [hring]; rfl
  have hnext : w.nextRead = n := by rw [State.nextRead, htail, hsize, hhead, hn]
  have hat : w.nextReadAt = .read (s.reg64 Reg.FE_RING_BASE + 64 * (s.ring.readHead % s.ringSize)) (64 * n) := by
    rw [State.nextReadAt, hnext, hsize, hhead, hsame.reg64 (by decide) (by decide)]
  have hwread : w.ring.reading = 0 := by rw [hring]; exact hread
  have hwhalt : w.ring.halted = false := by rw [hring]; exact hhalt
  have hwahead : w.tailOk (w.reg Reg.FE_RING_TAIL) w.ring.readHead = true := by
    rwa [State.tailOk, htail, hhead, hsize]
  have hno : s.resetPend = none := State.resetPend_of_running hr
  have hpend : w.resetPend = none := (congrArg State.resetPend hcame.rest :).trans hno
  have hwd3 : w.inD3 = false := by rw [State.inD3, State.cfgD, hcfg]; exact hd3
  have hwbme : w.bme = true := by rw [State.bme, State.cfgD, hcfg]; exact hbme
  have hcap : w.tagCap = s.tagCap := by
    rw [State.tagCap, State.cfgD, State.cfgD, hcfg, State.tagCap, State.cfgD, State.cfgD]
  have hone : w.tagsInUse + 1 = s.tagsInUse := by
    have hw : w.tagsInUse = w.ring.penReads.length := by
      rw [State.tagsInUse, hwheld, hheld, hring]
      simp [State.lineCame, hread, heldReads, b2n]
    have hs' : s.tagsInUse = 1 + s.ring.penReads.length := by
      rw [State.tagsInUse, hheld, ho, if_pos hread]
      rfl
    have hpen : w.ring.penReads = s.ring.penReads := by rw [hring]; rfl
    rw [hw, hs', hpen, Nat.add_comm]
  have hfree : w.tagFree w.nextReadAt = true := decide_eq_true (by omega : w.tagsInUse < w.tagCap)
  have hdue := State.readEntries_of_due (hnext.symm ▸ hn0) hwread hwhalt hwahead
  rw [State.emitHost_of_free hpend hwd3 hwbme hfree, hnext, hat, State.tlps_congr hcfg, hout] at hdue
  obtain ⟨-, o, q, hlast⟩ := State.pollDone_spec s w.readEntries
  obtain ⟨-, -, hsent, hwaits⟩ := w.readEntries.pollEnd_spec
  have hnone : w.readEntries.pollEnd.held = [] := by rw [hwaits, hdue]; exact hwheld.trans hheld
  refine ⟨?_, ?_⟩
  · rw [hlast, hdue]
  · rw [State.ringEdge_out, State.flushHeld_of_nil hnone, hsent, hdue]

/-- R507: one beyond it is ignored, and flagged. -/
theorem doorbell_ignored (hs : SMap.wf regReset s.regs = true) (hr : s.running = true) (hst : s.ring.started = true)
    (ho : s.ring.pollOut = true) (hbad : s.tailOk tail.toNat (s.reg Reg.FE_RING_HEAD) = false) :
    Does (.doorbellReadReturn tail none) s fun t =>
      t.reg Reg.FE_RING_TAIL = s.reg Reg.FE_RING_TAIL ∧ bitOf (t.reg Reg.FE_RING_STATUS) 4 = true ∧
      t.ring.pollOut = false ∧ s.SameBytes t := by
  have hexec := doorbell_came (tail := tail) hr hst ho
  rw [if_neg (by simp [hbad])] at hexec
  refine ⟨_, hexec, ?_⟩
  have hbit := State.bitOf_ringFlag (s := s.lineCame) hs (b := 4) (by decide) 4
  rw [decide_eq_true rfl, Bool.or_true] at hbit
  have hring := s.lineCame.ringFlag_ring 4
  have hflag : State.RingStep flagRegs s (s.lineCame.ringFlag 4) :=
    State.RingStep.trans (.setRing s _) (.ringFlag _ _ (List.Subset.refl _))
  generalize s.lineCame.ringFlag 4 = w at *
  obtain ⟨hread, n, hreading⟩ := w.readEntries_spec
  obtain ⟨hend, o, q, hlast⟩ := State.pollDone_spec s w.readEntries
  have hdone := (hread.mono (List.nil_subset _)).trans hend
  have hsame := hdone.sameRegs (hflag.wf hs)
  refine ⟨?_, ?_, ?_, ?_⟩
  · rw [hsame _ (by decide), hflag.sameRegs hs _ (by decide)]
  · rw [hsame _ (by decide), hbit]
  · rw [hlast, hreading, hring]
    rfl
  · exact ((hflag.mono (List.subset_append_left _ pollEndRegs)).trans
      (hdone.mono (List.subset_append_right flagRegs _))).sameBytes

theorem State.reg64_lt (s : State) (o : Nat) : s.reg64 o < 2 ^ 64 := by
  have hlo := s.reg_lt o
  have hhi := s.reg_lt (o + 4)
  unfold State.reg64
  omega

/-- R559, R663: where its read fails, admission stops. -/
theorem doorbell_halts (hs : SMap.wf regReset s.regs = true) (hr : s.running = true) (hst : s.ring.started = true)
    (ho : s.ring.pollOut = true) {x : ReadFail} (hx : s.noTimeout (some x) = false) :
    Does (.doorbellReadReturn tail (some x)) s fun t =>
      t.ring.halted = true ∧ t.ring.pollOut = false ∧ bitOf (t.reg Reg.FE_RING_STATUS) 5 = true ∧
      t.reg Reg.HI_HOST_ERR = (s.reg Reg.HI_HOST_ERR + 1) % 2 ^ 32 ∧
      t.fld Reg.HI_HOST_LOG 2 0 = readStatus x ∧ t.reg64 Reg.HI_HOST_LOG_ADDR = s.reg64 Reg.FE_DB_ADDR ∧
      t.reg Reg.FE_RING_TAIL = s.reg Reg.FE_RING_TAIL ∧ s.SameBytes t := by
  refine ⟨_, doorbell_failed hr hst ho hx, ?_⟩
  obtain ⟨hfail, hring, hbit, hcount, hlog, haddr⟩ :=
    State.ringReadFailed (s := s.lineCame) hs x (s.reg64 Reg.FE_DB_ADDR)
  replace haddr := haddr (s.reg64_lt _)
  replace hfail : State.RingStep readErrRegs s _ := State.RingStep.trans (.setRing s _) hfail
  dsimp only at *
  generalize (s.lineCame.hostErr (readStatus x) (s.reg64 Reg.FE_DB_ADDR)).ringReadErr = w at *
  obtain ⟨hend, o, q, hlast⟩ := State.pollDone_spec s w
  have hsame := hend.sameRegs (hfail.wf hs)
  refine ⟨?_, ?_, ?_, ?_, ?_, ?_, ?_, ?_⟩
  · rw [hlast, hring]
  · rw [hlast, hring]
    rfl
  · rw [hsame _ (by decide), hbit]
  · rw [hsame _ (by decide), hcount]
    rfl
  · rw [State.fld, hsame _ (by decide), ← State.fld, hlog]
  · rw [hsame.reg64 (by decide) (by decide), haddr]
  · rw [hsame _ (by decide), hfail.sameRegs hs _ (by decide)]
  · exact ((hfail.mono (List.subset_append_left _ pollEndRegs)).trans
      (hend.mono (List.subset_append_right readErrRegs _))).sameBytes

end

/-- Settles O29: polls by what they read of host pennants, the doorbell line by whether its TAIL is within the
ring. That polls go on after a read error, how a read fails, and that the limits of the period are tested at a
poll are readings of the model's (log entries 17, 67 and 70). -/
theorem pollAndDoorbellMoveTail : Obligations.PollAndDoorbellMoveTail := by
  constructor
  case left =>
    intro s hc hr hst
    have hs := (State.kept_iff.2 ⟨rfl, hc⟩).regs_ok
    refine ⟨fun ho => ?isOpen, fun ho => ⟨poll_counts hs hr hst ho, fun hhost hpen hbme hd3 htag => ?reads⟩⟩
    case isOpen =>
      have hno : ¬ (s.running && s.ring.started && !s.ring.pollOpen) = true := by simp [ho]
      simp only [exec, execPoll, if_neg hno]
    case reads =>
      refine (poll_reads hs hr hst ho hhost hpen hbme hd3 htag).imp fun t => ?_
      rintro ⟨hout, hreads, hstep, hnow, hflags⟩
      rw [hnow, hflags]
      exact ⟨hout, s.pollSet_spec.1, hreads, State.pollPeriod_basic hs, State.pollPeriod_adaptive hs,
        State.pollPeriod_bad hs, hstep.sameRegs hs, hstep.sameBytes, (congrArg State.entries hstep.rest :),
        (congrArg State.streams hstep.rest :), (congrArg State.slots hstep.rest :)⟩
  case right =>
    intro s tail hc hr hst ho
    have hs := (State.kept_iff.2 ⟨rfl, hc⟩).regs_ok
    refine ⟨fun hle => ⟨doorbell_taken hs hr hst ho (decide_eq_true hle), ?_⟩,
      fun hlt => doorbell_ignored hs hr hst ho (decide_eq_false (Nat.not_le.2 hlt)),
      fun x hx => doorbell_halts hs hr hst ho hx⟩
    intro hread hhalt hbme hd3 hheld htags hahead n hn
    exact doorbell_reads hs hr hst ho (decide_eq_true hle) hread hhalt hbme hd3 hheld htags
      (decide_eq_true hahead) rfl hn

end Sys2Proof.Machine
end

section
/-! SUPPORT. Host writes of a single register with an effect: FE_RING_CTRL, FAB_LINK_CTRL and PIN_MUX. -/

namespace Sys2Proof.Machine

/-! ### Access errors -/

theorem State.wf_accErr {s : State} (h : SMap.wf regReset s.regs = true) (p : Path) (kind o be : Nat) :
    SMap.wf regReset (s.accErr p kind o be).regs = true := by
  have h1 := State.wf_bump h Reg.DBG_ACCESS_COUNT 1
  rcases s.accErr_cases p kind o be with ⟨-, e⟩ | ⟨-, -, e⟩ | ⟨-, -, n, e⟩ <;> rw [e]
  · exact h
  · exact State.wf_setFld h1 _ _ _ _
  · exact State.wf_setReg (State.wf_setFld (State.wf_setFld (State.wf_setFld h1 _ _ _ _) _ _ _ _) _ _ _ _) _ _

theorem State.wf_lockLogged {s : State} (h : SMap.wf regReset s.regs = true) (bad : Bool) (p : Path)
    (o be : Nat) : SMap.wf regReset (s.lockLogged bad p o be).regs = true := by
  unfold State.lockLogged
  split
  · exact State.wf_accErr h _ _ _ _
  · exact h

/-! ### What the write stores -/

/-- What a write of `w` makes of register `o` of fields `fs`. -/
def State.fieldsValue (s : State) (fs : List Fld) (o w : Nat) : Nat :=
  writeFields fs (!s.unlocked) (s.reg o) w

/-- `s` with register `o` of fields `fs` written, before its effect. -/
def State.fieldsWritten (s : State) (fs : List Fld) (o w : Nat) : State :=
  (s.setReg o (s.fieldsValue fs o w)).lockLogged (!s.unlocked && expertChange fs (s.reg o) w) .bar0 o 15

section
variable {s : State} {fs : List Fld} {o w : Nat}

/-- Before its effect the write changes registers alone. -/
theorem State.fieldsWritten_rest : s.fieldsWritten fs o w = { s with regs := (s.fieldsWritten fs o w).regs } := by
  rw [State.fieldsWritten, State.lockLogged_eq]
  rfl

/-- It changes its own register, and those that log a locked field. -/
theorem State.fieldsWritten_regs (hs : SMap.wf regReset s.regs = true) :
    SMap.wf regReset (s.fieldsWritten fs o w).regs = true ∧ s.SameRegs (s.fieldsWritten fs o w) (o :: dbgRegs) := by
  have hset := State.wf_setReg hs o (s.fieldsValue fs o w)
  exact ⟨State.wf_lockLogged hset _ _ _ _, (State.sameRegs_setReg hs _ (List.mem_cons_self ..)).trans
    ((State.sameRegs_lockLogged hset).mono (List.subset_cons_self _ _))⟩

theorem State.reg_fieldsWritten (hs : SMap.wf regReset s.regs = true) (ho : o ∉ dbgRegs) :
    (s.fieldsWritten fs o w).reg o = s.fieldsValue fs o w % 2 ^ 32 := by
  have hset := State.wf_setReg hs o (s.fieldsValue fs o w)
  rw [State.fieldsWritten, State.sameRegs_lockLogged hset _ ho, State.reg_setReg_same hs]

/-- What follows the effect leaves the registers alone. -/
theorem State.regs_answered (s t : State) (o : Nat) : ((s.alertEdge t).dropSnaps o).regs = t.regs :=
  State.alertEdge_regs s t

/-- R932, R944: a single register written whole by the host, with its effect. -/
theorem State.hostWriteReg_single {r : RegRow} {a b : Nat} {high : Bool} (hr : regAt o = some (r, a, b, high))
    (hp : r.pair = false) (hf : dwordFields r false = fs) (ho : 0x3004 < o) (hal : o % 4 = 0)
    (hl : ringLocked o = false) (h : s.reach .bar0 o = .full) (value : Word32) :
    s.hostWriteReg o 15 value =
      (s.alertEdge ((s.fieldsWritten fs o value.toNat).writeEffect o (s.reg o) value.toNat)).dropSnaps o := by
  have hmerge : mergeBe 15 (s.reg o) value.toNat = value.toNat := mergeBe_all (s.reg_lt _) value.isLt
  have hunlocked : ¬ (ringLocked o = true ∧ bitOf (s.reg Reg.FE_RING_CTRL) 0 = true) := by simp [hl]
  have hbase : o - o % 4 = o := by omega
  have hdword : s.hostWriteReg o 15 value = s.writeDword .bar0 o 15 value.toNat := by
    have hfull := State.dwordWrite_of_full (s := s) (p := .bar0) (x := o) (b := 15) (w := value.toNat)
      (hbase.symm ▸ h)
    rw [hbase] at hfull
    exact hfull
  have hstore : s.writeDword .bar0 o 15 value.toNat =
      s.storeReg .bar0 o 15 o r [(o, false, value.toNat)] := by
    rw [State.writeDword, if_neg (by omega), if_neg (by omega), hr]
    simp [hp, hmerge]
  rw [hdword, hstore, State.storeReg, if_neg hunlocked]
  simp only [List.foldl_cons, List.foldl_nil, List.any_cons, List.any_nil, Bool.or_false, hf]
  rfl

end

end Sys2Proof.Machine
end

section
/-! FE_RING_CTRL.EN starts and stops the ring (O40). -/

namespace Sys2Proof.Machine

/-! ### The register written -/

/-- The fields of FE_RING_CTRL: EN, LOG2, and ADAPT for the Expert. -/
def ringCtrlFields : List Fld := [⟨0, 0, .rw, 0, false⟩, ⟨5, 1, .rw, 6, false⟩, ⟨6, 6, .rw, 0, true⟩]

/-- The row of FE_RING_CTRL. -/
def ringCtrlRow : RegRow := ⟨Reg.FE_RING_CTRL, 1, 4, 1, 0x0, false, ringCtrlFields⟩

theorem regAt_ringCtrl : regAt Reg.FE_RING_CTRL = some (ringCtrlRow, 0, 0, false) := by decide

theorem dwordFields_ringCtrl : dwordFields ringCtrlRow false = ringCtrlFields := by decide

/-- What a write of `w` makes of FE_RING_CTRL. -/
def ringCtrlValue (locked : Bool) (old w : Nat) : Nat := writeFields ringCtrlFields locked old w

theorem ringCtrlValue_eq (locked : Bool) (old w : Nat) : ringCtrlValue locked old w =
    let v := putBits (putBits old 0 0 (bits w 0 0)) 5 1 (bits w 5 1)
    if locked then v else putBits v 6 6 (bits w 6 6) := by
  cases locked <;> rfl

theorem ringCtrlValue_lt {old : Nat} (h : old < 2 ^ 32) (locked : Bool) (w : Nat) :
    ringCtrlValue locked old w < 2 ^ 32 := by
  have hv : putBits (putBits old 0 0 (bits w 0 0)) 5 1 (bits w 5 1) < 2 ^ 32 :=
    putBits_lt (putBits_lt h (by decide) (by decide)) (by decide) (by decide)
  rw [ringCtrlValue_eq]
  dsimp only
  split
  · exact hv
  · exact putBits_lt hv (by decide) (by decide)

/-- Each bit of EN and LOG2 is the one written. -/
theorem testBit_ringCtrlValue (locked : Bool) (old w : Nat) {i : Nat} (hi : i < 6) :
    (ringCtrlValue locked old w).testBit i = w.testBit i := by
  have hlow : (putBits (putBits old 0 0 (bits w 0 0)) 5 1 (bits w 5 1)).testBit i = w.testBit i := by
    rw [testBit_putBits (by decide), testBit_putBits (by decide), testBit_bits, testBit_bits]
    by_cases h0 : i = 0
    · subst h0; rfl
    · have h1 : 1 + (i - 1) = i := by omega
      have h2 : i - 1 < 5 := by omega
      rw [if_pos (by omega), h1]
      simp [h2]
  rw [ringCtrlValue_eq]
  dsimp only
  split
  · exact hlow
  · rw [testBit_putBits (by decide), if_neg (by omega), hlow]

/-- A field of EN and LOG2 is the one written. -/
theorem bits_ringCtrlValue (locked : Bool) (old w lo : Nat) :
    bits (ringCtrlValue locked old w) 5 lo = bits w 5 lo := by
  refine Nat.eq_of_testBit_eq fun i => ?_
  rw [testBit_bits, testBit_bits]
  by_cases h : i < 5 + 1 - lo
  · rw [testBit_ringCtrlValue _ _ _ (by omega)]
  · simp [h]

section
variable (s : State) (w : Nat)

/-- `s` with FE_RING_CTRL written, before its effect. -/
def State.ctrlWritten : State := s.fieldsWritten ringCtrlFields Reg.FE_RING_CTRL w

/-- R503: a write of FE_RING_CTRL, with its effect. -/
theorem State.hostWriteReg_ringCtrl (value : Word32) (h : s.reach .bar0 Reg.FE_RING_CTRL = .full) :
    s.hostWriteReg Reg.FE_RING_CTRL 15 value =
      (s.alertEdge ((s.ctrlWritten value.toNat).ringCtrlWrite (s.reg Reg.FE_RING_CTRL))).dropSnaps
        Reg.FE_RING_CTRL := by
  have heffect (t : State) (old w : Nat) : t.writeEffect Reg.FE_RING_CTRL old w = t.ringCtrlWrite old := rfl
  rw [State.hostWriteReg_single regAt_ringCtrl rfl dwordFields_ringCtrl (by decide) (by decide) (by decide) h,
    heffect]
  rfl

/-- The registers of FE_RING_CTRL's write alone. -/
def ctrlRegs : List Nat := Reg.FE_RING_CTRL :: dbgRegs

/-- Before its effect the write changes registers alone: its own, and those that log a locked field. -/
theorem State.ctrlWritten_rest : s.ctrlWritten w = { s with regs := (s.ctrlWritten w).regs } :=
  State.fieldsWritten_rest

theorem State.ctrlWritten_step : State.RingStep ctrlRegs s (s.ctrlWritten w) where
  rest := by rw [State.ctrlWritten_rest]
  regs hs := State.fieldsWritten_regs hs

end

section
variable {s : State} {w : Nat}

theorem State.reg_ctrlWritten (hs : SMap.wf regReset s.regs = true) :
    (s.ctrlWritten w).reg Reg.FE_RING_CTRL = ringCtrlValue (!s.unlocked) (s.reg Reg.FE_RING_CTRL) w := by
  rw [State.ctrlWritten, State.reg_fieldsWritten hs (by decide)]
  exact Nat.mod_eq_of_lt (ringCtrlValue_lt (s.reg_lt _) _ _)

/-! ### What a change of EN leaves -/

/-- The registers that starting and stopping the ring may set. -/
def ringCtrlRegs : List Nat := Reg.FE_RING_HEAD :: ctrlRegs ++ periodRegs

/-- R503: a good set-up starts the ring. -/
def State.ringReady (s : State) : State :=
  let h := s.reg Reg.FE_RING_START
  let l := if s.frontBusy then s.ring.arrived.take 1 else []
  { s with ring := { s.ring with
      started := true
      halted := false
      lineLive := true
      lineAt := s.reg64 Reg.FE_STATUS_ADDR
      closing := false
      commits := 0
      errCount := 0
      lastErr := 0
      quiet := 0
      adapt := false
      reading := 0
      readHead := if l.any fun x => x.1 == h then (h + 1) % 2 ^ 32 else h
      arrived := l
      stalled := false } }

theorem State.ringOn_good (h : s.ringSetupOk = true) :
    s.ringOn = ((s.ringReady.setReg Reg.FE_RING_HEAD (s.reg Reg.FE_RING_START)).pollPeriod).writeLine := by
  rw [State.ringOn, if_pos h]
  rfl

theorem State.ringOn_bad (h : s.ringSetupOk = false) :
    s.ringOn = ({ s with ring := { s.ring with started := false, lineLive := false } } : State).ringFlag 3 := by
  rw [State.ringOn, if_neg (by simp [h])]

/-- R503: the ring with its set-up good: what it shows, and the line it writes. -/
theorem State.ringOn_spec (hs : SMap.wf regReset s.regs = true) (h : s.ringSetupOk = true) :
    State.RingStep (Reg.FE_RING_HEAD :: periodRegs) s s.ringOn ∧
    s.ringOn.reg Reg.FE_RING_HEAD = s.reg Reg.FE_RING_START ∧
    (∃ a q l, s.ringOn.ring = { s.ringReady.ring with
      adapt := a, quiet := q, wseq := (s.ring.wseq + 1) % 2 ^ 32, shown := l }) ∧
    (s.bme = true → s.resetPend = none → s.inD3 = false → ∃ l, l.length = 64 ∧
      s.ringOn.out = s.out ++ s.tlps (.write (s.reg64 Reg.FE_STATUS_ADDR) false l)) := by
  rw [State.ringOn_good h]
  have hready : State.RingStep (Reg.FE_RING_HEAD :: periodRegs) s
      (s.ringReady.setReg Reg.FE_RING_HEAD (s.reg Reg.FE_RING_START)) :=
    State.RingStep.trans (t := s.ringReady) (.setRing s _) (.setReg _ _ (List.mem_cons_self ..))
  have hhead : (s.ringReady.setReg Reg.FE_RING_HEAD (s.reg Reg.FE_RING_START)).reg Reg.FE_RING_HEAD =
      s.reg Reg.FE_RING_START :=
    (State.reg_setReg_same (s := s.ringReady) hs _ _).trans (Nat.mod_eq_of_lt (s.reg_lt _))
  obtain ⟨hperiod, ⟨a, q, hring⟩, hout, -, hcfg⟩ :=
    (s.ringReady.setReg Reg.FE_RING_HEAD (s.reg Reg.FE_RING_START)).pollPeriod_spec
  have hstep := hready.trans (hperiod.mono (List.subset_cons_self _ _))
  have hsame := hperiod.sameRegs (hready.wf hs)
  generalize (s.ringReady.setReg Reg.FE_RING_HEAD (s.reg Reg.FE_RING_START)).pollPeriod = w at *
  replace hring : w.ring = { s.ringReady.ring with adapt := a, quiet := q } := hring
  have hline : State.RingStep (Reg.FE_RING_HEAD :: periodRegs) w w.writeLine := by
    rw [State.writeLine_eq]
    exact .of_regs rfl
  refine ⟨hstep.trans hline, ?_, ⟨a, q, w.lineFields, ?_⟩, fun hbme hpend hd3 => ?_⟩
  · have hregs : w.writeLine.regs = w.regs := by rw [State.writeLine_eq]
    rw [State.reg, hregs, ← State.reg, hsame _ (by decide), hhead]
  · rw [State.writeLine_eq, State.lineShown, hring]
    rfl
  · have hwpend : w.resetPend = none := (congrArg State.resetPend hstep.rest :).trans hpend
    have hwcfg : w.cfg = s.cfg := hcfg
    have hwd3 : w.inD3 = false := by rw [State.inD3, State.cfgD, hwcfg]; exact hd3
    have hwbme : w.bme = true := by rw [State.bme, State.cfgD, hwcfg]; exact hbme
    have hwout : w.out = s.out := hout
    refine ⟨_, length_lineBytes ((w.ring.wseq + 1) % 2 ^ 32) w.ns w.lineFields, ?_⟩
    rw [State.writeLine_eq, State.out_lineSent hwpend hwbme hwd3, hwout, State.tlps_congr hwcfg, hring]
    rfl

/-- R503: with a bad set-up it stays stopped. -/
theorem State.ringOn_fails (hs : SMap.wf regReset s.regs = true) (h : s.ringSetupOk = false) :
    State.RingStep flagRegs s s.ringOn ∧ s.ringOn.ring.started = false ∧
    bitOf (s.ringOn.reg Reg.FE_RING_STATUS) 3 = true := by
  have hbit := State.bitOf_ringFlag (s := { s with ring := { s.ring with started := false, lineLive := false } }) hs
    (b := 3) (by decide) 3
  rw [decide_eq_true rfl, Bool.or_true] at hbit
  rw [State.ringOn_bad h]
  exact ⟨(State.RingStep.setRing s _).trans (.ringFlag _ _ (List.Subset.refl _)), by rw [State.ringFlag_ring], hbit⟩

/-! ### The write's effect -/

/-- R504: LOG2 stays while EN is 1. -/
def State.sizeKept (s : State) (old : Nat) : State :=
  if bitOf old 0 = true ∧ s.fld Reg.FE_RING_CTRL 5 1 ≠ bits old 5 1 then
    (s.setFld Reg.FE_RING_CTRL 5 1 (bits old 5 1)).ringFlag 2
  else s

theorem State.ringCtrlWrite_eq (s : State) (old : Nat) :
    s.ringCtrlWrite old = (s.sizeKept old).ringCtrl (bitOf old 0) := rfl

theorem State.sizeKept_of_off {old : Nat} (h : bitOf old 0 = false) : s.sizeKept old = s :=
  if_neg fun hb => by simp [h] at hb

theorem State.sizeKept_spec (hs : SMap.wf regReset s.regs = true) {old : Nat} (h : bitOf old 0 = true) :
    State.RingStep (Reg.FE_RING_CTRL :: flagRegs) s (s.sizeKept old) ∧ (s.sizeKept old).ring = s.ring ∧
    (s.sizeKept old).fld Reg.FE_RING_CTRL 0 0 = s.fld Reg.FE_RING_CTRL 0 0 ∧
    (s.sizeKept old).fld Reg.FE_RING_CTRL 5 1 = bits old 5 1 ∧
    (s.fld Reg.FE_RING_CTRL 5 1 ≠ bits old 5 1 →
      bitOf ((s.sizeKept old).reg Reg.FE_RING_STATUS) 2 = true) := by
  unfold State.sizeKept
  split
  next hne =>
    have hw := State.wf_setFld hs Reg.FE_RING_CTRL 5 1 (bits old 5 1)
    have hflag := State.RingStep.ringFlag (l := flagRegs) (s.setFld Reg.FE_RING_CTRL 5 1 (bits old 5 1)) 2
      (List.Subset.refl _)
    have hctrl := hflag.sameRegs hw Reg.FE_RING_CTRL (by decide)
    refine ⟨State.RingStep.trans (.setReg s _ (List.mem_cons_self ..)) (hflag.mono (List.subset_cons_self _ _)),
      State.ringFlag_ring _ _, ?_, ?_, fun _ => ?_⟩
    · rw [State.fld, hctrl, ← State.fld, State.fld_setFld_disjoint hs _ (by decide) (by decide) (by decide)]
    · rw [State.fld, hctrl, ← State.fld, State.fld_setFld_same hs _ (by decide) (by decide), bits, Nat.mod_mod]
    · rw [State.bitOf_ringFlag hw (by decide), decide_eq_true rfl, Bool.or_true]
  next hne =>
    have heq : s.fld Reg.FE_RING_CTRL 5 1 = bits old 5 1 := by simpa [h] using hne
    exact ⟨.refl s, rfl, rfl, heq, fun hno => absurd heq hno⟩

/-- R512: where EN stays as it is, only the period is brought in line. -/
theorem State.ringCtrl_same {was : Bool} (h : bitOf (s.reg Reg.FE_RING_CTRL) 0 = was) :
    State.RingStep periodRegs s (s.ringCtrl was) ∧
    ∃ a q, (s.ringCtrl was).ring = { s.ring with adapt := a, quiet := q } := by
  have hctrl : s.ringCtrl was = if s.ring.started then s.pollPeriod else s := by
    rw [State.ringCtrl, h]
    cases was <;> rfl
  rw [hctrl]
  split
  · exact ⟨s.pollPeriod_spec.1, s.pollPeriod_spec.2.1⟩
  · exact ⟨.refl s, _, _, rfl⟩

theorem State.ringCtrl_starts (h : bitOf (s.reg Reg.FE_RING_CTRL) 0 = true) : s.ringCtrl false = s.ringOn := by
  rw [State.ringCtrl, h]
  rfl

theorem State.ringCtrl_stops (h : bitOf (s.reg Reg.FE_RING_CTRL) 0 = false) : s.ringCtrl true = s.ringOff := by
  rw [State.ringCtrl, h]
  rfl

/-! ### The whole write -/

/-- No alert depends on the ring. -/
theorem State.RingStep.alertEdge {t : State} (h : State.RingStep ringCtrlRegs s t)
    (hs : SMap.wf regReset s.regs = true) : s.alertEdge t = t := by
  have hsame := h.sameRegs hs
  have htwo : upto 2 = [0, 1] := rfl
  have halert : s.smbAlert = t.smbAlert := by
    simp only [State.smbAlert, htwo, List.any_cons, List.any_nil]
    rw [hsame Reg.PWR_THERM (by decide), hsame (Reg.PWR_WM_STATE + 32 * 0) (by decide),
      hsame (Reg.PWR_WM_ROUTE + 32 * 0) (by decide), hsame (Reg.PWR_WM_STATE + 32 * 1) (by decide),
      hsame (Reg.PWR_WM_ROUTE + 32 * 1) (by decide)]
  rw [State.alertEdge, if_pos halert]

/-- What a write of FE_RING_CTRL comes to, by what its effect leaves. -/
theorem State.hostWriteReg_of_effect (hs : SMap.wf regReset s.regs = true) {value : Word32}
    (h : s.reach .bar0 Reg.FE_RING_CTRL = .full) {t : State}
    (ht : (s.ctrlWritten value.toNat).ringCtrlWrite (s.reg Reg.FE_RING_CTRL) = t)
    (hstep : State.RingStep ringCtrlRegs s t) :
    s.hostWriteReg Reg.FE_RING_CTRL 15 value = t.dropSnaps Reg.FE_RING_CTRL := by
  rw [State.hostWriteReg_ringCtrl s value h, ht, hstep.alertEdge hs]

theorem State.ctrlWritten_bit (hs : SMap.wf regReset s.regs = true) :
    bitOf ((s.ctrlWritten w).reg Reg.FE_RING_CTRL) 0 = bitOf w 0 := by
  rw [State.reg_ctrlWritten hs]
  exact testBit_ringCtrlValue _ _ _ (by decide)

theorem State.ctrlWritten_size (hs : SMap.wf regReset s.regs = true) :
    (s.ctrlWritten w).fld Reg.FE_RING_CTRL 5 1 = bits w 5 1 := by
  rw [State.fld, State.reg_ctrlWritten hs, bits_ringCtrlValue]

end

/-- RING_ENABLE writes EN 1, and RING_DISABLE 0; both write LOG2 as it is given. -/
theorem bitOf_enable (v : Word32) : bitOf (v ||| 1).toNat 0 = true := by
  simp [bitOf, BitVec.toNat_or]

theorem bitOf_disable (v : Word32) : bitOf (v &&& 0xFFFFFFFE).toNat 0 = false := by
  simp [bitOf, BitVec.toNat_and]

theorem bits_enable (v : Word32) : bits (v ||| 1).toNat 5 1 = bits v.toNat 5 1 := by
  refine Nat.eq_of_testBit_eq fun i => ?_
  have hone : (1 : Word32).toNat.testBit (1 + i) = false := Nat.testBit_two_pow_of_ne (n := 0) (by omega)
  rw [testBit_bits, testBit_bits, BitVec.toNat_or, Nat.testBit_or, hone, Bool.or_false]

section
variable {s : State} {value : Word32}

@[simp] theorem State.dropSnaps_ring (s : State) (base : Nat) : (s.dropSnaps base).ring = s.ring := rfl

/-- The set-up that RING_ENABLE checks goes by LOG2 as it is written. -/
theorem State.ringSetupOk_ctrlWritten (hs : SMap.wf regReset s.regs = true) (w : Nat) :
    (s.ctrlWritten w).ringSetupOk = (s.setFld Reg.FE_RING_CTRL 5 1 (bits w 5 1)).ringSetupOk := by
  have hsame := (s.ctrlWritten_step w).sameRegs hs
  have hset : s.SameRegs (s.setFld Reg.FE_RING_CTRL 5 1 (bits w 5 1)) ctrlRegs :=
    State.sameRegs_setReg hs _ (List.mem_cons_self ..)
  have hlog : (s.setFld Reg.FE_RING_CTRL 5 1 (bits w 5 1)).fld Reg.FE_RING_CTRL 5 1 = bits w 5 1 := by
    rw [State.fld_setFld_same hs _ (by decide) (by decide), bits, Nat.mod_mod]
  simp only [State.ringSetupOk, State.ctrlWritten_size hs, hlog]
  rw [hsame.reg64 (o := Reg.FE_RING_BASE) (by decide) (by decide),
    hsame.reg64 (o := Reg.FE_DB_ADDR) (by decide) (by decide),
    hsame.reg64 (o := Reg.FE_STATUS_ADDR) (by decide) (by decide), hsame Reg.ALM_BOOT_STATUS (by decide),
    hset.reg64 (o := Reg.FE_RING_BASE) (by decide) (by decide),
    hset.reg64 (o := Reg.FE_DB_ADDR) (by decide) (by decide),
    hset.reg64 (o := Reg.FE_STATUS_ADDR) (by decide) (by decide), hset Reg.ALM_BOOT_STATUS (by decide)]

/-- R503: EN set with a good set-up. -/
theorem ringEnable_starts (hs : SMap.wf regReset s.regs = true) (hreach : s.reach .bar0 Reg.FE_RING_CTRL = .full)
    (hwas : bitOf (s.reg Reg.FE_RING_CTRL) 0 = false)
    (hok : (s.setFld Reg.FE_RING_CTRL 5 1 (bits value.toNat 5 1)).ringSetupOk = true) :
    Does (.ringEnable value) s fun t =>
      bitOf (t.reg Reg.FE_RING_CTRL) 0 = true ∧ t.fld Reg.FE_RING_CTRL 5 1 = bits value.toNat 5 1 ∧
      t.reg Reg.FE_RING_HEAD = s.reg Reg.FE_RING_START ∧
      (∃ a q l, t.ring = { s.ringReady.ring with
        adapt := a, quiet := q, wseq := (s.ring.wseq + 1) % 2 ^ 32, shown := l }) ∧
      (s.bme = true → s.resetPend = none → s.inD3 = false → ∃ l, l.length = 64 ∧
        t.out = s.out ++ s.tlps (.write (s.reg64 Reg.FE_STATUS_ADDR) false l)) := by
  have hbit := State.ctrlWritten_bit (w := (value ||| 1).toNat) hs
  have hsize := State.ctrlWritten_size (w := (value ||| 1).toNat) hs
  have hset := State.ringSetupOk_ctrlWritten hs (value ||| 1).toNat
  rw [bitOf_enable] at hbit
  rw [bits_enable] at hsize hset
  rw [hok] at hset
  have hrest := s.ctrlWritten_rest (value ||| 1).toNat
  have hstep := s.ctrlWritten_step (value ||| 1).toNat
  have heffect : (s.ctrlWritten (value ||| 1).toNat).ringCtrlWrite (s.reg Reg.FE_RING_CTRL) =
      (s.ctrlWritten (value ||| 1).toNat).ringOn := by
    rw [State.ringCtrlWrite_eq, State.sizeKept_of_off hwas, hwas, State.ringCtrl_starts hbit]
  have hwrite := State.hostWriteReg_of_effect hs hreach heffect
  generalize s.ctrlWritten (value ||| 1).toNat = w at *
  obtain ⟨hon, hhead, hring, hout⟩ := State.ringOn_spec (hstep.wf hs) hset
  have hsame := hstep.sameRegs hs
  have hsame' := hon.sameRegs (hstep.wf hs)
  have hexec : exec (.ringEnable value) s = .next (w.ringOn.dropSnaps Reg.FE_RING_CTRL) :=
    congrArg Host.Outcome.next (hwrite ((hstep.mono (by decide)).trans (hon.mono (by decide))))
  have hready : w.ringReady.ring = s.ringReady.ring := by
    have hbusy : w.frontBusy = s.frontBusy := (congrArg State.frontBusy hrest :)
    have hwring : w.ring = s.ring := (congrArg State.ring hrest :)
    simp only [State.ringReady, hbusy, hwring, hsame Reg.FE_RING_START (by decide),
      hsame.reg64 (o := Reg.FE_STATUS_ADDR) (by decide) (by decide)]
  have hwseq : w.ring.wseq = s.ring.wseq := (congrArg (fun t : State => t.ring.wseq) hrest :)
  refine ⟨_, hexec, ?_, ?_, ?_, ?_, fun hbme hpend hd3 => ?_⟩
  · exact (congrArg (bitOf · 0) (hsame' Reg.FE_RING_CTRL (by decide))).trans hbit
  · exact (congrArg (bits · 5 1) (hsame' Reg.FE_RING_CTRL (by decide))).trans hsize
  · exact hhead.trans (hsame Reg.FE_RING_START (by decide))
  · rw [hready, hwseq] at hring
    exact hring
  · obtain ⟨l, hl, hsent⟩ := hout ((congrArg State.bme hrest :).trans hbme)
      ((congrArg State.resetPend hrest :).trans hpend) ((congrArg State.inD3 hrest :).trans hd3)
    refine ⟨l, hl, hsent.trans ?_⟩
    have hout : w.out = s.out := (congrArg State.out hrest :)
    have hcfg : w.cfg = s.cfg := (congrArg State.cfg hrest :)
    rw [hout, State.tlps_congr hcfg, hsame.reg64 (by decide) (by decide)]

/-- R503: EN set with a bad one. -/
theorem ringEnable_fails (hs : SMap.wf regReset s.regs = true) (hreach : s.reach .bar0 Reg.FE_RING_CTRL = .full)
    (hwas : bitOf (s.reg Reg.FE_RING_CTRL) 0 = false)
    (hbad : (s.setFld Reg.FE_RING_CTRL 5 1 (bits value.toNat 5 1)).ringSetupOk = false) :
    Does (.ringEnable value) s fun t =>
      bitOf (t.reg Reg.FE_RING_CTRL) 0 = true ∧ t.ring.started = false ∧
      bitOf (t.reg Reg.FE_RING_STATUS) 3 = true ∧ t.reg Reg.FE_RING_HEAD = s.reg Reg.FE_RING_HEAD := by
  have hbit := State.ctrlWritten_bit (w := (value ||| 1).toNat) hs
  have hset := State.ringSetupOk_ctrlWritten hs (value ||| 1).toNat
  rw [bitOf_enable] at hbit
  rw [bits_enable, hbad] at hset
  have hstep := s.ctrlWritten_step (value ||| 1).toNat
  have heffect : (s.ctrlWritten (value ||| 1).toNat).ringCtrlWrite (s.reg Reg.FE_RING_CTRL) =
      (s.ctrlWritten (value ||| 1).toNat).ringOn := by
    rw [State.ringCtrlWrite_eq, State.sizeKept_of_off hwas, hwas, State.ringCtrl_starts hbit]
  have hwrite := State.hostWriteReg_of_effect hs hreach heffect
  generalize s.ctrlWritten (value ||| 1).toNat = w at *
  obtain ⟨hon, hstopped, hflag⟩ := State.ringOn_fails (hstep.wf hs) hset
  have hexec : exec (.ringEnable value) s = .next (w.ringOn.dropSnaps Reg.FE_RING_CTRL) :=
    congrArg Host.Outcome.next (hwrite ((hstep.mono (by decide)).trans (hon.mono (by decide))))
  have hsame := hstep.sameRegs hs
  have hsame' := hon.sameRegs (hstep.wf hs)
  refine ⟨_, hexec, ?_, hstopped, hflag, ?_⟩
  · exact (congrArg (bitOf · 0) (hsame' Reg.FE_RING_CTRL (by decide))).trans hbit
  · exact (hsame' Reg.FE_RING_HEAD (by decide)).trans (hsame Reg.FE_RING_HEAD (by decide))

/-- A flag of the ring stays set when the period is brought in line. -/
theorem State.flag_pollPeriod (hs : SMap.wf regReset s.regs = true) {i : Nat}
    (h : bitOf (s.reg Reg.FE_RING_STATUS) i = true) : bitOf (s.pollPeriod.reg Reg.FE_RING_STATUS) i = true := by
  have hnow : Reg.FE_RING_STATUS ≠ Reg.FE_POLL_NOW := by decide
  unfold State.pollPeriod
  split
  · split
    · split <;> exact (congrArg (bitOf · i) (State.reg_setReg_other hs _ hnow)).trans h
    · have hflag := State.RingStep.ringFlag (l := flagRegs) { s with ring := { s.ring with adapt := false } } 3
        (List.Subset.refl _)
      rw [State.reg_setReg_other (hflag.wf hs) _ hnow,
        State.bitOf_ringFlag (s := { s with ring := { s.ring with adapt := false } }) hs (by decide)]
      exact Bool.or_eq_true_iff.2 (.inl h)
  · exact (congrArg (bitOf · i) (State.reg_setReg_other hs _ hnow)).trans h

theorem State.flag_ringCtrl (hen : bitOf (s.reg Reg.FE_RING_CTRL) 0 = true) (hs : SMap.wf regReset s.regs = true)
    {i : Nat} (h : bitOf (s.reg Reg.FE_RING_STATUS) i = true) :
    bitOf ((s.ringCtrl true).reg Reg.FE_RING_STATUS) i = true := by
  have hctrl : s.ringCtrl true = if s.ring.started then s.pollPeriod else s := by
    rw [State.ringCtrl, hen]
    rfl
  rw [hctrl]
  split
  · exact State.flag_pollPeriod hs h
  · exact h

theorem bits_ringCtrl (v : Nat) : bits v 5 0 = bits v 0 0 + 2 * bits v 5 1 := by
  norm_num [bits]
  omega

/-- R504: with EN 1 it starts nothing, and LOG2 stays. -/
theorem ringEnable_again (hs : SMap.wf regReset s.regs = true) (hreach : s.reach .bar0 Reg.FE_RING_CTRL = .full)
    (hwas : bitOf (s.reg Reg.FE_RING_CTRL) 0 = true) : Does (.ringEnable value) s fun t =>
      t.ring = { s.ring with adapt := t.ring.adapt, quiet := t.ring.quiet } ∧
      t.fld Reg.FE_RING_CTRL 5 0 = s.fld Reg.FE_RING_CTRL 5 0 ∧
      (bits value.toNat 5 1 ≠ s.fld Reg.FE_RING_CTRL 5 1 → bitOf (t.reg Reg.FE_RING_STATUS) 2 = true) := by
  have hbit := State.ctrlWritten_bit (w := (value ||| 1).toNat) hs
  have hsize := State.ctrlWritten_size (w := (value ||| 1).toNat) hs
  rw [bitOf_enable] at hbit
  rw [bits_enable] at hsize
  have hrest := s.ctrlWritten_rest (value ||| 1).toNat
  have hstep := s.ctrlWritten_step (value ||| 1).toNat
  have heffect := (s.ctrlWritten (value ||| 1).toNat).ringCtrlWrite_eq (s.reg Reg.FE_RING_CTRL)
  rw [hwas] at heffect
  have hwrite := State.hostWriteReg_of_effect hs hreach heffect
  generalize s.ctrlWritten (value ||| 1).toNat = w at *
  obtain ⟨hkept, hring, hen, hlog, hignored⟩ := State.sizeKept_spec (hstep.wf hs) hwas
  generalize w.sizeKept (s.reg Reg.FE_RING_CTRL) = x at *
  have hx : bitOf (x.reg Reg.FE_RING_CTRL) 0 = true := by
    rw [State.bitOf_reg, hen, ← State.bitOf_reg, hbit]
  obtain ⟨hsame, a, q, hlast⟩ := State.ringCtrl_same hx
  have hkeep := hsame.sameRegs (hkept.wf (hstep.wf hs))
  have hexec : exec (.ringEnable value) s = .next ((x.ringCtrl true).dropSnaps Reg.FE_RING_CTRL) :=
    congrArg Host.Outcome.next (hwrite (((hstep.mono (by decide)).trans (hkept.mono (by decide))).trans
      (hsame.mono (by decide))))
  have hctrl := hkeep Reg.FE_RING_CTRL (by decide)
  have hold : w.ring = s.ring := (congrArg State.ring hrest :)
  refine ⟨_, hexec, ?_, ?_, fun hne => ?_⟩
  · rw [State.dropSnaps_ring, hlast, hring, hold]
  · refine (congrArg (bits · 5 0) hctrl).trans ?_
    have hone : bits (x.reg Reg.FE_RING_CTRL) 0 0 = bits (s.reg Reg.FE_RING_CTRL) 0 0 := by
      rw [bitOf_eq_bits, decide_eq_true_iff] at hx hwas
      rw [hx, hwas]
    rw [State.fld, bits_ringCtrl, bits_ringCtrl, hone]
    exact congrArg (_ + 2 * ·) hlog
  · refine State.flag_ringCtrl hx ?_ (hignored ?_)
    · exact hkept.wf (hstep.wf hs)
    · rw [hsize]
      exact hne

/-- R504: EN cleared. -/
theorem ringDisable_stops (hs : SMap.wf regReset s.regs = true)
    (hreach : s.reach .bar0 Reg.FE_RING_CTRL = .full) (hwas : bitOf (s.reg Reg.FE_RING_CTRL) 0 = true) :
    Does (.ringDisable value) s fun t =>
      bitOf (t.reg Reg.FE_RING_CTRL) 0 = false ∧ t.ring = s.ringOff.ring ∧ t.entries = s.entries ∧
      s.SameBytes t := by
  have hbit := State.ctrlWritten_bit (w := (value &&& 0xFFFFFFFE).toNat) hs
  rw [bitOf_disable] at hbit
  have hrest := s.ctrlWritten_rest (value &&& 0xFFFFFFFE).toNat
  have hstep := s.ctrlWritten_step (value &&& 0xFFFFFFFE).toNat
  have heffect := (s.ctrlWritten (value &&& 0xFFFFFFFE).toNat).ringCtrlWrite_eq (s.reg Reg.FE_RING_CTRL)
  rw [hwas] at heffect
  have hwrite := State.hostWriteReg_of_effect hs hreach heffect
  generalize s.ctrlWritten (value &&& 0xFFFFFFFE).toNat = w at *
  obtain ⟨hkept, hring, hen, -, -⟩ := State.sizeKept_spec (hstep.wf hs) hwas
  generalize w.sizeKept (s.reg Reg.FE_RING_CTRL) = x at *
  have hx : bitOf (x.reg Reg.FE_RING_CTRL) 0 = false := by
    rw [State.bitOf_reg, hen, ← State.bitOf_reg, hbit]
  rw [State.ringCtrl_stops hx] at hwrite
  have hall : State.RingStep ringCtrlRegs s x := (hstep.mono (by decide)).trans (hkept.mono (by decide))
  have hoff : State.RingStep ringCtrlRegs s x.ringOff := hall.trans (.setRing x _)
  have hexec : exec (.ringDisable value) s = .next (x.ringOff.dropSnaps Reg.FE_RING_CTRL) :=
    congrArg Host.Outcome.next (hwrite hoff)
  refine ⟨_, hexec, hx, ?_, (congrArg State.entries hall.rest :), hoff.sameBytes⟩
  have hxring : x.ring = s.ring := hring.trans (congrArg State.ring hrest :)
  have hcopy : x.hcopy = s.hcopy := (congrArg State.hcopy hall.rest :)
  have hrmt : x.rmt = s.rmt := (congrArg State.rmt hall.rest :)
  have hbusy : x.frontBusy = s.frontBusy := by
    rw [State.frontBusy, State.frontBusy, hxring, hcopy, hrmt]
  rw [State.dropSnaps_ring, State.ringOff, State.ringOff, hbusy, hxring]

/-- R504: with EN 0 it stops nothing. -/
theorem ringDisable_again (hs : SMap.wf regReset s.regs = true)
    (hreach : s.reach .bar0 Reg.FE_RING_CTRL = .full) (hwas : bitOf (s.reg Reg.FE_RING_CTRL) 0 = false) :
    Does (.ringDisable value) s fun t =>
      t.ring = { s.ring with adapt := t.ring.adapt, quiet := t.ring.quiet } ∧
      bitOf (t.reg Reg.FE_RING_CTRL) 0 = false := by
  have hbit := State.ctrlWritten_bit (w := (value &&& 0xFFFFFFFE).toNat) hs
  rw [bitOf_disable] at hbit
  have hrest := s.ctrlWritten_rest (value &&& 0xFFFFFFFE).toNat
  have hstep := s.ctrlWritten_step (value &&& 0xFFFFFFFE).toNat
  have heffect := (s.ctrlWritten (value &&& 0xFFFFFFFE).toNat).ringCtrlWrite_eq (s.reg Reg.FE_RING_CTRL)
  rw [State.sizeKept_of_off hwas, hwas] at heffect
  have hwrite := State.hostWriteReg_of_effect hs hreach heffect
  generalize s.ctrlWritten (value &&& 0xFFFFFFFE).toNat = w at *
  obtain ⟨hsame, a, q, hlast⟩ := State.ringCtrl_same hbit
  have hexec : exec (.ringDisable value) s = .next ((w.ringCtrl false).dropSnaps Reg.FE_RING_CTRL) :=
    congrArg Host.Outcome.next (hwrite ((hstep.mono (by decide)).trans (hsame.mono (by decide))))
  have hring : w.ring = s.ring := (congrArg State.ring hrest :)
  refine ⟨_, hexec, ?_, ?_⟩
  · rw [State.dropSnaps_ring, hlast, hring]
  · exact (congrArg (bitOf · 0) (hsame.sameRegs (hstep.wf hs) Reg.FE_RING_CTRL (by decide))).trans hbit

end

/-- Settles O40: by whether EN was 1, and whether the set-up is good. That the limits of the period are tested
when EN is set, and that an entry still in its admission is not read again, are readings of the model's (log
entry 70). -/
theorem ringEnableStartsAndStopsTheRing : Obligations.RingEnableStartsAndStopsTheRing := by
  intro s value hc hreach was u
  have hs := (State.kept_iff.2 ⟨rfl, hc⟩).regs_ok
  refine ⟨fun hwas hok => ?starts, fun hwas hbad => ringEnable_fails hs hreach hwas hbad,
    fun hwas => ringEnable_again hs hreach hwas, fun hwas => ?stops, fun hwas => ringDisable_again hs hreach hwas⟩
  case starts =>
    refine (ringEnable_starts hs hreach hwas hok).imp fun t => ?_
    rintro ⟨hen, hlog, hhead, ⟨a, q, l, hring⟩, hout⟩
    rw [hring]
    refine ⟨hen, hlog, hhead, rfl, rfl, rfl, rfl, rfl, rfl, fun hx => if_neg fun hany => ?_, rfl, rfl, hout⟩
    obtain ⟨x, hmem, he⟩ := List.any_eq_true.1 hany
    exact hx x hmem (beq_iff_eq.1 he)
  case stops =>
    refine (ringDisable_stops hs hreach hwas).imp fun t => ?_
    rintro ⟨hen, hring, hentries, hbytes⟩
    rw [hring]
    exact ⟨hen, rfl, rfl, rfl, rfl, rfl, rfl, hentries, hbytes⟩

end Sys2Proof.Machine
end

section
/-! SUPPORT. Accesses that only read, and the checks that make them: what they leave of the state, for the
relocation and the prefetching of operations. -/

namespace Sys2Proof.Machine

/-! ### What a read may change -/

/-- `t` is `s` but for registers, notices, the errors of local memory, what goes to the host and what PCIe
reports, and the free values drawn. -/
def State.ReadsOnly (s t : State) : Prop :=
  t = { s with
    regs := t.regs, msixReq := t.msixReq, pba := t.pba, ecc := t.ecc, corrQ := t.corrQ, out := t.out
    held := t.held, cfg := t.cfg, fresh := t.fresh }

namespace State.ReadsOnly
variable {s t u : State}

theorem of_eq {r m p e q o k c f} (h : t = { s with
    regs := r, msixReq := m, pba := p, ecc := e, corrQ := q, out := o, held := k, cfg := c, fresh := f }) :
    s.ReadsOnly t := by
  subst h
  rfl

theorem refl (s : State) : s.ReadsOnly s := rfl

theorem trans (h : s.ReadsOnly t) (h' : t.ReadsOnly u) : s.ReadsOnly u :=
  Eq.trans h' (congrArg (fun x : State => { x with
    regs := u.regs, msixReq := u.msixReq, pba := u.pba, ecc := u.ecc, corrQ := u.corrQ, out := u.out
    held := u.held, cfg := u.cfg, fresh := u.fresh }) h)

theorem bump (s : State) (o n : Nat) : s.ReadsOnly (s.bump o n) := rfl

theorem of_ringStep {l : List Nat} (h : State.RingStep l s t) (hr : t.ring = s.ring) : s.ReadsOnly t := by
  have h := h.rest
  rw [hr] at h
  exact of_eq h

theorem emitHost (s : State) (o : Outbound) : s.ReadsOnly (s.emitHost o) :=
  of_ringStep (l := []) (.emitHost s o) (State.emitHost_ring s o)

theorem hostErr (s : State) (code iova : Nat) : s.ReadsOnly (s.hostErr code iova) :=
  of_ringStep (.hostErr s code iova (List.Subset.refl _)) (s.hostErr_ring code iova)

theorem rmtFail (s : State) (a status : Nat) : s.ReadsOnly (s.rmtFail a status) := rfl

theorem memErr (s : State) (a : Nat) (ue byScrub : Bool) (bit : Nat) : s.ReadsOnly (s.memErr a ue byScrub bit) :=
  of_eq (State.Counts.memErr s a ue byScrub bit rfl).rest

theorem queueCorr (s : State) (line : Nat) : s.ReadsOnly (s.queueCorr line) := by
  unfold State.queueCorr
  split
  · exact refl s
  · rfl

theorem eccRead (s : State) (l : List (Nat × EccErr)) : s.ReadsOnly (s.eccRead l).1 := by
  fun_induction State.eccRead s l with
  | case1 s => exact refl s
  | case2 _ _ _ ih => exact ih
  | case3 _ _ _ _ ih => exact ((memErr _ _ _ _ _).trans (queueCorr _ _)).trans ih
  | case4 _ _ _ _ _ ih => exact (memErr _ _ _ _ _).trans ih

theorem readLocal (s : State) (a len : Nat) : s.ReadsOnly (s.readLocal a len).1 := eccRead s _

end State.ReadsOnly

/-! ### The accesses of one step -/

/-- From `c` to `d` a step in the making has only read. -/
def Ctx.ReadsOnly (c d : Ctx) : Prop := c.s.ReadsOnly d.s

namespace Ctx.ReadsOnly
variable {c d a : Ctx}

theorem of_s (h : d.s = c.s) : c.ReadsOnly d := by
  unfold Ctx.ReadsOnly
  rw [h]
  exact .refl _

theorem refl (c : Ctx) : c.ReadsOnly c := of_s rfl

theorem trans (h : c.ReadsOnly d) (h' : d.ReadsOnly a) : c.ReadsOnly a := State.ReadsOnly.trans h h'

theorem fail (c : Ctx) (code : FaultCode) (u : Nat) : c.ReadsOnly (c.fail code u) := of_s (Ctx.fail_s _ _ _)

theorem bad (c : Ctx) (code : FaultCode) : c.ReadsOnly (c.bad code) := of_s (Ctx.bad_s _ _)

theorem count (c : Ctx) (b : Bool) (o n : Nat) :
    c.ReadsOnly (if b then { c with s := c.s.bump o n } else c) := by
  split
  · exact State.ReadsOnly.bump _ _ _
  · exact refl c

theorem read (c : Ctx) (fe : Bool) (u len : Nat) : c.ReadsOnly (c.read fe u len).1 := by
  have hlocal {d : Ctx} {w : State} {l : Option (List Byte)} (h : d.s.readLocal u len = (w, l)) :
      d.s.ReadsOnly w := by
    have hr := State.ReadsOnly.readLocal d.s u len
    rwa [h] at hr
  have hfail (d : Ctx) (w : State) (code : FaultCode) (h : c.s.ReadsOnly w) :
      c.ReadsOnly (Ctx.fail { d with s := w } code u) :=
    trans (d := { d with s := w }) h (fail _ _ _)
  unfold Ctx.read
  extract_lets zeros d
  have hd : c.ReadsOnly d := .refl _
  split
  · exact hd
  split
  · exact hd.trans (fail _ _ _)
  split
  · split <;> rename_i heq
    · exact State.ReadsOnly.trans hd (hlocal heq)
    · exact hfail _ _ _ (State.ReadsOnly.trans hd (hlocal heq))
  · split <;> rename_i heq
    · exact State.ReadsOnly.trans hd (hlocal heq)
    · exact hfail _ _ _ (State.ReadsOnly.trans hd (hlocal heq))
  · split
    · exact hd
    have hw : c.s.ReadsOnly (d.s.emitHost (.read (d.s.iova u) len)) := .emitHost _ _
    split
    · split
      · exact hd
      · exact hfail _ _ _ (hw.trans (.hostErr _ _ _))
    · exact hw
  · split
    · exact hd
    split
    · exact hd
    · exact hfail _ _ _ (.rmtFail _ _ _)
    · exact hd
  · exact hd
  · exact hd.trans (fail _ _ _)

theorem bufRead (c : Ctx) (b : BufInfo) (ofs len : Nat) : c.ReadsOnly (c.bufRead b ofs len).1 := by
  unfold Ctx.bufRead
  split
  · split
    · exact refl c
    dsimp only
    split
    · exact read c _ _ _
    · exact (read c _ _ _).trans (State.ReadsOnly.of_ringStep (l := []) (.of_regs rfl) rfl)
  · exact read c _ _ _

theorem handleEntry (c : Ctx) (e : OpEnv) (h : Nat) : c.ReadsOnly (c.handleEntry e h).1 := by
  unfold Ctx.handleEntry
  split
  · exact refl c
  split
  · exact read c _ _ _
  · exact refl c

theorem relocate (c : Ctx) (e : OpEnv) (u : RefUse) : c.ReadsOnly (c.relocate e u).1 := by
  unfold Ctx.relocate
  split
  · exact refl c
  extract_lets d _ h r d' _ base size rights loc
  have hd : c.ReadsOnly d := count _ _ _ _
  have hd' : c.ReadsOnly d' := hd.trans (handleEntry d e h)
  clear_value d d'
  split_ifs <;> assumption

theorem relocateAll (c : Ctx) (e : OpEnv) (l : List RefUse) : c.ReadsOnly (c.relocateAll e l).1 :=
  List.foldlRecOn l _ (motive := fun q : Ctx × Nat => c.ReadsOnly q.1) (refl c)
    fun q hq u _ => hq.trans (relocate q.1 e u)

theorem checkOp (c : Ctx) (e : OpEnv) (w : Nat) (drs : SMap (Option DReg)) :
    c.ReadsOnly (c.checkOp e w drs).1 := by
  unfold Ctx.checkOp
  split
  · exact bad _ _
  split
  · exact bad _ _
  split
  · exact bad _ _
  extract_lets st1 st2
  split
  · exact bad _ _
  split
  · exact bad _ _
  split
  · exact bad _ _
  split
  · exact bad _ _
  extract_lets r
  have hr : c.ReadsOnly r.1 := by
    unfold r
    split
    · exact relocateAll c e _
    · exact (relocateAll c e _).trans (relocateAll _ e _)
  split
  · exact hr
  split <;> exact hr

theorem loadDesc (c : Ctx) (e : OpEnv) (w : Nat) (d : List Byte) : c.ReadsOnly (c.loadDesc e w d).1 := by
  unfold Ctx.loadDesc
  extract_lets r
  split
  · extract_lets r' a b
    have hb : c.ReadsOnly b.1 := by
      unfold b a
      split
      · exact (relocate c e _).trans (relocate _ e _)
      · exact relocate c e _
    clear_value b
    split_ifs
    · exact bad _ _
    · exact hb
    · exact hb.trans (bad _ _)
    · exact hb
  · exact bad _ _

theorem prepOp (c : Ctx) (e : OpEnv) (w : Nat) (drs : SMap (Option DReg)) : c.ReadsOnly (c.prepOp e w drs).1 := by
  unfold Ctx.prepOp
  extract_lets d r n inv a x
  have hd : c.ReadsOnly d := count _ _ _ _
  have hr : c.ReadsOnly r.1 := hd.trans (checkOp d e w drs)
  have ha : c.ReadsOnly a.1 := hr.trans (bufRead _ _ _ _)
  have hx : c.ReadsOnly x.1 := ha.trans (loadDesc _ _ _ _)
  clear_value d r a x
  split_ifs
  · exact hd
  · exact hr
  · exact hr.trans (bad _ _)
  · exact ha
  · exact hx
  · exact hr

theorem fetchPiece (c : Ctx) (b : BufInfo) (node ofs : Nat) : c.ReadsOnly (c.fetchPiece b node ofs).1 :=
  bufRead c _ _ _

theorem fetchOp (c : Ctx) (b : BufInfo) (node : Nat) (l : Lane) (ofs : Nat) :
    c.ReadsOnly (c.fetchOp b node l ofs).1 := by
  unfold Ctx.fetchOp
  split
  · exact bufRead c _ _ _
  · dsimp only
    split
    · exact refl c
    · exact fetchPiece c _ _ _

end Ctx.ReadsOnly

/-! ### Operations relocated, and lanes staged -/

/-- Relocating a lane's next operation only reads. -/
theorem Ctx.relocNext_readsOnly (c : Ctx) (e : OpEnv) (l : Lane) (row : Nat → Bool) :
    match c.relocNext e l row with
    | .none => True
    | .unread d _ _ => c.ReadsOnly d
    | .fault d _ _ _ _ => c.ReadsOnly d
    | .ok d _ => c.ReadsOnly d := by
  unfold Ctx.relocNext
  extract_lets at' r q
  have hr : c.ReadsOnly r.1 := .fetchOp c _ _ _ _
  have hq : c.ReadsOnly q.1 := hr.trans (.prepOp _ _ _ _)
  clear_value r q
  by_cases hfull : (if e.buf.sealAt.isSome = true then 1 else 8) ≤ l.ahead.length ∨ e.buf.laneEnd e.node ≤ at'.1
  · rw [if_pos hfull]; trivial
  rw [if_neg hfull]
  by_cases hwait : (r.1.stall || r.1.miss != []) = true
  · rw [if_pos hwait]; trivial
  rw [if_neg hwait]
  cases r.1.err with
  | some x => exact hr
  | none =>
    dsimp only
    by_cases hrow : row r.2.2 = false
    · rw [if_pos hrow]; trivial
    rw [if_neg hrow]
    by_cases hwait' : (q.1.stall || q.1.miss != []) = true
    · rw [if_pos hwait']; trivial
    rw [if_neg hwait']
    cases q.1.err with
    | some x => exact hq
    | none => exact hq

theorem Ctx.stageOps_readsOnly (c : Ctx) (e : OpEnv) (l : Lane) (n : Nat) :
    c.ReadsOnly (c.stageOps e l n).1 := by
  induction n generalizing c l with
  | zero => exact .refl c
  | succ n ih =>
    have hnext := c.relocNext_readsOnly e l fun _ => true
    unfold Ctx.stageOps
    split <;> rename_i heq <;> rw [heq] at hnext
    · exact Ctx.ReadsOnly.trans hnext (ih _ _)
    · exact hnext
    · exact .refl c
    · exact .refl c

theorem Ctx.stageLane_readsOnly (c : Ctx) (e : OpEnv) (node : Nat) : c.ReadsOnly (c.stageLane e node).1 := by
  unfold Ctx.stageLane
  extract_lets l r
  have hr : c.ReadsOnly r.1 := .fetchPiece c _ _ _
  split
  · exact .refl c
  split
  · exact hr
  split
  · exact hr
  · exact hr.trans (r.1.stageOps_readsOnly _ _ _)

end Sys2Proof.Machine
end

section
/-! Waits that are met by times reached and pennants read, and prefetches (O44). -/

namespace Sys2Proof.Machine

/-! ### What a pennant that is read does to the entries -/

section
variable {u x : Nat} {p : Bool → Bool}

/-- The waits of an entry once it has been seen. -/
def Entry.seen (u x : Nat) (p : Bool → Bool) (e : Entry) : Entry :=
  { e with waits := e.waits.map fun w => if waitSees u x p w then { w with met := true, watch := false } else w }

/-- An entry none of whose waits it meets stays as it is. -/
theorem Entry.seen_of_none {e : Entry} (h : e.waits.any (waitSees u x p) = false) : e.seen u x p = e := by
  have hw : (e.waits.map fun w => if waitSees u x p w then { w with met := true, watch := false } else w) =
      e.waits :=
    (List.map_congr_left fun w hw => if_neg (List.any_eq_false.1 h w hw)).trans (List.map_id' _)
  rw [Entry.seen, hw]

/-- The entry as it stands in `s`, once the pennant has been seen there. -/
def State.afterSeen (s : State) (u x : Nat) (p : Bool → Bool) (e : Entry) : Entry :=
  if e.active && !s.faulted e.idx then e.seen u x p else e

theorem State.afterSeen_idx (s : State) (e : Entry) : (s.afterSeen u x p e).idx = e.idx := by
  unfold State.afterSeen
  split <;> rfl

/-- A fault of an entry that has none is added to those raised. -/
theorem State.faults_raise {s : State} {i : Nat} (h : s.faulted i = false) (f : FaultInfo) :
    ∃ g : FaultInfo, (s.raise i f).faults = s.faults ++ [(i, g)] ∧ g.code = f.code := by
  have hnone : ¬ ((s.bump Reg.FE_FAULT_COUNT 1).faults.any fun x => x.1 == i) = true := by
    rw [State.faulted] at h
    exact Bool.not_eq_true _ ▸ h
  exact ⟨_, if_neg hnone, rfl⟩

/-- From `s` to `t` the pennant has been seen by the entries `l`, the first ones of `s`, and not yet by `r`. -/
structure State.Observed (u x : Nat) (p : Bool → Bool) (s : State) (l r : List Entry) (t : State) : Prop where
  rest : t = { s with entries := t.entries, faults := t.faults, regs := t.regs }
  entries : t.entries = l.map (s.afterSeen u x p) ++ r
  faults : ∃ new, t.faults = s.faults ++ new ∧ ∀ f ∈ new, f.1 ∈ l.map (·.idx)
  calm : bitOf x 63 = false → t.faults = s.faults
  poison : ∀ e ∈ l, e.active = true → s.faulted e.idx = false → e.tolerate = false → bitOf x 63 = true →
    e.waits.any (waitSees u x p) = true → ∃ f, (e.idx, f) ∈ t.faults ∧ f.code = .pennantPoison

namespace State.Observed
variable {s t : State} {l r : List Entry} {e : Entry}

theorem refl (s : State) : State.Observed u x p s [] s.entries s where
  rest := rfl
  entries := rfl
  faults := ⟨[], (List.append_nil _).symm, fun _ h => nomatch h⟩
  calm _ := rfl
  poison _ h := nomatch h

/-- An entry not seen yet has the faults it had. -/
theorem faulted (h : State.Observed u x p s l r t) (hne : ∀ y ∈ l, y.idx ≠ e.idx) :
    t.faulted e.idx = s.faulted e.idx := by
  obtain ⟨new, hf, hin⟩ := h.faults
  have hnone : (new.any fun f => f.1 == e.idx) = false := by
    refine List.any_eq_false.2 fun f hm he => ?_
    obtain ⟨y, hy, hi⟩ := List.mem_map.1 (hin f hm)
    exact hne y hy (hi.trans (beq_iff_eq.1 he))
  rw [State.faulted, hf, List.any_append, hnone, Bool.or_false, State.faulted]

theorem entries_setEntry (h : State.Observed u x p s l (e :: r) t) (hl : ∀ y ∈ l, y.idx ≠ e.idx)
    (hr : ∀ y ∈ r, y.idx ≠ e.idx) {e' : Entry} (he : e'.idx = e.idx) :
    (t.setEntry e').entries = l.map (s.afterSeen u x p) ++ e' :: r := by
  have hkeep {m : List Entry} (hm : ∀ y ∈ m, y.idx ≠ e.idx) :
      m.map (fun y => if y.idx = e'.idx then e' else y) = m :=
    (List.map_congr_left fun y hy => if_neg (he ▸ hm y hy)).trans (List.map_id' _)
  have hseen : ∀ y ∈ l.map (s.afterSeen u x p), y.idx ≠ e.idx := by
    intro y hy
    obtain ⟨z, hz, rfl⟩ := List.mem_map.1 hy
    rw [State.afterSeen_idx]
    exact hl z hz
  have hset : (t.setEntry e').entries = t.entries.map fun y => if y.idx = e'.idx then e' else y := rfl
  rw [hset, h.entries, List.map_append, List.map_cons, hkeep hseen, hkeep hr, if_pos he.symm]

/-- The next entry sees the pennant. -/
theorem step (h : State.Observed u x p s l (e :: r) t) (hl : ∀ y ∈ l, y.idx ≠ e.idx)
    (hr : ∀ y ∈ r, y.idx ≠ e.idx) : State.Observed u x p s (l ++ [e]) r (t.observeEntry u x p e) := by
  obtain ⟨new, hf, hin⟩ := h.faults
  have hold : ∀ f ∈ new, f.1 ∈ (l ++ [e]).map (·.idx) := fun f hm => by
    rw [List.map_append]
    exact List.mem_append_left _ (hin f hm)
  have hfaulted := h.faulted hl
  by_cases hgo : (e.active && !s.faulted e.idx && e.waits.any (waitSees u x p)) = true
  case neg =>
    have hstay : t.observeEntry u x p e = t := by rw [State.observeEntry, hfaulted, if_neg hgo]
    have hsame : s.afterSeen u x p e = e := by
      unfold State.afterSeen
      split
      next hact => exact Entry.seen_of_none (by simpa [hact] using hgo)
      · rfl
    rw [hstay]
    refine ⟨h.rest, ?_, ⟨new, hf, hold⟩, h.calm, ?_⟩
    · rw [h.entries, List.map_append, List.map_cons, List.map_nil, hsame, List.append_assoc]
      rfl
    · intro y hy ha hs ht hx hw
      rcases List.mem_append.1 hy with hy | hy
      · exact h.poison y hy ha hs ht hx hw
      · rw [List.mem_singleton.1 hy] at ha hs hw
        simp [ha, hs, hw] at hgo
  case pos =>
    simp only [Bool.and_eq_true, Bool.not_eq_true'] at hgo
    obtain ⟨⟨hact, hsf⟩, hany⟩ := hgo
    have hgo : (e.active && !t.faulted e.idx && e.waits.any (waitSees u x p)) = true := by
      simp [hact, hfaulted, hsf, hany]
    have hsame : s.afterSeen u x p e = e.seen u x p := if_pos (by simp [hact, hsf])
    have hentries : (t.setEntry (e.seen u x p)).entries = (l ++ [e]).map (s.afterSeen u x p) ++ r := by
      rw [h.entries_setEntry hl hr (e' := e.seen u x p) rfl, List.map_append, List.map_cons,
        List.map_nil, hsame, List.append_assoc]
      rfl
    have hrest : t.setEntry (e.seen u x p) = { s with
        entries := (t.setEntry (e.seen u x p)).entries, faults := t.faults, regs := t.regs } := by
      rw [State.setEntry, h.rest]
    by_cases hp : (bitOf x 63 && !e.tolerate) = true
    case neg =>
      have hset : t.observeEntry u x p e = t.setEntry (e.seen u x p) := by
        rw [State.observeEntry, if_pos hgo]
        exact if_neg hp
      rw [hset]
      refine ⟨hrest, hentries, ⟨new, hf, hold⟩, h.calm, ?_⟩
      intro y hy ha hs ht hx hw
      rcases List.mem_append.1 hy with hy | hy
      · exact h.poison y hy ha hs ht hx hw
      · rw [List.mem_singleton.1 hy] at ht
        simp [hx, ht] at hp
    case pos =>
      have hset : t.observeEntry u x p e = (t.setEntry (e.seen u x p)).raise e.idx
          ((t.setEntry (e.seen u x p)).plainFault .pennantPoison u) := by
        rw [State.observeEntry, if_pos hgo]
        exact if_pos hp
      obtain ⟨f, hraised, hcode⟩ := State.faults_raise (s := t.setEntry (e.seen u x p)) (i := e.idx)
        (hfaulted.trans hsf) ((t.setEntry (e.seen u x p)).plainFault .pennantPoison u)
      have hfaults : ((t.setEntry (e.seen u x p)).raise e.idx
          ((t.setEntry (e.seen u x p)).plainFault .pennantPoison u)).faults = t.faults ++ [(e.idx, f)] := hraised
      have hlast : (e.idx, f) ∈ t.faults ++ [(e.idx, f)] := List.mem_append_right _ (List.mem_singleton_self _)
      rw [hset]
      refine ⟨?_, hentries, ⟨new ++ [(e.idx, f)], ?_, ?_⟩, fun hx => ?_, ?_⟩
      · rw [State.raise, hrest]
        rfl
      · rw [hfaults, hf, List.append_assoc]
      · intro g hg
        rcases List.mem_append.1 hg with hg | hg
        · exact hold g hg
        · rw [List.mem_singleton.1 hg]
          simp
      · simp [hx] at hp
      · intro y hy ha hs ht hx hw
        rw [hfaults]
        rcases List.mem_append.1 hy with hy | hy
        · obtain ⟨g, hg, hc⟩ := h.poison y hy ha hs ht hx hw
          exact ⟨g, List.mem_append_left _ hg, hc⟩
        · rw [List.mem_singleton.1 hy]
          exact ⟨f, hlast, hcode⟩

/-- Where no two entries have one index, each in turn sees the pennant. -/
theorem foldl (r : List Entry) {l : List Entry} {t : State} (h : State.Observed u x p s l r t)
    (hd : (l ++ r).Pairwise fun a b => a.idx ≠ b.idx) :
    State.Observed u x p s (l ++ r) [] (r.foldl (fun t e => t.observeEntry u x p e) t) := by
  induction r generalizing l t with
  | nil => rwa [List.append_nil]
  | cons e r ih =>
    have hsplit : l ++ e :: r = (l ++ [e]) ++ r := by rw [List.append_assoc]; rfl
    obtain ⟨-, hr, hl⟩ := List.pairwise_append.1 hd
    have hstep := h.step (fun y hy => hl y hy e (List.mem_cons_self ..))
      (fun y hy => ((List.pairwise_cons.1 hr).1 y hy).symm)
    rw [hsplit] at hd ⊢
    exact ih hstep hd

end State.Observed

/-! ### Lanes that no pennant reaches -/

/-- A lane that is halted stays so where more faults are raised. -/
theorem State.onPennant_none {s t : State} {n : Nat} {y : ExecSlot} {k : Nat × Lane}
    (hh : s.laneHalted y k.1 = true → t.laneHalted y k.1 = true) (h : s.onPennant u n y k = none) :
    t.onPennant u n y k = none := by
  unfold State.onPennant at h ⊢
  split at h
  · split at h
    · cases h
    next hno =>
      refine if_neg fun hyes => hno ⟨hyes.1, ?_⟩
      have hoff := hyes.2
      by_contra hs
      exact absurd (hh (Bool.of_not_eq_false hs)) (by simp [hoff])
  · rfl

theorem State.pennantLanes_nil {s t : State} (hslots : t.slots = s.slots)
    (hh : ∀ y n, s.laneHalted y n = true → t.laneHalted y n = true) (h : s.pennantLanes u = []) :
    t.pennantLanes u = [] := by
  rw [State.pennantLanes_eq, List.flatMap_eq_nil_iff] at h ⊢
  intro n hn
  have hs := h n hn
  have hslot : t.slot? n = s.slot? n := by rw [State.slot?, hslots, State.slot?]
  unfold State.slotOnPennant at hs ⊢
  rw [hslot]
  cases hx : s.slot? n with
  | none => rfl
  | some y =>
    rw [hx] at hs
    exact List.filterMap_eq_nil_iff.2 fun k hk =>
      State.onPennant_none (hh y k.1) (List.filterMap_eq_nil_iff.1 hs k hk)

/-- R537: a pennant on which no lane waits is seen by the entries alone. -/
theorem State.Observed.observe {s : State} (hl : s.pennantLanes u = [])
    (hd : s.entries.Pairwise fun a b => a.idx ≠ b.idx) :
    State.Observed u x p s s.entries [] (s.observe u x p) := by
  have h := (State.Observed.refl (u := u) (x := x) (p := p) s).foldl s.entries hd
  rw [List.nil_append] at h
  have hobs : s.observe u x p = ((s.entries.foldl (fun t e => t.observeEntry u x p e) s).pennantLanes u).foldl
      (fun t (y : Nat × Nat × Lane) => t.observeLane u x p y.1 y.2.1 y.2.2)
      (s.entries.foldl (fun t e => t.observeEntry u x p e) s) := rfl
  rw [hobs]
  generalize s.entries.foldl (fun t e => t.observeEntry u x p e) s = w at *
  obtain ⟨new, hf, -⟩ := h.faults
  have hslots : w.slots = s.slots := (congrArg State.slots h.rest :)
  have hnil : w.pennantLanes u = [] := by
    refine State.pennantLanes_nil hslots (fun y n hh => ?_) hl
    have hcycle : w.cycle = s.cycle := (congrArg State.cycle h.rest :)
    rw [State.laneHalted, Bool.or_eq_true] at hh ⊢
    rw [hf, hcycle, List.any_append, Bool.or_eq_true]
    exact hh.imp_right .inl
  rw [hnil]
  exact h

end

/-! ### The rows -/

section
variable {s : State} {st : Fin 512} {e : Entry} {uda : BitVec 48} {word : Word64}

/-- R533: NOT_BEFORE. -/
theorem notBeforeReached_eq {time : Nat} (hr : s.running = true) (hh : s.head? st = some e)
    (hn : e.notBefore = some time) : exec (.notBeforeReached st) s =
      .next (if e.active && decide (time ≤ s.ns) then s.setEntry { e with due := true } else s) := by
  simp only [exec, execNotBeforeReached, hh, hn, hr, Bool.true_and]

/-- R334: memory without errors reads as it stands. -/
theorem State.readLocal_of_eccFree {u n : Nat} (h : s.EccFree u n) :
    s.readLocal u n = (s, some (s.rawRead u n)) := by
  have hf : (s.ecc.filter fun e => decide (u / 8 ≤ e.1) && decide (e.1 * 8 < u + n)) = [] :=
    List.filter_eq_nil_iff.2 fun e hm hb => h e hm (by simpa using hb)
  have hhits : s.eccHits u n = [] := by rw [State.eccHits, hf, sortBy]
  rw [State.readLocal, hhits]
  rfl

/-- R538: a watch reads its pennant. -/
theorem watchReread_eq (hr : s.running = true) (hl : isLocal uda.toNat = true) (hw : s.watched uda.toNat = true) :
    exec (.watchReread uda) s = .next (s.readPennant uda.toNat fun w => w) := by
  simp only [exec, execWatchReread, hr, hl, hw, Bool.and_self, if_true]

theorem watchReread_sees (hr : s.running = true) (hl : isLocal uda.toNat = true)
    (hw : s.watched uda.toNat = true) (ha : s.addrOk true uda.toNat 8 = true) (he : s.EccFree uda.toNat 8) :
    exec (.watchReread uda) s = .next (s.observe uda.toNat (s.rawWord uda.toNat) fun w => w) := by
  rw [watchReread_eq hr hl hw, State.readPennant, if_neg (by simp [ha]), State.readLocal_of_eccFree he]
  rfl

theorem watchReread_faults (hr : s.running = true) (hl : isLocal uda.toNat = true)
    (hw : s.watched uda.toNat = true) (ha : s.addrOk true uda.toNat 8 = false) :
    exec (.watchReread uda) s = .next (s.waitFault uda.toNat (fun w => w) .addrInvalid) := by
  rw [watchReread_eq hr hl hw, State.readPennant, if_pos ha]

/-- A read of a host pennant under way. -/
theorem State.penRead_of_mem {u : Nat} (h : ∃ x ∈ s.ring.penReads, x.1 = u) :
    ∃ q, (s.ring.penReads.find? fun x => x.1 == u) = some q := by
  obtain ⟨x, hm, hx⟩ := h
  exact Option.isSome_iff_exists.1 (List.find?_isSome.2 ⟨x, hm, beq_iff_eq.2 hx⟩)

theorem State.penReads_dropPenRead (s : State) (u : Nat) : ∀ x ∈ (s.dropPenRead u).ring.penReads, x.1 ≠ u := by
  intro x hx
  simpa using (List.mem_filter.1 hx).2

/-- The ring with host pennant `u` read as `x`; `b` says whether that is news to a poll (R512). -/
def State.penBack (s : State) (u x : Nat) (b : Bool) : Ring :=
  { (s.dropPenRead u).ring with
    penSeen := (s.ring.penSeen.filter fun (y : Nat × Nat) => y.1 != u) ++ [(u, x)]
    news := s.ring.news || b }

/-- R663: a host pennant whose read fails counts as not read. -/
theorem hostPennant_fails (hs : SMap.wf regReset s.regs = true) (hr : s.running = true)
    (hp : ∃ x ∈ s.ring.penReads, x.1 = uda.toNat) {x : ReadFail} (hx : s.noTimeout (some x) = false) :
    Does (.hostPennantReadReturn uda word (some x)) s fun t =>
      (∀ x ∈ t.ring.penReads, x.1 ≠ uda.toNat) ∧ t.entries = s.entries ∧ t.slots = s.slots ∧
      t.reg Reg.HI_HOST_ERR = (s.reg Reg.HI_HOST_ERR + 1) % 2 ^ 32 ∧
      t.fld Reg.HI_HOST_LOG 2 0 = readStatus x ∧ s.SameBytes t := by
  obtain ⟨q, hq⟩ := State.penRead_of_mem hp
  have hgo : ¬ (s.running = false ∨ s.noTimeout (some x) = true) := by simp [hr, hx]
  have hexec : exec (.hostPennantReadReturn uda word (some x)) s = .next
      (((s.dropPenRead uda.toNat).hostErr (readStatus x)
        ((s.dropPenRead uda.toNat).iova uda.toNat)).pollEnd.flushHeld) := by
    simp only [exec, execHostPennantReadReturn, hq, if_neg hgo]
  refine ⟨_, hexec, ?_⟩
  generalize (s.dropPenRead uda.toNat).iova uda.toNat = a
  have herr := State.RingStep.hostErr (l := hostErrRegs) (s.dropPenRead uda.toNat) (readStatus x) a
    (List.Subset.refl _)
  obtain ⟨hcount, hlog, -⟩ := State.hostErr_logs (s := s.dropPenRead uda.toNat) hs (iova := a) (readStatus_lt x)
  have hring := (s.dropPenRead uda.toNat).hostErr_ring (readStatus x) a
  generalize (s.dropPenRead uda.toNat).hostErr (readStatus x) a = w at *
  obtain ⟨hend, ⟨o, k, hlast⟩, -⟩ := w.pollEnd_spec
  have hflush := State.RingStep.of_onlyHost (l := [Reg.FE_POLL_NOW]) w.pollEnd.flushHeld_onlyHost
  have hdone := hend.trans hflush
  have hsame := hdone.sameRegs (herr.wf hs)
  have hall : State.RingStep (Reg.FE_POLL_NOW :: hostErrRegs) s w.pollEnd.flushHeld :=
    (State.RingStep.trans (.setRing s _) (herr.mono (List.subset_cons_self _ _))).trans (hdone.mono (by decide))
  refine ⟨?_, (congrArg State.entries hall.rest :), (congrArg State.slots hall.rest :), ?_, ?_, hall.sameBytes⟩
  · rw [State.flushHeld_ring, hlast, hring]
    exact s.penReads_dropPenRead uda.toNat
  · rw [hsame _ (by decide), hcount]
    rfl
  · rw [State.fld, hsame _ (by decide), ← State.fld, hlog]

/-- R537: a host pennant that comes back. -/
theorem hostPennant_returns (hr : s.running = true) (hp : ∃ x ∈ s.ring.penReads, x.1 = uda.toNat)
    (hl : s.pennantLanes uda.toNat = []) (hd : s.entries.Pairwise fun a b => a.idx ≠ b.idx) :
    Does (.hostPennantReadReturn uda word none) s fun t =>
      (∀ x ∈ t.ring.penReads, x.1 ≠ uda.toNat) ∧
      t.entries = s.entries.map (s.afterSeen uda.toNat word.toNat fun _ => true) ∧
      (∀ e ∈ s.entries, e.active = true → s.faulted e.idx = false → e.tolerate = false →
        bitOf word.toNat 63 = true → e.waits.any (waitSees uda.toNat word.toNat fun _ => true) = true →
        ∃ f, (e.idx, f) ∈ t.faults ∧ f.code = .pennantPoison) ∧
      (bitOf word.toNat 63 = false → t.faults = s.faults) ∧ t.slots = s.slots ∧ s.SameBytes t := by
  obtain ⟨q, hq⟩ := State.penRead_of_mem hp
  have hgo : ¬ (s.running = false ∨ s.noTimeout none = true) := by simp [hr, State.noTimeout]
  obtain ⟨b, hexec⟩ : ∃ b, exec (.hostPennantReadReturn uda word none) s = .next
      ((({ s with ring := s.penBack uda.toNat word.toNat b } : State).observe uda.toNat word.toNat
        fun _ => true).pollEnd.flushHeld) := by
    simp only [exec, execHostPennantReadReturn, hq, if_neg hgo]
    exact ⟨_, rfl⟩
  have hreads : (s.penBack uda.toNat word.toNat b).penReads = (s.dropPenRead uda.toNat).ring.penReads := rfl
  generalize s.penBack uda.toNat word.toNat b = r at *
  refine ⟨_, hexec, ?_⟩
  have h := State.Observed.observe (s := { s with ring := r }) (u := uda.toNat) (x := word.toNat)
    (p := fun _ => true) hl hd
  generalize ({ s with ring := r } : State).observe uda.toNat word.toNat (fun _ => true) = w at *
  obtain ⟨hend, ⟨o, k, hlast⟩, -⟩ := w.pollEnd_spec
  have hdone := hend.trans (.of_onlyHost (l := [Reg.FE_POLL_NOW]) w.pollEnd.flushHeld_onlyHost)
  have hfaults : w.pollEnd.flushHeld.faults = w.faults := (congrArg State.faults hdone.rest :)
  have hentries := h.entries
  rw [List.append_nil] at hentries
  have hslots : w.slots = s.slots := (congrArg State.slots h.rest :)
  have hdram : w.dram = s.dram := (congrArg State.dram h.rest :)
  have hplate : w.plate = s.plate := (congrArg State.plate h.rest :)
  refine ⟨?_, (congrArg State.entries hdone.rest :).trans hentries, ?_, fun hx => ?_,
    (congrArg State.slots hdone.rest :).trans hslots,
    State.sameBytes_of_eq ((congrArg State.dram hdone.rest :).trans hdram)
      ((congrArg State.plate hdone.rest :).trans hplate)⟩
  · have hring : w.ring = r := (congrArg State.ring h.rest :)
    rw [State.flushHeld_ring, hlast, hring, hreads]
    exact s.penReads_dropPenRead uda.toNat
  · rw [hfaults]
    exact h.poison
  · rw [hfaults]
    exact h.calm hx

end

/-! ### Prefetches -/

section
variable {s : State} {e : Entry} {b : BufInfo} {v : View}

/-- One lane of a buffer staged: what its relocation has read, the lanes staged, and the first fault. -/
def stageStep (e : Entry) (b : BufInfo) (a : Ctx × List (Nat × Lane) × Option FaultInfo) (node : Nat) :
    Ctx × List (Nat × Lane) × Option FaultInfo :=
  if a.2.2.isSome then a
  else
    let r := a.1.stageLane (a.1.s.opEnv e b node) node
    (r.1, a.2.1 ++ [(node, r.2.1)], r.2.2.map fun x => r.1.s.opFault x.2 node x.1 0 0 0)

/-- R533: the lanes of a buffer staged. -/
def State.staged (s : State) (v : View) (e : Entry) (b : BufInfo) : Ctx × List (Nat × Lane) × Option FaultInfo :=
  b.present.foldl (stageStep e b) (Ctx.start s v [], [], none)

theorem State.staged_readsOnly : s.ReadsOnly (s.staged v e b).1.s := by
  have hstep (a : Ctx × List (Nat × Lane) × Option FaultInfo) (node : Nat) :
      a.1.ReadsOnly (stageStep e b a node).1 := by
    unfold stageStep
    split
    · exact .refl _
    · exact a.1.stageLane_readsOnly _ _
  have hall : (Ctx.start s v []).ReadsOnly (s.staged v e b).1 :=
    List.foldlRecOn b.present (stageStep e b)
      (motive := fun a : Ctx × List (Nat × Lane) × Option FaultInfo => (Ctx.start s v []).ReadsOnly a.1) (.refl _)
      fun a ha node _ => ha.trans (hstep a node)
  exact hall

/-- R533: what a buffer taken into staging leaves. -/
def State.stagedFor (s : State) (v : View) (e : Entry) (b : BufInfo) : State :=
  (s.staged v e b).1.s.setEntry { e with prefetched := true, staged := (s.staged v e b).2.1 }

theorem State.prefetchBuf_of_done (hb : e.buf = some b)
    (hdone : e.prefetched = true ∨ e.fault.isSome = true ∨ s.faulted e.idx = true) : s.prefetchBuf v e = s := by
  have hgo : (e.prefetched || e.fault.isSome || s.faulted e.idx) = true := by
    rcases hdone with h | h | h <;> simp [h]
  simp only [State.prefetchBuf, hb, if_pos hgo]

theorem State.prefetchBuf_eq (hb : e.buf = some b) (hp : e.prefetched = false) (hf : e.fault = none)
    (hs : s.faulted e.idx = false) : s.prefetchBuf v e = match (s.staged v e b).2.2 with
      | some f => (s.stagedFor v e b).entryFault e f
      | none => s.stagedFor v e b := by
  have hgo : ¬ (e.prefetched || e.fault.isSome || s.faulted e.idx) = true := by simp [hp, hf, hs]
  unfold State.prefetchBuf
  split
  next b' hb' =>
    obtain rfl : b = b' := Option.some.inj (hb.symm.trans hb')
    exact if_neg hgo
  next hnone => simp [hb] at hnone

/-- Staging writes nothing but the entry's notes. -/
theorem State.stagedFor_spec (he : s.entry? e.idx = some e) :
    (s.stagedFor v e b).entry? e.idx = some { e with prefetched := true, staged := (s.staged v e b).2.1 } ∧
    s.SameBytes (s.stagedFor v e b) ∧ (s.stagedFor v e b).slots = s.slots ∧ (s.stagedFor v e b).ops = s.ops ∧
    (s.stagedFor v e b).toks = s.toks ∧ (s.stagedFor v e b).streams = s.streams := by
  have h := State.staged_readsOnly (s := s) (e := e) (b := b) (v := v)
  have hentry : (s.staged v e b).1.s.entry? e.idx = some e :=
    (congrArg (fun t : State => t.entry? e.idx) h :).trans he
  exact ⟨State.entry?_setEntry hentry rfl,
    State.sameBytes_of_eq (congrArg State.dram h :) (congrArg State.plate h :), (congrArg State.slots h :),
    (congrArg State.ops h :), (congrArg State.toks h :), (congrArg State.streams h :)⟩

/-- R663: a fault of an entry stands with it, raised or noted. -/
theorem State.entryFault_spec {t : State} {x : Entry} (hx : t.entry? e.idx = some x) (hi : x.idx = e.idx)
    (hf : x.fault = none) (f : FaultInfo) :
    (∃ g, (t.entryFault e f).entry? e.idx = some { x with fault := g }) ∧
    (t.entryFault e f).dram = t.dram ∧ (t.entryFault e f).plate = t.plate ∧
    (t.entryFault e f).slots = t.slots ∧ (t.entryFault e f).ops = t.ops ∧ (t.entryFault e f).toks = t.toks ∧
    (t.entryFault e f).streams = t.streams := by
  unfold State.entryFault
  split
  · refine ⟨⟨none, ?_⟩, rfl, rfl, rfl, rfl, rfl, rfl⟩
    rw [← hf]
    exact hx
  · rw [hx]
    rw [← hi] at hx ⊢
    exact ⟨⟨_, State.entry?_setEntry hx rfl⟩, rfl, rfl, rfl, rfl, rfl, rfl⟩

/-- R533: a prefetch stages the buffer, and a failed read of it is a fault of its entry. -/
theorem State.prefetchBuf_stages (he : s.entry? e.idx = some e) (hb : e.buf = some b) (hp : e.prefetched = false)
    (hf : e.fault = none) (hs : s.faulted e.idx = false) :
    let t := s.prefetchBuf v e
    (∃ f l, t.entry? e.idx = some { e with prefetched := true, staged := l, fault := f }) ∧
    s.SameBytes t ∧ t.slots = s.slots ∧ t.ops = s.ops ∧ t.toks = s.toks ∧ t.streams = s.streams := by
  obtain ⟨hentry, hbytes, hslots, hops, htoks, hstreams⟩ := State.stagedFor_spec (v := v) (b := b) he
  rw [State.prefetchBuf_eq hb hp hf hs]
  cases (s.staged v e b).2.2 with
  | none =>
    exact ⟨⟨e.fault, _, hentry⟩, hbytes, hslots, hops, htoks, hstreams⟩
  | some f =>
    obtain ⟨⟨g, hg⟩, hd, hpl, hsl, hop, htk, hst⟩ := State.entryFault_spec hentry rfl hf f
    exact ⟨⟨g, _, hg⟩, fun a => ⟨(congrArg (·.read a) hd).trans (hbytes a).1,
      (congrArg (·.read a) hpl).trans (hbytes a).2⟩, hsl.trans hslots, hop.trans hops, htk.trans htoks,
      hst.trans hstreams⟩

end

/-- Settles O44: each event by its theorem above. That a watch whose pennant is out of usable memory faults its
waits is R305; that a prefetch stages the first piece of each lane, and once, is the model's choice (log
entry 56). -/
theorem waitsAreMetByWhatIsRead : Obligations.WaitsAreMetByWhatIsRead := by
  intro s st uda word hc hr u
  refine ⟨fun e time hh hn => ⟨fun ha hle => ⟨_, ?reached, rfl⟩, fun hlt => ?early⟩,
    fun hl hw => ⟨watchReread_sees hr hl hw, watchReread_faults hr hl hw⟩,
    fun hp => ⟨fun x hx => hostPennant_fails (State.kept_iff.2 ⟨rfl, hc⟩).regs_ok hr hp hx,
      fun hl hd => hostPennant_returns hr hp hl hd⟩,
    fun v => ?prefetch,
    fun v e b he hb => ⟨State.prefetchBuf_of_done hb, fun hp hf hs => State.prefetchBuf_stages he hb hp hf hs⟩⟩
  case reached =>
    rw [notBeforeReached_eq hr hh hn, if_pos (by simp [ha, hle])]
  case early =>
    rw [notBeforeReached_eq hr hh hn, if_neg (by simp [hlt])]
  case prefetch =>
    simp only [exec, execPrefetch, hr, if_true]

end Sys2Proof.Machine
end

section
/-! Writes of FAB_LINK_CTRL: a port that is enabled, disabled or taken down (O60). -/

namespace Sys2Proof.Machine

/-! ### Registers that sending leaves alone -/

/-- None of the registers that sending management packets, and a new epoch, may change. -/
structure SendFree (P : Nat → Prop) : Prop where
  txLow : ∀ p, ¬ P (lk p Reg.FAB_LINK_TX_BYTES)
  txHigh : ∀ p, ¬ P (lk p Reg.FAB_LINK_TX_BYTES + 4)
  replays : ∀ p, ¬ P (lk p Reg.FAB_LINK_REPLAYS)
  epoch : ¬ P Reg.FAB_EPOCH
  state : ¬ P Reg.FAB_STATE

namespace State.KeepsRegs
variable {P : Nat → Prop}

theorem txFrame (s : State) (p ftype vc seq : Nat) (l : List Byte) :
    State.KeepsRegs P s (s.txFrame p ftype vc seq l) := of_regs rfl

theorem setPort (s : State) (p : Nat) (x : Port) : State.KeepsRegs P s (s.setPort p x) := of_regs rfl

theorem setFab (s : State) (f : Fabric) : State.KeepsRegs P s { s with fab := f } := of_regs rfl

section
variable (hP : SendFree P)
include hP

theorem sendData (s : State) (p vc : Nat) (l : List Byte) : State.KeepsRegs P s (s.sendData p vc l) :=
  ((setPort s p _).trans (setReg64 _ _ (hP.txLow p) (hP.txHigh p))).trans (txFrame _ _ _ _ _ _)

theorem resend (s : State) (p : Nat) (l : List RetryRec) : State.KeepsRegs P s (s.resend p l) :=
  foldl l (fun s _ _ => (setReg s _ (hP.replays p)).trans (txFrame _ _ _ _ _ _)) s

theorem pumpResend (s : State) (p n : Nat) : State.KeepsRegs P s (s.pumpResend p n) := by
  fun_induction State.pumpResend s p n with
  | case1 s => exact refl s
  | case2 s => exact refl s
  | case3 s => exact setPort s p _
  | case4 s => exact refl s
  | case5 s n x hx r t hr c hc w ih => exact ((setPort s p _).trans (resend hP w p [r])).trans ih

theorem pumpMgt (s : State) (p : Nat) (l : List (List Byte)) : State.KeepsRegs P s (s.pumpMgt p l) := by
  fun_induction State.pumpMgt s p l with
  | case1 s => exact setPort s p _
  | case2 s m t hm ih => exact (sendData hP s p 2 m).trans ih
  | case3 s => exact setPort s p _

theorem pump (s : State) (p : Nat) : State.KeepsRegs P s (s.pump p) := by
  unfold State.pump
  split
  · exact (pumpResend hP s p _).trans (pumpMgt hP _ _ _)
  · exact refl s

theorem sendMgt (s : State) (p : Nat) (l : List Byte) : State.KeepsRegs P s (s.sendMgt p l) := by
  unfold State.sendMgt
  split
  · exact (setPort s p _).trans (pump hP _ _)
  · exact refl s

theorem flood (s : State) (skip : Option Nat) (a : Advert) : State.KeepsRegs P s (s.flood skip a) :=
  foldl _ (fun s p _ => by
    split
    · exact refl s
    · exact sendMgt hP s p _) s

theorem originate (s : State) (skip : Option Nat) : State.KeepsRegs P s (s.originate skip) := by
  unfold State.originate
  split
  · exact ((setFab s _).trans (setFab _ _)).trans (flood hP _ _ _)
  · exact refl s

theorem advanceEpoch (s : State) (skip : Option Nat) : State.KeepsRegs P s (s.advanceEpoch skip) := by
  have hsettle (t : State) : State.KeepsRegs P t t.settling := by
    unfold State.settling
    split
    · exact setReg t _ hP.state
    · exact refl t
  unfold State.advanceEpoch
  split
  · exact ((setReg s _ hP.epoch).trans (hsettle _)).trans (originate hP _ _)
  · exact refl s

end

end State.KeepsRegs

/-! ### The state of a port -/

/-- FAB_LINK_STATE and FAB_LINK_DOWN_CAUSE of port `p`. -/
def portState (p o : Nat) : Prop := o = lk p Reg.FAB_LINK_STATE ∨ o = lk p Reg.FAB_LINK_DOWN_CAUSE

theorem portState_sendFree (p : Nat) : SendFree (portState p) := by
  constructor <;>
    simp only [portState, lk, Reg.FAB_LINK_STATE, Reg.FAB_LINK_DOWN_CAUSE, Reg.FAB_LINK_TX_BYTES,
      Reg.FAB_LINK_REPLAYS, Reg.FAB_EPOCH, Reg.FAB_STATE] <;> omega

/-- Two registers of a port are different where their offsets are. -/
theorem lk_ne (p : Nat) {o k : Nat} (h : o ≠ k) : lk p o ≠ lk p k := by unfold lk; omega

section
variable {s t : State} {p : Nat}

theorem State.wf_setLink (hs : SMap.wf regReset s.regs = true) (p st rate width : Nat) :
    SMap.wf regReset (s.setLink p st rate width).regs = true :=
  State.wf_setFld (State.wf_setFld (State.wf_setFld hs _ _ _ _) _ _ _ _) _ _ _ _

theorem State.reg_setLink_other (hs : SMap.wf regReset s.regs = true) {o : Nat}
    (ho : o ≠ lk p Reg.FAB_LINK_STATE) (st rate width : Nat) : (s.setLink p st rate width).reg o = s.reg o := by
  have h1 := State.wf_setFld hs (lk p Reg.FAB_LINK_STATE) 3 0 st
  have h2 := State.wf_setFld h1 (lk p Reg.FAB_LINK_STATE) 5 4 rate
  rw [State.setLink, State.reg_setFld_other h2 _ _ _ ho, State.reg_setFld_other h1 _ _ _ ho,
    State.reg_setFld_other hs _ _ _ ho]

theorem State.linkSt_congr (h : t.reg (lk p Reg.FAB_LINK_STATE) = s.reg (lk p Reg.FAB_LINK_STATE)) :
    t.linkSt p = s.linkSt p := by rw [State.linkSt, State.fld, h, State.linkSt, State.fld]

/-- R735: a port that goes down shows the cause, and waits to train again. -/
theorem State.linkDown_shows (hs : SMap.wf regReset s.regs = true) (hup : s.linkUp p = true) {c : Nat}
    (hc : c < 8) : (s.linkDown p (some c)).linkSt p = 7 ∧
      (s.linkDown p (some c)).fld (lk p Reg.FAB_LINK_DOWN_CAUSE) 2 0 = c := by
  have h1 := State.wf_setFld hs (lk p Reg.FAB_LINK_DOWN_CAUSE) 2 0 c
  have h2 := State.wf_bump h1 (lk p Reg.FAB_LINK_DOWNS) 1
  have h3 : SMap.wf regReset (((s.setFld (lk p Reg.FAB_LINK_DOWN_CAUSE) 2 0 c).bump
      (lk p Reg.FAB_LINK_DOWNS) 1).linkEvent p 0).regs = true := State.wf_setReg h2 _ _
  have hcause : ((((s.setFld (lk p Reg.FAB_LINK_DOWN_CAUSE) 2 0 c).bump
      (lk p Reg.FAB_LINK_DOWNS) 1).linkEvent p 0).setLink p 7 0 0).fld (lk p Reg.FAB_LINK_DOWN_CAUSE) 2 0 = c := by
    rw [State.fld, State.reg_setLink_other h3 (lk_ne p (by decide)), State.linkEvent,
      State.reg_setReg_other h2 _ (lk_ne p (by decide)), State.reg_bump_other h1 _ (lk_ne p (by decide)),
      ← State.fld, State.fld_setFld_same hs _ (by decide) (by decide)]
    exact Nat.mod_eq_of_lt hc
  have hst := State.linkSt_setLink h3 p 7 0 0
  have h4 := State.wf_setLink h3 p 7 0 0
  unfold State.linkDown
  rw [if_neg (by simp [hup])]
  dsimp only
  generalize (((s.setFld (lk p Reg.FAB_LINK_DOWN_CAUSE) 2 0 c).bump
      (lk p Reg.FAB_LINK_DOWNS) 1).linkEvent p 0).setLink p 7 0 0 = w at *
  obtain ⟨-, hkeep⟩ := State.KeepsRegs.trans (.setPort w p _)
    (State.KeepsRegs.advanceEpoch (portState_sendFree p) _ none) h4
  refine ⟨?_, ?_⟩
  · rw [State.linkSt_congr (hkeep _ (.inl rfl)), hst]
  · rw [State.fld, hkeep _ (.inr rfl), ← State.fld, hcause]

/-! ### FAB_LINK_CTRL -/

/-- The fields of FAB_LINK_CTRL: EN, and RETRAIN, which clears itself. -/
def linkCtrlFields : List Fld := [⟨0, 0, .rw, 0x0, false⟩, ⟨1, 1, .sc, 0x0, false⟩]

/-- The row of FAB_LINK_CTRL. -/
def linkCtrlRow : RegRow := ⟨Reg.FAB_LINK_CTRL, 6, 256, 1, 0x0, false, linkCtrlFields⟩

theorem regAt_linkCtrl (p : Fin 6) :
    ∃ a b, regAt (lk p Reg.FAB_LINK_CTRL) = some (linkCtrlRow, a, b, false) := by
  have h : ∀ p : Fin 6, regAt (lk p Reg.FAB_LINK_CTRL) = some (linkCtrlRow, p.val, 0, false) := by decide
  exact ⟨_, _, h p⟩

theorem dwordFields_linkCtrl : dwordFields linkCtrlRow false = linkCtrlFields := by decide

/-- EN is as written, and RETRAIN is set where it is written 1. -/
theorem testBit_linkCtrlValue (s : State) (o w : Nat) :
    (s.fieldsValue linkCtrlFields o w).testBit 0 = w.testBit 0 ∧
    (w.testBit 1 = true → (s.fieldsValue linkCtrlFields o w).testBit 1 = true) := by
  have hv : s.fieldsValue linkCtrlFields o w = putBits (putBits (s.reg o) 0 0 (bits w 0 0)) 1 1
      (bits (putBits (s.reg o) 0 0 (bits w 0 0)) 1 1 ||| bits w 1 1) := rfl
  rw [hv]
  constructor
  · rw [testBit_putBits (by decide), if_neg (by decide), testBit_putBits (by decide), if_pos (by decide),
      testBit_bits]
    rfl
  · intro hw
    rw [testBit_putBits (by decide), if_pos (by decide), Nat.testBit_or, testBit_bits _ 1 1, testBit_bits w]
    simp [hw]

/-- R710, R735: a write of FAB_LINK_CTRL, with its effect. -/
theorem State.hostWriteReg_linkCtrl (q : Fin 6) (value : Word32)
    (h : s.reach .bar0 (lk q Reg.FAB_LINK_CTRL) = .full) :
    s.hostWriteReg (lk q Reg.FAB_LINK_CTRL) 15 value =
      (s.alertEdge ((s.fieldsWritten linkCtrlFields (lk q Reg.FAB_LINK_CTRL) value.toNat).linkCtrl q
        (bitOf (s.reg (lk q Reg.FAB_LINK_CTRL)) 0))).dropSnaps (lk q Reg.FAB_LINK_CTRL) := by
  have hlk : lk q Reg.FAB_LINK_CTRL = 0x31000 + 0x100 * q.val := rfl
  have hq := q.isLt
  have heffect (t : State) (old w : Nat) :
      t.writeEffect (lk q Reg.FAB_LINK_CTRL) old w = t.linkCtrl q (bitOf old 0) := by
    have hport : (lk q Reg.FAB_LINK_CTRL - 0x31000) / 256 = q.val := by omega
    rw [State.writeEffect, if_neg (by omega), if_neg (by omega), if_neg (by omega), if_neg (by omega),
      if_pos (by omega), if_pos (by omega), hport]
  have hlocked : ringLocked (lk q Reg.FAB_LINK_CTRL) = false := by
    simp only [ringLocked, Reg.FE_RING_BASE, Reg.FE_DB_ADDR, Reg.FE_STATUS_ADDR, Reg.FE_RING_START,
      Bool.or_eq_false_iff, beq_eq_false_iff_ne]
    omega
  obtain ⟨a, b, hr⟩ := regAt_linkCtrl q
  rw [State.hostWriteReg_single hr rfl dwordFields_linkCtrl (by omega) (by omega) hlocked h, heffect]

/-- What the write leaves of the port's registers is what its effect leaves. -/
theorem State.linkSt_of_regs (h : t.regs = s.regs) (p : Nat) : t.linkSt p = s.linkSt p := by
  simp only [State.linkSt, State.fld, State.reg, h]

theorem State.linkUp_congr (h : t.linkSt p = s.linkSt p) : t.linkUp p = s.linkUp p := by
  rw [State.linkUp, h, State.linkUp]

/-- What a write leaves in FAB_LINK_CTRL itself is its EN. -/
def State.enKept (s : State) (p : Nat) : State :=
  s.setReg (lk p Reg.FAB_LINK_CTRL) (s.reg (lk p Reg.FAB_LINK_CTRL) % 2)

theorem State.linkSt_enKept (hs : SMap.wf regReset s.regs = true) : (s.enKept p).linkSt p = s.linkSt p :=
  State.linkSt_congr (State.reg_setReg_other hs _ (lk_ne p (by decide)))

/-- R710: EN set in DISABLED. -/
theorem State.linkCtrl_enables (hs : SMap.wf regReset s.regs = true)
    (hen : s.reg (lk p Reg.FAB_LINK_CTRL) % 2 = 1) (hst : s.linkSt p = 0) :
    (s.linkCtrl p false).linkSt p = 1 := by
  have hst' := (State.linkSt_enKept (p := p) hs).trans hst
  have hw : SMap.wf regReset (s.enKept p).regs = true := State.wf_setReg hs _ _
  have heq : s.linkCtrl p false = (s.enKept p).enterDetect p := by
    unfold State.linkCtrl
    dsimp only
    rw [if_neg (by omega)]
    exact if_pos ⟨rfl, hst'⟩
  have hlink := State.linkSt_setLink hw p 1 0 0
  rw [heq, State.enterDetect]
  refine (State.linkSt_of_regs (s := ((s.enKept p).setLink p 1 0 0).setFld (lk p Reg.FAB_LINK_STATE) 18 18 0) rfl
    p).trans ?_
  rw [State.linkSt, State.fld_setFld_disjoint (State.wf_setLink hw p 1 0 0) _ (by decide) (by decide) (by decide)]
  exact hlink

/-- R721: EN cleared on a port that is not up. -/
theorem State.linkCtrl_disables (hs : SMap.wf regReset s.regs = true)
    (hen : s.reg (lk p Reg.FAB_LINK_CTRL) % 2 = 0) (hup : s.linkUp p = false) (hst : s.linkSt p ≠ 7) :
    (s.linkCtrl p true).linkSt p = 0 := by
  have hsame := State.linkSt_enKept (p := p) hs
  have hup' := (State.linkUp_congr hsame).trans hup
  have hw : SMap.wf regReset (s.enKept p).regs = true := State.wf_setReg hs _ _
  have heq : s.linkCtrl p true = ((s.enKept p).setLink p 0 0 0).linkDiscard p := by
    unfold State.linkCtrl
    dsimp only
    rw [if_pos hen]
    exact (if_neg (Bool.eq_false_iff.1 hup')).trans (if_pos ⟨rfl, hsame ▸ hst⟩)
  have hlink := State.linkSt_setLink hw p 0 0 0
  rw [heq]
  refine (State.linkSt_congr ?_).trans hlink
  exact State.reg_bump_other (State.wf_setLink hw p 0 0 0) _ (lk_ne p (by decide))

/-- R735: RETRAIN on a port that is up. -/
theorem State.linkCtrl_retrains (hs : SMap.wf regReset s.regs = true)
    (hen : s.reg (lk p Reg.FAB_LINK_CTRL) % 2 = 1) (hre : bitOf (s.reg (lk p Reg.FAB_LINK_CTRL)) 1 = true)
    (hup : s.linkUp p = true) (was : Bool) : (s.linkCtrl p was).linkSt p = 7 ∧
      (s.linkCtrl p was).fld (lk p Reg.FAB_LINK_DOWN_CAUSE) 2 0 = 6 := by
  have hsame := State.linkSt_enKept (p := p) hs
  have hup' := (State.linkUp_congr hsame).trans hup
  have hne : (s.enKept p).linkSt p ≠ 0 := fun h0 => by simp [State.linkUp, h0] at hup'
  have hw : SMap.wf regReset (s.enKept p).regs = true := State.wf_setReg hs _ _
  have heq : s.linkCtrl p was = ((s.enKept p).txFrame p 5 0 0 []).linkDown p (some 6) := by
    unfold State.linkCtrl
    dsimp only
    rw [if_neg (by omega)]
    exact ((if_neg fun h => hne h.2).trans (if_pos hre)).trans (if_pos hup')
  rw [heq]
  exact State.linkDown_shows (s := (s.enKept p).txFrame p 5 0 0 []) hw hup' (by decide)

/-! ### The rows -/

/-- Before its effect the write leaves the port as it is. -/
theorem State.linkSt_fieldsWritten (hs : SMap.wf regReset s.regs = true) (q : Fin 6) (w : Nat) :
    (s.fieldsWritten linkCtrlFields (lk q Reg.FAB_LINK_CTRL) w).linkSt q = s.linkSt q := by
  have hq := q.isLt
  obtain ⟨-, hsame⟩ := State.fieldsWritten_regs (fs := linkCtrlFields) (o := lk q Reg.FAB_LINK_CTRL) (w := w) hs
  refine State.linkSt_congr (hsame _ ?_)
  simp only [dbgRegs, lk, Reg.FAB_LINK_STATE, Reg.FAB_LINK_CTRL, Reg.DBG_ACCESS_COUNT, Reg.DBG_ACCESS_STATUS,
    Reg.DBG_ACCESS_ADDR, List.mem_cons, List.not_mem_nil, or_false]
  omega

theorem State.linkCtrl_written (hs : SMap.wf regReset s.regs = true) (q : Fin 6) (w : Nat) :
    (s.fieldsWritten linkCtrlFields (lk q Reg.FAB_LINK_CTRL) w).reg (lk q Reg.FAB_LINK_CTRL) % 2 = b2n (bitOf w 0) ∧
    (bitOf w 1 = true →
      bitOf ((s.fieldsWritten linkCtrlFields (lk q Reg.FAB_LINK_CTRL) w).reg (lk q Reg.FAB_LINK_CTRL)) 1 = true) := by
  obtain ⟨hen, hre⟩ := testBit_linkCtrlValue s (lk q Reg.FAB_LINK_CTRL) w
  have hq := q.isLt
  have hdbg : lk q Reg.FAB_LINK_CTRL ∉ dbgRegs := by
    simp only [dbgRegs, lk, Reg.FAB_LINK_CTRL, Reg.DBG_ACCESS_COUNT, Reg.DBG_ACCESS_STATUS, Reg.DBG_ACCESS_ADDR,
      List.mem_cons, List.not_mem_nil, or_false]
    omega
  rw [State.reg_fieldsWritten hs hdbg]
  generalize s.fieldsValue linkCtrlFields (lk q Reg.FAB_LINK_CTRL) w = v at *
  constructor
  · rw [bitOf, ← hen, Nat.testBit_zero]
    rcases Nat.mod_two_eq_zero_or_one v with h | h <;> simp [h, b2n]
  · intro h
    rw [bitOf, Nat.testBit_mod_two_pow]
    simp [hre h]

section
variable {q : Fin 6} {value : Word32} (hs : SMap.wf regReset s.regs = true)
  (hfull : s.reach .bar0 (lk q Reg.FAB_LINK_CTRL) = .full)
include hs hfull

theorem linkEnable_enables (hwas : bitOf (s.reg (lk q Reg.FAB_LINK_CTRL)) 0 = false) (hst : s.linkSt q = 0)
    (hen : bitOf value.toNat 0 = true) : Does (.linkEnableWrite q 15 value) s fun t => t.linkSt q = 1 := by
  obtain ⟨hodd, -⟩ := State.linkCtrl_written hs q value.toNat
  obtain ⟨hw, -⟩ := State.fieldsWritten_regs (fs := linkCtrlFields) (o := lk q Reg.FAB_LINK_CTRL)
    (w := value.toNat) hs
  rw [hen] at hodd
  refine ⟨_, congrArg Host.Outcome.next (State.hostWriteReg_linkCtrl q value hfull), ?_⟩
  rw [hwas]
  refine (State.linkSt_of_regs (State.regs_answered _ _ _) _).trans ?_
  exact State.linkCtrl_enables hw hodd ((State.linkSt_fieldsWritten hs q _).trans hst)

theorem linkDisable_disables (hwas : bitOf (s.reg (lk q Reg.FAB_LINK_CTRL)) 0 = true) (hup : s.linkUp q = false)
    (hst : s.linkSt q ≠ 7) (hen : bitOf value.toNat 0 = false) :
    Does (.linkDisableWrite q 15 value) s fun t => t.linkSt q = 0 := by
  obtain ⟨heven, -⟩ := State.linkCtrl_written hs q value.toNat
  obtain ⟨hw, -⟩ := State.fieldsWritten_regs (fs := linkCtrlFields) (o := lk q Reg.FAB_LINK_CTRL)
    (w := value.toNat) hs
  have hsame := State.linkSt_fieldsWritten hs q value.toNat
  rw [hen] at heven
  refine ⟨_, congrArg Host.Outcome.next (State.hostWriteReg_linkCtrl q value hfull), ?_⟩
  rw [hwas]
  refine (State.linkSt_of_regs (State.regs_answered _ _ _) _).trans ?_
  exact State.linkCtrl_disables hw heven ((State.linkUp_congr hsame).trans hup) (hsame ▸ hst)

theorem linkRetrain_retrains (hup : s.linkUp q = true) (hen : bitOf value.toNat 0 = true)
    (hre : bitOf value.toNat 1 = true) : Does (.linkRetrainWrite q 15 value) s fun t =>
      t.linkSt q = 7 ∧ t.fld (lk q Reg.FAB_LINK_DOWN_CAUSE) 2 0 = 6 := by
  obtain ⟨hodd, hbit⟩ := State.linkCtrl_written hs q value.toNat
  obtain ⟨hw, -⟩ := State.fieldsWritten_regs (fs := linkCtrlFields) (o := lk q Reg.FAB_LINK_CTRL)
    (w := value.toNat) hs
  have hsame := State.linkSt_fieldsWritten hs q value.toNat
  rw [hen] at hodd
  obtain ⟨hst, hcause⟩ := State.linkCtrl_retrains hw hodd (hbit hre) ((State.linkUp_congr hsame).trans hup)
    (bitOf (s.reg (lk q Reg.FAB_LINK_CTRL)) 0)
  refine ⟨_, congrArg Host.Outcome.next (State.hostWriteReg_linkCtrl q value hfull),
    (State.linkSt_of_regs (State.regs_answered _ _ _) _).trans hst, ?_⟩
  rw [State.fld, State.reg, State.regs_answered]
  exact hcause

end

end

end Sys2Proof.Machine
end

section
/-! Writes of PIN_MUX: a pin parked under its new function (O60). -/

namespace Sys2Proof.Machine

/-- The field of PIN_MUX. -/
def pinMuxFields : List Fld := [⟨3, 0, .rw, 0x0, true⟩]

/-- The row of PIN_MUX. -/
def pinMuxRow : RegRow := ⟨Reg.PIN_MUX, 12, 4, 1, 0x0, false, pinMuxFields⟩

theorem regAt_pinMux (n : Fin 12) : ∃ a b, regAt (muxReg n) = some (pinMuxRow, a, b, false) := by
  have h : ∀ n : Fin 12, regAt (muxReg n) = some (pinMuxRow, n.val, 0, false) := by decide
  exact ⟨_, _, h n⟩

theorem dwordFields_pinMux : dwordFields pinMuxRow false = pinMuxFields := by decide

section
variable {s t : State}

/-- The level of a pin goes by the registers, the balls and the time. -/
theorem State.fnLevel_congr (hreg : ∀ o, t.reg o = s.reg o) (hballs : t.balls = s.balls) (hnow : t.now = s.now)
    (n f : Nat) : t.fnLevel n f = s.fnLevel n f := by
  have hlink : t.linkSt (n - 6) = s.linkSt (n - 6) := State.linkSt_congr (hreg _)
  unfold State.fnLevel
  rw [hreg, hballs, hnow, hlink]

/-- The write as its effect finds it: the register put back. -/
def State.muxRestored (s : State) (n w : Nat) : State :=
  (s.fieldsWritten pinMuxFields (muxReg n) w).setReg (muxReg n) (s.reg (muxReg n))

/-- R904: an unlocked write of PIN_MUX, with its effect. -/
theorem State.hostWriteReg_pinMux (hs : SMap.wf regReset s.regs = true) (hu : s.unlocked = true)
    (n : Fin 12) (value : Word32) (h : s.reach .bar0 (muxReg n) = .full) : s.hostWriteReg (muxReg n) 15 value =
      (s.alertEdge ((s.muxRestored n value.toNat).muxWrite n (value.toNat % 16))).dropSnaps (muxReg n) := by
  have hmux : muxReg n = 0x60010 + 4 * n.val := rfl
  have hn := n.isLt
  have hunlocked : (s.fieldsWritten pinMuxFields (muxReg n) value.toNat).unlocked = true := by
    obtain ⟨-, hsame⟩ := State.fieldsWritten_regs (fs := pinMuxFields) (o := muxReg n) (w := value.toNat) hs
    rw [State.unlocked, hsame Reg.FE_EXPERT_STATUS, ← State.unlocked, hu]
    simp only [List.mem_cons, not_or]
    exact ⟨by rw [hmux]; unfold Reg.FE_EXPERT_STATUS; omega, by decide⟩
  have heffect (old w : Nat) : (s.fieldsWritten pinMuxFields (muxReg n) value.toNat).writeEffect (muxReg n) old w =
      ((s.fieldsWritten pinMuxFields (muxReg n) value.toNat).setReg (muxReg n) old).muxWrite n (w % 16) := by
    have hpin : (muxReg n - Reg.PIN_MUX) / 4 = n.val := by unfold muxReg; omega
    have hrange : Reg.PIN_MUX ≤ muxReg n ∧ muxReg n < Reg.PIN_MUX + 48 := by unfold muxReg; omega
    rw [State.writeEffect, if_neg (by omega), if_neg (by omega), if_neg (by omega), if_neg (by omega),
      if_neg (by omega), if_neg (by omega), if_neg (by omega), if_pos hrange, if_pos hunlocked, hpin]
  have hlocked : ringLocked (muxReg n) = false := by
    simp only [ringLocked, Reg.FE_RING_BASE, Reg.FE_DB_ADDR, Reg.FE_STATUS_ADDR, Reg.FE_RING_START,
      Bool.or_eq_false_iff, beq_eq_false_iff_ne]
    omega
  obtain ⟨a, b, hr⟩ := regAt_pinMux n
  rw [State.hostWriteReg_single hr rfl dwordFields_pinMux (by omega) (by omega) hlocked h, heffect]
  rfl

/-- It changes nothing so far. -/
theorem State.muxRestored_spec (hs : SMap.wf regReset s.regs = true) (hu : s.unlocked = true) (n w : Nat) :
    SMap.wf regReset (s.muxRestored n w).regs = true ∧ (∀ o, (s.muxRestored n w).reg o = s.reg o) ∧
    s.muxRestored n w = { s with regs := (s.muxRestored n w).regs } := by
  have hplain : s.fieldsWritten pinMuxFields (muxReg n) w =
      s.setReg (muxReg n) (s.fieldsValue pinMuxFields (muxReg n) w) := by
    rw [State.fieldsWritten, hu]
    rfl
  have hset := State.wf_setReg hs (muxReg n) (s.fieldsValue pinMuxFields (muxReg n) w)
  rw [State.muxRestored, hplain]
  refine ⟨State.wf_setReg hset _ _, fun o => ?_, rfl⟩
  by_cases ho : o = muxReg n
  · subst ho
    rw [State.reg_setReg_same hset, Nat.mod_eq_of_lt (s.reg_lt _)]
  · rw [State.reg_setReg_other hset _ ho, State.reg_setReg_other hs _ ho]

/-- R904: a pin that is not parked, and keeps no PMBus waiting, takes its function at once. -/
theorem State.muxWrite_switches {n f : Nat} (hok : funcOk n f = true) (hpark : s.park n = none)
    (hpmb : pmbFunc n ≠ some (s.mux n)) (hne : s.mux n ≠ f) : s.muxWrite n f = s.startSwitch n f := by
  rw [State.muxWrite, if_neg (by simp [hok]), hpark]
  dsimp only
  rw [if_neg fun h => hpmb h.1, State.switchTo, if_neg hne]

/-- `s` with pin `n` parked at the level it shows. -/
def State.parked (s : State) (n : Nat) : State :=
  { s with parks := SMap.set State.parkD s.parks n (some ⟨s.mux n, s.pinLevel n, none⟩) }

theorem State.startSwitch_eq (s : State) (n f : Nat) :
    s.startSwitch n f = ((s.parked n).setFld (muxReg n) 3 0 f).setFld Reg.PIN_STATUS n n 1 := rfl

/-- R904: the pin shows the level it had, under its new function. -/
theorem State.startSwitch_shows (hs : SMap.wf regReset s.regs = true)
    (hp : SMap.wf State.parkD s.parks = true) {n f : Nat} (hn : n < 12) (hf : f < 16) :
    (s.startSwitch n f).mux n = f ∧ (s.startSwitch n f).park n = some ⟨s.mux n, s.pinLevel n, none⟩ := by
  have hmux : muxReg n ≠ Reg.PIN_STATUS := by unfold muxReg Reg.PIN_MUX Reg.PIN_STATUS; omega
  constructor
  · have h1 : SMap.wf regReset ((s.parked n).setFld (muxReg n) 3 0 f).regs = true :=
      State.wf_setFld (s := s.parked n) hs _ _ _ _
    rw [State.mux, State.startSwitch_eq, State.fld_setFld_other h1 _ _ _ hmux,
      State.fld_setFld_same (s := s.parked n) hs f (by decide) (by decide)]
    exact Nat.mod_eq_of_lt hf
  · exact SMap.get_set_same (lo := none) hp

theorem pinMux_parks (hc : s.Canonical) {n : Fin 12} {value : Word32} (hfull : s.reach .bar0 (muxReg n) = .full)
    (hu : s.unlocked = true) (hpark : s.park n = none) (hok : funcOk n (value.toNat % 16) = true)
    (hne : value.toNat % 16 ≠ s.mux n) (hpmb : pmbFunc n ≠ some (s.mux n)) :
    Does (.pinMuxWrite n 15 value) s fun t => t.mux n = value.toNat % 16 ∧
      t.park n = some ⟨s.mux n, s.pinLevel n, none⟩ := by
  have hk := State.kept_iff.2 ⟨rfl, hc⟩
  obtain ⟨hw, hreg, hrest⟩ := State.muxRestored_spec hk.regs_ok hu n value.toNat
  refine ⟨_, congrArg Host.Outcome.next (State.hostWriteReg_pinMux hk.regs_ok hu n value hfull), ?_⟩
  generalize s.muxRestored n value.toNat = w at *
  have hmux : w.mux n = s.mux n := by rw [State.mux, State.fld, hreg, State.mux, State.fld]
  have hwpark : w.park n = s.park n := (congrArg (fun t : State => t.park n) hrest :)
  have hparks : w.parks = s.parks := (congrArg State.parks hrest :)
  have hlevel : w.pinLevel n = s.pinLevel n := by
    rw [State.pinLevel, State.pinLevel, hwpark, hmux, State.fnLevel_congr hreg (congrArg State.balls hrest :)
      (congrArg State.now hrest :)]
  obtain ⟨hnew, hparked⟩ := State.startSwitch_shows hw (hparks ▸ hk.parks_ok) n.isLt
    (Nat.mod_lt value.toNat (by decide : 0 < 16))
  rw [State.muxWrite_switches hok (hwpark.trans hpark) (hmux ▸ hpmb) (hmux ▸ hne.symm)]
  rw [hmux, hlevel] at hparked
  constructor
  · rw [State.mux, State.fld, State.reg, State.regs_answered]
    exact hnew
  · have hparks (x : State) : ((s.alertEdge x).dropSnaps (muxReg n)).parks = x.parks := by
      unfold State.alertEdge
      split <;> rfl
    rw [State.park, hparks]
    exact hparked

end

end Sys2Proof.Machine
end

section
/-! SUPPORT. What the report of an update's result leaves alone: that no update runs, and ALM_UPDATE. -/

namespace Sys2Proof.Machine

/-- From `s` to `t` the update and ALM_UPDATE stand. -/
structure State.KeepsUpdate (s t : State) : Prop where
  update : t.update = s.update
  regs : State.KeepsRegs (· = Reg.ALM_UPDATE) s t

namespace State.KeepsUpdate
variable {s t u : State}

theorem of_regs (hu : t.update = s.update) (hr : t.regs = s.regs) : s.KeepsUpdate t := ⟨hu, .of_regs hr⟩

theorem refl (s : State) : s.KeepsUpdate s := of_regs rfl rfl

theorem trans (h : s.KeepsUpdate t) (h' : t.KeepsUpdate u) : s.KeepsUpdate u :=
  ⟨h'.update.trans h.update, h.regs.trans h'.regs⟩

theorem foldl {β : Type} {f : State → β → State} (hf : ∀ t x, State.KeepsUpdate t (f t x)) (l : List β)
    (s : State) : s.KeepsUpdate (l.foldl f s) :=
  List.foldlRecOn l f (refl s) fun t ht x _ => ht.trans (hf t x)

theorem bump (s : State) {o : Nat} (n : Nat) (ho : o ≠ Reg.ALM_UPDATE) : s.KeepsUpdate (s.bump o n) :=
  ⟨rfl, .setReg s _ ho⟩

/-- An access on the device's own behalf. -/
theorem of_own (hu : t.update = s.update) (h : s.KeepsOwn t) : s.KeepsUpdate t :=
  ⟨hu, fun hs => ⟨(h hs).1, fun o ho => (h hs).2 o (ho ▸ by decide)⟩⟩

theorem emitHost (s : State) (o : Outbound) : s.KeepsUpdate (s.emitHost o) :=
  of_regs (congrArg State.update (State.ReadsOnly.emitHost s o) :) (State.emitHost_regs s o)

theorem readLocal {a len : Nat} {w : State} {l : Option (List Byte)} (h : s.readLocal a len = (w, l)) :
    s.KeepsUpdate w := by
  have hr := State.ReadsOnly.readLocal s a len
  rw [h] at hr
  exact of_own (congrArg State.update hr :) (.of_eccLogged ((State.EccLogged.refl s).readLocal h))

theorem update_eccWrite (s : State) (a len : Nat) (l : List (Nat × EccErr)) :
    (s.eccWrite a len l).1.update = s.update := by
  have hmem (t : State) (b : Nat) (ue byScrub : Bool) (k : Nat) : (t.memErr b ue byScrub k).update = t.update :=
    (congrArg State.update (State.ReadsOnly.memErr t b ue byScrub k) :)
  fun_induction State.eccWrite s a len l with
  | case1 => rfl
  | case2 _ _ _ _ _ ih => exact ih
  | case3 _ _ _ _ ih => exact ih
  | case4 _ _ _ _ _ ih => exact ih.trans (hmem _ _ _ _ _)
  | case5 _ _ _ _ _ _ ih => exact ih.trans (hmem _ _ _ _ _)

theorem writeLocal (s : State) (a : Nat) (l : List Byte) : s.KeepsUpdate (s.writeLocal a l).1 := by
  have hraw (t : State) (l : List Byte) : (t.rawWrite a l).update = t.update :=
    (congrArg State.update (t.rawWrite_rest a l) :)
  refine of_own ?_ (.writeLocal s a l)
  unfold State.writeLocal
  extract_lets r
  have hr : r.1.update = s.update := update_eccWrite _ _ _ _
  split <;> exact (hraw _ _).trans hr

theorem rmtFail (s : State) (a status : Nat) : s.KeepsUpdate (s.rmtFail a status) := of_own rfl (.rmtFail s a status)

theorem rmtSend (s : State) (use : RmtUse) (k : RmtKind) (a len : Nat) (l : List Byte) (poison : Bool) :
    s.KeepsUpdate (s.rmtSend use k a len l poison) := by
  have hone (t : State) (b o n : Nat) (l : List Byte) : (t.rmtOne use k b o n l poison).update = t.update := rfl
  exact of_own (State.foldl_keeps State.update (fun t _ => hone t _ _ _ _) _ s) (.rmtSend s use k a len l poison)

theorem ownWrite (s : State) (a : Nat) (l : List Byte) : s.KeepsUpdate (s.ownWrite a l).1 := by
  have hlocal : s.KeepsUpdate (if s.addrOk true a l.length then
      ((s.writeLocal a l).1, if (s.writeLocal a l).2 then some FaultCode.eccUncorr else none)
      else (s, some FaultCode.addrInvalid)).1 := by
    split
    · exact writeLocal _ _ _
    · exact refl s
  unfold State.ownWrite
  split
  · exact emitHost _ _
  · exact hlocal
  · exact hlocal
  · split
    · exact refl s
    split
    · exact rmtFail _ _ _
    · exact rmtSend _ _ _ _ _ _ _
  · exact refl s
  · exact refl s

/-! ### Records and signals -/

theorem recordOnly (s : State) (n st i : Nat) (f : FaultInfo) : s.KeepsUpdate (s.recordOnly n st i f) := by
  have hdump (l : List Byte) : s.KeepsUpdate (s.writeDump st l) := by
    unfold State.writeDump
    split
    · exact refl s
    · exact ownWrite _ _ _
  have hrecord (t : State) (c : RecordCtx) : t.KeepsUpdate (t.writeRecord n f c) := by
    have h := t.recorded_writeRecord n f c
    exact ⟨(congrArg State.update h.rest :), fun hs =>
      ⟨(h.regs hs).1, fun o ho => (h.regs hs).2 o (ho ▸ by decide)⟩⟩
  unfold State.recordOnly
  extract_lets d w
  have hw : s.KeepsUpdate w := by
    unfold w
    split
    · exact hdump _
    · exact refl s
  exact hw.trans (hrecord _ _)

theorem signalFailed (s : State) (use : RmtUse) (c : FaultCode) (a : Nat) :
    s.KeepsUpdate (s.signalFailed use c a) := by
  unfold State.signalFailed
  split
  · exact (bump s 1 (by decide)).trans (recordOnly _ _ _ _ _)
  · exact refl s

theorem signalLost (s : State) (use : RmtUse) (a : Nat) : s.KeepsUpdate (s.signalLost use a) := by
  unfold State.signalLost
  split
  · exact (rmtFail s a 4).trans (((bump _ 1 (by decide)).trans (bump _ 1 (by decide))).trans (recordOnly _ _ _ _ _))
  · exact rmtFail s a 4

theorem signal (s : State) (use : RmtUse) (p : Bool) (g : SigRec) : s.KeepsUpdate (s.signal use p g) := by
  have hlocal : s.KeepsUpdate (if s.addrOk true g.addr 8 = false then s.signalFailed use .addrInvalid g.addr
      else if g.max then
        match s.readLocal g.addr 8 with
        | (s, none) => s.signalFailed use .eccUncorr g.addr
        | (s, some l) => (s.writeLocal g.addr (leBytes 8 (pennantAfter (ofLeBytes l) g p))).1
      else (s.writeLocal g.addr (leBytes 8 (pennantAfter 0 g p))).1) := by
    split
    · exact signalFailed _ _ _ _
    split
    · split
      case h_1 _ hm => exact (readLocal hm).trans (signalFailed _ _ _ _)
      case h_2 _ _ hm => exact (readLocal hm).trans (writeLocal _ _ _)
    · exact writeLocal _ _ _
  unfold State.signal
  split
  · exact emitHost _ _
  · split
    · exact signalLost _ _ _
    · exact rmtSend _ _ _ _ _ _ _
  · exact hlocal
  · exact hlocal
  · exact refl s
  · exact refl s

theorem firePend (s : State) (p : SigWhen → Bool) : s.KeepsUpdate (s.firePend p) :=
  trans (t := { s with pendSigs := s.pendSigs.filter fun x => !p x.whenDone }) (of_regs rfl rfl)
    (foldl (fun t _ => foldl (fun t _ => signal t _ _ _) _ t) _ _)

theorem resultWrite (s : State) (a : Nat) (l : List Byte) : s.KeepsUpdate (s.resultWrite a l).1 := by
  unfold State.resultWrite
  split
  · exact refl s
  dsimp only
  split
  · exact (ownWrite s a l).trans (signalFailed _ _ _ _)
  · exact ownWrite s a l

theorem resultSignals (s : State) (a : Nat) (l : List Byte) (poison : Bool) (sigs : List SigRec) :
    s.KeepsUpdate (s.resultSignals a l poison sigs) := by
  have hhold (t : State) (w : SigWhen) : t.KeepsUpdate (t.holdSigs w poison sigs) := of_regs rfl rfl
  unfold State.resultSignals State.checkPend
  exact ((resultWrite s a l).trans (hhold _ _)).trans (firePend _ _)

theorem flashResult (s : State) (code : Nat) (seq tag : Option Nat) (result : Nat) (sigs : List SigRec) :
    s.KeepsUpdate (s.flashResult code seq tag result sigs) :=
  trans (t := s.bumpFresh) (of_regs rfl rfl) (resultSignals _ _ _ _ _)

end State.KeepsUpdate

end Sys2Proof.Machine
end

section
/-! Commands of the operating point, of boot and of the flash that complete (O60). -/

namespace Sys2Proof.Machine

/-! ### The operating point -/

section
variable {s : State} {c : OpChange}

theorem pllLocked_eq (ha : s.alive = true) (hc : s.pwr.change = some c) : exec .pllLocked s =
    .next { s with pwr := { s.pwr with change := some { c with locked := true } } } := by
  simp only [exec, execPllLocked, hc, ha, if_true]
  rfl

/-- R850: the voltage has settled, and STATUS_WORD is read. -/
theorem voutSettleExpiry_eq (ha : s.alive = true) (hc : s.pwr.change = some c) (hp : s.pwr.pmb = none)
    (hf : c.faster = true) (hs : c.settled = false) : exec .voutSettleExpiry s = .next { s with
      pwr := { s.pwr with change := some { c with settled := true }, pmb := some ⟨false, 0, 0⟩ }
      out := s.out ++ [.pmbus false 0x79 0] } := by
  have hgo : s.alive = true ∧ c.faster = true ∧ c.settled = false ∧ s.pwr.pmb.isNone := ⟨ha, hf, hs, by simp [hp]⟩
  simp only [exec, execVoutSettleExpiry, hc, if_pos hgo]
  rfl

/-- R850: a bad transaction is issued again. -/
theorem pmbusTransactionDone_again {p : PmbTrans} (word : Word16) (ha : s.alive = true) (hm : s.muxWait = none)
    (hp : s.pwr.pmb = some p) (ht : p.tries < 3) : exec (.pmbusTransactionDone false word) s = .next { s with
      pwr := { s.pwr with pmb := some { p with tries := p.tries + 1 } }
      out := s.out ++ [.pmbus p.write (if p.write then 0x21 else 0x79) p.word] } := by
  have hperst : s.perst = false := by
    have h := ha
    simp only [State.alive, Bool.and_eq_true, Bool.not_eq_true'] at h
    exact h.1
  have hexec : exec (.pmbusTransactionDone false word) s = .next
      ((s.setPwr fun x => { x with pmb := some { p with tries := p.tries + 1 } }).emit
        (.pmbus p.write (if p.write then 0x21 else 0x79) p.word)) := by
    simp [exec, execPmbusTransactionDone, hp, hperst, ha, hm, ht]
  exact hexec

/-- The point in force is changed, with the gating and the flash's clock that go with it (R834). -/
def State.pointTaken (s : State) (c : OpChange) : State :=
  let s := (s.setFld Reg.PWR_OP 1 0 c.target).bump Reg.PWR_OP_SWITCHES 1
  let s := s.setFld Reg.PWR_GOV 3 0 (if s.pwr.thHold then 8 else 0)
  if s.fld Reg.ALM_FLASH_INFO 8 0 = 0 then s
  else s.setFld Reg.ALM_FLASH_INFO 18 12 (flashMhz s.pwr.flMax c.target)

theorem State.opSwitch_eq (s : State) (c : OpChange) : s.opSwitch c =
    if c.faster = true ∨ (s.pointTaken c).pmbEn = false then (s.pointTaken c).endChange.brakeNext
    else (s.pointTaken c).pmbStart true ((s.pointTaken c).voutWord c.target) := rfl

theorem State.pointTaken_shows (hs : SMap.wf regReset s.regs = true) (ht : c.target < 4) :
    SMap.wf regReset (s.pointTaken c).regs = true ∧ (s.pointTaken c).op = c.target ∧
    (s.pointTaken c).reg Reg.PWR_OP_SWITCHES = (s.reg Reg.PWR_OP_SWITCHES + 1) % 2 ^ 32 := by
  have h1 := State.wf_setFld hs Reg.PWR_OP 1 0 c.target
  have h2 := State.wf_bump h1 Reg.PWR_OP_SWITCHES 1
  have hop : ((s.setFld Reg.PWR_OP 1 0 c.target).bump Reg.PWR_OP_SWITCHES 1).op = c.target := by
    rw [State.op, State.fld, State.reg_bump_other h1 _ (by decide), ← State.fld,
      State.fld_setFld_same hs _ (by decide) (by decide)]
    exact Nat.mod_eq_of_lt ht
  have hcount : ((s.setFld Reg.PWR_OP 1 0 c.target).bump Reg.PWR_OP_SWITCHES 1).reg Reg.PWR_OP_SWITCHES =
      (s.reg Reg.PWR_OP_SWITCHES + 1) % 2 ^ 32 := by
    rw [State.reg_bump_same h1, State.reg_setFld_other hs _ _ _ (by decide)]
  unfold State.pointTaken
  dsimp only
  generalize (s.setFld Reg.PWR_OP 1 0 c.target).bump Reg.PWR_OP_SWITCHES 1 = w at *
  generalize (if w.pwr.thHold then 8 else 0) = g
  have h3 := State.wf_setFld h2 Reg.PWR_GOV 3 0 g
  have hop' : (w.setFld Reg.PWR_GOV 3 0 g).op = c.target := by
    rw [State.op, State.fld_setFld_other h2 _ _ _ (by decide), ← State.op, hop]
  have hcount' := (State.reg_setFld_other h2 3 0 g
    (show Reg.PWR_OP_SWITCHES ≠ Reg.PWR_GOV by decide)).trans hcount
  split
  · exact ⟨h3, hop', hcount'⟩
  · refine ⟨State.wf_setFld h3 _ _ _ _, ?_, ?_⟩
    · rw [State.op, State.fld_setFld_other h3 _ _ _ (by decide), ← State.op, hop']
    · rw [State.reg_setFld_other h3 _ _ _ (by decide), hcount']

/-- R834: the switch is made, and counts. -/
theorem opSwitch_switches (hs : SMap.wf regReset s.regs = true) (ha : s.alive = true)
    (hc : s.pwr.change = some c) (hp : s.pwr.pmb = none) (hl : c.locked = true) (hf : c.faster = true → c.ok = true)
    (hne : s.op ≠ c.target) (ht : c.target < 4) : Does .opSwitch s fun t => t.op = c.target ∧
      t.reg Reg.PWR_OP_SWITCHES = (s.reg Reg.PWR_OP_SWITCHES + 1) % 2 ^ 32 := by
  have hgo : s.alive = true ∧ c.locked = true ∧ (c.faster = true → c.ok = true) ∧ s.op ≠ c.target ∧
      s.pwr.pmb.isNone := ⟨ha, hl, hf, hne, by simp [hp]⟩
  have hexec : exec .opSwitch s = .next (s.opSwitch c) := by
    simp only [exec, execOpSwitch, hc, if_pos hgo]
  obtain ⟨hw, hop, hcount⟩ := State.pointTaken_shows hs ht
  have hend : (s.pointTaken c).KeepsPoint (s.opSwitch c) := by
    rw [State.opSwitch_eq]
    split
    · exact (State.KeepsPoint.endChange _).trans (.brakeNext _)
    · exact .pmbStart _ _ _
  obtain ⟨-, hsame, hkeep⟩ := hend.regs hw
  exact ⟨_, hexec, hkeep.trans hop, (hsame _ (by decide)).trans hcount⟩

end

/-! ### The flash -/

section
variable {s : State} {u : Update} {f : FlashPart} {c d : FlashCmd} {q : List FlashCmd}

/-- The next command of an update goes out, and nothing else. -/
theorem State.issueFlash_keeps (s : State) :
    s.issueFlash.flash = s.flash ∧ s.issueFlash.update = s.update ∧ s.issueFlash.regs = s.regs := by
  unfold State.issueFlash
  split
  · split <;> exact ⟨rfl, rfl, rfl⟩
  · exact ⟨rfl, rfl, rfl⟩

/-- R820: a page is programmed, or a sector erased, and the update goes on. -/
theorem flashCommandDone_applies (hu : s.update = some u) (hf : s.flash = some f) (hc : u.cmds = c :: d :: q)
    (hread : ∀ a l, c ≠ .readBack a l) : Does (.flashCommandDone .done) s fun t =>
      t.flash = some (applyCmd f c) ∧ t.update = some { u with cmds := d :: q } ∧ t.regs = s.regs := by
  have hexec : exec (.flashCommandDone .done) s = .next
      (({ s with flash := some (applyCmd f c), update := some { u with cmds := d :: q } } : State).issueFlash) := by
    cases c with
    | readBack a l => exact absurd rfl (hread a l)
    | erase a => simp only [exec, execFlashCommandDone, hu, hf, hc]
    | program a l => simp only [exec, execFlashCommandDone, hu, hf, hc]
  exact ⟨_, hexec, State.issueFlash_keeps _⟩

/-- `s` with its update over, and its code shown. -/
def State.updateOver (s : State) (code : Nat) : State :=
  ({ s with update := none } : State).setReg Reg.ALM_UPDATE (16 * code)

theorem State.updateOver_shows (hs : SMap.wf regReset s.regs = true) {code : Nat} (h : code < 256) :
    SMap.wf regReset (s.updateOver code).regs = true ∧ (s.updateOver code).fld Reg.ALM_UPDATE 11 4 = code := by
  refine ⟨State.wf_setReg (s := { s with update := none }) hs _ _, ?_⟩
  rw [State.fld, State.updateOver, State.reg_setReg_same (s := { s with update := none }) hs, bits]
  omega

/-- R820: an update that is not a recovery ends with its code, and reports it. -/
theorem State.endUpdate_reports (hs : SMap.wf regReset s.regs = true) (hk : u.kind ≠ .recovery) {code : Nat}
    (h : code < 256) : (s.endUpdate u code).update = none ∧ (s.endUpdate u code).fld Reg.ALM_UPDATE 11 4 = code := by
  have heq : s.endUpdate u code = (s.updateOver code).flashResult code (if code = 0 then some u.seq else none) none
      u.result u.sigs := by
    unfold State.endUpdate
    cases hkind : u.kind with
    | recovery => exact absurd hkind hk
    | _ => rfl
  obtain ⟨hw, hcode⟩ := State.updateOver_shows hs h
  have hkeep := State.KeepsUpdate.flashResult (s.updateOver code) code (if code = 0 then some u.seq else none) none
    u.result u.sigs
  rw [heq]
  refine ⟨hkeep.update, ?_⟩
  rw [State.fld, (hkeep.regs hw).2 _ rfl, ← State.fld, hcode]

/-- A recovery that is not armed anew is over. -/
theorem State.recoveryDone_eq (h : 1 ∉ s.rearm) :
    ∃ r, s.recoveryDone = ({ s with rearm := r } : State).setFld Reg.ALM_RECOVERY 0 0 0 := by
  have hno : s.rearm.contains 1 = false := by simpa using h
  unfold State.recoveryDone State.rearmed
  rw [hno]
  exact ⟨_, rfl⟩

/-- R820: a recovery that fails shows its code in ALM_RECOVERY too, where it is not armed anew. -/
theorem State.endUpdate_recovery (hs : SMap.wf regReset s.regs = true) (hk : u.kind = .recovery)
    (ha : 1 ∉ s.rearm) {code : Nat} (h0 : code ≠ 0) (h : code < 256) :
    (s.endUpdate u code).update = none ∧ (s.endUpdate u code).fld Reg.ALM_UPDATE 11 4 = code ∧
    (s.endUpdate u code).fld Reg.ALM_RECOVERY 8 1 = code := by
  have heq : s.endUpdate u code = ((s.updateOver code).setFld Reg.ALM_RECOVERY 8 1 code).recoveryDone := by
    unfold State.endUpdate
    simp only [hk, if_neg h0]
    rfl
  obtain ⟨hw, hcode⟩ := State.updateOver_shows hs h
  have h1 := State.wf_setFld hw Reg.ALM_RECOVERY 8 1 code
  have hshow : ((s.updateOver code).setFld Reg.ALM_RECOVERY 8 1 code).fld Reg.ALM_UPDATE 11 4 = code := by
    rw [State.fld_setFld_other hw _ _ _ (by decide), hcode]
  have hshow' := State.fld_setFld_same hw (o := Reg.ALM_RECOVERY) (hi := 8) (lo := 1) code (by decide) (by decide)
  obtain ⟨r, hdone⟩ := State.recoveryDone_eq (s := (s.updateOver code).setFld Reg.ALM_RECOVERY 8 1 code) ha
  rw [heq, hdone]
  have hno : ((s.updateOver code).setFld Reg.ALM_RECOVERY 8 1 code).update = none := rfl
  generalize (s.updateOver code).setFld Reg.ALM_RECOVERY 8 1 code = w at *
  refine ⟨hno, ?_, ?_⟩
  · exact (State.fld_setFld_other (s := { w with rearm := r }) h1 _ _ _ (by decide)).trans hshow
  · refine (State.fld_setFld_disjoint (s := { w with rearm := r }) h1 _ (by decide) (by decide) (by decide)).trans ?_
    exact hshow'.trans (Nat.mod_eq_of_lt h)

/-- R820: a command that stays busy ends the update with CODE 5. -/
theorem flashDeadline_ends (hs : SMap.wf regReset s.regs = true) (hu : s.update = some u) (hc : u.cmds = c :: q)
    (hread : ∀ a l, c ≠ .readBack a l) (ha : u.kind = .recovery → 1 ∉ s.rearm) :
    Does .flashDeadline s fun t => t.update = none ∧ t.fld Reg.ALM_UPDATE 11 4 = 5 ∧
      (u.kind = .recovery → t.fld Reg.ALM_RECOVERY 8 1 = 5) := by
  have hexec : exec .flashDeadline s = .next (s.endUpdate u 5) := by
    cases c with
    | readBack a l => exact absurd rfl (hread a l)
    | erase a => simp only [exec, execFlashDeadline, hu, hc]
    | program a l => simp only [exec, execFlashDeadline, hu, hc]
  refine ⟨_, hexec, ?_⟩
  by_cases hk : u.kind = .recovery
  · obtain ⟨hnone, hcode, hrec⟩ := State.endUpdate_recovery hs hk (ha hk) (code := 5) (by decide) (by decide)
    exact ⟨hnone, hcode, fun _ => hrec⟩
  · obtain ⟨hnone, hcode⟩ := State.endUpdate_reports hs hk (code := 5) (by decide)
    exact ⟨hnone, hcode, fun h => absurd h hk⟩

end

/-- R832: a commit raises the floor. -/
theorem svnCommitDone_raises {s : State} (ha : s.alive = true) (hb : s.svnBusy = true) :
    Does .svnCommitDone s fun t => t.svnFloor = max s.svnFloor (min 32 (s.reg Reg.ALM_FW_SVN)) :=
  ⟨_, congrArg Host.Outcome.next (if_pos ⟨hb, ha⟩), rfl⟩

/-! ### The obligation -/

/-- R315: training ends its step. -/
theorem dramTrainingDone_ends {s : State} (hs : SMap.wf regReset s.regs = true) (ha : s.alive = true)
    (hr : s.ready = false) (hb : 3 ≤ s.bootStep) (ht : bitOf (s.reg Reg.MEM_TRAIN_STATUS) 16 = false)
    (rate : Option (Fin 3)) (chOk : BitVec 16) (big : Bool) :
    Does (.dramTrainingDone rate chOk big) s fun t => t.bootStep = 4 ∧
      t.fld Reg.MEM_TRAIN_STATUS 16 0 = 2 ^ 16 + chOk.toNat ∧ t.plate = s.plate := by
  obtain ⟨-, hstep, hstatus, -⟩ := State.trained_regs hs (trainedRate rate chOk s.dramSetting.1) chOk big
  have hch := chOk.isLt
  refine ⟨_, execDramTrainingDone_trained rate chOk big ha hb hr ht, hstep, ?_, rfl⟩
  rw [State.fld, hstatus, bits]
  omega

/-- Settles O60: the ring by O40, each other command by its theorem above, and boot by those of BOOT_START, of the
firmware check and of READY. What the ring does with an entry still in its admission is the model's reading (log
entry 70). -/
theorem setUpPowerAndBootCommandsComplete : Obligations.SetUpPowerAndBootCommandsComplete := by
  have hregs {s : State} (hc : s.Canonical) := (State.kept_iff.2 ⟨rfl, hc⟩).regs_ok
  refine ⟨?ring, ?ports, ?pins, ?point, ?pmbus, ?start, ?boot, ?flash, ?commit⟩
  case ring =>
    intro s value hc hreach
    obtain ⟨hstarts, -, -, hstops, -⟩ := ringEnableStartsAndStopsTheRing s value hc hreach
    refine ⟨fun hwas hok => (hstarts hwas hok).imp fun t => ?_, fun hwas => (hstops hwas).imp fun t => ?_⟩
    · rintro ⟨hen, -, hhead, hstarted, -⟩
      exact ⟨hen, hstarted, hhead⟩
    · rintro ⟨hen, hstarted, hopen, -, -, -, -, hentries, -⟩
      exact ⟨hen, hstarted, hopen, hentries⟩
  case ports =>
    intro s p value hc hfull
    exact ⟨linkEnable_enables (hregs hc) hfull, linkDisable_disables (hregs hc) hfull,
      linkRetrain_retrains (hregs hc) hfull⟩
  case pins =>
    intro s pin value hc hfull hu hpark hok hne hpmb
    exact pinMux_parks hc hfull hu hpark hok hne hpmb
  case point =>
    intro s c hc ha hchange
    exact ⟨pllLocked_eq ha hchange, fun hp hf hset => voutSettleExpiry_eq ha hchange hp hf hset,
      fun hp hl hf hne ht _ => opSwitch_switches (hregs hc) ha hchange hp hl hf hne ht⟩
  case pmbus => exact fun s p word ha hm hp ht => pmbusTransactionDone_again word ha hm hp ht
  case start =>
    intro s flash hheld
    refine (bootStarts hheld flash).imp fun t => ?_
    rintro ⟨halive, hstep, -, hflash, -⟩
    simp only [State.alive, Bool.and_eq_true, Bool.not_eq_true'] at halive
    exact ⟨halive.1, hstep, hflash⟩
  case boot =>
    intro s hc ha hr hb
    refine ⟨fun ht => dramTrainingDone_ends (hregs hc) ha hr hb ht, fun hd => ?_, fun ht hf => ?_⟩
    · refine (firmwareChecked hc ha hb hr hd).imp fun t => ?_
      rintro ⟨hstep, hdone, -⟩
      exact ⟨hstep, hdone⟩
    · refine (bootReadies hc ha hr ht hf).imp fun t => ?_
      rintro ⟨hready, hstep, -⟩
      exact ⟨hready, hstep⟩
  case flash =>
    intro s u f hu hf
    exact ⟨fun c d q hq hread => flashCommandDone_applies hu hf hq hread,
      fun c q hc hq hread ha => flashDeadline_ends (hregs hc) hu hq hread ha⟩
  case commit => exact fun s _ ha hb => svnCommitDone_raises ha hb

end Sys2Proof.Machine
end
